-- ==== Sys2Proof/Word.lean ====
section
/-! DEFINITION. The words of the KM8: byte, 64-bit word, instruction word, and the 256-byte row of tiles and queues
(01 R12) read as one little-endian number (03 R57). -/

namespace Sys2Proof

/-- One byte of memory. -/
abbrev Byte := BitVec 8

/-- A scalar register's contents (01 R11). -/
abbrev W64 := BitVec 64

/-- An instruction word (02 R29). -/
abbrev W32 := BitVec 32

/-- A row of 256 bytes, byte `i` at bits [8i+7:8i] (03 R57). -/
abbrev Row := BitVec 2048

end Sys2Proof
end

