-- ==== Sys2Proof/Syntax.lean ====
section
/-! DEFINITION. The instructions and events of the KM8: one constructor per row of spec/opcode_table.json. The first 181
are instruction words (02 R40–R47); their first operand `w` is the stall count (R29). The other 123 are the table's steps
that have no encoding: hardware steps, host accesses, messages of other chips, firmware steps. Their operands name which
agent moves, or carry what arrives from outside the module. -/

namespace Sys2Proof

/-- The five engines of a core (01 R9). -/
inductive Engine where
  | C | A | V | M | K
  deriving DecidableEq, Repr

/-- A context bank: module core number and slot (`true` is slot 1) (01 R27). -/
structure BankId where
  core : Nat
  slot : Bool
  deriving DecidableEq, Repr

/-- A 5-bit scalar register number (02 R34). -/
abbrev Reg := BitVec 5

/-- A 6-bit operand specifier (02 R37). -/
abbrev Spec := BitVec 6

/-- Names one match of a collective: context, GROUP, PEERS and match index (12 R278). -/
structure CollId where
  ctx   : Nat
  group : Nat
  peers : BitVec 64
  k     : Nat
  deriving DecidableEq, Repr

/-- The digest a NOTICE carries (12 R278, R280): TYPE, OPR, FMT, MODE and the element count C. -/
structure Digest where
  typ  : Nat
  opr  : Nat
  fmt  : Nat
  mode : Nat
  c    : Nat
  deriving DecidableEq, Repr

/-- A ticket (12 R282): issue tick, anchor chip id, anchor sequence. -/
structure TicketNo where
  tau   : Nat
  chip  : Nat
  seqNo : Nat
  deriving DecidableEq, Repr

/-- The escapement messages of 12 R280 as they reach this chip. -/
structure NoticeMsg where
  id     : CollId
  digest : Digest
  rank   : Nat
  deriving DecidableEq, Repr

structure TicketMsg where
  id : CollId
  no : TicketNo
  deriving DecidableEq, Repr

structure AbortMsg where
  id     : CollId
  reason : BitVec 8
  deriving DecidableEq, Repr

/-- What the other members bring to a started collective: by member rank, the bytes of its elements in linear-index order
(12 R276, R286); and for each reduction slot the order in which contributions reached the anchor (R288). -/
structure Contributions where
  parts : List (Nat × List Byte)
  order : List (List Nat)
  deriving DecidableEq, Repr

/-- A bind request of a queue on another chip (18 R311, 19 R322) for a queue of unit `unit` of launch `launch` here, or, with
`unbind`, the end of such a binding: the sender's chip, and the number its binding has there. -/
structure RemoteBind where
  chip   : Nat
  id     : Nat
  launch : Nat
  unit   : Nat
  unbind : Bool
  deriving DecidableEq, Repr

/-- What a bind step acts on: a queue of the bank, or with `ext` the queue that another chip asks for. -/
structure BindStep where
  q   : BitVec 4
  ext : Option RemoteBind
  deriving DecidableEq, Repr

/-- How the messages of the 1588 clock travel (24 R391). -/
inductive PtpTransport where
  | udp4 | udp6 | ieee8023
  deriving DecidableEq, Repr

/-- The settings of the 1588 clock of the management port (24 R391). -/
structure PtpPort where
  transport   : PtpTransport
  domain      : Nat
  oneStep     : Bool
  twoStep     : Bool
  logSync     : Int
  logMinDelay : Int
  deriving DecidableEq, Repr

/-- The defaults of R391. -/
def PtpPort.default : PtpPort := ⟨.udp4, 0, true, true, -4, -4⟩

/-- The domain that a chip joins (12 R270–R272, R283): the hops to each other chip, the largest route between two chips, and the settings of its
1588 clock (24 R391). -/
structure DomainMap where
  members : List (Nat × Nat)
  route   : Nat
  port    : PtpPort
  deriving DecidableEq, Repr

/-- What a port reports (12 R272): a retry, or with `late` a class-0 flit that waited beyond the reserved share. -/
structure PortReport where
  port : Nat
  late : Bool
  deriving DecidableEq, Repr

/-- How a read of a line at its channel ends (22 R377), with what the parity and mirror sources answer (R378). -/
inductive EccOutcome where
  | clean
  | corrected
  | uncorrectable (parityOk : Bool) (mirrorOk : Bool)
  deriving DecidableEq, Repr

/-- Parts that enter power states (24 R387). -/
inductive PowerPart where
  | strip (die : Nat) (pos : Nat)
  | die (d : Nat)
  | module
  deriving DecidableEq, Repr

/-- What the boot ROM finds in a staged image (24 R393). -/
structure FirmwareCheck where
  keyHash     : BitVec 512
  version     : Nat
  signatureOk : Bool
  eraseFlag   : Bool
  deriving DecidableEq, Repr

/-- Which part of a margin re-plan changes a strip (24 R390). -/
inductive ReplanAction where
  | raiseVoltage
  | lowerClock
  | markUnusable
  deriving DecidableEq, Repr

inductive Instr where
  -- G class (02 R41)
  | add (w : BitVec 3) (d a b : Reg)
  | sub (w : BitVec 3) (d a b : Reg)
  | and (w : BitVec 3) (d a b : Reg)
  | or (w : BitVec 3) (d a b : Reg)
  | xor (w : BitVec 3) (d a b : Reg)
  | shl (w : BitVec 3) (d a b : Reg)
  | shr (w : BitVec 3) (d a b : Reg)
  | sra (w : BitVec 3) (d a b : Reg)
  | mul (w : BitVec 3) (d a b : Reg)
  | mulh (w : BitVec 3) (d a b : Reg)
  | mulhu (w : BitVec 3) (d a b : Reg)
  | div (w : BitVec 3) (d a b : Reg)
  | divu (w : BitVec 3) (d a b : Reg)
  | rem (w : BitVec 3) (d a b : Reg)
  | min (w : BitVec 3) (d a b : Reg)
  | max (w : BitVec 3) (d a b : Reg)
  | minu (w : BitVec 3) (d a b : Reg)
  | maxu (w : BitVec 3) (d a b : Reg)
  | slt (w : BitVec 3) (d a b : Reg)
  | sltu (w : BitVec 3) (d a b : Reg)
  | addi (w : BitVec 3) (d a : Reg) (i : BitVec 10)
  | andi (w : BitVec 3) (d a : Reg) (i : BitVec 10)
  | ori (w : BitVec 3) (d a : Reg) (i : BitVec 10)
  | xori (w : BitVec 3) (d a : Reg) (i : BitVec 10)
  | shli (w : BitVec 3) (d a : Reg) (i : BitVec 6)
  | shri (w : BitVec 3) (d a : Reg) (i : BitVec 6)
  | srai (w : BitVec 3) (d a : Reg) (i : BitVec 6)
  | slti (w : BitVec 3) (d a : Reg) (i : BitVec 10)
  | li (w : BitVec 3) (d : Reg) (i : BitVec 15)
  | lsh (w : BitVec 3) (d : Reg) (i : BitVec 15)
  | csrr (w : BitVec 3) (d : Reg) (n : BitVec 15)
  | csrw (w : BitVec 3) (d : Reg) (n : BitVec 15)
  | tick (w : BitVec 3) (d : Reg)
  | tickwait (w : BitVec 3) (a : Reg)
  | beq (w : BitVec 3) (a b : Reg) (o : BitVec 10)
  | bne (w : BitVec 3) (a b : Reg) (o : BitVec 10)
  | blt (w : BitVec 3) (a b : Reg) (o : BitVec 10)
  | bge (w : BitVec 3) (a b : Reg) (o : BitVec 10)
  | bltu (w : BitVec 3) (a b : Reg) (o : BitVec 10)
  | bgeu (w : BitVec 3) (a b : Reg) (o : BitVec 10)
  | jal (w : BitVec 3) (d : Reg) (o : BitVec 15)
  | jalr (w : BitVec 3) (d a : Reg) (i : BitVec 10)
  | semwait (w : BitVec 3) (a : Reg) (n : BitVec 10)
  | semsig (w : BitVec 3) (a : Reg) (n : BitVec 10)
  | fence (w : BitVec 3) (c : BitVec 2)
  | brk (w : BitVec 3) (i : BitVec 20)
  | trap (w : BitVec 3) (i : BitVec 20)
  | nop (w : BitVec 3)
  | lcall (w : BitVec 3) (d : Reg) (o : BitVec 15)
  | lret (w : BitVec 3)
  | ltag (w : BitVec 3) (t : Spec) (s : Reg) (l : BitVec 2)
  | lidx (w : BitVec 3) (t : Spec) (l : BitVec 2)
  | brb (w : BitVec 3) (t : Spec) (o : BitVec 14)
  | join (w : BitVec 3)
  -- C class (02 R42)
  | forkA (w : BitVec 3) (d : Reg) (o : BitVec 15)
  | forkV (w : BitVec 3) (d : Reg) (o : BitVec 15)
  | forkM (w : BitVec 3) (d : Reg) (o : BitVec 15)
  | forkK (w : BitVec 3) (d : Reg) (o : BitVec 15)
  | rdv (w : BitVec 3) (s : BitVec 4)
  | rdvEnd (w : BitVec 3)
  | rdvStream (w : BitVec 3)
  | safept (w : BitVec 3)
  | unitid (w : BitVec 3) (d : Reg)
  | param (w : BitVec 3) (d : Reg) (k : BitVec 6)
  | role (w : BitVec 3) (d : Reg)
  | enqr (w : BitVec 3) (a b : Reg)
  | cmdpop (w : BitVec 3) (d : Reg)
  | cmdsteal (w : BitVec 3) (d : Reg)
  | gbar (w : BitVec 3) (g : BitVec 10)
  | qbind (w : BitVec 3) (q : Spec) (s : Reg)
  | qdepth (w : BitVec 3) (q : Spec) (s : Reg)
  | split (w : BitVec 3) (a b : Reg)
  -- A class (02 R43)
  | stdim (w : BitVec 3) (n : BitVec 3) (a b : Reg) (k : BitVec 5)
  | stbase (w : BitVec 3) (n : BitVec 3) (a : Reg)
  | stgo (w : BitVec 3) (n : BitVec 3) (r : BitVec 1)
  | strst (w : BitVec 3) (n : BitVec 3)
  | tdesc (w : BitVec 3) (p q : Spec) (s : Reg)
  | tfill (w : BitVec 3) (p q : Spec) (s : Reg)
  | tdrain (w : BitVec 3) (p q : Spec) (s : Reg) (x : BitVec 1)
  | tfree (w : BitVec 3) (p : Spec)
  | tstate (w : BitVec 3) (p : Spec) (s : Reg)
  | ldq (w : BitVec 3) (p : Spec) (s : Reg)
  | stq (w : BitVec 3) (q : Spec) (s : Reg)
  | ld (w : BitVec 3) (d a b : Reg) (z : BitVec 2)
  | ldu (w : BitVec 3) (d a b : Reg) (z : BitVec 2)
  | st (w : BitVec 3) (d a b : Reg) (z : BitVec 2)
  | ldl (w : BitVec 3) (d a b : Reg) (z : BitVec 2)
  | ldacq (w : BitVec 3) (d a b : Reg) (c z : BitVec 2)
  | strel (w : BitVec 3) (d a b : Reg) (c z : BitVec 2)
  | aadd (w : BitVec 3) (d a b : Reg) (o c : BitVec 2) (x : BitVec 1)
  | aand (w : BitVec 3) (d a b : Reg) (o c : BitVec 2) (x : BitVec 1)
  | aor (w : BitVec 3) (d a b : Reg) (o c : BitVec 2) (x : BitVec 1)
  | axor (w : BitVec 3) (d a b : Reg) (o c : BitVec 2) (x : BitVec 1)
  | amin (w : BitVec 3) (d a b : Reg) (o c : BitVec 2) (x : BitVec 1)
  | amax (w : BitVec 3) (d a b : Reg) (o c : BitVec 2) (x : BitVec 1)
  | aminu (w : BitVec 3) (d a b : Reg) (o c : BitVec 2) (x : BitVec 1)
  | amaxu (w : BitVec 3) (d a b : Reg) (o c : BitVec 2) (x : BitVec 1)
  | aswp (w : BitVec 3) (d a b : Reg) (o c : BitVec 2) (x : BitVec 1)
  | acas (w : BitVec 3) (d a b : Reg) (o c : BitVec 2) (x : BitVec 1)
  | cpyhd (w : BitVec 3) (d a : Reg) (n : BitVec 2)
  | cpyst (w : BitVec 3) (d : Reg) (n : BitVec 2)
  | cpywait (w : BitVec 3) (a : Reg) (n : BitVec 2)
  | postc (w : BitVec 3) (a : Reg)
  | pref (w : BitVec 3) (a b : Reg)
  -- V class (02 R44)
  | vadd (w : BitVec 3) (p q r : Spec) (m : BitVec 2)
  | vsub (w : BitVec 3) (p q r : Spec) (m : BitVec 2)
  | vmul (w : BitVec 3) (p q r : Spec) (m : BitVec 2)
  | vfma (w : BitVec 3) (p q r : Spec) (m : BitVec 2)
  | vfms (w : BitVec 3) (p q r : Spec) (m : BitVec 2)
  | vmin (w : BitVec 3) (p q r : Spec)
  | vmax (w : BitVec 3) (p q r : Spec)
  | vdiv (w : BitVec 3) (p q r : Spec) (m : BitVec 2)
  | vabs (w : BitVec 3) (p q : Spec)
  | vneg (w : BitVec 3) (p q : Spec)
  | vrcp (w : BitVec 3) (p q : Spec) (m : BitVec 2)
  | vrsq (w : BitVec 3) (p q : Spec) (m : BitVec 2)
  | vexp2 (w : BitVec 3) (p q : Spec) (m : BitVec 2)
  | vlog2 (w : BitVec 3) (p q : Spec) (m : BitVec 2)
  | vcmp (w : BitVec 3) (p q r : Spec) (c : BitVec 2)
  | vsel (w : BitVec 3) (p q r : Spec)
  | vand (w : BitVec 3) (p q r : Spec)
  | vor (w : BitVec 3) (p q r : Spec)
  | vxor (w : BitVec 3) (p q r : Spec)
  | vnot (w : BitVec 3) (p q : Spec)
  | vshl (w : BitVec 3) (p q r : Spec)
  | vshr (w : BitVec 3) (p q r : Spec)
  | vsra (w : BitVec 3) (p q r : Spec)
  | vadds (w : BitVec 3) (p q : Spec) (s : Reg) (m : BitVec 2)
  | vmuls (w : BitVec 3) (p q : Spec) (s : Reg) (m : BitVec 2)
  | vqadd (w : BitVec 3) (p q r : Spec)
  | vqsub (w : BitVec 3) (p q r : Spec)
  | vqmul (w : BitVec 3) (p q r : Spec)
  | vqabs (w : BitVec 3) (p q : Spec)
  | vcvt (w : BitVec 3) (p q : Spec) (m : BitVec 2)
  | vbmax (w : BitVec 3) (q : Spec)
  | vbq (w : BitVec 3) (p q : Spec) (m : BitVec 2)
  | vrsum (w : BitVec 3) (p q : Spec) (m : BitVec 2)
  | vrmax (w : BitVec 3) (p q : Spec)
  | vrmin (w : BitVec 3) (p q : Spec)
  | vmov (w : BitVec 3) (p q : Spec)
  | vbcst (w : BitVec 3) (p : Spec) (s : Reg)
  | vperm (w : BitVec 3) (p q r : Spec)
  | vrot (w : BitVec 3) (p q : Spec) (s : Reg)
  | vrow (w : BitVec 3) (p : Spec) (s : Reg)
  | vnext (w : BitVec 3) (p : Spec)
  | vrng (w : BitVec 3) (p : Spec) (h : BitVec 4) (s : Reg)
  -- M class (02 R45)
  | mnest (w : BitVec 3) (l : BitVec 3) (a : Reg) (i : BitVec 2)
  | mbind (w : BitVec 3) (p q : Spec)
  | mloadb (w : BitVec 3) (q : Spec) (s : Reg) (k : BitVec 1)
  | mbank (w : BitVec 3) (k : BitVec 1)
  | mring (w : BitVec 3) (r : BitVec 2)
  | mgo (w : BitVec 3)
  | mwait (w : BitVec 3)
  | mma (w : BitVec 3) (p q : Spec)
  | mstat (w : BitVec 3) (d : Reg) (c : BitVec 3)
  | mclr (w : BitVec 3)
  -- K class (02 R46)
  | skcfg (w : BitVec 3) (a b : Reg) (m : BitVec 1)
  | skclr (w : BitVec 3)
  | skfold (w : BitVec 3) (p q : Spec) (s : Reg)
  | skpanel (w : BitVec 3) (q r : Spec)
  | skshrink (w : BitVec 3)
  | skrank (w : BitVec 3) (d : Reg)
  | sken (w : BitVec 3) (d : Reg)
  | skenclr (w : BitVec 3)
  | skrdu (w : BitVec 3) (p : Spec) (s : Reg)
  | skrdv (w : BitVec 3) (p : Spec) (s : Reg)
  | skrds (w : BitVec 3) (p : Spec)
  | skrow (w : BitVec 3) (p : Spec) (s : Reg)
  | skmrg (w : BitVec 3) (q r : Spec)
  | skscl (w : BitVec 3) (a : Reg)
  | sksave (w : BitVec 3) (p : Spec)
  | skload (w : BitVec 3) (q : Spec)
  -- S class (02 R47)
  | scsrr (w : BitVec 3) (d : Reg) (n : BitVec 15)
  | scsrw (w : BitVec 3) (d : Reg) (n : BitVec 15)
  | tret (w : BitVec 3)
  | ctxbank (w : BitVec 3) (k : BitVec 1)
  | tlbinv (w : BitVec 3) (a : Reg) (e : BitVec 2)
  | halt (w : BitVec 3)
  | wfi (w : BitVec 3)
  | errpop (w : BitVec 3) (d : Reg)
  | eccinj (w : BitVec 3) (a : Reg) (s : BitVec 3)
  -- started by the module itself: steps of a core (17 R293, 21 R344, 05, 11, 07, 08)
  | readyWrite (b : BankId) (e : Engine)
  | pageWalk (die : Nat) (n : Nat)
  | loadReturn (b : BankId) (n : Nat)
  | streamRowFetch (b : BankId) (n : BitVec 3)
  | streamRowStore (b : BankId) (n : BitVec 3)
  | fillRow (b : BankId) (t : BitVec 5)
  | dirtyLineDrain (b : BankId)
  | homeAck (b : BankId)
  | homeRequest (b : BankId) (write : Bool)
  | semsigIncrement (b : BankId) (e : Engine)
  | enqrArrival (b : BankId)
  | boundRowArrival (b : BankId) (q : BitVec 4) (ext : Option Row)
  | creditReturn (b : BankId) (q : BitVec 4)
  | bindRequest (b : BankId) (q : BindStep)
  | bindAck (b : BankId) (q : BitVec 4) (ok : Bool)
  | gbarCompletion (b : BankId)
  | splitChangeEnd (slice : Nat)
  | bankLoadStart (b : BankId)
  | bankLoadFinish (b : BankId)
  | nestStep (b : BankId)
  | kRunWriteback (b : BankId)
  | kOperationComplete (b : BankId)
  | tileWatchdog (b : BankId) (e : Engine)
  | queueWatchdog (b : BankId) (e : Engine)
  | semWatchdog (b : BankId) (e : Engine)
  | preemptBudgetExpiry (b : BankId)
  | dispatch (b : BankId) (launch : Nat) (unit : Nat)
  | bankSwitch (core : Nat)
  | coreResetDone (core : Nat)
  | wfiWake (b : BankId)
  | chainWalk (b : BankId) (ch : BitVec 2)
  | recordStart (b : BankId) (ch : BitVec 2)
  | recordComplete (b : BankId) (ch : BitVec 2)
  -- started by the module itself: the escapement (12)
  | collectiveTakeUp (p : CollId)
  | notice (m : NoticeMsg)
  | ticket (m : TicketMsg)
  | ticketStart (p : CollId)
  | collectiveWatchdog (p : CollId)
  | allreduce (p : CollId) (x : Contributions)
  | reduce (p : CollId) (x : Contributions)
  | broadcast (p : CollId) (x : Contributions)
  | allgather (p : CollId) (x : Contributions)
  | reducescatter (p : CollId) (x : Contributions)
  | collectiveDone (p : CollId)
  -- started by the module itself: the host (20, 21)
  | launch (q : Nat)
  | graph (q : Nat)
  | semwaitPacket (q : Nat)
  | semwaitPacketRelease (q : Nat)
  | semsigPacket (q : Nat)
  | timed (q : Nat)
  | timedRelease (q : Nat)
  | cancelPacket (q : Nat)
  | collectivePacket (q : Nat)
  | launchComplete (id : Nat)
  | graphNodeStart (run : Nat) (node : Nat)
  -- started by the module itself: the memory system (22)
  | rebuildWriteback (addr : Nat)
  -- started by the module itself: the fleet (24)
  | powerWake (p : PowerPart)
  | timedPrewake (q : Nat)
  | tickAdvance (n : BitVec 2)
  -- started from outside, or without operands: steps of a core (17 R293, 21 R344, 05, 11, 07, 08)
  | spadBankRetention (core : Nat) (bank : BitVec 4)
  | atsTranslationResponse (iova : Nat) (ans : Option Nat)
  | prgResponse (iova : Nat) (success : Bool)
  | atsInvalidation (iova : Nat)
  | preemptRequest (b : BankId)
  | unitResume (b : BankId)
  | controlStateError (core : Nat)
  -- started from outside, or without operands: the escapement (12)
  | abort (m : AbortMsg)
  -- started from outside, or without operands: the tick and the domain (12 R269–R272, 24 R392)
  | powerOn
  | domainJoin (chip : BitVec 16) (tick : BitVec 64) (ptp : Bool) (members : DomainMap) (horizon : Nat)
  | domainLeave
  | alignmentMarker (ahead : Int)
  | linkRetry (port : PortReport)
  | ptpSync (offset : Int)
  | ptpSyncLoss
  -- started from outside, or without operands: the host (20, 21)
  | registerWrite (off : Nat) (val : BitVec 64) (size : Nat)
  | gtrig (val : BitVec 64)
  | gupload (val : BitVec 64)
  | graphUploadDone
  | cancelLaunch (val : BitVec 64)
  | cancelGraph (val : BitVec 64)
  | cancelStage (val : BitVec 64)
  | cancelJob (val : BitVec 64)
  | doorbell (q : Nat) (wptr : BitVec 64)
  | queueEnable (q : Nat) (val : BitVec 64)
  | queueDisable (q : Nat) (val : BitVec 64)
  | queueConfigure (q : Nat) (val : BitVec 64)
  | queueReset (q : Nat)
  | contextRegister (addr : BitVec 64)
  | contextUnregister
  | ctxkill (val : BitVec 64)
  | fanswerRetry (val : BitVec 64)
  | fanswerRefuse (val : BitVec 64)
  | migdst (val : BitVec 64)
  | migrationComplete
  | corerst (val : BitVec 64)
  -- started from outside, or without operands: the memory system (22)
  | slretire (val : BitVec 64)
  | retirementWritebackDone
  | rehashReply
  | faqpop
  | bpretire (val : BitVec 64)
  | protmap (i : Nat) (val : BitVec 64)
  | mirror (j : Nat) (len : BitVec 64)
  | ltol (val : BitVec 64)
  | memoryRead (addr : Nat) (o : EccOutcome)
  | cxlMemAccess (addr : Nat) (len : Nat) (data : Option (List Byte))
  -- started from outside, or without operands: the fleet (24)
  | powerSample (mw : Nat) (maxTemp : Int) (strip : Nat)
  | thermtrip (junction : Int)
  | powerStateEntry (p : PowerPart)
  | monitorRead
  | marginReplan (strip : Nat) (a : ReplanAction)
  | fwstage (addr : BitVec 64)
  | moduleReset
  | getVersion
  | getCapabilities
  | negotiateAlgorithms
  | getDigests
  | getCertificate (slot : Nat)
  | challenge (nonce : BitVec 256)
  | getMeasurements (index : Nat)
  | firmwareVerifyDone (c : FirmwareCheck)
  | coreRetest (core : Nat) (ok : Bool)
  | scrub (addr : Nat) (o : EccOutcome)
  | modulePowerOff
  deriving DecidableEq, Repr

end Sys2Proof
end

