-- ==== Sys2Proof/Config.lean ====
section
/-! DEFINITION. What is fixed for the module, and the free values: constants without a body, of which no proof can know
anything (log entry 5). -/

namespace Sys2Proof.Config

/-- The free values: the `n`-th value that the spec leaves open in a run. -/
opaque freeNat : Nat → Nat

/-- Cores of a module (01 R8). -/
def coreCount : Nat := 1280

/-- L2 slices of a module (01 R8). -/
def sliceCount : Nat := 1280

/-- Bytes of HBM (22 R369). -/
def hbmSize : Nat := 1280 * 1073741824

/-- Where coherent host memory stands in the model's list of cells: host physical address plus this (log entry 3). -/
def hostBase : Nat := 1152921504606846976

/-- Where shared scratch stands in the model's list of cells: window offset plus this (log entry 3). -/
def scratchBase : Nat := 2305843009213693952

/-- Core cycles in one tick at the nominal clock (12 R269; log entry 6). -/
def cyclesPerTick : Nat := 4

/-- Bytes of graph images that scheduler memory holds: the implementation's (20 R337). -/
opaque schedulerBytes : Nat

/-- The four fused key slots, which of them a fuse has revoked, and the fused security version: the part's (24 R393). -/
opaque keySlot : Nat → BitVec 512
opaque keyRevoked : Nat → Bool
opaque fusedVersion : Nat

/-- The device identity chain of certificate slot 0, and what measurements 1 to 5 give: of the boot ROM; of part `i` (2 to 4) of the firmware, by the
image in effect and which one in a run it is; of the key slots, their revocations and the security version (24 R394; log entry 5). -/
opaque certificateChain : List (BitVec 8)
opaque romMeasurement : BitVec 512
opaque firmwareMeasurement : Nat → Option FirmwareCheck → Nat → BitVec 512
opaque fuseMeasurement : List (BitVec 512 × Bool) → Nat → BitVec 512

/-- How many steps of 5 mV a core strip's voltage may rise: the part's limit (24 R390). -/
opaque voltageSteps : Nat → Nat

end Sys2Proof.Config
end

