-- ==== Sys2Proof/WellFormed.lean ====
section
/-! DEFINITION. The checks 5, 6 and 7 of 02 R32 that read the fields of a decoded word: ranges (R41–R47) and the kinds of
operand each specifier field accepts (R37, R41–R47). Checks 1 to 4 and the reserved bits belong to the decoder. -/

namespace Sys2Proof

/-- The trap causes of 21 R350. -/
inductive Cause where
  | illegalWord | foreignWord | reservedOperand | privilege | undersizedStall | break | softTrap
  | tileWatchdog | queueWatchdog | semWatchdog | axisOverflow | tagConflict | liftDepth
  | translationRefused | accessViolation | misaligned | memUncorrected | sramUncorrected
  | residueMismatch | overlap | collectiveAbort | unitLost
  deriving DecidableEq, Repr

/-- The cause codes of 21 R350. -/
def Cause.code : Cause → Nat
  | .illegalWord => 0x01 | .foreignWord => 0x02 | .reservedOperand => 0x03 | .privilege => 0x04
  | .undersizedStall => 0x05 | .break => 0x06 | .softTrap => 0x07
  | .tileWatchdog => 0x10 | .queueWatchdog => 0x11 | .semWatchdog => 0x12
  | .axisOverflow => 0x20 | .tagConflict => 0x21 | .liftDepth => 0x22
  | .translationRefused => 0x30 | .accessViolation => 0x31 | .misaligned => 0x32
  | .memUncorrected => 0x40 | .sramUncorrected => 0x41 | .residueMismatch => 0x42
  | .overlap => 0x50 | .collectiveAbort => 0x51 | .unitLost => 0x60

/-- What an operand specifier names (02 R37). -/
inductive Operand where
  | tile (t : Nat) | queue (q : Nat) | stream (n : Nat) | zeroRow | onesRow | laneRow | reserved
  deriving DecidableEq, Repr

def operandOf (x : Spec) : Operand :=
  let n := x.toNat
  if n < 0x20 then .tile n
  else if n < 0x30 then .queue (n - 0x20)
  else if n < 0x38 then .stream (n - 0x30)
  else if n = 0x38 then .zeroRow
  else if n = 0x39 then .onesRow
  else if n = 0x3A then .laneRow
  else .reserved

/-- The kinds of operand the field notes of 02 R41–R46 speak of. -/
inductive SpecKind where
  | readable | writable | tile | queue | stream | tileOrNone | tileOrStream
  deriving DecidableEq, Repr

def SpecKind.accepts (k : SpecKind) (x : Spec) : Bool :=
  let n := x.toNat
  match k with
  | .readable => n < 0x3B
  | .writable => n < 0x38
  | .tile => n < 0x20
  | .queue => 0x20 ≤ n && n < 0x30
  | .stream => 0x30 ≤ n && n < 0x38
  | .tileOrNone => n < 0x20 || n == 0x38
  | .tileOrStream => n < 0x20 || (0x30 ≤ n && n < 0x38)

/-- The assigned user control registers (04 R87). -/
def userCsr (n : Nat) : Bool := n == 0 || n == 1 || (0x10 ≤ n && n ≤ 0x13)

/-- The assigned system control registers (21 R361). -/
def systemCsr (n : Nat) : Bool := n ≤ 4 || n == 8

/-- Whether every field holds a value inside its listed range (check 5 of 02 R32). -/
def Instr.inRange : Instr → Bool
  | .csrr _ _ n => userCsr n.toNat
  | .csrw _ _ n => userCsr n.toNat
  | .stdim _ _ _ _ k => decide (k.toNat ≤ 4)
  | .mnest _ l _ _ => decide (l.toNat ≤ 5)
  | .scsrr _ _ n => systemCsr n.toNat
  | .scsrw _ _ n => systemCsr n.toNat
  | .tlbinv _ _ e => e != 3
  | .eccinj _ _ s => decide (s.toNat ≤ 5)
  | _ => true

/-- Whether every operand specifier names a kind its field accepts (checks 6 and 7 of 02 R32). -/
def Instr.specsOk : Instr → Bool
  | .ltag _ t _ _ => SpecKind.tile.accepts t
  | .lidx _ t _ => SpecKind.tile.accepts t
  | .brb _ t _ => SpecKind.readable.accepts t
  | .qbind _ q _ => SpecKind.queue.accepts q
  | .qdepth _ q _ => SpecKind.queue.accepts q
  | .tdesc _ p q _ => SpecKind.tile.accepts p && SpecKind.tileOrNone.accepts q
  | .tfill _ p q _ => SpecKind.tile.accepts p && SpecKind.stream.accepts q
  | .tdrain _ p q _ _ => SpecKind.tile.accepts p && SpecKind.stream.accepts q
  | .tfree _ p => SpecKind.tile.accepts p
  | .tstate _ p _ => SpecKind.tile.accepts p
  | .ldq _ p _ => SpecKind.queue.accepts p
  | .stq _ q _ => SpecKind.queue.accepts q
  | .vadd _ p q r _ => SpecKind.writable.accepts p && SpecKind.readable.accepts q && SpecKind.readable.accepts r
  | .vsub _ p q r _ => SpecKind.writable.accepts p && SpecKind.readable.accepts q && SpecKind.readable.accepts r
  | .vmul _ p q r _ => SpecKind.writable.accepts p && SpecKind.readable.accepts q && SpecKind.readable.accepts r
  | .vfma _ p q r _ => SpecKind.writable.accepts p && SpecKind.readable.accepts q && SpecKind.readable.accepts r
  | .vfms _ p q r _ => SpecKind.writable.accepts p && SpecKind.readable.accepts q && SpecKind.readable.accepts r
  | .vmin _ p q r => SpecKind.writable.accepts p && SpecKind.readable.accepts q && SpecKind.readable.accepts r
  | .vmax _ p q r => SpecKind.writable.accepts p && SpecKind.readable.accepts q && SpecKind.readable.accepts r
  | .vdiv _ p q r _ => SpecKind.writable.accepts p && SpecKind.readable.accepts q && SpecKind.readable.accepts r
  | .vabs _ p q => SpecKind.writable.accepts p && SpecKind.readable.accepts q
  | .vneg _ p q => SpecKind.writable.accepts p && SpecKind.readable.accepts q
  | .vrcp _ p q _ => SpecKind.writable.accepts p && SpecKind.readable.accepts q
  | .vrsq _ p q _ => SpecKind.writable.accepts p && SpecKind.readable.accepts q
  | .vexp2 _ p q _ => SpecKind.writable.accepts p && SpecKind.readable.accepts q
  | .vlog2 _ p q _ => SpecKind.writable.accepts p && SpecKind.readable.accepts q
  | .vcmp _ p q r _ => SpecKind.writable.accepts p && SpecKind.readable.accepts q && SpecKind.readable.accepts r
  | .vsel _ p q r => SpecKind.writable.accepts p && SpecKind.readable.accepts q && SpecKind.readable.accepts r
  | .vand _ p q r => SpecKind.writable.accepts p && SpecKind.readable.accepts q && SpecKind.readable.accepts r
  | .vor _ p q r => SpecKind.writable.accepts p && SpecKind.readable.accepts q && SpecKind.readable.accepts r
  | .vxor _ p q r => SpecKind.writable.accepts p && SpecKind.readable.accepts q && SpecKind.readable.accepts r
  | .vnot _ p q => SpecKind.writable.accepts p && SpecKind.readable.accepts q
  | .vshl _ p q r => SpecKind.writable.accepts p && SpecKind.readable.accepts q && SpecKind.readable.accepts r
  | .vshr _ p q r => SpecKind.writable.accepts p && SpecKind.readable.accepts q && SpecKind.readable.accepts r
  | .vsra _ p q r => SpecKind.writable.accepts p && SpecKind.readable.accepts q && SpecKind.readable.accepts r
  | .vadds _ p q _ _ => SpecKind.writable.accepts p && SpecKind.readable.accepts q
  | .vmuls _ p q _ _ => SpecKind.writable.accepts p && SpecKind.readable.accepts q
  | .vqadd _ p q r => SpecKind.writable.accepts p && SpecKind.readable.accepts q && SpecKind.readable.accepts r
  | .vqsub _ p q r => SpecKind.writable.accepts p && SpecKind.readable.accepts q && SpecKind.readable.accepts r
  | .vqmul _ p q r => SpecKind.writable.accepts p && SpecKind.readable.accepts q && SpecKind.readable.accepts r
  | .vqabs _ p q => SpecKind.writable.accepts p && SpecKind.readable.accepts q
  | .vcvt _ p q _ => SpecKind.writable.accepts p && SpecKind.readable.accepts q
  | .vbmax _ q => SpecKind.readable.accepts q
  | .vbq _ p q _ => SpecKind.writable.accepts p && SpecKind.readable.accepts q
  | .vrsum _ p q _ => SpecKind.writable.accepts p && SpecKind.readable.accepts q
  | .vrmax _ p q => SpecKind.writable.accepts p && SpecKind.readable.accepts q
  | .vrmin _ p q => SpecKind.writable.accepts p && SpecKind.readable.accepts q
  | .vmov _ p q => SpecKind.writable.accepts p && SpecKind.readable.accepts q
  | .vbcst _ p _ => SpecKind.writable.accepts p
  | .vperm _ p q r => SpecKind.writable.accepts p && SpecKind.readable.accepts q && SpecKind.readable.accepts r
  | .vrot _ p q _ => SpecKind.writable.accepts p && SpecKind.readable.accepts q
  | .vrow _ p _ => SpecKind.tile.accepts p
  | .vnext _ p => SpecKind.tile.accepts p
  | .vrng _ p _ _ => SpecKind.writable.accepts p
  | .mbind _ p q => SpecKind.tile.accepts p && SpecKind.readable.accepts q
  | .mloadb _ q _ _ => SpecKind.tile.accepts q
  | .mma _ p q => SpecKind.tile.accepts p && SpecKind.readable.accepts q
  | .skfold _ p q _ => SpecKind.readable.accepts p && SpecKind.readable.accepts q
  | .skpanel _ q r => SpecKind.readable.accepts q && SpecKind.readable.accepts r
  | .skrdu _ p _ => SpecKind.writable.accepts p
  | .skrdv _ p _ => SpecKind.writable.accepts p
  | .skrds _ p => SpecKind.writable.accepts p
  | .skrow _ p _ => SpecKind.writable.accepts p
  | .skmrg _ q r => SpecKind.readable.accepts q && SpecKind.readable.accepts r
  | .sksave _ p => SpecKind.tileOrStream.accepts p
  | .skload _ q => SpecKind.tileOrStream.accepts q
  | _ => true

/-- The first cause among checks 5 to 7 of 02 R32 that the fields fail. -/
def Instr.fieldCause (i : Instr) : Option Cause :=
  if !i.inRange then some .illegalWord
  else if !i.specsOk then some .reservedOperand
  else none

/-- A well-formed instruction: its fields pass checks 5 to 7. An event has no fields to check. -/
def Instr.wf (i : Instr) : Bool := i.inRange && i.specsOk

end Sys2Proof
end

