-- ==== Sys2Proof/Decode.lean ====
section
/-! DEFINITION. Decoding a word in an engine stream with the checks of 02 R32 in their order, and the encoder, from the
opcode map and field notes of 02 R40–R47. -/

namespace Sys2Proof

/-- The stream a word is about to issue in, and whether its context is privileged (02 R32). -/
structure DecodeEnv where
  engine     : Engine
  privileged : Bool
  deriving DecidableEq, Repr

/-- `len` bits of a word from bit `lo`. -/
def fld (x : W32) (lo len : Nat) : BitVec len := x.extractLsb' lo len

/-- A cell of the class grid: the row's instruction where its reserved bits are zero (check 5). -/
def cell (reservedZero : Bool) (i : Instr) : Except Cause Instr :=
  if reservedZero then .ok i else .error .illegalWord

/-- The class grid of common (02 R41); a cell not listed is marked — (check 4). -/
def decodeG (x : W32) : Except Cause Instr :=
  match (fld x 20 6).toNat with
  | 0x00 => cell (fld x 0 5 == 0) (.add (fld x 26 3) (fld x 15 5) (fld x 10 5) (fld x 5 5))
  | 0x01 => cell (fld x 0 5 == 0) (.sub (fld x 26 3) (fld x 15 5) (fld x 10 5) (fld x 5 5))
  | 0x02 => cell (fld x 0 5 == 0) (.and (fld x 26 3) (fld x 15 5) (fld x 10 5) (fld x 5 5))
  | 0x03 => cell (fld x 0 5 == 0) (.or (fld x 26 3) (fld x 15 5) (fld x 10 5) (fld x 5 5))
  | 0x04 => cell (fld x 0 5 == 0) (.xor (fld x 26 3) (fld x 15 5) (fld x 10 5) (fld x 5 5))
  | 0x05 => cell (fld x 0 5 == 0) (.shl (fld x 26 3) (fld x 15 5) (fld x 10 5) (fld x 5 5))
  | 0x06 => cell (fld x 0 5 == 0) (.shr (fld x 26 3) (fld x 15 5) (fld x 10 5) (fld x 5 5))
  | 0x07 => cell (fld x 0 5 == 0) (.sra (fld x 26 3) (fld x 15 5) (fld x 10 5) (fld x 5 5))
  | 0x08 => cell (fld x 0 5 == 0) (.mul (fld x 26 3) (fld x 15 5) (fld x 10 5) (fld x 5 5))
  | 0x09 => cell (fld x 0 5 == 0) (.mulh (fld x 26 3) (fld x 15 5) (fld x 10 5) (fld x 5 5))
  | 0x0A => cell (fld x 0 5 == 0) (.mulhu (fld x 26 3) (fld x 15 5) (fld x 10 5) (fld x 5 5))
  | 0x0B => cell (fld x 0 5 == 0) (.div (fld x 26 3) (fld x 15 5) (fld x 10 5) (fld x 5 5))
  | 0x0C => cell (fld x 0 5 == 0) (.divu (fld x 26 3) (fld x 15 5) (fld x 10 5) (fld x 5 5))
  | 0x0D => cell (fld x 0 5 == 0) (.rem (fld x 26 3) (fld x 15 5) (fld x 10 5) (fld x 5 5))
  | 0x10 => cell (fld x 0 5 == 0) (.min (fld x 26 3) (fld x 15 5) (fld x 10 5) (fld x 5 5))
  | 0x11 => cell (fld x 0 5 == 0) (.max (fld x 26 3) (fld x 15 5) (fld x 10 5) (fld x 5 5))
  | 0x12 => cell (fld x 0 5 == 0) (.minu (fld x 26 3) (fld x 15 5) (fld x 10 5) (fld x 5 5))
  | 0x13 => cell (fld x 0 5 == 0) (.maxu (fld x 26 3) (fld x 15 5) (fld x 10 5) (fld x 5 5))
  | 0x14 => cell (fld x 0 5 == 0) (.slt (fld x 26 3) (fld x 15 5) (fld x 10 5) (fld x 5 5))
  | 0x15 => cell (fld x 0 5 == 0) (.sltu (fld x 26 3) (fld x 15 5) (fld x 10 5) (fld x 5 5))
  | 0x18 => .ok (.addi (fld x 26 3) (fld x 15 5) (fld x 10 5) (fld x 0 10))
  | 0x19 => .ok (.andi (fld x 26 3) (fld x 15 5) (fld x 10 5) (fld x 0 10))
  | 0x1A => .ok (.ori (fld x 26 3) (fld x 15 5) (fld x 10 5) (fld x 0 10))
  | 0x1B => .ok (.xori (fld x 26 3) (fld x 15 5) (fld x 10 5) (fld x 0 10))
  | 0x1C => cell (fld x 6 4 == 0) (.shli (fld x 26 3) (fld x 15 5) (fld x 10 5) (fld x 0 6))
  | 0x1D => cell (fld x 6 4 == 0) (.shri (fld x 26 3) (fld x 15 5) (fld x 10 5) (fld x 0 6))
  | 0x1E => cell (fld x 6 4 == 0) (.srai (fld x 26 3) (fld x 15 5) (fld x 10 5) (fld x 0 6))
  | 0x1F => .ok (.slti (fld x 26 3) (fld x 15 5) (fld x 10 5) (fld x 0 10))
  | 0x20 => .ok (.li (fld x 26 3) (fld x 15 5) (fld x 0 15))
  | 0x21 => .ok (.lsh (fld x 26 3) (fld x 15 5) (fld x 0 15))
  | 0x22 => .ok (.csrr (fld x 26 3) (fld x 15 5) (fld x 0 15))
  | 0x23 => .ok (.csrw (fld x 26 3) (fld x 15 5) (fld x 0 15))
  | 0x24 => cell (fld x 0 15 == 0) (.tick (fld x 26 3) (fld x 15 5))
  | 0x25 => cell (fld x 0 10 == 0 && fld x 15 5 == 0) (.tickwait (fld x 26 3) (fld x 10 5))
  | 0x28 => .ok (.beq (fld x 26 3) (fld x 15 5) (fld x 10 5) (fld x 0 10))
  | 0x29 => .ok (.bne (fld x 26 3) (fld x 15 5) (fld x 10 5) (fld x 0 10))
  | 0x2A => .ok (.blt (fld x 26 3) (fld x 15 5) (fld x 10 5) (fld x 0 10))
  | 0x2B => .ok (.bge (fld x 26 3) (fld x 15 5) (fld x 10 5) (fld x 0 10))
  | 0x2C => .ok (.bltu (fld x 26 3) (fld x 15 5) (fld x 10 5) (fld x 0 10))
  | 0x2D => .ok (.bgeu (fld x 26 3) (fld x 15 5) (fld x 10 5) (fld x 0 10))
  | 0x2E => .ok (.jal (fld x 26 3) (fld x 15 5) (fld x 0 15))
  | 0x2F => .ok (.jalr (fld x 26 3) (fld x 15 5) (fld x 10 5) (fld x 0 10))
  | 0x30 => cell (fld x 15 5 == 0) (.semwait (fld x 26 3) (fld x 10 5) (fld x 0 10))
  | 0x31 => cell (fld x 15 5 == 0) (.semsig (fld x 26 3) (fld x 10 5) (fld x 0 10))
  | 0x32 => cell (fld x 2 18 == 0) (.fence (fld x 26 3) (fld x 0 2))
  | 0x33 => .ok (.brk (fld x 26 3) (fld x 0 20))
  | 0x34 => .ok (.trap (fld x 26 3) (fld x 0 20))
  | 0x35 => cell (fld x 0 20 == 0) (.nop (fld x 26 3))
  | 0x38 => .ok (.lcall (fld x 26 3) (fld x 15 5) (fld x 0 15))
  | 0x39 => cell (fld x 0 20 == 0) (.lret (fld x 26 3))
  | 0x3A => cell (fld x 2 1 == 0 && fld x 8 6 == 0) (.ltag (fld x 26 3) (fld x 14 6) (fld x 3 5) (fld x 0 2))
  | 0x3B => cell (fld x 2 12 == 0) (.lidx (fld x 26 3) (fld x 14 6) (fld x 0 2))
  | 0x3C => .ok (.brb (fld x 26 3) (fld x 14 6) (fld x 0 14))
  | 0x3D => cell (fld x 0 20 == 0) (.join (fld x 26 3))
  | _ => .error .illegalWord

/-- The class grid of control (02 R42); a cell not listed is marked — (check 4). -/
def decodeC (x : W32) : Except Cause Instr :=
  match (fld x 20 6).toNat with
  | 0x01 => .ok (.forkA (fld x 26 3) (fld x 15 5) (fld x 0 15))
  | 0x02 => .ok (.forkV (fld x 26 3) (fld x 15 5) (fld x 0 15))
  | 0x03 => .ok (.forkM (fld x 26 3) (fld x 15 5) (fld x 0 15))
  | 0x04 => .ok (.forkK (fld x 26 3) (fld x 15 5) (fld x 0 15))
  | 0x05 => if fld x 4 1 = 1 then cell (fld x 5 15 == 0 && fld x 0 4 == 0) (.rdvEnd (fld x 26 3))
      else cell (fld x 5 15 == 0) (.rdv (fld x 26 3) (fld x 0 4))
  | 0x06 => cell (fld x 0 20 == 0) (.safept (fld x 26 3))
  | 0x07 => cell (fld x 0 15 == 0) (.unitid (fld x 26 3) (fld x 15 5))
  | 0x08 => cell (fld x 6 9 == 0) (.param (fld x 26 3) (fld x 15 5) (fld x 0 6))
  | 0x09 => cell (fld x 0 15 == 0) (.role (fld x 26 3) (fld x 15 5))
  | 0x0A => cell (fld x 0 5 == 0 && fld x 15 5 == 0) (.enqr (fld x 26 3) (fld x 10 5) (fld x 5 5))
  | 0x0B => cell (fld x 0 15 == 0) (.cmdpop (fld x 26 3) (fld x 15 5))
  | 0x0C => cell (fld x 0 15 == 0) (.cmdsteal (fld x 26 3) (fld x 15 5))
  | 0x0D => cell (fld x 10 10 == 0) (.gbar (fld x 26 3) (fld x 0 10))
  | 0x0E => cell (fld x 0 3 == 0 && fld x 8 6 == 0) (.qbind (fld x 26 3) (fld x 14 6) (fld x 3 5))
  | 0x0F => cell (fld x 0 3 == 0 && fld x 14 6 == 0) (.qdepth (fld x 26 3) (fld x 8 6) (fld x 3 5))
  | 0x10 => cell (fld x 0 5 == 0 && fld x 15 5 == 0) (.split (fld x 26 3) (fld x 10 5) (fld x 5 5))
  | _ => .error .illegalWord

/-- The class grid of access (02 R43); a cell not listed is marked — (check 4). -/
def decodeA (x : W32) : Except Cause Instr :=
  match (fld x 20 6).toNat with
  | 0x00 => cell (fld x 18 2 == 0) (.stdim (fld x 26 3) (fld x 15 3) (fld x 10 5) (fld x 5 5) (fld x 0 5))
  | 0x01 => cell (fld x 0 10 == 0 && fld x 18 2 == 0) (.stbase (fld x 26 3) (fld x 15 3) (fld x 10 5))
  | 0x02 => cell (fld x 1 14 == 0 && fld x 18 2 == 0) (.stgo (fld x 26 3) (fld x 15 3) (fld x 0 1))
  | 0x03 => cell (fld x 0 15 == 0 && fld x 18 2 == 0) (.strst (fld x 26 3) (fld x 15 3))
  | 0x04 => cell (fld x 0 3 == 0) (.tdesc (fld x 26 3) (fld x 14 6) (fld x 8 6) (fld x 3 5))
  | 0x05 => cell (fld x 0 3 == 0) (.tfill (fld x 26 3) (fld x 14 6) (fld x 8 6) (fld x 3 5))
  | 0x06 => cell (fld x 1 2 == 0) (.tdrain (fld x 26 3) (fld x 14 6) (fld x 8 6) (fld x 3 5) (fld x 0 1))
  | 0x07 => cell (fld x 0 14 == 0) (.tfree (fld x 26 3) (fld x 14 6))
  | 0x08 => cell (fld x 0 3 == 0 && fld x 8 6 == 0) (.tstate (fld x 26 3) (fld x 14 6) (fld x 3 5))
  | 0x09 => cell (fld x 0 3 == 0 && fld x 8 6 == 0) (.ldq (fld x 26 3) (fld x 14 6) (fld x 3 5))
  | 0x0A => cell (fld x 0 3 == 0 && fld x 14 6 == 0) (.stq (fld x 26 3) (fld x 8 6) (fld x 3 5))
  | 0x10 => cell (fld x 2 3 == 0) (.ld (fld x 26 3) (fld x 15 5) (fld x 10 5) (fld x 5 5) (fld x 0 2))
  | 0x11 => cell (fld x 2 3 == 0) (.ldu (fld x 26 3) (fld x 15 5) (fld x 10 5) (fld x 5 5) (fld x 0 2))
  | 0x12 => cell (fld x 2 3 == 0) (.st (fld x 26 3) (fld x 15 5) (fld x 10 5) (fld x 5 5) (fld x 0 2))
  | 0x13 => cell (fld x 2 3 == 0) (.ldl (fld x 26 3) (fld x 15 5) (fld x 10 5) (fld x 5 5) (fld x 0 2))
  | 0x14 => cell (fld x 4 1 == 0) (.ldacq (fld x 26 3) (fld x 15 5) (fld x 10 5) (fld x 5 5) (fld x 2 2) (fld x 0 2))
  | 0x15 => cell (fld x 4 1 == 0) (.strel (fld x 26 3) (fld x 15 5) (fld x 10 5) (fld x 5 5) (fld x 2 2) (fld x 0 2))
  | 0x18 => .ok (.aadd (fld x 26 3) (fld x 15 5) (fld x 10 5) (fld x 5 5) (fld x 3 2) (fld x 1 2) (fld x 0 1))
  | 0x19 => .ok (.aand (fld x 26 3) (fld x 15 5) (fld x 10 5) (fld x 5 5) (fld x 3 2) (fld x 1 2) (fld x 0 1))
  | 0x1A => .ok (.aor (fld x 26 3) (fld x 15 5) (fld x 10 5) (fld x 5 5) (fld x 3 2) (fld x 1 2) (fld x 0 1))
  | 0x1B => .ok (.axor (fld x 26 3) (fld x 15 5) (fld x 10 5) (fld x 5 5) (fld x 3 2) (fld x 1 2) (fld x 0 1))
  | 0x1C => .ok (.amin (fld x 26 3) (fld x 15 5) (fld x 10 5) (fld x 5 5) (fld x 3 2) (fld x 1 2) (fld x 0 1))
  | 0x1D => .ok (.amax (fld x 26 3) (fld x 15 5) (fld x 10 5) (fld x 5 5) (fld x 3 2) (fld x 1 2) (fld x 0 1))
  | 0x1E => .ok (.aminu (fld x 26 3) (fld x 15 5) (fld x 10 5) (fld x 5 5) (fld x 3 2) (fld x 1 2) (fld x 0 1))
  | 0x1F => .ok (.amaxu (fld x 26 3) (fld x 15 5) (fld x 10 5) (fld x 5 5) (fld x 3 2) (fld x 1 2) (fld x 0 1))
  | 0x20 => .ok (.aswp (fld x 26 3) (fld x 15 5) (fld x 10 5) (fld x 5 5) (fld x 3 2) (fld x 1 2) (fld x 0 1))
  | 0x21 => .ok (.acas (fld x 26 3) (fld x 15 5) (fld x 10 5) (fld x 5 5) (fld x 3 2) (fld x 1 2) (fld x 0 1))
  | 0x28 => cell (fld x 2 8 == 0) (.cpyhd (fld x 26 3) (fld x 15 5) (fld x 10 5) (fld x 0 2))
  | 0x29 => cell (fld x 2 13 == 0) (.cpyst (fld x 26 3) (fld x 15 5) (fld x 0 2))
  | 0x2A => cell (fld x 2 8 == 0 && fld x 15 5 == 0) (.cpywait (fld x 26 3) (fld x 10 5) (fld x 0 2))
  | 0x2B => cell (fld x 0 10 == 0 && fld x 15 5 == 0) (.postc (fld x 26 3) (fld x 10 5))
  | 0x2C => cell (fld x 0 5 == 0 && fld x 15 5 == 0) (.pref (fld x 26 3) (fld x 10 5) (fld x 5 5))
  | _ => .error .illegalWord

/-- The class grid of vector (02 R44); a cell not listed is marked — (check 4). -/
def decodeV (x : W32) : Except Cause Instr :=
  match (fld x 20 6).toNat with
  | 0x00 => .ok (.vadd (fld x 26 3) (fld x 14 6) (fld x 8 6) (fld x 2 6) (fld x 0 2))
  | 0x01 => .ok (.vsub (fld x 26 3) (fld x 14 6) (fld x 8 6) (fld x 2 6) (fld x 0 2))
  | 0x02 => .ok (.vmul (fld x 26 3) (fld x 14 6) (fld x 8 6) (fld x 2 6) (fld x 0 2))
  | 0x03 => .ok (.vfma (fld x 26 3) (fld x 14 6) (fld x 8 6) (fld x 2 6) (fld x 0 2))
  | 0x04 => .ok (.vfms (fld x 26 3) (fld x 14 6) (fld x 8 6) (fld x 2 6) (fld x 0 2))
  | 0x05 => cell (fld x 0 2 == 0) (.vmin (fld x 26 3) (fld x 14 6) (fld x 8 6) (fld x 2 6))
  | 0x06 => cell (fld x 0 2 == 0) (.vmax (fld x 26 3) (fld x 14 6) (fld x 8 6) (fld x 2 6))
  | 0x07 => .ok (.vdiv (fld x 26 3) (fld x 14 6) (fld x 8 6) (fld x 2 6) (fld x 0 2))
  | 0x08 => cell (fld x 0 8 == 0) (.vabs (fld x 26 3) (fld x 14 6) (fld x 8 6))
  | 0x09 => cell (fld x 0 8 == 0) (.vneg (fld x 26 3) (fld x 14 6) (fld x 8 6))
  | 0x0A => cell (fld x 2 6 == 0) (.vrcp (fld x 26 3) (fld x 14 6) (fld x 8 6) (fld x 0 2))
  | 0x0B => cell (fld x 2 6 == 0) (.vrsq (fld x 26 3) (fld x 14 6) (fld x 8 6) (fld x 0 2))
  | 0x0C => cell (fld x 2 6 == 0) (.vexp2 (fld x 26 3) (fld x 14 6) (fld x 8 6) (fld x 0 2))
  | 0x0D => cell (fld x 2 6 == 0) (.vlog2 (fld x 26 3) (fld x 14 6) (fld x 8 6) (fld x 0 2))
  | 0x10 => .ok (.vcmp (fld x 26 3) (fld x 14 6) (fld x 8 6) (fld x 2 6) (fld x 0 2))
  | 0x11 => cell (fld x 0 2 == 0) (.vsel (fld x 26 3) (fld x 14 6) (fld x 8 6) (fld x 2 6))
  | 0x12 => cell (fld x 0 2 == 0) (.vand (fld x 26 3) (fld x 14 6) (fld x 8 6) (fld x 2 6))
  | 0x13 => cell (fld x 0 2 == 0) (.vor (fld x 26 3) (fld x 14 6) (fld x 8 6) (fld x 2 6))
  | 0x14 => cell (fld x 0 2 == 0) (.vxor (fld x 26 3) (fld x 14 6) (fld x 8 6) (fld x 2 6))
  | 0x15 => cell (fld x 0 8 == 0) (.vnot (fld x 26 3) (fld x 14 6) (fld x 8 6))
  | 0x16 => cell (fld x 0 2 == 0) (.vshl (fld x 26 3) (fld x 14 6) (fld x 8 6) (fld x 2 6))
  | 0x17 => cell (fld x 0 2 == 0) (.vshr (fld x 26 3) (fld x 14 6) (fld x 8 6) (fld x 2 6))
  | 0x18 => cell (fld x 0 2 == 0) (.vsra (fld x 26 3) (fld x 14 6) (fld x 8 6) (fld x 2 6))
  | 0x19 => cell (fld x 2 1 == 0) (.vadds (fld x 26 3) (fld x 14 6) (fld x 8 6) (fld x 3 5) (fld x 0 2))
  | 0x1A => cell (fld x 2 1 == 0) (.vmuls (fld x 26 3) (fld x 14 6) (fld x 8 6) (fld x 3 5) (fld x 0 2))
  | 0x1B => cell (fld x 0 2 == 0) (.vqadd (fld x 26 3) (fld x 14 6) (fld x 8 6) (fld x 2 6))
  | 0x1C => cell (fld x 0 2 == 0) (.vqsub (fld x 26 3) (fld x 14 6) (fld x 8 6) (fld x 2 6))
  | 0x1D => cell (fld x 0 2 == 0) (.vqmul (fld x 26 3) (fld x 14 6) (fld x 8 6) (fld x 2 6))
  | 0x1E => cell (fld x 0 8 == 0) (.vqabs (fld x 26 3) (fld x 14 6) (fld x 8 6))
  | 0x20 => cell (fld x 2 6 == 0) (.vcvt (fld x 26 3) (fld x 14 6) (fld x 8 6) (fld x 0 2))
  | 0x21 => cell (fld x 0 8 == 0 && fld x 14 6 == 0) (.vbmax (fld x 26 3) (fld x 8 6))
  | 0x22 => cell (fld x 2 6 == 0) (.vbq (fld x 26 3) (fld x 14 6) (fld x 8 6) (fld x 0 2))
  | 0x23 => cell (fld x 2 6 == 0) (.vrsum (fld x 26 3) (fld x 14 6) (fld x 8 6) (fld x 0 2))
  | 0x24 => cell (fld x 0 8 == 0) (.vrmax (fld x 26 3) (fld x 14 6) (fld x 8 6))
  | 0x25 => cell (fld x 0 8 == 0) (.vrmin (fld x 26 3) (fld x 14 6) (fld x 8 6))
  | 0x28 => cell (fld x 0 8 == 0) (.vmov (fld x 26 3) (fld x 14 6) (fld x 8 6))
  | 0x29 => cell (fld x 0 3 == 0 && fld x 8 6 == 0) (.vbcst (fld x 26 3) (fld x 14 6) (fld x 3 5))
  | 0x2A => cell (fld x 0 2 == 0) (.vperm (fld x 26 3) (fld x 14 6) (fld x 8 6) (fld x 2 6))
  | 0x2B => cell (fld x 0 3 == 0) (.vrot (fld x 26 3) (fld x 14 6) (fld x 8 6) (fld x 3 5))
  | 0x2C => cell (fld x 0 3 == 0 && fld x 8 6 == 0) (.vrow (fld x 26 3) (fld x 14 6) (fld x 3 5))
  | 0x2D => cell (fld x 0 14 == 0) (.vnext (fld x 26 3) (fld x 14 6))
  | 0x2E => cell (fld x 0 3 == 0 && fld x 12 2 == 0) (.vrng (fld x 26 3) (fld x 14 6) (fld x 8 4) (fld x 3 5))
  | _ => .error .illegalWord

/-- The class grid of matrix (02 R45); a cell not listed is marked — (check 4). -/
def decodeM (x : W32) : Except Cause Instr :=
  match (fld x 20 6).toNat with
  | 0x00 => cell (fld x 2 8 == 0 && fld x 18 2 == 0) (.mnest (fld x 26 3) (fld x 15 3) (fld x 10 5) (fld x 0 2))
  | 0x01 => cell (fld x 0 8 == 0) (.mbind (fld x 26 3) (fld x 14 6) (fld x 8 6))
  | 0x02 => cell (fld x 1 2 == 0 && fld x 14 6 == 0) (.mloadb (fld x 26 3) (fld x 8 6) (fld x 3 5) (fld x 0 1))
  | 0x03 => cell (fld x 1 19 == 0) (.mbank (fld x 26 3) (fld x 0 1))
  | 0x04 => cell (fld x 2 18 == 0) (.mring (fld x 26 3) (fld x 0 2))
  | 0x05 => cell (fld x 0 20 == 0) (.mgo (fld x 26 3))
  | 0x06 => cell (fld x 0 20 == 0) (.mwait (fld x 26 3))
  | 0x07 => cell (fld x 0 8 == 0) (.mma (fld x 26 3) (fld x 14 6) (fld x 8 6))
  | 0x08 => cell (fld x 3 12 == 0) (.mstat (fld x 26 3) (fld x 15 5) (fld x 0 3))
  | 0x09 => cell (fld x 0 20 == 0) (.mclr (fld x 26 3))
  | _ => .error .illegalWord

/-- The class grid of sketch (02 R46); a cell not listed is marked — (check 4). -/
def decodeK (x : W32) : Except Cause Instr :=
  match (fld x 20 6).toNat with
  | 0x00 => cell (fld x 1 4 == 0 && fld x 15 5 == 0) (.skcfg (fld x 26 3) (fld x 10 5) (fld x 5 5) (fld x 0 1))
  | 0x01 => cell (fld x 0 20 == 0) (.skclr (fld x 26 3))
  | 0x02 => cell (fld x 0 3 == 0) (.skfold (fld x 26 3) (fld x 14 6) (fld x 8 6) (fld x 3 5))
  | 0x03 => cell (fld x 0 2 == 0 && fld x 14 6 == 0) (.skpanel (fld x 26 3) (fld x 8 6) (fld x 2 6))
  | 0x04 => cell (fld x 0 20 == 0) (.skshrink (fld x 26 3))
  | 0x05 => cell (fld x 0 15 == 0) (.skrank (fld x 26 3) (fld x 15 5))
  | 0x06 => cell (fld x 0 15 == 0) (.sken (fld x 26 3) (fld x 15 5))
  | 0x07 => cell (fld x 0 20 == 0) (.skenclr (fld x 26 3))
  | 0x08 => cell (fld x 0 3 == 0 && fld x 8 6 == 0) (.skrdu (fld x 26 3) (fld x 14 6) (fld x 3 5))
  | 0x09 => cell (fld x 0 3 == 0 && fld x 8 6 == 0) (.skrdv (fld x 26 3) (fld x 14 6) (fld x 3 5))
  | 0x0A => cell (fld x 0 14 == 0) (.skrds (fld x 26 3) (fld x 14 6))
  | 0x0B => cell (fld x 0 3 == 0 && fld x 8 6 == 0) (.skrow (fld x 26 3) (fld x 14 6) (fld x 3 5))
  | 0x0C => cell (fld x 0 2 == 0 && fld x 14 6 == 0) (.skmrg (fld x 26 3) (fld x 8 6) (fld x 2 6))
  | 0x0D => cell (fld x 0 10 == 0 && fld x 15 5 == 0) (.skscl (fld x 26 3) (fld x 10 5))
  | 0x0E => cell (fld x 0 14 == 0) (.sksave (fld x 26 3) (fld x 14 6))
  | 0x0F => cell (fld x 0 8 == 0 && fld x 14 6 == 0) (.skload (fld x 26 3) (fld x 8 6))
  | _ => .error .illegalWord

/-- The class grid of system (02 R47); a cell not listed is marked — (check 4). -/
def decodeS (x : W32) : Except Cause Instr :=
  match (fld x 20 6).toNat with
  | 0x00 => .ok (.scsrr (fld x 26 3) (fld x 15 5) (fld x 0 15))
  | 0x01 => .ok (.scsrw (fld x 26 3) (fld x 15 5) (fld x 0 15))
  | 0x02 => cell (fld x 0 20 == 0) (.tret (fld x 26 3))
  | 0x03 => cell (fld x 1 19 == 0) (.ctxbank (fld x 26 3) (fld x 0 1))
  | 0x04 => cell (fld x 2 8 == 0 && fld x 15 5 == 0) (.tlbinv (fld x 26 3) (fld x 10 5) (fld x 0 2))
  | 0x05 => cell (fld x 0 20 == 0) (.halt (fld x 26 3))
  | 0x06 => cell (fld x 0 20 == 0) (.wfi (fld x 26 3))
  | 0x07 => cell (fld x 0 15 == 0) (.errpop (fld x 26 3) (fld x 15 5))
  | 0x08 => cell (fld x 3 7 == 0 && fld x 15 5 == 0) (.eccinj (fld x 26 3) (fld x 10 5) (fld x 0 3))
  | _ => .error .illegalWord

/-- RDV in A, V, M or K: all body bits reserved (02 R42). -/
def decodeRdvStream (x : W32) : Except Cause Instr := cell (fld x 0 20 == 0) (.rdvStream (fld x 26 3))

/-- Checks 1 to 4 of 02 R32 and the reserved bits of check 5. -/
def decodeCell (env : DecodeEnv) (x : W32) : Except Cause Instr :=
  match (fld x 29 3).toNat, env.engine with
  | 7, _ => decodeG x
  | 0, .C => decodeC x
  | 0, _ => if fld x 20 6 = 0x05 then decodeRdvStream x else .error .foreignWord
  | 1, .A => decodeA x
  | 2, .V => decodeV x
  | 3, .M => decodeM x
  | 4, .K => decodeK x
  | 5, _ => .error .illegalWord
  | 6, .C => if env.privileged then decodeS x else .error .privilege
  | _, _ => .error .foreignWord

/-- The checks of 02 R32 in order: the instruction, or the first cause that applies. -/
def decodeWord (env : DecodeEnv) (x : W32) : Except Cause Instr :=
  match decodeCell env x with
  | .error c => .error c
  | .ok i => match i.fieldCause with
    | some c => .error c
    | none => .ok i

/-- The stream and mode in which a word of the table is decoded when it is looked at by itself: its class's own stream, G in
C, S in a privileged C; the word 0x00500000 (whatever its W) as RDV of A. -/
def tableEnv (x : W32) : DecodeEnv :=
  match (fld x 29 3).toNat with
  | 0 => if fld x 0 26 = 0x0500000 then ⟨.A, true⟩ else ⟨.C, true⟩
  | 1 => ⟨.A, true⟩
  | 2 => ⟨.V, true⟩
  | 3 => ⟨.M, true⟩
  | 4 => ⟨.K, true⟩
  | _ => ⟨.C, true⟩

/-- A word as the hardware stores it, little-endian (02 R29). -/
def wordBytes (x : W32) : List Byte := [fld x 0 8, fld x 8 8, fld x 16 8, fld x 24 8]

/-- The word that four bytes in address order hold. -/
def wordOfBytes : List Byte → Option W32
  | [a, b, c, d] => some (d ++ c ++ b ++ a)
  | _ => none

/-- The instruction this decoder reads from the bits of an opcode-table row. -/
def decodeTableWord (nbits w : Nat) : Option Instr :=
  if nbits ≤ 32 then
    match wordOfBytes (wordBytes (BitVec.ofNat 32 (w % 2 ^ nbits))) with
    | some x => match decodeWord (tableEnv x) x with
      | .ok i => some i
      | .error _ => none
    | none => none
  else none

/-- The word of an instruction, from the same field layouts; an event has none. -/
def encode : Instr → Option W32
  | .add w d a b => some (7#3 ++ w ++ 0x00#6 ++ d ++ a ++ b ++ 0#5)
  | .sub w d a b => some (7#3 ++ w ++ 0x01#6 ++ d ++ a ++ b ++ 0#5)
  | .and w d a b => some (7#3 ++ w ++ 0x02#6 ++ d ++ a ++ b ++ 0#5)
  | .or w d a b => some (7#3 ++ w ++ 0x03#6 ++ d ++ a ++ b ++ 0#5)
  | .xor w d a b => some (7#3 ++ w ++ 0x04#6 ++ d ++ a ++ b ++ 0#5)
  | .shl w d a b => some (7#3 ++ w ++ 0x05#6 ++ d ++ a ++ b ++ 0#5)
  | .shr w d a b => some (7#3 ++ w ++ 0x06#6 ++ d ++ a ++ b ++ 0#5)
  | .sra w d a b => some (7#3 ++ w ++ 0x07#6 ++ d ++ a ++ b ++ 0#5)
  | .mul w d a b => some (7#3 ++ w ++ 0x08#6 ++ d ++ a ++ b ++ 0#5)
  | .mulh w d a b => some (7#3 ++ w ++ 0x09#6 ++ d ++ a ++ b ++ 0#5)
  | .mulhu w d a b => some (7#3 ++ w ++ 0x0A#6 ++ d ++ a ++ b ++ 0#5)
  | .div w d a b => some (7#3 ++ w ++ 0x0B#6 ++ d ++ a ++ b ++ 0#5)
  | .divu w d a b => some (7#3 ++ w ++ 0x0C#6 ++ d ++ a ++ b ++ 0#5)
  | .rem w d a b => some (7#3 ++ w ++ 0x0D#6 ++ d ++ a ++ b ++ 0#5)
  | .min w d a b => some (7#3 ++ w ++ 0x10#6 ++ d ++ a ++ b ++ 0#5)
  | .max w d a b => some (7#3 ++ w ++ 0x11#6 ++ d ++ a ++ b ++ 0#5)
  | .minu w d a b => some (7#3 ++ w ++ 0x12#6 ++ d ++ a ++ b ++ 0#5)
  | .maxu w d a b => some (7#3 ++ w ++ 0x13#6 ++ d ++ a ++ b ++ 0#5)
  | .slt w d a b => some (7#3 ++ w ++ 0x14#6 ++ d ++ a ++ b ++ 0#5)
  | .sltu w d a b => some (7#3 ++ w ++ 0x15#6 ++ d ++ a ++ b ++ 0#5)
  | .addi w d a i => some (7#3 ++ w ++ 0x18#6 ++ d ++ a ++ i)
  | .andi w d a i => some (7#3 ++ w ++ 0x19#6 ++ d ++ a ++ i)
  | .ori w d a i => some (7#3 ++ w ++ 0x1A#6 ++ d ++ a ++ i)
  | .xori w d a i => some (7#3 ++ w ++ 0x1B#6 ++ d ++ a ++ i)
  | .shli w d a i => some (7#3 ++ w ++ 0x1C#6 ++ d ++ a ++ 0#4 ++ i)
  | .shri w d a i => some (7#3 ++ w ++ 0x1D#6 ++ d ++ a ++ 0#4 ++ i)
  | .srai w d a i => some (7#3 ++ w ++ 0x1E#6 ++ d ++ a ++ 0#4 ++ i)
  | .slti w d a i => some (7#3 ++ w ++ 0x1F#6 ++ d ++ a ++ i)
  | .li w d i => some (7#3 ++ w ++ 0x20#6 ++ d ++ i)
  | .lsh w d i => some (7#3 ++ w ++ 0x21#6 ++ d ++ i)
  | .csrr w d n => some (7#3 ++ w ++ 0x22#6 ++ d ++ n)
  | .csrw w d n => some (7#3 ++ w ++ 0x23#6 ++ d ++ n)
  | .tick w d => some (7#3 ++ w ++ 0x24#6 ++ d ++ 0#15)
  | .tickwait w a => some (7#3 ++ w ++ 0x25#6 ++ 0#5 ++ a ++ 0#10)
  | .beq w a b o => some (7#3 ++ w ++ 0x28#6 ++ a ++ b ++ o)
  | .bne w a b o => some (7#3 ++ w ++ 0x29#6 ++ a ++ b ++ o)
  | .blt w a b o => some (7#3 ++ w ++ 0x2A#6 ++ a ++ b ++ o)
  | .bge w a b o => some (7#3 ++ w ++ 0x2B#6 ++ a ++ b ++ o)
  | .bltu w a b o => some (7#3 ++ w ++ 0x2C#6 ++ a ++ b ++ o)
  | .bgeu w a b o => some (7#3 ++ w ++ 0x2D#6 ++ a ++ b ++ o)
  | .jal w d o => some (7#3 ++ w ++ 0x2E#6 ++ d ++ o)
  | .jalr w d a i => some (7#3 ++ w ++ 0x2F#6 ++ d ++ a ++ i)
  | .semwait w a n => some (7#3 ++ w ++ 0x30#6 ++ 0#5 ++ a ++ n)
  | .semsig w a n => some (7#3 ++ w ++ 0x31#6 ++ 0#5 ++ a ++ n)
  | .fence w c => some (7#3 ++ w ++ 0x32#6 ++ 0#18 ++ c)
  | .brk w i => some (7#3 ++ w ++ 0x33#6 ++ i)
  | .trap w i => some (7#3 ++ w ++ 0x34#6 ++ i)
  | .nop w => some (7#3 ++ w ++ 0x35#6 ++ 0#20)
  | .lcall w d o => some (7#3 ++ w ++ 0x38#6 ++ d ++ o)
  | .lret w => some (7#3 ++ w ++ 0x39#6 ++ 0#20)
  | .ltag w t s l => some (7#3 ++ w ++ 0x3A#6 ++ t ++ 0#6 ++ s ++ 0#1 ++ l)
  | .lidx w t l => some (7#3 ++ w ++ 0x3B#6 ++ t ++ 0#12 ++ l)
  | .brb w t o => some (7#3 ++ w ++ 0x3C#6 ++ t ++ o)
  | .join w => some (7#3 ++ w ++ 0x3D#6 ++ 0#20)
  | .forkA w d o => some (0#3 ++ w ++ 0x01#6 ++ d ++ o)
  | .forkV w d o => some (0#3 ++ w ++ 0x02#6 ++ d ++ o)
  | .forkM w d o => some (0#3 ++ w ++ 0x03#6 ++ d ++ o)
  | .forkK w d o => some (0#3 ++ w ++ 0x04#6 ++ d ++ o)
  | .rdv w s => some (0#3 ++ w ++ 0x05#6 ++ 0#16 ++ s)
  | .rdvEnd w => some (0#3 ++ w ++ 0x05#6 ++ 16#20)
  | .rdvStream w => some (0#3 ++ w ++ 0x05#6 ++ 0#20)
  | .safept w => some (0#3 ++ w ++ 0x06#6 ++ 0#20)
  | .unitid w d => some (0#3 ++ w ++ 0x07#6 ++ d ++ 0#15)
  | .param w d k => some (0#3 ++ w ++ 0x08#6 ++ d ++ 0#9 ++ k)
  | .role w d => some (0#3 ++ w ++ 0x09#6 ++ d ++ 0#15)
  | .enqr w a b => some (0#3 ++ w ++ 0x0A#6 ++ 0#5 ++ a ++ b ++ 0#5)
  | .cmdpop w d => some (0#3 ++ w ++ 0x0B#6 ++ d ++ 0#15)
  | .cmdsteal w d => some (0#3 ++ w ++ 0x0C#6 ++ d ++ 0#15)
  | .gbar w g => some (0#3 ++ w ++ 0x0D#6 ++ 0#10 ++ g)
  | .qbind w q s => some (0#3 ++ w ++ 0x0E#6 ++ q ++ 0#6 ++ s ++ 0#3)
  | .qdepth w q s => some (0#3 ++ w ++ 0x0F#6 ++ 0#6 ++ q ++ s ++ 0#3)
  | .split w a b => some (0#3 ++ w ++ 0x10#6 ++ 0#5 ++ a ++ b ++ 0#5)
  | .stdim w n a b k => some (1#3 ++ w ++ 0x00#6 ++ 0#2 ++ n ++ a ++ b ++ k)
  | .stbase w n a => some (1#3 ++ w ++ 0x01#6 ++ 0#2 ++ n ++ a ++ 0#10)
  | .stgo w n r => some (1#3 ++ w ++ 0x02#6 ++ 0#2 ++ n ++ 0#14 ++ r)
  | .strst w n => some (1#3 ++ w ++ 0x03#6 ++ 0#2 ++ n ++ 0#15)
  | .tdesc w p q s => some (1#3 ++ w ++ 0x04#6 ++ p ++ q ++ s ++ 0#3)
  | .tfill w p q s => some (1#3 ++ w ++ 0x05#6 ++ p ++ q ++ s ++ 0#3)
  | .tdrain w p q s x => some (1#3 ++ w ++ 0x06#6 ++ p ++ q ++ s ++ 0#2 ++ x)
  | .tfree w p => some (1#3 ++ w ++ 0x07#6 ++ p ++ 0#14)
  | .tstate w p s => some (1#3 ++ w ++ 0x08#6 ++ p ++ 0#6 ++ s ++ 0#3)
  | .ldq w p s => some (1#3 ++ w ++ 0x09#6 ++ p ++ 0#6 ++ s ++ 0#3)
  | .stq w q s => some (1#3 ++ w ++ 0x0A#6 ++ 0#6 ++ q ++ s ++ 0#3)
  | .ld w d a b z => some (1#3 ++ w ++ 0x10#6 ++ d ++ a ++ b ++ 0#3 ++ z)
  | .ldu w d a b z => some (1#3 ++ w ++ 0x11#6 ++ d ++ a ++ b ++ 0#3 ++ z)
  | .st w d a b z => some (1#3 ++ w ++ 0x12#6 ++ d ++ a ++ b ++ 0#3 ++ z)
  | .ldl w d a b z => some (1#3 ++ w ++ 0x13#6 ++ d ++ a ++ b ++ 0#3 ++ z)
  | .ldacq w d a b c z => some (1#3 ++ w ++ 0x14#6 ++ d ++ a ++ b ++ 0#1 ++ c ++ z)
  | .strel w d a b c z => some (1#3 ++ w ++ 0x15#6 ++ d ++ a ++ b ++ 0#1 ++ c ++ z)
  | .aadd w d a b o c x => some (1#3 ++ w ++ 0x18#6 ++ d ++ a ++ b ++ o ++ c ++ x)
  | .aand w d a b o c x => some (1#3 ++ w ++ 0x19#6 ++ d ++ a ++ b ++ o ++ c ++ x)
  | .aor w d a b o c x => some (1#3 ++ w ++ 0x1A#6 ++ d ++ a ++ b ++ o ++ c ++ x)
  | .axor w d a b o c x => some (1#3 ++ w ++ 0x1B#6 ++ d ++ a ++ b ++ o ++ c ++ x)
  | .amin w d a b o c x => some (1#3 ++ w ++ 0x1C#6 ++ d ++ a ++ b ++ o ++ c ++ x)
  | .amax w d a b o c x => some (1#3 ++ w ++ 0x1D#6 ++ d ++ a ++ b ++ o ++ c ++ x)
  | .aminu w d a b o c x => some (1#3 ++ w ++ 0x1E#6 ++ d ++ a ++ b ++ o ++ c ++ x)
  | .amaxu w d a b o c x => some (1#3 ++ w ++ 0x1F#6 ++ d ++ a ++ b ++ o ++ c ++ x)
  | .aswp w d a b o c x => some (1#3 ++ w ++ 0x20#6 ++ d ++ a ++ b ++ o ++ c ++ x)
  | .acas w d a b o c x => some (1#3 ++ w ++ 0x21#6 ++ d ++ a ++ b ++ o ++ c ++ x)
  | .cpyhd w d a n => some (1#3 ++ w ++ 0x28#6 ++ d ++ a ++ 0#8 ++ n)
  | .cpyst w d n => some (1#3 ++ w ++ 0x29#6 ++ d ++ 0#13 ++ n)
  | .cpywait w a n => some (1#3 ++ w ++ 0x2A#6 ++ 0#5 ++ a ++ 0#8 ++ n)
  | .postc w a => some (1#3 ++ w ++ 0x2B#6 ++ 0#5 ++ a ++ 0#10)
  | .pref w a b => some (1#3 ++ w ++ 0x2C#6 ++ 0#5 ++ a ++ b ++ 0#5)
  | .vadd w p q r m => some (2#3 ++ w ++ 0x00#6 ++ p ++ q ++ r ++ m)
  | .vsub w p q r m => some (2#3 ++ w ++ 0x01#6 ++ p ++ q ++ r ++ m)
  | .vmul w p q r m => some (2#3 ++ w ++ 0x02#6 ++ p ++ q ++ r ++ m)
  | .vfma w p q r m => some (2#3 ++ w ++ 0x03#6 ++ p ++ q ++ r ++ m)
  | .vfms w p q r m => some (2#3 ++ w ++ 0x04#6 ++ p ++ q ++ r ++ m)
  | .vmin w p q r => some (2#3 ++ w ++ 0x05#6 ++ p ++ q ++ r ++ 0#2)
  | .vmax w p q r => some (2#3 ++ w ++ 0x06#6 ++ p ++ q ++ r ++ 0#2)
  | .vdiv w p q r m => some (2#3 ++ w ++ 0x07#6 ++ p ++ q ++ r ++ m)
  | .vabs w p q => some (2#3 ++ w ++ 0x08#6 ++ p ++ q ++ 0#8)
  | .vneg w p q => some (2#3 ++ w ++ 0x09#6 ++ p ++ q ++ 0#8)
  | .vrcp w p q m => some (2#3 ++ w ++ 0x0A#6 ++ p ++ q ++ 0#6 ++ m)
  | .vrsq w p q m => some (2#3 ++ w ++ 0x0B#6 ++ p ++ q ++ 0#6 ++ m)
  | .vexp2 w p q m => some (2#3 ++ w ++ 0x0C#6 ++ p ++ q ++ 0#6 ++ m)
  | .vlog2 w p q m => some (2#3 ++ w ++ 0x0D#6 ++ p ++ q ++ 0#6 ++ m)
  | .vcmp w p q r c => some (2#3 ++ w ++ 0x10#6 ++ p ++ q ++ r ++ c)
  | .vsel w p q r => some (2#3 ++ w ++ 0x11#6 ++ p ++ q ++ r ++ 0#2)
  | .vand w p q r => some (2#3 ++ w ++ 0x12#6 ++ p ++ q ++ r ++ 0#2)
  | .vor w p q r => some (2#3 ++ w ++ 0x13#6 ++ p ++ q ++ r ++ 0#2)
  | .vxor w p q r => some (2#3 ++ w ++ 0x14#6 ++ p ++ q ++ r ++ 0#2)
  | .vnot w p q => some (2#3 ++ w ++ 0x15#6 ++ p ++ q ++ 0#8)
  | .vshl w p q r => some (2#3 ++ w ++ 0x16#6 ++ p ++ q ++ r ++ 0#2)
  | .vshr w p q r => some (2#3 ++ w ++ 0x17#6 ++ p ++ q ++ r ++ 0#2)
  | .vsra w p q r => some (2#3 ++ w ++ 0x18#6 ++ p ++ q ++ r ++ 0#2)
  | .vadds w p q s m => some (2#3 ++ w ++ 0x19#6 ++ p ++ q ++ s ++ 0#1 ++ m)
  | .vmuls w p q s m => some (2#3 ++ w ++ 0x1A#6 ++ p ++ q ++ s ++ 0#1 ++ m)
  | .vqadd w p q r => some (2#3 ++ w ++ 0x1B#6 ++ p ++ q ++ r ++ 0#2)
  | .vqsub w p q r => some (2#3 ++ w ++ 0x1C#6 ++ p ++ q ++ r ++ 0#2)
  | .vqmul w p q r => some (2#3 ++ w ++ 0x1D#6 ++ p ++ q ++ r ++ 0#2)
  | .vqabs w p q => some (2#3 ++ w ++ 0x1E#6 ++ p ++ q ++ 0#8)
  | .vcvt w p q m => some (2#3 ++ w ++ 0x20#6 ++ p ++ q ++ 0#6 ++ m)
  | .vbmax w q => some (2#3 ++ w ++ 0x21#6 ++ 0#6 ++ q ++ 0#8)
  | .vbq w p q m => some (2#3 ++ w ++ 0x22#6 ++ p ++ q ++ 0#6 ++ m)
  | .vrsum w p q m => some (2#3 ++ w ++ 0x23#6 ++ p ++ q ++ 0#6 ++ m)
  | .vrmax w p q => some (2#3 ++ w ++ 0x24#6 ++ p ++ q ++ 0#8)
  | .vrmin w p q => some (2#3 ++ w ++ 0x25#6 ++ p ++ q ++ 0#8)
  | .vmov w p q => some (2#3 ++ w ++ 0x28#6 ++ p ++ q ++ 0#8)
  | .vbcst w p s => some (2#3 ++ w ++ 0x29#6 ++ p ++ 0#6 ++ s ++ 0#3)
  | .vperm w p q r => some (2#3 ++ w ++ 0x2A#6 ++ p ++ q ++ r ++ 0#2)
  | .vrot w p q s => some (2#3 ++ w ++ 0x2B#6 ++ p ++ q ++ s ++ 0#3)
  | .vrow w p s => some (2#3 ++ w ++ 0x2C#6 ++ p ++ 0#6 ++ s ++ 0#3)
  | .vnext w p => some (2#3 ++ w ++ 0x2D#6 ++ p ++ 0#14)
  | .vrng w p h s => some (2#3 ++ w ++ 0x2E#6 ++ p ++ 0#2 ++ h ++ s ++ 0#3)
  | .mnest w l a i => some (3#3 ++ w ++ 0x00#6 ++ 0#2 ++ l ++ a ++ 0#8 ++ i)
  | .mbind w p q => some (3#3 ++ w ++ 0x01#6 ++ p ++ q ++ 0#8)
  | .mloadb w q s k => some (3#3 ++ w ++ 0x02#6 ++ 0#6 ++ q ++ s ++ 0#2 ++ k)
  | .mbank w k => some (3#3 ++ w ++ 0x03#6 ++ 0#19 ++ k)
  | .mring w r => some (3#3 ++ w ++ 0x04#6 ++ 0#18 ++ r)
  | .mgo w => some (3#3 ++ w ++ 0x05#6 ++ 0#20)
  | .mwait w => some (3#3 ++ w ++ 0x06#6 ++ 0#20)
  | .mma w p q => some (3#3 ++ w ++ 0x07#6 ++ p ++ q ++ 0#8)
  | .mstat w d c => some (3#3 ++ w ++ 0x08#6 ++ d ++ 0#12 ++ c)
  | .mclr w => some (3#3 ++ w ++ 0x09#6 ++ 0#20)
  | .skcfg w a b m => some (4#3 ++ w ++ 0x00#6 ++ 0#5 ++ a ++ b ++ 0#4 ++ m)
  | .skclr w => some (4#3 ++ w ++ 0x01#6 ++ 0#20)
  | .skfold w p q s => some (4#3 ++ w ++ 0x02#6 ++ p ++ q ++ s ++ 0#3)
  | .skpanel w q r => some (4#3 ++ w ++ 0x03#6 ++ 0#6 ++ q ++ r ++ 0#2)
  | .skshrink w => some (4#3 ++ w ++ 0x04#6 ++ 0#20)
  | .skrank w d => some (4#3 ++ w ++ 0x05#6 ++ d ++ 0#15)
  | .sken w d => some (4#3 ++ w ++ 0x06#6 ++ d ++ 0#15)
  | .skenclr w => some (4#3 ++ w ++ 0x07#6 ++ 0#20)
  | .skrdu w p s => some (4#3 ++ w ++ 0x08#6 ++ p ++ 0#6 ++ s ++ 0#3)
  | .skrdv w p s => some (4#3 ++ w ++ 0x09#6 ++ p ++ 0#6 ++ s ++ 0#3)
  | .skrds w p => some (4#3 ++ w ++ 0x0A#6 ++ p ++ 0#14)
  | .skrow w p s => some (4#3 ++ w ++ 0x0B#6 ++ p ++ 0#6 ++ s ++ 0#3)
  | .skmrg w q r => some (4#3 ++ w ++ 0x0C#6 ++ 0#6 ++ q ++ r ++ 0#2)
  | .skscl w a => some (4#3 ++ w ++ 0x0D#6 ++ 0#5 ++ a ++ 0#10)
  | .sksave w p => some (4#3 ++ w ++ 0x0E#6 ++ p ++ 0#14)
  | .skload w q => some (4#3 ++ w ++ 0x0F#6 ++ 0#6 ++ q ++ 0#8)
  | .scsrr w d n => some (6#3 ++ w ++ 0x00#6 ++ d ++ n)
  | .scsrw w d n => some (6#3 ++ w ++ 0x01#6 ++ d ++ n)
  | .tret w => some (6#3 ++ w ++ 0x02#6 ++ 0#20)
  | .ctxbank w k => some (6#3 ++ w ++ 0x03#6 ++ 0#19 ++ k)
  | .tlbinv w a e => some (6#3 ++ w ++ 0x04#6 ++ 0#5 ++ a ++ 0#8 ++ e)
  | .halt w => some (6#3 ++ w ++ 0x05#6 ++ 0#20)
  | .wfi w => some (6#3 ++ w ++ 0x06#6 ++ 0#20)
  | .errpop w d => some (6#3 ++ w ++ 0x07#6 ++ d ++ 0#15)
  | .eccinj w a s => some (6#3 ++ w ++ 0x08#6 ++ 0#5 ++ a ++ 0#7 ++ s)
  | _ => none

end Sys2Proof
end

