-- ==== Sys2Proof/Machine/Maps.lean ====
section
/-! DEFINITION. Lists keyed by a natural number in rising order, and the small bit-field and byte helpers the other files
share. -/

namespace Sys2Proof.Machine

/-- The value listed under `k`. -/
def kfind {α : Type} : List (Nat × α) → Nat → Option α
  | [], _ => none
  | (j, x) :: l, k => if j = k then some x else if k < j then none else kfind l k

/-- The value listed under `k`, or `d` where none is. -/
def kget {α : Type} (d : α) (l : List (Nat × α)) (k : Nat) : α := (kfind l k).getD d

/-- The list with `x` under `k`. -/
def kset {α : Type} : List (Nat × α) → Nat → α → List (Nat × α)
  | [], k, x => [(k, x)]
  | (j, y) :: l, k, x =>
    if j = k then (k, x) :: l
    else if k < j then (k, x) :: (j, y) :: l
    else (j, y) :: kset l k x

/-- The list without `k`. -/
def kdel {α : Type} (l : List (Nat × α)) (k : Nat) : List (Nat × α) := l.filter (fun x => x.1 != k)

/-- The list with `f` applied under `k`, starting from `d` where `k` is not listed. -/
def kupd {α : Type} (d : α) (l : List (Nat × α)) (k : Nat) (f : α → α) : List (Nat × α) := kset l k (f (kget d l k))

/-- Bits [hi:lo] of a number. -/
def bits (n hi lo : Nat) : Nat := (n >>> lo) % (1 <<< (hi + 1 - lo))

/-- A number read little-endian from bytes. -/
def leNat : List Byte → Nat
  | [] => 0
  | b :: l => b.toNat + 256 * leNat l

/-- The `n` low bytes of a number, little-endian. -/
def leBytes : Nat → Nat → List Byte
  | 0, _ => []
  | n + 1, x => BitVec.ofNat 8 x :: leBytes n (x / 256)

/-- `n` bytes from position `i` of a list, zero past its end. -/
def slice (l : List Byte) (i n : Nat) : List Byte :=
  let t := (l.drop i).take n
  t ++ List.replicate (n - t.length) 0

/-- A little-endian number of `n` bytes at position `i`. -/
def leAt (l : List Byte) (i n : Nat) : Nat := leNat (slice l i n)

/-- Two's complement of width `w`. -/
def sgn (w n : Nat) : Int := if n % (1 <<< w) < 1 <<< (w - 1) then (n % (1 <<< w) : Nat) else ((n % (1 <<< w) : Nat) : Int) - ((1 <<< w : Nat) : Int)

/-- An integer modulo 2^64. -/
def w64 (i : Int) : W64 := BitVec.ofInt 64 i

/-- The first element that satisfies `p`, with its position. -/
def findIdx1 {α : Type} (p : α → Bool) : List α → Nat → Option (Nat × α)
  | [], _ => none
  | x :: l, i => if p x then some (i, x) else findIdx1 p l (i + 1)

/-- The list with element `i` replaced by `f` of it. -/
def modAt {α : Type} (f : α → α) : List α → Nat → List α
  | [], _ => []
  | x :: l, 0 => f x :: l
  | x :: l, i + 1 => x :: modAt f l i

/-- The list without element `i`. -/
def delAt {α : Type} : List α → Nat → List α
  | [], _ => []
  | _ :: l, 0 => l
  | x :: l, i + 1 => x :: delAt l i

/-- A row as its 256 bytes (03 R57). -/
def rowBytes (r : Row) : List Byte := leBytes 256 r.toNat

/-- The row that 256 bytes make. -/
def rowOf (l : List Byte) : Row := BitVec.ofNat 2048 (leNat l)

/-- Element `i` of width `w` bits of a row. -/
def laneOf (r : Row) (w i : Nat) : Nat := (r.toNat >>> (w * i)) % (1 <<< w)

/-- The number whose elements of width `w` are the list, first lowest. -/
def packLanes (w : Nat) : List Nat → Nat
  | [] => 0
  | x :: l => x % (1 <<< w) + (packLanes w l) <<< w

end Sys2Proof.Machine
end

