-- ==== Sys2Proof/Machine/CoreTypes.lean ====
section
/-! DEFINITION. The state of a core: engine streams, tiles, queues, data streams, the memory side of A, the M and K engines,
copy channels, context banks and the stores they share (01 R9–R28 and the chapters of the engines). Plain data. -/

namespace Sys2Proof.Machine

/-- What an engine stream is blocked on (01 R23). -/
inductive BlockKind where
  | tile | queue | sem | rdv | tick | copy | join
  deriving DecidableEq, Repr

/-- A block in force: its kind, the TVAL its watchdog would deliver (21 R350) and the tick at which it began (01 R24). -/
structure Block where
  kind  : BlockKind
  tval  : W64
  since : Nat
  deriving DecidableEq, Repr

/-- A trap as 21 R350 describes it; `code` is the imm20 of BRK or TRAP and `reason` the abort reason of 12 R290. -/
structure Trap where
  cause  : Cause
  tval   : W64
  code   : BitVec 20
  reason : BitVec 8
  deriving DecidableEq, Repr

/-- A trap held while another is handled (21 R352). -/
structure HeldTrap where
  engine : Engine
  trap   : Trap
  tpc    : W64
  deriving DecidableEq, Repr

/-- What an engine stream is doing (01 R19; 21 R347, R351, R352). -/
inductive StreamStatus where
  | idle | running | trapped | faulted | halted
  deriving DecidableEq, Repr

/-- An open lift level (10 R228). -/
structure LiftLevel where
  n    : Nat
  ret  : W64
  mask : BitVec 256
  deriving DecidableEq, Repr

/-- An entry of the join stack (10 R228); `opened` is OPEN when it was pushed. -/
structure JoinEntry where
  level   : Nat
  saved   : BitVec 256
  pc      : W64
  pmask   : BitVec 256
  pending : Bool
  opened  : Nat
  deriving DecidableEq, Repr

/-- A write that takes effect in its ready cycle (17 R293). -/
inductive PendWrite where
  | reg (d : Reg) (v : W64)
  | ireg (d : Reg) (v : W64)
  | row (idx : Nat) (v : Row)
  | queue (q : Nat) (v : Row)
  | dstream (n : Nat) (v : Row)
  | flags (v : W64)
  | done
  deriving DecidableEq, Repr

/-- A result in flight: the cycle in which it takes effect, and the tiles its word names. -/
structure Pend where
  cyc   : Nat
  wr    : PendWrite
  tiles : List Nat
  deriving DecidableEq, Repr

/-- What a V word computes, as data, so that a word whose rows come late can be held (06 R152–R167; 17 R302). VCMP keeps its condition, a
reduction its kind (0 sum, 1 maximum, 2 minimum), VMOV its source row's bytes, VRNG its key. -/
inductive VFn where
  | add | sub | mul | min | max | div
  | fma (sub : Bool)
  | abs | neg | rcp | rsq | exp2 | log2 | adds | muls
  | cmp (c : BitVec 2)
  | sel | and | or | xor | not | shl | shr | sra | qadd | qsub | qmul | qabs | cvt | bmax | bq
  | red (kind : Nat)
  | mov (bytes : Nat)
  | bcst | perm | rot
  | rng (key : W64 × W64)
  deriving DecidableEq, Repr

/-- How a word rounds (02 R39, 03 R66): RNE, RTZ (2) or stochastic (3), with the key and the counter its draws come from. -/
structure Draws where
  kind : Nat
  key  : W64 × W64
  ctr  : W64
  deriving DecidableEq, Repr

/-- What a V word computes from: formats and lengths of F and of the fields (06 R149, R160), whether td, ta, tb are tiles, the rows read, the scalar, the
scale bytes of ta's row, the scale register and the rounding. -/
structure VIn where
  f    : Nat
  l    : Nat
  fa   : Nat
  la   : Nat
  fd   : Nat
  ld   : Nat
  dt   : Bool
  ta   : Bool
  tb   : Bool
  a    : Row
  b    : Row
  d    : Row
  x    : W64
  sca  : Row
  scal : Bool
  sc   : List (Option Int)
  rnd  : Draws
  deriving DecidableEq, Repr

/-- Who is bound to a receiving queue (18 R311): queue `q` of a bank of this module, or with no bank a queue of chip `q`; `id` is the
number of the binding there. -/
structure Sender where
  bank : Option BankId
  q    : Nat
  id   : Nat
  deriving DecidableEq, Repr

/-- What an uncorrectable error found after the issue takes back (06 R170): V's pc, repetition, counts and draws as they stood, the tags that td
took (tile, level), the rows popped with whom each owes a credit, and VBMAX's scale register with what it held. -/
structure VUndo where
  pc     : W64
  lrep   : Nat
  issued : W64
  srctr  : W64
  tags   : List (Nat × Nat)
  pops   : List (Spec × Row × Option Sender)
  reg    : Option (Nat × Vector (Option Int) 4)
  deriving DecidableEq, Repr

/-- A V word that reads its rows some cycles after its issue (06 R169; 17 R302): the cycle of the read, what it computes, from what, the scratchpad
rows of ta, tb, td and the scale row, how many rows of td and of its scale tile it writes (its last results in flight, with its flags). -/
structure VLate where
  due   : Nat
  fn    : VFn
  inp   : VIn
  ra    : Option Nat
  rb    : Option Nat
  rd    : Option Nat
  rs    : Option Nat
  dests : Nat
  scs   : Nat
  undo  : VUndo
  deriving DecidableEq, Repr

/-- What had been issued at some point: results due by cycle `ready`, memory accesses below `mark`, long operations below
`ops`, the streams that stood between two repetitions of a word, with their counts of words; and the marker of the release that comes
after all that. -/
structure Mark where
  ready : Nat
  mark  : Nat
  ops   : Nat
  mid   : List (Engine × W64)
  rel   : Option Nat
  deriving DecidableEq, Repr

/-- A SEMSIG issued and not yet performed (04 R94): what must complete before it, and the marker of its release, which in V, M
and K is set once the stream's earlier words have given their rows. -/
structure PostedSig where
  sem  : Nat
  inc  : BitVec 32
  mark : Mark
  rel  : Option Nat
  deriving DecidableEq, Repr

/-- An engine stream (01 R11). `wait` is what had been issued when the word now waiting was first tried, `lock` whether the
last try of its word ended in an interlock on a result of the A stream (01 R28); `names` are the tiles of a widened word that stands between two
repetitions (`lrep` not 0) and `xset` their effective tags, fixed before the first one (10 R236); `reading` a BRB whose row comes late: its pc, the
cycle of the read (17 R302); `lift` lists the open levels, outermost first; `pend` the fixed-latency results not yet effective,
oldest first. -/
structure Stream where
  regs      : Vector W64 32
  pc        : W64
  tpc       : W64
  status    : StreamStatus
  block     : Option Block
  nextIssue : Nat
  pend      : List Pend
  rndctl    : W64
  numflags  : W64
  srctr     : W64
  stallctl  : W64
  issued    : W64
  lift      : List LiftLevel
  join      : List JoinEntry
  lrep      : Nat
  wait      : Option Mark
  lock      : Bool
  sigs      : List PostedSig
  names     : List Nat
  xset      : List (Nat × List Nat)
  reading   : Option (W64 × Nat)
  deriving DecidableEq, Repr

def Stream.reset : Stream :=
  { regs := Vector.replicate 32 0, pc := 0, tpc := 0, status := .idle, block := none, nextIssue := 0, pend := []
    rndctl := 0, numflags := 0, srctr := 0, stallctl := 0, issued := 0, lift := [], join := [], lrep := 0, wait := none
    lock := false, sigs := [], names := [], xset := [], reading := none }

/-- The state of a tile (01 R15). -/
inductive TileState where
  | empty | filling | ready | draining
  deriving DecidableEq, Repr

/-- The lift fields of a tile at one level (10 R229). -/
structure TileLift where
  t   : Bool
  b   : Nat
  acq : Option Engine
  deriving DecidableEq, Repr

/-- A tile descriptor (01 R13). `base` is a scratchpad byte address; rows 0 is the null descriptor. -/
structure Tile where
  base   : Nat
  rows   : Nat
  len    : Nat
  fmt    : Nat
  scale  : Option Nat
  cursor : Nat
  state  : TileState
  lift   : Vector TileLift 4
  deriving DecidableEq, Repr

def Tile.null : Tile :=
  { base := 0, rows := 0, len := 0, fmt := 0, scale := none, cursor := 0, state := .empty
    lift := Vector.replicate 4 ⟨false, 0, none⟩ }

/-- The sender's side of a bound queue (04 R110, R111): the peer, the rows sent whose credit is not back, the credits
returned and not yet arrived, and the rows on their way with their arrival cycle (17 R303) and their deadline (22 R371). `bank` is the peer's context bank
where it lies on this module; `id` tells this binding from earlier ones of the queue. -/
structure Binding where
  id    : Nat
  chip  : Nat
  bank  : Option BankId
  peerQ : Nat
  role  : BitVec 32
  sent  : Nat
  back  : Nat
  way   : List (Nat × Row × Nat)
  deriving DecidableEq, Repr

/-- How far a bind request has come (18 R311). -/
inductive BindStage where
  | posted | asked (answer : Option Bool) | answered (ok : Bool)
  deriving DecidableEq, Repr

/-- A bind in progress (18 R311): the number of the binding, its word, the peer, and how far it has come. -/
structure BindReq where
  id     : Nat
  word   : W64
  chip   : Nat
  unit   : Nat
  stage  : BindStage
  deriving DecidableEq, Repr

/-- An operand queue (01 R12, R17). `owed` says row by row which sender its pop returns a credit to; `reserved` counts slots
taken by words whose row has not yet arrived. -/
structure Queue where
  rows     : List Row
  owed     : List (Option Sender)
  reserved : Nat
  binding  : Option Binding
  sender   : Option Sender
  req      : Option BindReq
  deriving DecidableEq, Repr

def Queue.empty : Queue := ⟨[], [], 0, none, none, none⟩

/-- One dimension of a data stream (05 R118). -/
structure Dim where
  e : Nat
  d : Int
  deriving DecidableEq, Repr

/-- A store of the bank as its own ordinary reads still see it (11 R260 rule 1): one byte, its place in A's order, whether it has
been performed at its home, and for a row of a writing stream the stream and whether a drain handed it over, until a wait of 05 R123 shows
it. -/
structure OwnByte where
  pa   : Nat
  val  : Byte
  seq  : Nat
  done : Bool
  row  : Option (Nat × Bool)
  deriving DecidableEq, Repr

/-- A row in a data stream's buffer: its position, and for a writing stream its place in A's order of stores and whether a drain handed it
over. -/
structure BufRow where
  pos   : Nat
  row   : Row
  seq   : Nat
  drain : Bool
  deriving DecidableEq, Repr

/-- A read under way: its tick of issue, its deadline (22 R371), the count of the slice map it carries (22 R375), the lines it asks for, the
row it has read, and the cycle in which it arrives at its homes, or the row is back (17 R303). -/
structure Ask where
  due   : Nat
  tick  : Nat
  limit : Nat
  gen   : Nat
  lines : List Nat
  got   : Option Row
  deriving DecidableEq, Repr

/-- A run of a data stream (05 R118–R123): the configuration it was started with, its direction, the next position to fetch or
accept, the rows in its buffer (fetched and not delivered, or accepted and not stored), how many positions have been delivered
or accepted, the view fixed at STGO (own stores and lines held), the place of STGO in A's order, and the rows on their way, in order. A line
held that is poisoned is listed without bytes. -/
structure StreamRun where
  base  : W64
  dims  : List Dim
  write : Bool
  next  : Nat
  buf   : List BufRow
  given : Nat
  own   : List OwnByte
  lines : List (Nat × List Byte)
  seq   : Nat
  asked : List Ask
  deriving DecidableEq, Repr

structure DataStream where
  base  : W64
  dims  : List Dim
  run   : Option StreamRun
  fault : Option Trap
  deriving DecidableEq, Repr

def DataStream.reset : DataStream := ⟨0, List.replicate 5 ⟨1, 0⟩, none, none⟩

/-- A fill or drain in progress (05 R128–R131): its tile, stream, the copies of the tile it moves (the base of
each repetition, none for an inactive one), rows per repetition, the row it stands at, the positions of one repetition, and
the free option; `seq` is its place in A's order of accesses. The plain form has one copy and `lifted = false`. -/
structure Move where
  id     : Nat
  seq    : Nat
  drain  : Bool
  tile   : Nat
  stream : Nat
  rows   : Nat
  row    : Nat
  copies : List (Option Nat)
  slice  : Nat
  lifted : Bool
  free   : Bool
  deriving DecidableEq, Repr

/-- The ten atomics (05 R136). -/
inductive AtomicOp where
  | add | and | or | xor | min | max | minu | maxu | swp | cas
  deriving DecidableEq, Repr

/-- What a memory request of A does at the home (11 R248); a PREF's has no effect there. -/
inductive ReqKind where
  | ordinary
  | prefetch
  | home
  | rmw (op : AtomicOp) (operand : W64) (expect : W64)
  | storeRel (data : List Byte)
  deriving DecidableEq, Repr

/-- Where the data of a request goes when it returns: a register, a queue, the POSTC that waits to issue. -/
inductive ReqDest where
  | reg (d : Option Reg) (signed : Bool)
  | queue (q : Nat)
  | command
  | nowhere
  deriving DecidableEq, Repr

/-- A memory request of A awaiting its performance (05 R133–R137): the pieces it touches (physical address and length), its
place in A's order, the marker a release before it waits for, whether it acquires, its tick of issue and its deadline (22 R371), the count of
the slice map under which its home was computed (22 R375), and the cycle in which it reaches its home (17 R303). -/
structure MemReq where
  seq    : Nat
  kind   : ReqKind
  va     : W64
  pieces : List (Nat × Nat)
  dest   : ReqDest
  rel    : Option Nat
  acq    : Bool
  tick   : Nat
  limit  : Nat
  gen    : Nat
  pc     : W64
  due    : Nat
  deriving DecidableEq, Repr

/-- A request performed whose data has not yet returned; `due` is the cycle in which it is back (17 R303). -/
structure MemReturn where
  req  : MemReq
  data : List Byte
  due  : Nat
  deriving DecidableEq, Repr

/-- A plain write on its way home (11 R263, R265): at most one line, with the writer identity and epoch of deterministic mode, its tick of
issue and its deadline (22 R371); `due` is the cycle in which it, or its acknowledgment, arrives (17 R303). -/
structure StoreEntry where
  seq   : Nat
  pa    : Nat
  data  : List Byte
  ident : Option (Nat × Nat × Nat)
  tick  : Nat
  limit : Nat
  gen   : Nat
  due   : Nat
  deriving DecidableEq, Repr

/-- The memory side of a bank's A engine (11 R260, R263). `seq` counts A's accesses; `snap` is the sequence at the snapshot
point; `lines` the lines filled since, by line number, `badLines` those of them that carry poison (22 R379), and `copied` the bytes of
held lines that the bank's copies have written since, which its later copies read (05 R139; 18 R317); `command` the pc of a POSTC that waits to
issue and the command it has read (05 R145). -/
structure BankMem where
  seq     : Nat
  snap    : Nat
  own     : List OwnByte
  lines   : List (Nat × List Byte)
  badLines : List Nat
  copied  : List (Nat × Byte)
  reqs    : List MemReq
  returns : List MemReturn
  dirty   : List StoreEntry
  sent    : List StoreEntry
  unacked : List StoreEntry
  command : Option (W64 × List Byte)
  deriving DecidableEq, Repr

def BankMem.reset : BankMem := ⟨0, 0, [], [], [], [], [], [], [], [], [], none⟩

/-- One level of a nest (07 R179). -/
structure NestLevel where
  ext : Nat
  ast : Int
  cst : Int
  bst : Bool
  deriving DecidableEq, Repr

/-- The nest table (07 R179): six levels, bound operands, semiring 0 plus-times, 1 min-plus, 2 max-times, 3 or-and. -/
structure NestTable where
  levels : Vector NestLevel 6
  bound  : Option (Spec × Spec)
  ring   : Nat
  start  : Bool
  deriving DecidableEq, Repr

def NestTable.reset : NestTable := ⟨Vector.replicate 6 ⟨1, 0, 0, false⟩, none, 0, false⟩

/-- A failure recorded by M or K for delivery at a later word (07 R189, 09 R211); `word` says that TVAL is that word. -/
structure Failure where
  trap : Trap
  word : Bool
  deriving DecidableEq, Repr

/-- One repetition of a nest or MMA (07 R191): scratchpad bases of its copies of A, of A's scale tile and of C (read, and the
copies written). -/
structure NestRep where
  a    : Nat
  sc   : Option Nat
  c    : Nat
  dsts : List Nat
  deriving DecidableEq, Repr

/-- The live nest, or an MMA as a nest of one step (07 R183, R186). `one` holds the byte offset of A and the C vector of an
MMA; `banks` the banks it can reach; `reps` the repetition it runs and those to come; `pos` its next step; `held` the step in
the array: cycles and residue checks; `run` the C vector of the K-run with its accumulators (FP32 codes or integers);
`poisoned` which columns the run has poisoned; `written` the C vectors earlier K-runs of this repetition wrote; `waiting` the
cycle and tick at which a wait for A began; `fail` a failure and the flag bits wait for completion. -/
structure Nest where
  id       : Nat
  tab      : NestTable
  one      : Option (Nat × Nat)
  cTile    : Nat
  aSpec    : Spec
  aFmt     : Option Nat
  cFmt     : Nat
  banks    : List Bool
  reps     : List NestRep
  pos      : Nat
  total    : Nat
  nextCyc  : Nat
  held     : Option (Nat × Nat)
  fresh    : Bool
  isat     : Bool
  rtrap    : Bool
  run      : Option (Int × List Int)
  poisoned : List Nat
  written  : List (Int × List Int)
  waiting  : Option (Nat × Nat)
  flags    : Nat
  failed   : Option Failure
  deriving DecidableEq, Repr

/-- A write-back of a K-run on its way (07 R184): its rows, and how many of its elements are poisoned. -/
structure WriteBack where
  id     : Nat
  tile   : Nat
  cyc    : Nat
  rows   : List (Nat × Row)
  poison : Nat
  deriving DecidableEq, Repr

/-- A bank load waiting or running (07 R177, R178, R191): one pair of tile base and scale base per repetition to come. -/
structure BankLoad where
  id     : Nat
  bank   : Bool
  tile   : Nat
  fmt    : Nat
  rows   : Nat
  first  : Nat
  copies : List (Nat × Option Nat)
  finish : Option Nat
  deriving DecidableEq, Repr

/-- The M engine of a bank (07 R179, R187, R189, R190). -/
structure MEngine where
  shadow : NestTable
  nest   : Option Nest
  backs  : List WriteBack
  loads  : List BankLoad
  armed  : Bool
  fail   : Option Failure
  cnt    : Vector W64 8
  deriving DecidableEq, Repr

def MEngine.reset : MEngine :=
  { shadow := NestTable.reset, nest := none, backs := [], loads := [], armed := false, fail := none
    cnt := (Vector.replicate 8 0).set 3 (BitVec.allOnes 64) }

/-- A row source or sink of a K operation: a scratchpad row, a queue, a data stream or a constant row. -/
inductive RowPort where
  | spad (idx : Nat)
  | queue (q : Nat)
  | dstream (n : Nat)
  | const (r : Row)
  deriving DecidableEq, Repr

/-- An operand of a K word that gives rows in order: its specifier, the scratchpad row of its cursor in this copy, and the tile
rows from there (09 R212, R221). -/
structure KSrc where
  spec : Spec
  row0 : Nat
  left : Nat
  deriving DecidableEq, Repr

/-- The factor pair (08 R194). U and V are columns of FP32 bit patterns. -/
structure KPair where
  m      : Nat
  n      : Nat
  l      : Nat
  p      : Nat
  fd     : Bool
  k      : Nat
  u      : List (List Nat)
  v      : List (List Nat)
  canon  : Bool
  energy : Nat
  deriving DecidableEq, Repr

def KPair.reset : KPair := ⟨1, 1, 1, 1, false, 0, [], [], true, 0⟩

/-- What a K operation still has to do, in order (08 R197, R208; 09 R212–R225): take a row, turn the rows taken into a vector
of `x` elements of a tile format and length, fold the first `n` vectors held, write a row, let cycles pass, stop naming its
tiles, add to KENERGY, read a header and go on as it says, take the rows held as an image, scale V, set the pair, end a repetition (10 R244). -/
inductive KTodo where
  | take (p : RowPort)
  | vec (isU : Bool) (rows len fmt x : Nat)
  | fold (n alpha : Nat) (last : Bool)
  | give (p : RowPort) (r : Row)
  | pass (cycles : Nat)
  | release
  | head (merge same last : Bool) (a b : KSrc)
  | image
  | scale (f : Nat)
  | setPair (x : KPair)
  | clearEnergy
  | commit
  deriving DecidableEq, Repr

/-- A K operation in progress (08 R206, 09 R211): the tiles it names, the pair as it will stand, what is still to do, rows and
vectors taken, flags, those of them that its whole repetitions have raised, the cycle until which its time runs, since when (cycle, tick) it waits for a row, whether it reads
the pair, and whether it clears KERR. -/
structure KOp where
  id     : Nat
  tiles  : List Nat
  work   : KPair
  todo   : List KTodo
  got    : List Row
  us     : List (List Nat)
  vs     : List (List Nat)
  flags  : Nat
  kept   : Nat
  busy   : Nat
  since  : Option (Nat × Nat)
  reads  : Bool
  clears : Bool
  deriving DecidableEq, Repr

/-- The K engine of a bank (08 R194, R207; 09 R211). KERR is set while `err` holds the byte offset of the error in the store. -/
structure KEngine where
  pair : KPair
  err  : Option Nat
  op   : Option KOp
  fail : Option Failure
  deriving DecidableEq, Repr

def KEngine.reset : KEngine := { pair := KPair.reset, err := none, op := none, fail := none }

/-- A transfer record as read (05 R138): its address, and the next record's (0 for none). -/
structure Record where
  va    : W64
  next  : W64
  src   : W64
  dst   : W64
  e     : List Nat
  ss    : List Int
  ds    : List Int
  flags : Nat
  seqNo : Nat
  preds : List Nat
  sem   : Nat
  deriving DecidableEq, Repr

/-- A chain in a channel's head queue (05 R140): its number in the unit's CPYHD order, the place of that CPYHD in A's order of
accesses, where its walk stands, the cycle from which its next record can be asked for, and the request for that. -/
structure Chain where
  order : Nat
  seq   : Nat
  pos   : W64
  start : Nat
  ask   : Option Ask
  deriving DecidableEq, Repr

/-- What a run of a record has still to write: its source address, with ACQ the pieces of its source, which it reads at their homes when it writes (11
R257, R259), the pieces of its destination and without ACQ their bytes; its tick, its deadline (22 R371) and the count of the slice map it
carries (22 R375). -/
structure OutRun where
  va    : W64
  src   : List (Nat × Nat)
  dst   : List (Nat × Nat)
  data  : List Byte
  tick  : Nat
  limit : Nat
  gen   : Nat
  deriving DecidableEq, Repr

/-- An accepted record (05 R140, 18 R317): `start` is the cycle in which its channel has it or starts it, `limit` the deadline of what it
asks for from there (22 R371) and `gen` the count of the slice map which that carries (22 R375), `ready` the cycle before which what it
has read cannot be at the homes it goes to (17 R303); its transfer ID, its chain's numbers, the segments it touches (21 R358), how many of
its runs have been performed, what they have still to write, which reaches the homes in one
piece (05 R144), and in deterministic mode whether it has passed its check (18 R317). -/
structure Accepted where
  id    : Nat
  order : Nat
  seq   : Nat
  xfer  : Record
  segs  : List Nat
  runs  : Nat
  out   : List OutRun
  verdict : Option Bool
  start : Nat
  limit : Nat
  gen   : Nat
  ready : Nat
  deriving DecidableEq, Repr

/-- A copy channel (05 R138–R143). `running` holds the record being performed; `fault` the page fault it waits on. -/
structure Channel where
  heads    : List Chain
  ready    : List Accepted
  running  : Option Accepted
  complete : Nat
  nextId   : Nat
  fail     : Option Failure
  fault    : Option Nat
  deriving DecidableEq, Repr

def Channel.reset : Channel := ⟨[], [], none, 0, 1, none, none⟩

/-- An entry of the overlap checker (18 R319): `state` is none while the record runs, else whether it completed; an interval of
none is every address. -/
structure CheckEntry where
  seqNo : Nat
  ch    : Nat
  id    : Nat
  order : Nat
  state : Option Bool
  src   : Option (Nat × Nat)
  dst   : Option (Nat × Nat)
  preds : List Nat
  deriving DecidableEq, Repr

/-- A bind record (20 R334). -/
structure BindRecord where
  launch : BitVec 32
  unit   : BitVec 20
  desc   : W64
  params : W64
  ctx    : BitVec 16
  spad   : BitVec 16
  fst    : BitVec 20
  cim    : BitVec 2
  valid  : Bool
  resume : Bool
  deriving DecidableEq, Repr

def BindRecord.reset : BindRecord := ⟨0, 0, 0, 0, 0, 0, 0, 0, false, false⟩

/-- How a unit ends (20 R333). -/
inductive EndStatus where
  | complete | cancelled | failed | lost
  deriving DecidableEq, Repr

/-- A bank's unit: none, running, pre-empted and left in the bank, or ending once issued work completes. -/
inductive Phase where
  | free | running | preempted | ending (st : EndStatus)
  deriving DecidableEq, Repr

/-- Who met a fault or asked for a walk (21 R348, source codes): a command processor for a queue, or for a node of a graph run that the
queue triggered. -/
inductive Source where
  | aStream (b : BankId)
  | dstream (b : BankId) (n : Nat)
  | fill (b : BankId) (n : Nat)
  | drain (b : BankId) (n : Nat)
  | chan (b : BankId) (ch : Nat)
  | coll (p : CollId)
  | dispatch (b : BankId)
  | queue (q : Nat)
  | node (run node q : Nat)
  deriving DecidableEq, Repr

/-- A page fault a bank waits on (21 R346, R347): its fault id, the faulting page's VA, who met it, and whether it has been
refused; a retry removes it. -/
structure BankFault where
  id      : Nat
  va      : W64
  src     : Source
  refused : Bool
  deriving DecidableEq, Repr

/-- GBAR that has arrived (04 R109): the group, the count it waits for, and whether it has been completed. -/
structure GbarWait where
  group  : Nat
  target : Nat
  passed : Bool
  deriving DecidableEq, Repr

/-- WFI waiting (21 R365): the context's changes and the fault-address entries counted when it began, the tick it began at, and
whether something has woken it. -/
structure WfiWait where
  changes : Nat
  faq     : Nat
  since   : Nat
  woken   : Bool
  deriving DecidableEq, Repr

/-- A context bank (01 R27). `runnable` says that its unit can run when the bank is active, `back` that it has become runnable
since it was left (R28). `vpair` is what a VBMAX with W = 0 read in its cycle, for the word
that may pair with it (06 R162); `gkept` holds arrivals of other groups, which a watchdog has interrupted; `late` the V words that have still to read their rows. `csave` keeps C's pc, LREP and its tags while a trap is handled (21 R352, 10 R244); `waited` holds the copy-order knowledge of
18 R318. `yielded` belongs to a pre-empted unit: the marker of the release it performs (11 R256), and whether it gave way at its
RDV.end. -/
structure Bank where
  bindRec  : BindRecord
  phase    : Phase
  runnable : Bool
  back     : Bool
  faults   : List BankFault
  preempt  : Option Nat
  budget   : Nat
  cancel   : Bool
  text     : List W32
  textBase : W64
  textLen  : Nat
  params   : List W64
  wdog     : Nat
  residue  : Bool
  c        : Stream
  a        : Stream
  v        : Stream
  m        : Stream
  k        : Stream
  tcause   : W64
  tpcReg   : W64
  tval     : W64
  tvec     : W64
  cpc      : W64
  held     : List HeldTrap
  cycles   : W64
  tiles    : Vector Tile 32
  queues   : Vector Queue 16
  dstreams : Vector DataStream 8
  moves    : List Move
  sc       : Vector (Vector (Option Int) 4) 4
  wi       : Nat
  vpair    : Option (Nat × Nat × List Nat × VLate)
  late     : List VLate
  mem      : BankMem
  mEng     : MEngine
  kEng     : KEngine
  chans    : Vector Channel 4
  check    : List CheckEntry
  waited   : List (Nat × Nat × Nat)
  orders   : Nat
  opSeq    : Nat
  inbound  : List W64
  arrivals : List (Nat × Nat × W64)
  gbar     : Option GbarWait
  gkept    : List GbarWait
  gcount   : List (Nat × Nat)
  splits   : List (Nat × BitVec 16)
  epoch    : Nat
  wfi      : Option WfiWait
  csave    : W64 × Nat × List (Nat × List Nat)
  badWalks : List (Nat × Source)
  yielded  : Option (Nat × Bool)
  deriving DecidableEq, Repr

def Bank.reset : Bank :=
  { bindRec := BindRecord.reset, phase := .free, runnable := false, back := false, faults := [], preempt := none, budget := 0, cancel := false
    text := [], textBase := 0, textLen := 0, params := [], wdog := 1048576, residue := false
    c := Stream.reset, a := Stream.reset, v := Stream.reset, m := Stream.reset, k := Stream.reset
    tcause := 0, tpcReg := 0, tval := 0, tvec := 0, cpc := 0, held := [], cycles := 0
    tiles := Vector.replicate 32 Tile.null, queues := Vector.replicate 16 Queue.empty
    dstreams := Vector.replicate 8 DataStream.reset, moves := []
    sc := Vector.replicate 4 (Vector.replicate 4 none), wi := 0, vpair := none, late := []
    mem := BankMem.reset, mEng := MEngine.reset, kEng := KEngine.reset, chans := Vector.replicate 4 Channel.reset
    check := [], waited := [], orders := 0, opSeq := 0, inbound := [], arrivals := [], gbar := none, gkept := [], gcount := [], splits := []
    epoch := 0, wfi := none, csave := (0, 0, []), badWalks := [], yielded := none }

/-- A CIM bank (07 R174): format code or none; per K-row the aligned values of its 512 columns; per K-block and column the
block exponent, MX scale exponent and poison (0 clean, 1 by a NaN or a scale of 0xFF, 2 by Inf alone: log entry 12); per K-row
the check value. Only what is not zero is listed. -/
structure CimBank where
  fmt    : Option Nat
  rows   : List (Nat × List Int)
  blocks : List (Nat × List (Int × Int × Nat))
  checks : List (Nat × Nat)
  owner  : Option (BitVec 16)
  deriving DecidableEq, Repr

def CimBank.reset : CimBank := ⟨none, [], [], [], none⟩

/-- A TLB entry (05 R117, 21 R344): context, page number of 64 KiB or of 2 MiB, its frame, and the R, W, X bits. A frame in
coherent host memory names the IOVA it was translated from. -/
structure TlbEntry where
  ctx   : Nat
  large : Bool
  page  : Nat
  frame : Nat
  iova  : Option Nat
  r     : Bool
  w     : Bool
  x     : Bool
  deriving DecidableEq, Repr

/-- An armed injection (21 R367): the store number, the byte address in that store, and whether it is uncorrectable. -/
structure Injection where
  store : Nat
  addr  : Nat
  hard  : Bool
  deriving DecidableEq, Repr

/-- A core (01 R8, R27). `switching` is the cycle in which a bank switch ends, `want` that a safe point has asked for one (R28); `replies` are
those on their way to its copy channels: the cycle, how many, their deadline (17 R303; 22 R373). -/
structure Core where
  active    : Bool
  switching : Option Nat
  want      : Bool
  bank0     : Bank
  bank1     : Bank
  spad      : List (Nat × Row)
  spadOwner : List (Nat × BitVec 16)
  fstOwner  : List (Nat × BitVec 16)
  cim0      : CimBank
  cim1      : CimBank
  tlb       : List TlbEntry
  inj       : List Injection
  usable    : Bool
  resetting : Bool
  retained  : BitVec 16
  lastUse   : List (Nat × Nat)
  redir     : Nat × Nat
  tap       : Nat × Nat
  replies   : List (Nat × Nat × Nat)
  deriving DecidableEq, Repr

def Core.reset : Core :=
  { active := false, switching := none, want := false, bank0 := Bank.reset, bank1 := Bank.reset, spad := [], spadOwner := [], fstOwner := []
    cim0 := CimBank.reset, cim1 := CimBank.reset, tlb := [], inj := [], usable := true, resetting := false
    retained := 0, lastUse := [], redir := (0, 0), tap := (0, 0), replies := [] }

end Sys2Proof.Machine
end

