-- ==== Sys2Proof/Machine/State.lean ====
section
/-! DEFINITION. The state of the module as plain data, its reset, and the reasons a step can stop. Fields not named by the
spec but by the model: agenda, cur, cycle, freeCtr (log entries 1, 2 and 5). -/

namespace Sys2Proof.Machine

/-- What moves next: the word at the head of an engine stream of a core's active bank, or a step of the table that has no
encoding (log entry 1). -/
inductive Agendum where
  | issue (core : Nat) (e : Engine)
  | event (i : Instr)
  deriving DecidableEq, Repr

/-- Who is issuing: bank, engine, and the word fetched. -/
structure Current where
  bank   : BankId
  engine : Engine
  word   : W32
  deriving DecidableEq, Repr

/-- A semaphore (04 R92); `why` is the reason of the abort that set its error bit (12 R290). -/
structure Sem where
  val : BitVec 32
  err : Bool
  why : BitVec 8
  deriving DecidableEq, Repr

/-- A context (20 R333, 21 R340, R341). `matched` counts the matches of a collective group (12 R278); `changes` and `errs`
count semaphore changes and error records, which WFI watches (21 R365). -/
structure Ctx where
  registered : Bool
  gen        : BitVec 16
  desc       : W64
  keys       : List (W64 × W64)
  det        : Bool
  priv       : Bool
  ptroot     : Nat
  eqbase     : Nat
  eqlog2     : Nat
  eqcount    : Nat
  pbudget    : Nat
  segtab     : Nat
  nseg       : Nat
  traceVa    : W64
  traceLen   : Nat
  groupVa    : W64
  traceW     : Nat
  replays    : Nat
  overruled  : W64
  sems       : List (Nat × Sem)
  matched    : List (Nat × BitVec 64 × Nat)
  changes    : Nat
  deriving DecidableEq, Repr

def Ctx.reset : Ctx :=
  { registered := false, gen := 0, desc := 0, keys := [], det := false, priv := false, ptroot := 0, eqbase := 0, eqlog2 := 5
    eqcount := 0, pbudget := 0, segtab := 0, nseg := 0, traceVa := 0, traceLen := 0, groupVa := 0, traceW := 0, replays := 0
    overruled := 0, sems := [], matched := [], changes := 0 }

/-- A rank entry of the group binding table (18 R306). -/
structure RankEntry where
  chip  : Nat
  core  : Nat
  unit  : Nat
  bound : Bool
  deriving DecidableEq, Repr

/-- A role group (18 R306). -/
structure Group where
  num   : Nat
  ranks : List RankEntry
  deriving DecidableEq, Repr

/-- Where a unit of a launch stands (20 R334). -/
inductive UnitState where
  | waiting | bound (b : BankId) | placed (b : BankId) | ended (st : EndStatus)
  deriving DecidableEq, Repr

/-- Whether a unit has not started. -/
def UnitState.unstarted : UnitState → Bool
  | .waiting | .bound _ => true
  | .placed _ | .ended _ => false

/-- What started a launch or collective: a packet of a queue, a node of a graph run, or a unit (20 R328, R337). -/
inductive Origin where
  | queue (q : Nat) (pkt : Nat)
  | graph (run : Nat) (node : Nat)
  | unit (launch : Nat)
  deriving DecidableEq, Repr

/-- A launch (20 R329–R336). `units` lists the units placed on this chip, `binds` the bind requests of other chips held for units not
yet dispatched, with the queue each names (19 R322). -/
structure Launch where
  ctx     : Nat
  desc    : W64
  paramVa : W64
  params  : List W64
  text    : W64
  textLen : Nat
  entry   : Nat
  tiles   : List (List Byte)
  streams : List (List Byte)
  spad    : BitVec 16
  fst     : BitVec 20
  cim     : BitVec 2
  rnd     : W64
  stallck : Bool
  residue : Bool
  wdog    : Nat
  srctr   : W64
  units   : List (Nat × UnitState)
  binds   : List (RemoteBind × Nat)
  groups  : List Group
  ssbase  : W64
  plan    : List (Nat × BitVec 16)
  barrier : List (Nat × Nat)
  crec    : W64
  ssem    : Nat
  sinc    : Nat
  dkey    : BitVec 32
  origin  : Origin
  stage   : Option Nat
  job     : Nat
  count   : Nat
  lost    : Nat
  first   : Option Cause
  killed  : Bool
  cancel  : Bool
  dropped : Nat
  async   : Option (List Byte)
  done    : Bool
  deriving DecidableEq, Repr

/-- What a queue holds on (20 R328, R329, R331). -/
inductive QueueHold where
  | sem (n : Nat) (v : BitVec 32)
  | tick (t : W64)
  | fault (id : Nat)
  deriving DecidableEq, Repr

/-- A CANCEL packet that has started: what its word named and had not completed then (20 R329). -/
structure CancelWait where
  pkt      : Nat
  launches : List Nat
  runs     : List Nat
  colls    : List CollId
  deriving DecidableEq, Repr

/-- A work queue (20 R326–R331). `stage` is the stage a TIMED packet opened, `active` the packets started and not completed, `cancels`
the CANCEL packets among them. -/
structure WorkQueue where
  base   : W64
  job    : Nat
  ctx    : Nat
  cp     : Nat
  en     : Bool
  log2   : Nat
  wptr   : W64
  rptr   : W64
  code   : Nat
  err    : Bool
  qerr   : W64
  lid    : W64
  hold   : Option QueueHold
  stage  : Option Nat
  active : List Nat
  cancels : List CancelWait
  deriving DecidableEq, Repr

def WorkQueue.reset : WorkQueue :=
  { base := 0, job := 0, ctx := 0, cp := 0, en := false, log2 := 12, wptr := 0, rptr := 0, code := 0, err := false, qerr := 0
    lid := 0, hold := none, stage := none, active := [], cancels := [] }

/-- A graph run (20 R337): slot, context, image, patches, the nodes started and ended, where it was triggered; the nodes whose reads wait
on a page fault, with its id, and those whose reads were refused. -/
structure GraphRun where
  slot    : Nat
  ctx     : Nat
  image   : List Byte
  patches : List (Nat × Nat × W64)
  started : List Nat
  ended   : List Nat
  faults  : List (Nat × Nat)
  refused : List Nat
  count   : Nat
  origin  : Option (Nat × Nat)
  stage   : Option Nat
  job     : Nat
  first   : Option Cause
  killed  : Bool
  cancel  : Bool
  async   : Option (List Byte)
  done    : Bool
  deriving DecidableEq, Repr

/-- A stage (20 R330, 01 R20): queues that hold it open, launches and runs scheduled and not complete. -/
structure Stage where
  opened : List Nat
  open_  : Nat
  deriving DecidableEq, Repr

/-- A fault reported and not answered (21 R348, R349). -/
structure PendingFault where
  id    : Nat
  ctx   : Nat
  gen   : BitVec 16
  va    : W64
  write : Bool
  srcs  : List (Source × W64)
  deriving DecidableEq, Repr

/-- Who waits for a walk: the source, whether it writes, and the address it reached for. -/
structure WalkReq where
  src   : Source
  write : Bool
  va    : W64
  deriving DecidableEq, Repr

/-- A walk of a die's walker (21 R344): context, page, who waits, whether it waits for
the host (`some iova`), whether the host is asked for the page (R345), and the tick at which it started. -/
structure Walk where
  ctx  : Nat
  page : Nat
  reqs : List WalkReq
  ats  : Option Nat
  pri  : Bool
  since : Nat
  deriving DecidableEq, Repr

/-- A cached ATS answer (21 R345): the page that asked for it, the IOVA and the host frame. -/
structure AtsEntry where
  ctx   : Nat
  page  : Nat
  iova  : Nat
  frame : Nat
  deriving DecidableEq, Repr

/-- An ATS invalidation whose completion is still to be sent (21 R345): the IOVA, the contexts and pages whose translations it dropped,
and the tick. -/
structure AtsInval where
  iova  : Nat
  pages : List (Nat × Nat)
  since : Nat
  deriving DecidableEq, Repr

/-- A running migration (21 R359): context, segment, new base, and the tick at which its entries were invalidated. -/
structure Migration where
  ctx   : Nat
  seg   : Nat
  dst   : Nat
  since : Nat
  deriving DecidableEq, Repr

/-- A change of a slice's way mask under way (04 R113, 18 R314): the new mask, its end cycle, and the unit and epoch that
posted it. -/
structure SplitChange where
  mask  : BitVec 16
  until_ : Nat
  unit  : Nat
  epoch : Nat
  deriving DecidableEq, Repr

/-- An L2 slice (18 R312–R314, 22 R375): its shared-scratch way mask, the changes under way in the order they began, the launch whose
plan holds it, and whether it is retired. -/
structure Slice where
  ways    : BitVec 16
  changes : List SplitChange
  owner   : Option Nat
  retired : Bool
  deriving DecidableEq, Repr

def Slice.reset : Slice := ⟨0, [], none, false⟩

/-- The deterministic-mode tag of a sector (11 R266). -/
structure SectorTag where
  launch : Nat
  epoch  : Nat
  ident  : Nat
  deriving DecidableEq, Repr

/-- Who waits for a home that holds its request, or for the host (22 R371, R373): a party that translates, the record that
a copy channel performs, a walk of a die, a request for an ATS answer, a line of the management complex or one that it migrates, Helmal that reads a graph's
image. -/
inductive Asker where
  | source (x : Source)
  | record (b : BankId) (ch : Nat)
  | walk (requester page : Nat)
  | ats (iova : Nat)
  | mgmt (line : Nat)
  | move (line : Nat)
  | upload
  deriving DecidableEq, Repr

/-- A request of such a party: its deadline (22 R371), the cycle in which it reached its home, the line that is held there, and the cycle in
which the hold alone last kept it. -/
structure Asked where
  who   : Asker
  limit : Nat
  cycle : Nat
  line  : Option Nat
  last  : Nat
  deriving DecidableEq, Repr

/-- An access that nobody asks for anew and that waits at its home while that holds it: a write of firmware or of a scheduler, an access of
the host (22 R376; 24), a scrub read with what the channel finds, a context descriptor to be read. -/
inductive LateOp where
  | write (pa : Nat) (data : List Byte)
  | cxl (addr n : Nat) (data : Option (List Byte))
  | scrub (addr : Nat) (o : EccOutcome)
  | ctxdesc (ctx : Nat) (desc : W64)
  deriving DecidableEq, Repr

/-- Such an access with the cycle of its arrival and its deadline. -/
structure Waiting where
  op    : LateOp
  cycle : Nat
  limit : Nat
  deriving DecidableEq, Repr

/-- A byte that a store of a bank after the STGO of its stream has replaced at home: what a first fill of the stream shows there (05 R123). -/
structure Shadow where
  bank   : BankId
  stream : Nat
  run    : Nat
  pa     : Nat
  old    : Byte
  deriving DecidableEq, Repr

/-- A hold that has ended (22 R375, R378): the line that was rebuilt or the buckets that moved, and the cycle in which it ended: what
had arrived by then is served in the order of its arrival. -/
structure PastHold where
  line    : Option Nat
  buckets : List Nat
  cycle   : Nat
  deriving DecidableEq, Repr

/-- A mirror range (22 R376). -/
structure Mirror where
  base : W64
  tier : W64
  len  : W64
  deriving DecidableEq, Repr

/-- The memory system (18, 22): every byte, poisoned lines, sector tags, slices; the slice map by bucket where firmware has
changed it, the count of its changes (GEN is its low 16 bits) and for each bucket the count at which it last moved; the buckets
moving with the slice they leave, and retirements that wait for their conditions (22 R375); deadlines and misses, and requests that take
longer than a step; the fault-address queue with how many entries it has gained;
corrected events per page, last counted first (R380); the bad-page list; protection and mirrors with their dirty lines; lines
being rebuilt; accesses that wait at their homes, the holds that have ended, and what reading streams still see of bytes replaced at home. -/
structure MemSys where
  cells    : List Host.Cell
  poison   : List Nat
  tags     : List (Nat × SectorTag)
  slices   : List (Nat × Slice)
  smap     : List (Nat × Nat)
  gen      : Nat
  moved    : List (Nat × Nat)
  moving   : Option (Nat × List Nat)
  retire   : List Nat
  rehash   : W64
  dlb      : Vector (BitVec 32) 4
  miss     : List (Nat × Nat)
  asked    : List Asked
  faq      : List W64
  faqLost  : W64
  faqCount : Nat
  events   : List (Nat × Nat)
  badPages : List W64
  bpLost   : W64
  cwd      : W64
  protmap  : List (Nat × W64)
  mirrors  : List (Nat × Mirror)
  mirDirty : List Nat
  rebuilds : List Nat
  queued   : List Waiting
  past     : List PastHold
  shadow   : List Shadow
  deriving DecidableEq, Repr

def MemSys.reset : MemSys :=
  { cells := [], poison := [], tags := [], slices := [], smap := [], gen := 0, moved := [], moving := none, retire := [], rehash := 0
    dlb := #v[400, 2000, 20000, 400000], miss := [], asked := [], faq := [], faqLost := 0, faqCount := 0, events := [], badPages := [], bpLost := 0
    cwd := 0, protmap := [], mirrors := [], mirDirty := [], rebuilds := [], queued := [], past := [], shadow := [] }

/-- The tick and the domain (12 R269–R272, 24 R391, R392): `members` gives the hops to each other chip, `route` the largest route between two chips of the domain; `debt` and `jump` are the ticks
that correction holds back or skips; `hasSet` says that a join has set the counter; `port` holds the settings of the 1588 clock. -/
structure TimeState where
  tick    : W64
  ptp     : Bool
  joined  : Bool
  chip    : BitVec 16
  members : List (Nat × Nat)
  horizon : Nat
  route   : Nat
  debt    : Nat
  jump    : Nat
  offset  : Int
  badSync : Nat
  okSync  : Nat
  lastSync : Nat
  hasSet  : Bool
  alarm   : Bool
  port    : PtpPort
  deriving DecidableEq, Repr

def TimeState.reset : TimeState :=
  { tick := 0, ptp := false, joined := false, chip := 0, members := [], horizon := 4096, route := 0, debt := 0, jump := 0, offset := 0
    badSync := 0, okSync := 0, lastSync := 0, hasSet := false, alarm := false, port := PtpPort.default }

/-- The states of a posted collective (12 R281); DONE frees the entry. -/
inductive CollState where
  | waiting | notified | ticketed | started
  deriving DecidableEq, Repr

/-- An entry of the posted-collective table (12 R279–R281): the match, the command, the launch id and unit word of the poster
(0 for a host), what posted it, its ticket, the tick of its last progress, the page fault it waits on, the segments it touches,
whether its data has been moved, the stage it belongs to, where a unit posted it its bank and the place of the POSTC in A's order
(11 R250), which of its context's replayed reductions it is once it has started (12 R288), and what the other members have sent of
its data. -/
structure CollEntry where
  id     : CollId
  cmd    : List Byte
  launch : Nat
  unit   : Nat
  origin : Origin
  state  : CollState
  no     : Option TicketNo
  since  : Nat
  fault  : Option Nat
  segs   : List Nat
  wrote  : Bool
  stage  : Option Nat
  place  : Option (BankId × Nat)
  turn   : Option Nat
  got    : Option Contributions
  deriving DecidableEq, Repr

/-- What the module sends to other chips: the escapement's messages, to itself among them (12 R280), and its part of a transfer;
bind requests, their ends and their answers, and the rows and credits of bound queues, each with the number of the binding at its
sender (04 R111; 18 R311; 19 R322). -/
inductive OutMsg where
  | notice (m : NoticeMsg)
  | ticket (m : TicketMsg)
  | abort (m : AbortMsg)
  | data (p : CollId) (d : List Byte)
  | bind (chip : Nat) (role : BitVec 32) (q : BitVec 4) (id : Nat)
  | unbind (chip id : Nat)
  | bound (chip id : Nat) (ok : Bool)
  | row (chip id : Nat) (r : Row)
  | credit (chip id : Nat)
  deriving DecidableEq, Repr

/-- The escapement (12 R278–R291): the table in posting order; as an anchor the notices held, the count of tickets issued and
the tick of the last; the highest ticket started; what has been sent; collectives whose translation was refused; as an anchor the tickets issued for
matches that are not over; ABORTs received for matches that this chip has not posted. -/
structure Escapement where
  table    : List CollEntry
  notices  : List (CollId × Nat × Digest)
  seqNo    : Nat
  last     : Option Nat
  top      : Option TicketNo
  out      : List OutMsg
  refused  : List CollId
  issued   : List TicketMsg
  aborted  : List AbortMsg
  deriving DecidableEq, Repr

def Escapement.reset : Escapement := ⟨[], [], 0, none, none, [], [], [], []⟩

/-- The power states of 24 R387. -/
inductive PowerState where
  | run | light | retention | off
  deriving DecidableEq, Repr

/-- What the management complex reports (24 R386, R390, R392). -/
inductive MgmtNote where
  | ageing (strip : Nat)
  | ptpAlarm
  | thermtrip
  deriving DecidableEq, Repr

/-- What the module answers to an SPDM request (24 R394); values the spec leaves open are numbers (log entry 5). -/
inductive SpdmAnswer where
  | version (major minor : Nat)
  | capabilities (keyExchange session : Bool)
  | algorithms (rsassa4096 sha512 : Bool)
  | digests (slot0 : BitVec 512)
  | certificate (slot : Nat) (chain : List Byte)
  | challengeAuth (nonce : BitVec 256) (signature : Nat)
  | measurements (blocks : List (Nat × BitVec 512))
  | error
  deriving DecidableEq, Repr

/-- The fleet side (24). Strips are named by 24·die + physical position (R385), core strips of `clock`, `volts` and `limit` by
16·die + strip: the clock in MHz, the 5 mV steps its voltage was raised by, and the highest clock a re-plan leaves it. `over` and `cool`
count samples over the cap with every strip at 900 MHz, and samples below the raising bound; `lastBusy` and `lastCxl` are the
ticks of the last use. `sinceSample`, `sinceMonitor` and `sincePlan` are the ticks since firmware's last sample, reading of the monitors and
re-plan; `unplanned` lists the strips the present re-plan has not come to, `planning` names the one it is at. `staged` waits for the
next reset; `inEffect` is the image last put into effect, `images` counts those. `cxlReads` lists what the host's reads returned, each its address, bytes
and whether it completed with poison. -/
structure Fleet where
  powered  : Bool
  ltol     : BitVec 32
  pcap     : BitVec 16
  modpwr   : BitVec 32
  resmis   : W64
  ageseq   : W64
  strips   : List (Nat × PowerState)
  dies     : List (Nat × PowerState)
  module   : PowerState
  clock    : List (Nat × Nat)
  volts    : List (Nat × Nat)
  limit    : List (Nat × Nat)
  overCnt  : Nat
  cool     : Nat
  sinceSample  : Nat
  sinceMonitor : Nat
  sincePlan    : Nat
  unplanned    : List Nat
  planning     : Option Nat
  lastBusy : List (Nat × Nat)
  lastCxl  : Nat
  pretry   : List (Nat × W64)
  plate    : List (Nat × W64)
  fwstat   : Nat
  image    : W64
  staged   : Option FirmwareCheck
  inEffect : Option FirmwareCheck
  images   : Nat
  cxlReads : List (Nat × List Byte × Bool)
  spdm     : List SpdmAnswer
  mlog     : List MgmtNote
  msix     : List Nat
  deriving DecidableEq, Repr

def Fleet.reset : Fleet :=
  { powered := true, ltol := 0, pcap := 8000, modpwr := 0, resmis := 0, ageseq := 0, strips := [], dies := [], module := .run
    clock := [], volts := [], limit := [], overCnt := 0, cool := 0, sinceSample := 0, sinceMonitor := 0, sincePlan := 0, unplanned := [], planning := none, lastBusy := [], lastCxl := 0, pretry := [], plate := []
    fwstat := 0, image := 0, staged := none, inEffect := none, images := 0, cxlReads := [], spdm := [], mlog := [], msix := [] }

/-- Host-facing and scheduler state (20, 21); `invalOut` lists the ATS invalidation completions sent (R345), `early` the bind requests of
other chips for launches that have not started here (19 R322). -/
structure HostState where
  queues   : List (Nat × WorkQueue)
  jobcnt   : List (Nat × W64)
  stagecnt : List (Nat × W64)
  jobfail  : List (Nat × W64)
  stagefail : List (Nat × W64)
  launches : List (Nat × Launch)
  nextId   : Nat
  graphs   : List (Nat × List Byte)
  upload   : Option (Nat × W64)
  gupstat  : Nat
  runs     : List (Nat × GraphRun)
  nextRun  : Nat
  stages   : List (Nat × Stage)
  turn     : List (Nat × Nat)
  ctxnum   : BitVec 16
  fring    : W64
  frcount  : W64
  lateans  : W64
  nextFault : Nat
  faults   : List PendingFault
  migseg   : W64
  migstat  : Nat
  mig      : Option Migration
  walks    : List (Nat × Walk)
  ats      : List AtsEntry
  iotlb    : List TlbEntry
  invals   : List AtsInval
  invalOut : List Nat
  badQueues : List Nat
  early    : List (RemoteBind × Nat)
  deriving DecidableEq, Repr

def HostState.reset : HostState :=
  { queues := [], jobcnt := [], stagecnt := [], jobfail := [], stagefail := [], launches := [], nextId := 1, graphs := []
    upload := none, gupstat := 0, runs := [], nextRun := 0, stages := [], turn := [], ctxnum := 0, fring := 7, frcount := 0
    lateans := 0, nextFault := 0, faults := [], migseg := 0, migstat := 0, mig := none, walks := [], ats := [], iotlb := [], invals := [], invalOut := [], badQueues := [], early := [] }

/-- The whole module. -/
structure State where
  agenda  : List Agendum
  cur     : Current
  cycle   : Nat
  freeCtr : Nat
  cores   : List (Nat × Core)
  ctxs    : List (Nat × Ctx)
  host    : HostState
  mem     : MemSys
  time    : TimeState
  esc     : Escapement
  fleet   : Fleet
  deriving DecidableEq, Repr

/-- The module right after reset: powered, every core empty, nothing registered, memory listing nothing. -/
def State.reset : State :=
  { agenda := [], cur := ⟨⟨0, false⟩, .C, 0⟩, cycle := 0, freeCtr := 0, cores := [], ctxs := [], host := HostState.reset
    mem := MemSys.reset, time := TimeState.reset, esc := Escapement.reset, fleet := Fleet.reset }

/-- Why the machine stops. -/
inductive Fault where
  /-- Raised by `step` alone, when power has been removed (24 R386, R387). Safe: the machine does nothing any more. -/
  | poweredOff
  deriving DecidableEq, Repr

/-- Why a step is refused. -/
inductive Refusal where
  /-- Raised by an arm of `exec` whose instruction has no meaning yet. Safe: nothing can be proved of it. -/
  | notModelled (mnemonic : String)
  deriving DecidableEq, Repr

end Sys2Proof.Machine
end

