-- ==== Sys2Proof/Machine/Parts.lean ====
section
/-! DEFINITION. The parts of the state, the memory cells, the homes of lines and what holds them (18 R313, R314; 22 R370, R374–R379), and
bytes written at a home. -/

namespace Sys2Proof.Machine

/-! ### Access to the parts of the state -/

def State.core (s : State) (n : Nat) : Core := kget Core.reset s.cores n
def State.setCore (s : State) (n : Nat) (c : Core) : State := { s with cores := kset s.cores n c }
def Core.bank (c : Core) (slot : Bool) : Bank := if slot then c.bank1 else c.bank0
def Core.setBank (c : Core) (slot : Bool) (b : Bank) : Core := if slot then { c with bank1 := b } else { c with bank0 := b }
def State.bank (s : State) (b : BankId) : Bank := (s.core b.core).bank b.slot
def State.setBank (s : State) (b : BankId) (x : Bank) : State := s.setCore b.core ((s.core b.core).setBank b.slot x)
def State.modBank (s : State) (b : BankId) (f : Bank → Bank) : State := s.setBank b (f (s.bank b))

def Bank.stream (b : Bank) : Engine → Stream
  | .C => b.c | .A => b.a | .V => b.v | .M => b.m | .K => b.k

def Bank.setStream (b : Bank) (e : Engine) (x : Stream) : Bank :=
  match e with
  | .C => { b with c := x } | .A => { b with a := x } | .V => { b with v := x }
  | .M => { b with m := x } | .K => { b with k := x }

/-- Whether a bank's data streams, fills and drains move: its bank is active (23 R382). -/
def State.rowsMove (s : State) (b : BankId) : Bool := (s.core b.core).active == b.slot

def State.stream (s : State) (b : BankId) (e : Engine) : Stream := (s.bank b).stream e
def State.setStream (s : State) (b : BankId) (e : Engine) (x : Stream) : State := s.modBank b (·.setStream e x)
def State.modStream (s : State) (b : BankId) (e : Engine) (f : Stream → Stream) : State := s.setStream b e (f (s.stream b e))

/-- The bank and the stream of the word being issued. -/
def State.myBank (s : State) : Bank := s.bank s.cur.bank
def State.modMyBank (s : State) (f : Bank → Bank) : State := s.modBank s.cur.bank f
def State.me (s : State) : Stream := s.stream s.cur.bank s.cur.engine
def State.modMe (s : State) (f : Stream → Stream) : State := s.modStream s.cur.bank s.cur.engine f

def State.ctx (s : State) (n : Nat) : Ctx := kget Ctx.reset s.ctxs n
def State.setCtx (s : State) (n : Nat) (c : Ctx) : State := { s with ctxs := kset s.ctxs n c }
def State.modCtx (s : State) (n : Nat) (f : Ctx → Ctx) : State := s.setCtx n (f (s.ctx n))
def Bank.ctxNum (b : Bank) : Nat := b.bindRec.ctx.toNat
def State.ctxOf (s : State) (b : BankId) : Ctx := s.ctx (s.bank b).ctxNum
def State.myCtx (s : State) : Ctx := s.ctxOf s.cur.bank

def State.launch? (s : State) (id : Nat) : Option Launch := kfind s.host.launches id
def State.setLaunch (s : State) (id : Nat) (l : Launch) : State :=
  { s with host := { s.host with launches := kset s.host.launches id l } }
def State.modLaunch (s : State) (id : Nat) (f : Launch → Launch) : State :=
  match s.launch? id with
  | some l => s.setLaunch id (f l)
  | none => s
def Bank.launchId (b : Bank) : Nat := b.bindRec.launch.toNat
def State.launchOf (s : State) (b : BankId) : Option Launch := s.launch? (s.bank b).launchId

/-- Changes graph run `r`. -/
def State.modRun (s : State) (r : Nat) (f : GraphRun → GraphRun) : State :=
  { s with host := { s.host with runs := s.host.runs.map (fun x => if x.1 = r then (x.1, f x.2) else x) } }

def Bank.tile (b : Bank) (t : Nat) : Tile := b.tiles.getD t Tile.null
def Bank.setTile (b : Bank) (t : Nat) (x : Tile) : Bank := { b with tiles := b.tiles.setIfInBounds t x }
def Bank.queue (b : Bank) (q : Nat) : Queue := b.queues.getD q Queue.empty
def Bank.setQueue (b : Bank) (q : Nat) (x : Queue) : Bank := { b with queues := b.queues.setIfInBounds q x }
def Bank.ds (b : Bank) (n : Nat) : DataStream := b.dstreams.getD n DataStream.reset
def Bank.setDs (b : Bank) (n : Nat) (x : DataStream) : Bank := { b with dstreams := b.dstreams.setIfInBounds n x }
def Bank.chan (b : Bank) (n : Nat) : Channel := b.chans.getD n Channel.reset
def Bank.setChan (b : Bank) (n : Nat) (x : Channel) : Bank := { b with chans := b.chans.setIfInBounds n x }

/-- A message leaves for another chip. -/
def State.sendOut (s : State) (m : OutMsg) : State := { s with esc := { s.esc with out := s.esc.out ++ [m] } }

def State.tick (s : State) : Nat := s.time.tick.toNat

/-- The next free value (log entry 5), and the state that has used it up. -/
def State.fresh (s : State) : Nat × State := (Config.freeNat s.freeCtr, { s with freeCtr := s.freeCtr + 1 })

/-! ### Memory cells (log entry 3) -/

/-- What an unlisted address reads as. -/
def unlisted : Byte := 0

/-- The byte at an address. -/
def Cells.get : List Host.Cell → Nat → Byte
  | [], _ => unlisted
  | (k, v) :: l, a => if k = a then v else if a < k then unlisted else Cells.get l a

/-- The cells with a byte written: rising addresses, nothing listed that reads as unlisted. -/
def Cells.set : List Host.Cell → Nat → Byte → List Host.Cell
  | [], a, b => if b = unlisted then [] else [(a, b)]
  | (k, v) :: l, a, b =>
    if k = a then (if b = unlisted then l else (a, b) :: l)
    else if a < k then (if b = unlisted then (k, v) :: l else (a, b) :: (k, v) :: l)
    else (k, v) :: Cells.set l a b

/-- The canonical form: addresses strictly rising from above `lo`, no entry equal to an unlisted byte. -/
def Cells.wfFrom (lo : Option Nat) : List Host.Cell → Bool
  | [] => true
  | (k, v) :: l => (match lo with | none => true | some j => decide (j < k)) && v != unlisted && Cells.wfFrom (some k) l

def Memory.wf (l : List Host.Cell) : Bool := Cells.wfFrom none l

def Cells.read (l : List Host.Cell) : Nat → Nat → List Byte
  | _, 0 => []
  | a, n + 1 => Cells.get l a :: Cells.read l (a + 1) n

def Cells.write (l : List Host.Cell) : Nat → List Byte → List Host.Cell
  | _, [] => l
  | a, b :: bs => Cells.write (Cells.set l a b) (a + 1) bs

/-- One byte of the module's memory: device address, `Config.hostBase` + host address, or `Config.scratchBase` + offset. -/
def State.byteAt (s : State) (a : Nat) : Byte := Cells.get s.mem.cells a
def State.peek (s : State) (a n : Nat) : List Byte := Cells.read s.mem.cells a n
def State.poke (s : State) (a : Nat) (bs : List Byte) : State :=
  { s with mem := { s.mem with cells := Cells.write s.mem.cells a bs } }

/-! ### Homes of lines (18 R313, R314; 22 R374, R375) -/

/-- Module position of a core (17 R303). -/
def corePos (c : Nat) : Nat := 24 * (c / 160) + (3 * ((c % 160) / 10 / 2) + ((c % 160) / 10) % 2)

/-- Cycles one way between two module positions (17 R303). -/
def wayTime (p q : Nat) : Nat := (p - q) + (q - p) + 2 + 6 * ((p / 24 - q / 24) + (q / 24 - p / 24))

/-- Cycles a row or command word takes between cores of the module (17 R303). -/
def trainTime (a b : Nat) : Nat := wayTime (corePos a) (corePos b)

def State.slice (s : State) (n : Nat) : Slice := kget Slice.reset s.mem.slices n
def State.setSlice (s : State) (n : Nat) (x : Slice) : State := { s with mem := { s.mem with slices := kset s.mem.slices n x } }

/-- The bucket of a device address, and the home slice of its line (22 R374). -/
def bucketOf (pa : Nat) : Nat := bits pa 19 6 ^^^ bits pa 33 20 ^^^ bits pa 47 34 ^^^ bits pa 51 48
def isDevice (pa : Nat) : Bool := decide (pa < 4503599627370496)
def homeSlice (m : MemSys) (pa : Nat) : Nat := kget (bucketOf pa % 1280) m.smap (bucketOf pa)

/-- The slice that is the home of an address: of shared scratch its own (18 R313), of device memory as the map says; coherent host
memory has none (11 R247). -/
def homeOf (m : MemSys) (pa : Nat) : Option Nat :=
  if isDevice pa then some (homeSlice m pa)
  else if Config.scratchBase ≤ pa then some ((pa - Config.scratchBase) / 1048576) else none

/-- The module position of a slice, which names its strip (01 R8, 17 R303). -/
def sliceStrip (n : Nat) : Nat := 24 * (n / 160) + 3 * (n % 160 / 20) + 2

/-- The mask a slice ends with once its changes have run, and the ways whose role some change under way changes (18 R314). -/
def Slice.final (x : Slice) : BitVec 16 := match x.changes.getLast? with | some c => c.mask | none => x.ways
def Slice.turning (x : Slice) : BitVec 16 := (x.changes.foldl (fun (p : BitVec 16 × BitVec 16) c => (c.mask, p.2 ||| (p.1 ^^^ c.mask))) (x.ways, 0)).2

/-! ### Protection, mirrors, rebuilds (22 R370, R376, R378) -/

def isProtected (m : MemSys) (pa : Nat) : Bool :=
  decide (pa < Config.hbmSize) && (kget 0 m.protmap (pa / 1073741824 / 64)).getLsbD (pa / 1073741824 % 64)

def inMirror (m : MemSys) (pa : Nat) : Bool :=
  m.mirrors.any (fun x => decide (x.2.base.toNat ≤ pa) && decide (pa < x.2.base.toNat + x.2.len.toNat))

/-- Whether a line of a mirror range still equals its tier copy. -/
def mirrorClean (m : MemSys) (pa : Nat) : Bool := inMirror m pa && !m.mirDirty.contains (pa / 64)

/-- The parity group of a line of a protected GiB, of data or of parity (22 R370). -/
def parityGroup (pa : Nat) : Nat × Nat :=
  let o := pa % 1073741824
  (pa / 1073741824, if o < 939524096 then o / 64 / 7 else (o - 939524096) / 64)

/-- The lines of a parity group: seven of data, then the parity line. -/
def groupLines (g : Nat × Nat) : List Nat :=
  (List.range 7).map (fun i => g.1 * 1073741824 + 64 * (7 * g.2 + i)) ++ [g.1 * 1073741824 + 939524096 + 64 * g.2]

/-- Whether a rebuild of line `l` holds requests to an address: it is that line, or one of its parity group (22 R378). -/
def rebuildsWith (m : MemSys) (l pa : Nat) : Bool :=
  l == pa / 64 || (isProtected m pa && isProtected m (64 * l) && parityGroup (64 * l) == parityGroup pa)

/-- Whether a rebuild of an address's line or parity group runs, or its bucket is moving. -/
def rebuildHeld (m : MemSys) (pa : Nat) : Bool :=
  isDevice pa && (m.rebuilds.any (rebuildsWith m · pa) ||
    (match m.moving with | some x => x.2.contains (bucketOf pa) | none => false))

/-- Whether an address is one whose requests a hold that has ended had held. -/
def PastHold.covers (m : MemSys) (h : PastHold) (pa : Nat) : Bool :=
  isDevice pa && (h.line.any (rebuildsWith m · pa) || h.buckets.contains (bucketOf pa))

/-- Whether an address lies in a shared-scratch way that is changing its role (18 R314). -/
def wayHeld (m : MemSys) (pa : Nat) : Bool :=
  decide (Config.scratchBase ≤ pa) &&
    (kget Slice.reset m.slices ((pa - Config.scratchBase) / 1048576)).turning.getLsbD ((pa - Config.scratchBase) / 65536 % 16)

/-- Whether requests to an address are held at its home. -/
def homeHeld (m : MemSys) (pa : Nat) : Bool := rebuildHeld m pa || wayHeld m pa

/-- Whether a request carries a count of the slice map older than its bucket's last move (22 R375). -/
def staleMap (m : MemSys) (gen pa : Nat) : Bool := isDevice pa && decide (gen < kget 0 m.moved (bucketOf pa))

/-! ### Writes at a home (21 R367; 22 R376, R379; 24 R387, R388) -/

/-- Whether an injection is one of L2, HBM or the tier whose 8 bytes meet [pa, pa + n). -/
def Injection.hits (j : Injection) (pa n : Nat) : Bool :=
  decide (3 ≤ j.store) && decide (pa < j.addr / 8 * 8 + 8) && decide (j.addr / 8 * 8 < pa + n)

/-- The armed injections of those stores that [pa, pa + n) meets, with their cores. -/
def armedIn (s : State) (pa n : Nat) : List (Nat × Injection) :=
  s.cores.flatMap (fun c => (c.2.inj.filter (·.hits pa n)).map (fun j => (c.1, j)))

def dropInj (s : State) (core : Nat) (j : Injection) : State :=
  s.setCore core { s.core core with inj := (s.core core).inj.filter (· != j) }

/-- A write disarms them. -/
def disarmWrite (s : State) (pa n : Nat) : State := (armedIn s pa n).foldl (fun s x => dropInj s x.1 x.2) s

/-- Whether the home of a line can be read at once: its strip, its die and the module are in RUN (24 R388). -/
def homeAwake (s : State) (pa : Nat) : Bool :=
  match homeOf s.mem pa with
  | none => true
  | some n => kget .run s.fleet.strips (sliceStrip n) == .run && kget .run s.fleet.dies (sliceStrip n / 24) == .run && s.fleet.module != .retention

/-- The lines of [pa, pa + n). -/
def linesOf (pa n : Nat) : List Nat := (List.range ((pa + n + 63) / 64 - pa / 64)).map (pa / 64 + ·)

/-- Whether any line of [pa, pa + n) is poisoned. -/
def poisonedIn (s : State) (pa n : Nat) : Bool :=
  (linesOf pa n).any (s.mem.poison.contains ·)

/-- Whether the home of a line of [pa, pa + n) holds requests. -/
def heldIn (m : MemSys) (pa n : Nat) : Bool :=
  (linesOf pa n).any (fun l => homeHeld m (64 * l))

/-- A request reaches a line: its home's strip is busy (24 R387), and the strip, its die and the module come to RUN (R388). -/
def wakeHome (s : State) (pa : Nat) : State :=
  match homeOf s.mem pa with
  | none => s
  | some n =>
    let k := sliceStrip n
    let f := { s.fleet with lastBusy := kset s.fleet.lastBusy k s.tick }
    if kget .run f.strips k == .run && kget .run f.dies (k / 24) == .run && f.module != .retention then { s with fleet := f }
    else { s with fleet := { f with strips := kset f.strips k .run, dies := kset f.dies (k / 24) .run
                                    module := if f.module = .retention then .run else f.module } }

/-- A request reaches every line of [pa, pa + n). -/
def wakeHomes (s : State) (pa n : Nat) : State := (linesOf pa n).foldl (fun s l => wakeHome s (64 * l)) s

/-- Whether a byte lies in [pa, pa + n). -/
def inBytes (pa n a : Nat) : Bool := decide (pa ≤ a) && decide (a < pa + n)

/-- Bytes written at the home, whoever writes them: poison goes with a whole line, a mirrored line becomes dirty, and a reading stream sees
no byte that an earlier write has replaced there (05 R123). -/
def putBytes (s : State) (pa : Nat) (data : List Byte) : State :=
  let s := disarmWrite (wakeHomes s pa data.length) pa data.length
  let s := s.poke pa data
  let whole := (List.range (data.length / 64 + 1)).filter (fun i => decide (pa ≤ 64 * (pa / 64 + i)) && decide (64 * (pa / 64 + i) + 64 ≤ pa + data.length))
  let lines := linesOf pa data.length
  let m := s.mem
  { s with mem := { m with
    poison := m.poison.filter (fun l => !(whole.map (pa / 64 + ·)).contains l)
    shadow := m.shadow.filter (fun x => !inBytes pa data.length x.pa)
    mirDirty := (lines.filter (fun l => inMirror m (64 * l) && !m.mirDirty.contains l)) ++ m.mirDirty } }

/-! ### Accesses of firmware, of the scheduler and of the host, which no unit waits for (18 R314; 22 R375, R378) -/

/-- The tick by which a request of a class that is issued now is to complete (22 R371). -/
def State.deadline (s : State) (cls : Nat) : Nat := s.tick + (s.mem.dlb.getD cls 0).toNat

/-- The bytes that an access which waits reads or writes at their homes; of a context descriptor those of it. -/
def LateOp.span : LateOp → Nat × Nat
  | .write pa d => (pa, d.length)
  | .cxl a n _ => (a, n)
  | .scrub a _ => (a / 64 * 64, 64)
  | .ctxdesc _ d => (d.toNat, 512)

/-- Whether two accesses meet in a byte. -/
def spansMeet (p q : Nat × Nat) : Bool := decide (p.1 < q.1 + q.2) && decide (q.1 < p.1 + p.2)

/-- Whether an access has to wait at its homes: they hold it, or an earlier one to its bytes waits. -/
def mustQueue (m : MemSys) (pa n : Nat) : Bool := heldIn m pa n || m.queued.any (fun w => spansMeet w.op.span (pa, n))

/-- It waits. -/
def queueOp (s : State) (op : LateOp) (cls : Nat) : State :=
  { s with mem := { s.mem with queued := s.mem.queued ++ [⟨op, s.cycle, s.deadline cls⟩] } }

/-- A write by firmware, a scheduler or a walker: at its home at once, or behind those that wait. -/
def State.write (s : State) (pa : Nat) (data : List Byte) : State :=
  if mustQueue s.mem pa data.length then queueOp s (.write pa data) 3 else putBytes s pa data

/-- The bytes of a waiting write. -/
def LateOp.writes : LateOp → Nat × List Byte
  | .write pa d => (pa, d)
  | _ => (0, [])

/-- What such a party reads: bytes at their homes, or those of a write that waits. -/
def State.look (s : State) (pa n : Nat) : List Byte :=
  if s.mem.queued.isEmpty then s.peek pa n
  else (List.range n).map (fun i => (s.mem.queued.foldl (fun (x : Option Byte) w =>
    if inBytes w.op.writes.1 w.op.writes.2.length (pa + i) then w.op.writes.2[pa + i - w.op.writes.1]? else x) none).getD (s.byteAt (pa + i)))

end Sys2Proof.Machine
end

