-- ==== Sys2Proof/Machine/Ops.lean ====
section
/-! DEFINITION. The named operations over registers, banks, memory cells and contexts; issuing and retiring a word (02 R30,
17 R293–R299); taking a trap and returning from one (21 R351–R353, R362); ending a unit (01 R19). -/

namespace Sys2Proof.Machine

/-! ### Segments (21 R358) -/

/-- Address of segment entry `i` of a context. -/
def segAddr (s : State) (ctx i : Nat) : Nat := (s.ctx ctx).segtab + 32 * i

/-- BUSY of each segment listed changes by `d`. -/
def busyBy (s : State) (ctx : Nat) (d : Int) (segs : List Nat) : State :=
  segs.foldl (fun s i =>
    let a := segAddr s ctx i + 16
    s.write a (leBytes 4 ((leNat (s.look a 4) : Int) + d).toNat)) s

/-! ### How a word's meaning ends -/

/-- Why a word does not complete now: it traps (`trapIn`: in a state in which a record it delivers is cleared), it blocks (01 R23) or it waits as an interlock (01 R22), `onA`: on a result of the A stream (01 R28, 21 R347). -/
inductive Stop where
  | trap (t : Trap)
  | trapIn (t : Trap) (s : State)
  | block (k : BlockKind) (tval : W64)
  | interlock (onA : Bool)
  deriving DecidableEq, Repr

abbrev Res := Except Stop

def mkTrap (c : Cause) (tval : W64) : Trap := ⟨c, tval, 0, 0⟩

/-- A trap whose TVAL is the word (21 R350). -/
def wordTrap {α : Type} (s : State) (c : Cause) : Res α := .error (.trap (mkTrap c (s.cur.word.setWidth 64)))

/-- A trap with its own TVAL. -/
def valTrap {α : Type} (c : Cause) (v : W64) : Res α := .error (.trap (mkTrap c v))

/-- Traps where a condition holds. -/
def trapIf (b : Bool) (s : State) (c : Cause) : Res Unit := if b then wordTrap s c else .ok ()

/-- Waits as an interlock while a condition holds; `onA` says that it is a result of the A stream it waits for. -/
def waitIf (b : Bool) (onA : Bool := false) : Res Unit := if b then .error (.interlock onA) else .ok ()

/-! ### Registers and results in flight (17 R293–R299) -/

def Stream.get (x : Stream) (r : Reg) : W64 := if r = 0 then 0 else x.regs[r.toNat]

def Stream.put (x : Stream) (r : Reg) (v : W64) : Stream :=
  if r = 0 then x else { x with regs := x.regs.set r.toNat v }

/-- Whether a write to a register is still on its way, and whether it is an interlocked one (R295). -/
def PendWrite.toReg (r : Reg) : PendWrite → Bool
  | .reg d _ => d = r
  | _ => false
def PendWrite.toIreg (r : Reg) : PendWrite → Bool
  | .ireg d _ => d = r
  | _ => false

/-- Whether a load of the bank still owes a register. -/
def BankMem.owes (m : BankMem) (r : Reg) : Bool :=
  m.reqs.any (fun q => match q.dest with | .reg (some d) _ => d = r | _ => false) ||
  m.returns.any (fun q => match q.req.dest with | .reg (some d) _ => d = r | _ => false)

/-- A load's result no longer wanted: a later word has written its register. -/
def ReqDest.drop (r : Reg) : ReqDest → ReqDest
  | .reg (some d) g => if d = r then .reg none g else .reg (some d) g
  | x => x

def BankMem.forget (m : BankMem) (r : Reg) : BankMem :=
  { m with reqs := m.reqs.map (fun q => { q with dest := q.dest.drop r })
           returns := m.returns.map (fun q => { q with req := { q.req with dest := q.req.dest.drop r } }) }

/-- Reads a scalar register at issue: interlocks on a result of variable latency, and runs the stall checker (R299) on one of
fixed latency: a premature read traps with the checker on and reads the old value with it off. -/
def rd (s : State) (r : Reg) : Res W64 :=
  if r = 0 then .ok 0
  else if s.me.pend.any (·.wr.toIreg r) then .error (.interlock false)
  else if s.cur.engine == .A && s.myBank.mem.owes r then .error (.interlock true)
  else if s.me.pend.any (·.wr.toReg r) && s.me.stallctl.getLsbD 0 then wordTrap s .undersizedStall
  else .ok (s.me.get r)

/-- The effective cycle of a new write (R298): its ready cycle, or that of the last earlier write to the same place. -/
def effective (ps : List Pend) (same : PendWrite → Bool) (ready : Nat) : Nat :=
  ps.foldl (fun c p => if same p.wr then max c p.cyc else c) ready

/-- A register result of latency `l` (R293, R298). A result ready for the next word, with no earlier write to the register
still on its way, is written at once. -/
def wrReg (s : State) (r : Reg) (v : W64) (l : Nat) : State :=
  if r = 0 then s
  else
    let s := if s.cur.engine = .A then s.modMyBank (fun b => { b with mem := b.mem.forget r }) else s
    if l ≤ 1 && !(s.me.pend.any (fun p => p.wr.toReg r || p.wr.toIreg r)) then s.modMe (·.put r v)
    else s.modMe (fun x => { x with pend := x.pend ++
      [⟨effective x.pend (fun w => w.toReg r || w.toIreg r) (s.cycle + l), .reg r v, []⟩] })

/-- A register result that readers interlock on (R294, class K4). -/
def wrIreg (s : State) (r : Reg) (v : W64) (l : Nat) : State :=
  if r = 0 then s
  else s.modMe (fun x => { x with pend := x.pend ++
    [⟨effective x.pend (fun w => w.toReg r || w.toIreg r) (s.cycle + l), .ireg r v, []⟩] })

/-- A register result of variable latency that is ready at issue (R294, class INT). Behind an earlier result still on its way to
the register it stays interlocked until that one's cycle (R295, R298). -/
def wrInt (s : State) (r : Reg) (v : W64) : State :=
  if s.me.pend.any (fun p => p.wr.toReg r || p.wr.toIreg r) then wrIreg s r v 1 else wrReg s r v 1

/-- The word completes `l` cycles after issue without writing anything. -/
def completesAt (s : State) (l : Nat) : State := s.modMe (fun x => { x with pend := x.pend ++ [⟨s.cycle + l, .done, []⟩] })

/-- Earlier fixed-latency results of the stream that have not taken effect. -/
def Stream.quiet (x : Stream) : Bool := x.pend.isEmpty

/-! ### Rows of tiles in the scratchpad (01 R13, 03 R57) -/

def Core.row (c : Core) (i : Nat) : Row := kget 0 c.spad i
def Core.setRow (c : Core) (i : Nat) (r : Row) : Core := { c with spad := kset c.spad i r }

/-- Whether an armed injection of store `st` lies in bytes [a, a + n). -/
def Core.injAt (c : Core) (st a n : Nat) : Option Injection :=
  c.inj.find? (fun j => j.store == st && decide (a ≤ j.addr) && decide (j.addr < a + n))

/-- A read that meets an injection uses it up; a write disarms it (21 R367). -/
def Core.disarm (c : Core) (st a n : Nat) : Core :=
  { c with inj := c.inj.filter (fun j => !(j.store == st && decide (a ≤ j.addr) && decide (j.addr < a + n))) }

/-- A row written to the scratchpad: all 256 bytes as one event (01 R26). The bank leaves retention (24 R389). -/
def State.putRow (s : State) (core idx : Nat) (r : Row) : State :=
  let c := s.core core
  let c := (c.setRow idx r).disarm 0 (256 * idx) 256
  let c := { c with retained := c.retained &&& ~~~ (1#16 <<< (idx % 16)), lastUse := kset c.lastUse (idx % 16) s.cycle }
  s.setCore core c

/-- A read of a scratchpad row for the purposes of retention (24 R389). -/
def State.touchRow (s : State) (core idx : Nat) : State :=
  let c := s.core core
  s.setCore core { c with retained := c.retained &&& ~~~ (1#16 <<< (idx % 16)), lastUse := kset c.lastUse (idx % 16) s.cycle }

/-! ### Queues (01 R17, 04 R111) -/

/-- An item leaves core `a` for core `b` no earlier than cycle `t`: each tap injects one item per cycle in each direction
(17 R304). The cycle of arrival, and the state with the tap taken. An item to the core's own position takes the east tap: the spec names none
(DESIGN CHOICE, log entry 63). -/
def State.inject (s : State) (a b t : Nat) : Nat × State :=
  let c := s.core a
  let east := corePos a ≤ corePos b
  let i := max t (if east then c.tap.2 else c.tap.1)
  (i + trainTime a b, s.setCore a { c with tap := if east then (c.tap.1, i + 1) else (i + 1, c.tap.2) })

/-- The ticks within which a bound-queue row crosses a route of `h` hops (12 R272). -/
def rowTicks (h : Nat) : Nat := 80 + 96 * h

/-- Whether a push finds room: slots of a local queue, credits of one bound for sending (04 R111). -/
def Queue.hasRoom (q : Queue) : Bool :=
  match q.binding with
  | some b => b.sent + q.reserved < 16
  | none => q.rows.length + q.reserved < 16

/-- A row enters a queue: at its tail, or on its way to the peer (04 R111). -/
def State.pushRow (s : State) (b : BankId) (q : Nat) (r : Row) : State :=
  let x := (s.bank b).queue q
  match x.binding with
  | some y =>
    let (t, s) := match y.bank with
      | some p => s.inject b.core p.core s.cycle
      | none => (s.cycle + Config.cyclesPerTick * rowTicks (kget 1 s.time.members y.chip), s)
    s.modBank b (fun k => k.setQueue q { x with binding := some { y with sent := y.sent + 1, way := y.way ++ [(t, r, s.deadline 0)] } })
  | none => s.modBank b (fun k => k.setQueue q { x with rows := x.rows ++ [r], owed := x.owed ++ [none] })

/-- The oldest row leaves a queue. -/
def Queue.pop (q : Queue) : Queue := { q with rows := q.rows.tail, owed := q.owed.tail }
def State.takeRow (s : State) (b : BankId) (q : Nat) : State := s.modBank b (fun k => k.setQueue q (k.queue q).pop)

/-- Whom the oldest row of a queue owes a credit. -/
def Queue.creditor (q : Queue) : Option Sender := q.owed.head?.join

/-- A sender gets the credit that it is owed (04 R111). -/
def State.credit (s : State) : Option Sender → State
  | some ⟨some p, pq, i⟩ => s.modBank p (fun k =>
      let y := k.queue pq
      k.setQueue pq { y with binding := y.binding.map (fun z => if z.id = i then { z with back := z.back + 1 } else z) })
  | some ⟨none, chip, i⟩ => s.sendOut (.credit chip i)
  | none => s

/-- The oldest row leaves a queue; a bound sender is owed its credit (04 R111). -/
def State.popRow (s : State) (b : BankId) (q : Nat) : Row × State :=
  let x := (s.bank b).queue q
  (x.rows.headD 0, (s.takeRow b q).credit x.creditor)

/-! ### Results that take effect (17 R293) -/

/-- A writing stream accepts a row, which a drain hands it or not (05 R122). -/
def StreamRun.accept (r : StreamRun) (v : Row) (seq : Nat) (drain : Bool) : StreamRun :=
  { r with buf := r.buf ++ [⟨r.next, v, seq, drain⟩], next := r.next + 1 }

/-- Whether `row` positions have passed through a move: all of them in the lifted form, else the rows. -/
def Move.total (m : Move) : Nat := if m.lifted then m.copies.length * m.slice else m.rows

/-- The oldest drain that has still to hand rows to a stream. -/
def Bank.feeder (b : Bank) (n : Nat) : Option Move := b.moves.find? (fun m => m.drain && m.stream == n && decide (m.row < m.total))

/-- One more access of the bank has its place in A's order. -/
def Bank.bumpSeq (b : Bank) : Bank := { b with mem := { b.mem with seq := b.mem.seq + 1 } }

/-- A row of V or K enters a writing stream's buffer. A stream stores its rows in position order (05 R122), so that a row accepted between those
of a drain has the drain's place in A's order, and any other a place of its own (DESIGN CHOICE, log entry 64). -/
def Bank.acceptRow (k : Bank) (n : Nat) (v : Row) : Bank :=
  match (k.ds n).run, (k.ds n).fault, k.feeder n with
  | some r, none, some m => k.setDs n { k.ds n with run := some (r.accept v m.seq false) }
  | some r, none, none => (k.setDs n { k.ds n with run := some (r.accept v k.mem.seq false) }).bumpSeq
  | _, _, _ => k

/-- The effect of one fixed-latency result. A row for a stream that ends at a fault before it takes effect is lost (05 R124). -/
def PendWrite.apply (w : PendWrite) (s : State) (b : BankId) (e : Engine) : State :=
  match w with
  | .reg d v | .ireg d v => s.modStream b e (·.put d v)
  | .row i v => s.putRow b.core i v
  | .queue q v =>
      (s.modBank b (fun k => k.setQueue q { k.queue q with reserved := (k.queue q).reserved - 1 })).pushRow b q v
  | .dstream n v => s.modBank b (·.acceptRow n v)
  | .flags v => s.modStream b e (fun x => { x with numflags := x.numflags ||| v })
  | .done => s

/-- The results due by cycle `t`, oldest first, and those still pending. -/
def splitDue (t : Nat) (ps : List Pend) : List Pend × List Pend := ps.partition (fun p => decide (p.cyc ≤ t))

/-- Lets every result of a stream that is due take effect. -/
def settle (s : State) (b : BankId) (e : Engine) : State :=
  let x := s.stream b e
  let d := splitDue s.cycle x.pend
  if d.1.isEmpty then s
  else d.1.foldl (fun s p => p.wr.apply s b e) (s.setStream b e { x with pend := d.2 })

/-! ### Retiring a word (02 R30, 17 R296, R297) -/

/-- The word has issued: the stream goes on at `pc` not before the cycle after its stall count and extra cycles `x`. -/
def retireAt (s : State) (w : BitVec 3) (pc : W64) (x : Nat) : State :=
  s.modMe (fun m =>
    { m with pc := pc, nextIssue := s.cycle + 1 + w.toNat + x, issued := m.issued + 1, block := none, lrep := 0, wait := none
             lock := false })

/-- The word has issued and the next word follows. -/
def retire (s : State) (w : BitVec 3) : State := retireAt s w (s.me.pc + 4) 0

/-- The place of a redirect among those of its core in this cycle, and the state that has served it (R297). -/
def redirectNo (s : State) : Nat × State :=
  let c := s.core s.cur.bank.core
  let k := if c.redir.1 = s.cycle then c.redir.2 + 1 else 1
  (k, s.setCore s.cur.bank.core { c with redir := (s.cycle, k) })

/-- The word has issued and moves the pc. -/
def redirect (s : State) (w : BitVec 3) (pc : W64) : State :=
  let r := redirectNo s
  retireAt r.2 w pc r.1

/-! ### Errors and traps (21 R350–R353) -/

def engineNum : Engine → Nat
  | .C => 0 | .A => 1 | .V => 2 | .M => 3 | .K => 4

/-- The 32 bytes of an error record (21 R353). -/
def errorBytes (cause source reason launch unit ctx gen : Nat) (pc tval : W64) : List Byte :=
  leBytes 1 cause ++ leBytes 1 source ++ leBytes 2 reason ++ leBytes 4 launch ++ leBytes 4 unit ++ leBytes 2 ctx ++
  leBytes 2 gen ++ leBytes 8 pc.toNat ++ leBytes 8 tval.toNat

/-- Writes an error record to the context's error queue, then EQCOUNT in the context descriptor (21 R340, R353). -/
def State.errorRecord (s : State) (ctx : Nat) (bytes : List Byte) : State :=
  let c := s.ctx ctx
  let s := s.write (c.eqbase + 32 * (c.eqcount % (1 <<< c.eqlog2))) bytes
  let s := s.write (c.desc.toNat + 312) (leBytes 8 (c.eqcount + 1))
  s.setCtx ctx { c with eqcount := c.eqcount + 1, changes := c.changes + 1 }

/-- The unit word of records: unit index, core and slot (21 R353). -/
def unitWord (s : State) (b : BankId) : Nat :=
  (s.bank b).bindRec.unit.toNat + b.core <<< 20 + (if b.slot then 1 <<< 31 else 0)

/-- The error record of a bank's unit. -/
def State.unitError (s : State) (b : BankId) (source : Nat) (tr : Trap) (pc : W64) : State :=
  let k := s.bank b
  let tv := if tr.cause = .break ∨ tr.cause = .softTrap then tr.code.setWidth 64 else tr.tval
  s.errorRecord k.ctxNum (errorBytes tr.cause.code source tr.reason.toNat k.launchId (unitWord s b) k.ctxNum
    (s.ctxOf b).gen.toNat pc tv)

/-- The launch's first failure (20 R333). -/
def State.noteFailure (s : State) (b : BankId) (c : Cause) : State :=
  s.modLaunch (s.bank b).launchId (fun l => if l.first.isNone then { l with first := some c } else l)

/-- No word of the unit issues any more (21 R351, R365). -/
def Bank.haltAll (b : Bank) : Bank :=
  let h := fun (x : Stream) => { x with status := if x.status = .idle then .idle else .halted, block := none }
  { b with c := h b.c, a := h b.a, v := h b.v, m := h b.m, k := h b.k }

/-- Chains and records not started are discarded (21 R351). -/
def Channel.dropQueued (c : Channel) : Channel := { c with heads := [], ready := [] }
def Bank.dropChains (b : Bank) : Bank := { b with chans := b.chans.map Channel.dropQueued }
def dropChains (s : State) (b : BankId) : State :=
  let k := s.bank b
  (busyBy s k.ctxNum (-1) ((k.chans.toList.map (fun c => c.ready.flatMap (·.segs))).flatten)).modBank b Bank.dropChains

/-- The unit stops issuing and will end with this status once issued work completes. -/
def endUnit (s : State) (b : BankId) (st : EndStatus) : State :=
  s.modBank b (fun k => { k.haltAll with phase := .ending st, preempt := none, yielded := none, cancel := false, gbar := none, gkept := [] })

/-- A trap without a handler: the unit fails (21 R351). -/
def failUnit (s : State) (b : BankId) (source : Nat) (tr : Trap) (pc : W64) : State :=
  let s := (s.unitError b source tr pc).noteFailure b tr.cause
  endUnit (dropChains s b) b .failed

/-- TCAUSE of a trap being handled (21 R361). -/
def tcauseOf (e : Engine) (tr : Trap) : W64 :=
  BitVec.ofNat 64 (1 <<< 63 + tr.code.toNat <<< 20 + engineNum e <<< 16 + tr.reason.toNat <<< 8 + tr.cause.code)

/-- Whether a trap of the bank is handled in C (21 R352). -/
def Bank.valid (b : Bank) : Bool := b.tcause.getLsbD 63

/-- C goes on at the handler with this trap latched (21 R352). -/
def enterHandler (s : State) (b : BankId) (e : Engine) (tr : Trap) (pc : W64) : State :=
  s.modBank b (fun k =>
    let cpc := if e = .C then pc else k.c.pc
    let k := if e = .C then k else k.setStream e { k.stream e with status := .trapped, tpc := pc, block := none }
    { k with tcause := tcauseOf e tr, tpcReg := pc, tval := tr.tval, cpc := cpc, csave := (cpc, k.c.lrep, k.c.xset), wfi := none
             c := { k.c with lrep := 0, wait := none, tpc := (if e = .C then pc else k.c.tpc), pc := k.tvec, status := .running, block := none
                             nextIssue := max k.c.nextIssue (s.cycle + 2) } })

/-- Whether the bank's unit has a handler that a trap can enter (21 R351, R352). -/
def State.handles (s : State) (b : BankId) : Bool :=
  (s.ctxOf b).priv && (s.bank b).tvec != 0 && (s.bank b).tvec.toNat % 4 == 0

/-- A trap is delivered: the handler is entered, or without one the unit fails with its cause (21 R351, R352). -/
def handleTrap (s : State) (b : BankId) (e : Engine) (tr : Trap) (pc : W64) : State :=
  if s.handles b then enterHandler s b e tr pc else failUnit s b (engineNum e) tr pc

/-- A POSTC that has been left needs its command no more. -/
def ReqDest.orphan : ReqDest → ReqDest
  | .command => .nowhere
  | x => x
def BankMem.dropCommand (m : BankMem) : BankMem :=
  { m with command := none, reqs := m.reqs.map (fun r => { r with dest := r.dest.orphan })
           returns := m.returns.map (fun r => { r with req := { r.req with dest := r.req.dest.orphan } }) }

/-- TAKING A TRAP (21 R351, R352): a privileged context with a handler takes it in C; a trap of another stream while one is
handled is held; otherwise the unit fails. -/
def takeTrap (s : State) (b : BankId) (e : Engine) (tr : Trap) (pc : W64) : State :=
  let s := s.modStream b e (fun x => { x with tpc := pc, block := none, wait := none })
  let s := if e = .A then s.modBank b (fun k => { k with mem := k.mem.dropCommand }) else s
  if s.handles b && (s.bank b).valid then
    if e = .C then failUnit s b (engineNum e) tr pc
    else s.modBank b (fun k => { k.setStream e { k.stream e with status := .trapped } with held := k.held ++ [⟨e, tr, pc⟩] })
  else handleTrap s b e tr pc

def engineOfNum : Nat → Engine
  | 0 => .C | 1 => .A | 2 => .V | 3 => .M | _ => .K

/-- The stream a latched TCAUSE names. -/
def tcauseEngine (t : W64) : Engine := engineOfNum (bits t.toNat 18 16)

/-- RETURN FROM A TRAP (21 R362): TCAUSE cleared, the trapped stream resumes at TPC (at repetition LREP where TPC is the
word's own, 10 R244), C goes on at CPC, and a held trap is delivered next. -/
def returnFromTrap (s : State) (b : BankId) : State :=
  let k := s.bank b
  let e := tcauseEngine k.tcause
  let s := s.modBank b (fun k => { k with tcause := 0 })
  let s := s.modStream b .C (fun x => { x with pc := k.cpc, lrep := if k.cpc = k.csave.1 then k.csave.2.1 else 0, xset := k.csave.2.2, wait := none })
  let s := if e = .C then s else s.modStream b e (fun x =>
    { x with pc := k.tpcReg, status := .running, nextIssue := max x.nextIssue (s.cycle + 2), lrep := if k.tpcReg = x.tpc then x.lrep else 0 })
  match k.held with
  | [] => s
  | h :: rest => handleTrap (s.modBank b (fun k => { k with held := rest })) b h.engine h.trap h.tpc

/-! ### Blocks, interlocks and the end of a meaning -/

/-- The word being issued does not complete: it keeps its pc, and a block keeps the tick it began at (01 R24). -/
def noteBlock (s : State) (k : BlockKind) (tv : W64) : State :=
  let fresh : Block := ⟨k, tv, s.tick⟩
  s.modMe (fun x => { x with lock := false, block := match x.block with
    | some b => if b.kind = k ∧ b.tval = tv then some b else some fresh
    | none => some fresh })

/-- The word being issued waits as an interlock, `onA`: on a result of the A stream; a block it was in has ended (01 R22, R28). -/
def interlocked (s : State) (onA : Bool) : State := s.modMe (fun x => { x with block := none, lock := onA })

/-- The next state of a word from how its meaning ended (02 R32; 01 R22, R23; 21 R351): `s` is the state before it. -/
def conclude (s : State) (r : Res State) : State :=
  match r with
  | .ok t => t
  | .error (.trap tr) => takeTrap s s.cur.bank s.cur.engine tr s.me.pc
  | .error (.trapIn tr t) => takeTrap t t.cur.bank t.cur.engine tr t.me.pc
  | .error (.block k tv) => noteBlock s k tv
  | .error (.interlock onA) => interlocked s onA

/-- What a meaning answers. -/
abbrev Out := Host.Outcome State Fault Refusal

/-- How a word waits that could not issue even without the stall checker, if it does: one whose first try has an effect does not. -/
def stillWaits (s : State) (f : State → Res State) : Option (Res State) :=
  match f (s.modMe (fun x => { x with stallctl := x.stallctl &&& ~~~ 1#64 })) with
  | .error (.block k v) => some (.error (.block k v))
  | .error (.interlock onA) => some (.error (.interlock onA))
  | .error _ => none
  | .ok t =>
    if t.me.issued = s.me.issued ∧ t.me.nextIssue = s.me.nextIssue ∧ t = s.modMe (fun _ => t.me) then
      some (.ok (t.modMe (fun x => { x with stallctl := s.me.stallctl })))
    else none

/-- How a word's meaning ends. The stall checker runs when the word issues (17 R299): while it waits for anything else, it does not trap. -/
def outcomeOf (s : State) (f : State → Res State) : Res State :=
  match f s with
  | .error (.trap tr) => if tr.cause = .undersizedStall then (stillWaits s f).getD (.error (.trap tr)) else .error (.trap tr)
  | r => r

/-- A word's meaning over the state in which its own due results have taken effect (17 R293). -/
def run (s : State) (f : State → Res State) : Out :=
  let s := settle s s.cur.bank s.cur.engine
  .next (conclude s (outcomeOf s f))

/-- The meaning of a word that acts at its first try and may then wait: it issues at that try, so the stall checker runs there (17 R299). -/
def runNow (s : State) (f : State → Res State) : Out :=
  let s := settle s s.cur.bank s.cur.engine
  .next (conclude s (f s))

/-! ### Completion of issued work (01 R19; 17 R293) -/

/-- Whether every word a stream has issued has completed. -/
def Bank.completed (b : Bank) (e : Engine) : Bool :=
  (b.stream e).pend.isEmpty && (match e with
    | .A => b.mem.reqs.isEmpty && b.mem.returns.isEmpty && b.moves.isEmpty
    | .M => b.mEng.nest.isNone && b.mEng.backs.isEmpty && b.mEng.loads.isEmpty
    | .K => b.kEng.op.isNone
    | _ => true)

/-- A stream that waits for its earlier words waits for A's work alone: it is A, and no fixed-latency result is on its way. -/
def Bank.waitsOnA (b : Bank) (e : Engine) : Bool := e == .A && b.a.pend.isEmpty

/-- Whether a stream stands between two repetitions of a word, which a trap has not interrupted (10 R244; log entry 60). -/
def Bank.midWord (b : Bank) (e : Engine) : Bool := (b.stream e).lrep != 0 && (b.stream e).status == .running

/-- What the bank has issued so far. -/
def Bank.markOf (b : Bank) (es : List Engine) : Mark :=
  ⟨es.foldl (fun m e => (b.stream e).pend.foldl (fun m p => max m p.cyc) m) 0, b.mem.seq, b.opSeq,
    (es.filter b.midWord).map (fun e => (e, (b.stream e).issued)), none⟩

/-- A mark as time goes on: once the last repetition of a word that stood between two has issued, the results of that one count too (04 R109;
17 R293). -/
def Bank.carryMark (b : Bank) (m : Mark) : Mark :=
  let mid := fun (x : Engine × W64) => (b.stream x.1).lrep != 0 && (b.stream x.1).issued == x.2
  { m with
    mid := m.mid.filter mid
    ready := (m.mid.filter (fun x => !mid x)).foldl (fun t x => (b.stream x.1).pend.foldl (fun t p => max t p.cyc) t) m.ready }

/-- Whether everything a stream had issued by a mark has completed. -/
def Bank.doneBefore (b : Bank) (cycle : Nat) (m : Mark) (e : Engine) : Bool :=
  decide (m.ready ≤ cycle) && !(m.mid.any (fun x => x.1 == e && b.midWord e && (b.stream e).issued == x.2)) && (match e with
    | .A => !(b.mem.reqs.any (fun r => decide (r.seq < m.mark))) &&
        !(b.mem.returns.any (fun r => decide (r.req.seq < m.mark))) && !(b.moves.any (fun x => decide (x.id < m.ops)))
    | .M => !(b.mEng.nest.any (fun x => decide (x.id < m.ops))) && !(b.mEng.backs.any (fun x => decide (x.id < m.ops))) &&
        !(b.mEng.loads.any (fun x => decide (x.id < m.ops)))
    | .K => !(b.kEng.op.any (fun x => decide (x.id < m.ops)))
    | _ => true)

/-- The tiles that issued and unfinished words of a stream name (01 R16). -/
def Bank.namedBy (b : Bank) (e : Engine) : List Nat :=
  let x := b.stream e
  (x.pend.map (·.tiles)).flatten ++ (if b.midWord e then x.names else []) ++ (match e with
    | .A => b.moves.map (·.tile)
    | .M => (match b.mEng.nest with | some n => n.cTile :: (match operandOf n.aSpec with | .tile t => [t] | _ => []) | none => []) ++ b.mEng.backs.map (·.tile) ++
        b.mEng.loads.map (·.tile)
    | .K => (match b.kEng.op with | some o => o.tiles | none => [])
    | _ => [])

def engines : List Engine := [.C, .A, .V, .M, .K]

/-- Whether a word of another stream still reads or writes a tile (the wait of 01 R16). -/
def Bank.tileBusy (b : Bank) (e : Engine) (t : Nat) : Bool := engines.any (fun x => x != e && (b.namedBy x).contains t)

/-- Whether only A's work still holds a tile (01 R28). -/
def Bank.heldByA (b : Bank) (e : Engine) (t : Nat) : Bool := engines.all (fun x => x == e || x == .A || !(b.namedBy x).contains t)

/-- Whether a release by the bank is complete: nothing sequenced before marker `mark` still awaits its home, a read included (11 R258,
R263). -/
def BankMem.released (m : BankMem) (mark : Nat) : Bool :=
  !(m.dirty.any (fun e => decide (e.seq < mark))) && !(m.sent.any (fun e => decide (e.seq < mark))) &&
  !(m.unacked.any (fun e => decide (e.seq < mark))) && !(m.reqs.any (fun r => decide (r.seq < mark)))

/-- Whether every row that went into a writing stream or a drain before marker `mark` has entered the FIFO (05 R123). -/
def Bank.rowsStored (b : Bank) (mark : Nat) : Bool :=
  !(b.moves.any (fun m => m.drain && decide (m.seq < mark))) &&
  !(b.dstreams.toList.any (fun d => match d.run with | some r => r.write && r.buf.any (fun x => decide (x.seq < mark)) | none => false))

/-- Whether a release by the bank's unit up to a marker is complete (11 R251, R263). -/
def Bank.released (b : Bank) (mark : Nat) : Bool := b.rowsStored mark && b.mem.released mark

def DataStream.positions (r : StreamRun) : Nat := r.dims.foldl (fun p d => p * d.e) 1

/-- A fill or drain that can move no further row, its stream idle, running the other way, or exhausted. -/
def Bank.stuckMove (k : Bank) (m : Move) : Bool :=
  match (k.ds m.stream).run with
  | none => true
  | some r => r.write != m.drain || (r.given ≥ DataStream.positions r && r.buf.isEmpty)

def overlaps (ps qs : List (Nat × Nat)) : Bool :=
  ps.any (fun p => qs.any (fun q => decide (p.1 < q.1 + q.2) && decide (q.1 < p.1 + p.2)))

/-- The aligned 8-byte units that pieces touch (11 R247). -/
def granules (ps : List (Nat × Nat)) : List (Nat × Nat) := ps.map (fun p => (p.1 / 8 * 8, (p.1 + p.2 + 7) / 8 * 8 - p.1 / 8 * 8))

/-- A request that every later memory word, stream and copy must come after: an ordinary read, whose line is filled first (11 R260), an
acquire (R135) or an atomic (05 R123, R139; log entry 58). -/
def MemReq.first (r : MemReq) : Bool := r.acq || (match r.kind with | .rmw _ _ _ | .ordinary => true | _ => false)

/-- Whether an earlier request keeps a store in the FIFO: an ordinary read, whose line is filled before any later memory word (11
R260), an acquire, or an access to its granules (11 R258). -/
def MemReq.keeps (r : MemReq) (e : StoreEntry) : Bool :=
  decide (r.seq < e.seq) && (r.kind == .ordinary || r.acq || overlaps (granules r.pieces) (granules [(e.pa, e.data.length)]))

/-- The bank without fills and drains that can move no row. -/
def Bank.going (k : Bank) : Bank := { k with moves := k.moves.filter (fun m => !k.stuckMove m) }

/-- The oldest entry of the bank's part of the dirty-line FIFO, once no row with an earlier place is still to enter before it: a store takes
its place in the core's FIFO when the rows that A's earlier drains and streams still have to store have entered. Until then it is not ahead of
what the other bank stores: behind a page fault those rows move only after the bank is active again (23 R382), so that the other bank's
releases would wait for a switch that waits for them (11 R263; DESIGN CHOICE, log entry 64). -/
def Bank.front (k : Bank) : Option StoreEntry :=
  match k.mem.dirty with
  | [] => none
  | e :: _ => if k.going.rowsStored e.seq then some e else none

/-- That entry where it can leave: no earlier request keeps it. -/
def Bank.drains (k : Bank) : Option StoreEntry := k.front.filter (fun e => !(k.mem.reqs.any (·.keeps e)))

/-- Whether entries of the core's other bank stand ahead of place `n` in the core's dirty-line FIFO (11 R263). -/
def Bank.ahead (k : Bank) (n : Nat) : Bool :=
  k.mem.sent.any (fun e => decide (e.seq < n)) || k.mem.unacked.any (fun e => decide (e.seq < n)) || k.front.any (fun e => decide (e.seq < n))

/-- Whether a release by bank `b` up to a marker is complete: the FIFO is the core's, so entries of the other bank ahead of the marker
count too (11 R251, R263). -/
def State.released (s : State) (b : BankId) (mark : Nat) : Bool :=
  (s.bank b).released mark && !((s.bank { b with slot := !b.slot }).ahead mark)

/-- An acquire by an engine stream of the bank: clean lines are discarded, the snapshot point moves (11 R260, R263). -/
def BankMem.acquire (m : BankMem) : BankMem :=
  { m with lines := [], badLines := [], copied := [], own := m.own.filter (fun o => !o.done), snap := m.seq }

/-- Bytes of a write reach the lines held. -/
def patchLines (lines : List (Nat × List Byte)) (pa : Nat) (d : List Byte) : List (Nat × List Byte) :=
  d.zipIdx.foldl (fun ls x => match kfind ls ((pa + x.2) / 64) with
    | some l => kset ls ((pa + x.2) / 64) (modAt (fun _ => x.1) l ((pa + x.2) % 64))
    | none => ls) lines

/-- The rows that a wait of 05 R123 has waited for are seen by A's loads from now on, in lines that the bank holds too. -/
def BankMem.reveal (m : BankMem) (p : OwnByte → Bool) : BankMem :=
  { m with
    own := m.own.map (fun o => if p o then { o with row := none } else o)
    lines := (m.own.filter (fun o => p o && o.done)).foldr (fun o ls => patchLines ls o.pa [o.val]) m.lines }

/-- The bank's stores that its own ordinary reads see (05 R123). -/
def BankMem.shown (m : BankMem) : List OwnByte := m.own.filter (·.row.isNone)

/-- The latest of some stores to a byte with a place before `seq`. -/
def ownByte (os : List OwnByte) (pa seq : Nat) : Option Byte :=
  (os.foldl (fun (b : Option OwnByte) o =>
    if o.pa = pa && decide (o.seq < seq) && (match b with | some x => decide (x.seq < o.seq) | none => true) then some o else b) none).map (·.val)

/-- Whether some bytes come from no such store. -/
def needsLine (os : List OwnByte) (seq : Nat) (p : Nat × Nat) : Bool := (List.range p.2).any (fun i => (ownByte os (p.1 + i) seq).isNone)

/-- Whether one such store covers a whole line (22 R379). -/
def coversLine (os : List OwnByte) (seq l : Nat) : Bool :=
  os.any (fun o => o.pa == 64 * l && decide (o.seq < seq) && (List.range 64).all (fun i => os.any (fun x => x.pa == 64 * l + i && x.seq == o.seq)))

def acquire (s : State) (b : BankId) : State := s.modBank b (fun k => { k with mem := k.mem.acquire })

/-- Adds to a semaphore of a context (04 R94). -/
def semAdd (s : State) (ctx n : Nat) (inc : BitVec 32) : State :=
  s.modCtx ctx (fun c =>
    { c with sems := kupd ⟨0, false, 0⟩ c.sems n (fun x => { x with val := x.val + inc }), changes := c.changes + 1 })

def Ctx.sem (c : Ctx) (n : Nat) : Sem := kget ⟨0, false, 0⟩ c.sems n

/-- The test of SEMWAIT (04 R93). -/
def semReached (val w : BitVec 32) : Bool := (val - w).toNat < 2147483648

end Sys2Proof.Machine
end

