-- ==== Sys2Proof/Machine/Translate.lean ====
section
/-! DEFINITION. Translation (21 R342–R347), page faults and their records (R347, R348). -/

namespace Sys2Proof.Machine

/-- An access to be translated; an RMW is a write. -/
inductive Access where
  | read | write | fetch
  deriving DecidableEq, Repr

/-- What a translation gives: the model's address of the byte, a missing translation, a forbidden access, or a shared-scratch
way that is changing its role (18 R314). -/
inductive Tr where
  | ok (pa : Nat) | miss | forbidden | held
  deriving DecidableEq, Repr

/-- Bits [63:52] of a VA equal bit 51 (21 R342). -/
def canonical (va : W64) : Bool := va.extractLsb' 51 13 == 0 || va.extractLsb' 51 13 == BitVec.allOnes 13

/-- The 52 bits of a VA that translate. -/
def vaBits (va : W64) : Nat := va.toNat % (1 <<< 52)

/-- Whether a device physical address exists and holds data (22 R369, R370). -/
def frameExists (s : State) (pa : Nat) : Bool :=
  if pa < Config.hbmSize then
    !((kget 0 s.mem.protmap (pa / 1073741824 / 64)).getLsbD (pa / 1073741824 % 64) && decide (pa % 1073741824 ≥ 939524096))
  else 2199023255552 ≤ pa && pa < 4398046511104

/-- Bytes of the shared-scratch window (18 R313). -/
def windowSize : Nat := Config.sliceCount * 16 * 65536

/-- Cycles one way between a core and the home of an address; to the CXL port the spec gives none (17 R303; log entry 58). -/
def homeTime (m : MemSys) (core pa : Nat) : Nat :=
  match homeOf m pa with
  | some n => wayTime (corePos core) (sliceStrip n)
  | none => 0

/-- Cycles one way for an access of several pieces. -/
def homeTimes (m : MemSys) (core : Nat) (ps : List (Nat × Nat)) : Nat := ps.foldl (fun t p => max t (homeTime m core p.1)) 0

/-- The offset of a VA in a launch's shared-scratch window; a launch whose plan gives it no slice has none (log entry 19). -/
def scratchOff (l : Launch) (va : Nat) : Option Nat :=
  let base := vaBits l.ssbase
  if !l.plan.isEmpty ∧ base ≤ va ∧ va < base + windowSize then some (va - base) else none

/-- The way a window offset lies in (18 R313, R314): shared scratch, cache, or changing its role. A request to a way that is to be
shared scratch goes to the slice, which holds it; one to a way that is to be cache waits to fail there. The ways of a slice outside the
launch's plan are cache to it. -/
def scratchWay (s : State) (l : Launch) (off : Nat) : Tr :=
  let x := s.slice (off / 65536 / 16)
  let w := off / 65536 % 16
  if (kfind l.plan (off / 65536 / 16)).isNone then .forbidden
  else if x.final.getLsbD w then .ok (Config.scratchBase + off) else if x.turning.getLsbD w then .held else .forbidden

/-- Whether an entry's frame lies in host memory. -/
def TlbEntry.host (e : TlbEntry) : Bool := e.iova.isSome

def TlbEntry.covers (e : TlbEntry) (ctx va : Nat) : Bool :=
  e.ctx == ctx && (if e.large then e.page == va / 2097152 else e.page == va / 65536)

def TlbEntry.allows (e : TlbEntry) : Access → Bool
  | .read => e.r
  | .write => e.w && !e.x
  | .fetch => e.x

def TlbEntry.addr (e : TlbEntry) (va : Nat) : Nat :=
  e.frame + va % (if e.large then 2097152 else 65536) + (if e.host then Config.hostBase else 0)

/-- Translates a VA in a context through a core's TLB; `l` is the launch whose shared-scratch window applies. -/
def translate (s : State) (core ctx : Nat) (l : Option Launch) (va : W64) (a : Access) : Tr :=
  if !canonical va then .forbidden
  else
    let v := vaBits va
    match (s.core core).tlb.find? (·.covers ctx v) with
    | none => .miss
    | some e =>
      if !e.allows a then .forbidden
      else match l.bind (fun l => (scratchOff l v).map (fun o => (l, o))) with
        | some (l, off) => scratchWay s l off
        | none => if e.host || frameExists s (e.addr v) then .ok (e.addr v) else .forbidden

/-- The launch of a context whose shared-scratch window holds a VA, for a party of an I/O die (18 R313): of several the one whose plan has the slice. -/
def windowLaunch (s : State) (ctx v : Nat) : Option Launch :=
  let ls := (s.host.launches.filter (fun l => !l.2.done && l.2.ctx == ctx && (scratchOff l.2 v).isSome)).map (·.2)
  (ls.find? (fun l => (scratchOff l v).any (fun o => (kfind l.plan (o / 65536 / 16)).isSome))).or ls.head?

/-- What an entry gives a party of an I/O die for a VA. -/
def ioTr (s : State) (ctx : Nat) (e : TlbEntry) (va : W64) (a : Access) : Tr :=
  let v := vaBits va
  if !e.allows a then .forbidden
  else match (windowLaunch s ctx v).bind (fun l => (scratchOff l v).map (fun o => (l, o))) with
    | some (l, off) => scratchWay s l off
    | none => if e.host || frameExists s (e.addr v) then .ok (e.addr v) else .forbidden

/-- The die of a core. -/
def dieOf (core : Nat) : Nat := core / 160

/-- Asks the die's walker for a page (21 R344): attaches to a walk for it, starts one where fewer than 64 are outstanding, and
otherwise waits. -/
def requestWalk (s : State) (die ctx : Nat) (va : W64) (src : Source) (write : Bool) : State :=
  let page := vaBits va / 65536
  match findIdx1 (fun w => w.1 == die && w.2.ctx == ctx && w.2.page == page) s.host.walks 0 with
  | some (i, w) =>
    if w.2.reqs.any (fun r => r.src == src && r.write == write) then s
    else { s with host := { s.host with walks := modAt (fun w => (w.1, { w.2 with reqs := w.2.reqs ++ [⟨src, write, va⟩] })) s.host.walks i } }
  | none =>
    if (s.host.walks.filter (·.1 == die)).length ≥ 64 then s
    else { s with host := { s.host with walks := s.host.walks ++ [(die, ⟨ctx, page, [⟨src, write, va⟩], none, false, s.tick⟩)] } }

/-- What a walk finds (21 R342–R345). -/
inductive WalkEnd where
  | fault | forbidden | entry (e : TlbEntry) | host (iova : Nat) (e : TlbEntry)
  deriving DecidableEq, Repr

/-- A page-table entry, read at home. -/
def pte (s : State) (table idx : Nat) : Nat := leNat (s.look (table + 8 * idx) 8)

/-- The entries that a walk of a page reads, in level order (R344). -/
def walkReads (s : State) (ctx page : Nat) : List Nat :=
  let a0 := (s.ctx ctx).ptroot + 8 * (page / 16777216)
  let e0 := leNat (s.look a0 8)
  if e0 % 2 = 0 || bits e0 63 52 ≠ 0 || bits e0 14 1 ≠ 0 then [a0]
  else
    let a1 := bits e0 51 15 * 32768 + 8 * (page / 4096 % 4096)
    let e1 := leNat (s.look a1 8)
    if e1 % 2 = 0 || bits e1 63 52 ≠ 0 || bits e1 14 1 ≠ 0 then [a0, a1] else [a0, a1, bits e1 51 15 * 32768 + 8 * (page % 4096)]

/-- Whether an entry lies in a poisoned line (22 R379). -/
def pteBad (s : State) (table idx : Nat) : Bool := s.mem.poison.contains ((table + 8 * idx) / 64)

/-- The walk of a page: three entries in level order. -/
def walkTable (s : State) (ctx page : Nat) : WalkEnd :=
  let e0 := pte s (s.ctx ctx).ptroot (page / 16777216)
  if pteBad s (s.ctx ctx).ptroot (page / 16777216) then .forbidden
  else if e0 % 2 = 0 then .fault
  else if bits e0 63 52 ≠ 0 || bits e0 14 1 ≠ 0 then .forbidden
  else
    let e1 := pte s (bits e0 51 15 * 32768) (page / 4096 % 4096)
    if pteBad s (bits e0 51 15 * 32768) (page / 4096 % 4096) then .forbidden
    else if e1 % 2 = 0 then .fault
    else if bits e1 63 52 ≠ 0 || bits e1 14 1 ≠ 0 then .forbidden
    else
      let e2 := pte s (bits e1 51 15 * 32768) (page % 4096)
      if pteBad s (bits e1 51 15 * 32768) (page % 4096) then .forbidden
      else if e2 % 2 = 0 then .fault
      else if bits e2 63 52 ≠ 0 || bits e2 15 6 ≠ 0 then .forbidden
      else
        let large := bits e2 4 4 == 1
        let frame := (if large then bits e2 51 16 / 32 * 32 else bits e2 51 16) * 65536
        let t : TlbEntry := { ctx := ctx, large := large, page := if large then page / 32 else page, frame := frame
                              iova := if bits e2 5 5 = 1 then some frame else none, r := bits e2 1 1 == 1, w := bits e2 2 2 == 1, x := bits e2 3 3 == 1 }
        if t.host then .host frame t else .entry t

/-- A translation enters a core's TLB, which holds 512 (05 R117). -/
def tlbInstall (s : State) (core : Nat) (e : TlbEntry) : State :=
  let c := s.core core
  s.setCore core { c with tlb := (e :: c.tlb.filter (fun x => !(x.ctx == e.ctx && x.large == e.large && x.page == e.page))).take 512 }

def Source.bank : Source → Option BankId
  | .aStream b | .dstream b _ | .fill b _ | .drain b _ | .chan b _ | .dispatch b => some b
  | .coll _ | .queue _ | .node _ _ _ => none

/-- Whether a fault of a source counts as one of the A stream (05 R124). -/
def Source.ofA : Source → Bool
  | .aStream _ | .dstream _ _ | .fill _ _ | .drain _ _ => true
  | _ => false

/-- The source code of a fault record (21 R348). -/
def Source.code : Source → Nat
  | .aStream _ => 0 | .dstream _ n => 1 + n | .fill _ _ => 9 | .drain _ _ => 10
  | .chan _ c => 11 + c | .coll _ => 15 | .dispatch _ => 16 | .queue _ | .node _ _ _ => 17

def Source.place : Source → Nat
  | .queue q | .node _ _ q => q
  | x => match x.bank with | some b => b.core | none => 0xFFFF

/-- The 32 bytes of a fault record (21 R348). -/
def faultBytes (s : State) (id ctx : Nat) (gen : BitVec 16) (page : Nat) (write : Bool) (src : Source) : List Byte :=
  leBytes 8 (page * 65536) ++ leBytes 4 id ++ leBytes 2 ctx ++ leBytes 2 gen.toNat ++ leBytes 1 (if write then 1 else 0) ++
  leBytes 1 src.code ++ leBytes 2 src.place ++ leBytes 4 0 ++ leBytes 8 s.tick

/-- MSI-X vector n is sent. -/
def State.msix (s : State) (n : Nat) : State := { s with fleet := { s.fleet with msix := s.fleet.msix ++ [n] } }

/-- A fault stops its source: A issues nothing more, a copy channel, collective, queue or node holds (21 R347). -/
def stopSource (s : State) (id : Nat) (va : W64) : Source → State
  | .aStream b => stopA b (.aStream b)
  | .dstream b n => stopA b (.dstream b n)
  | .fill b n => stopA b (.fill b n)
  | .drain b n => stopA b (.drain b n)
  | .chan b c => s.modBank b (fun k => k.setChan c { k.chan c with fault := some id })
  | .coll p => { s with esc := { s.esc with table := s.esc.table.map (fun e =>
      if e.id = p then { e with fault := some id } else e) } }
  | .dispatch b => s.modBank b (fun k => { k with faults := k.faults ++ [⟨id, va, .dispatch b, false⟩] })
  | .queue q =>
    let qs := kupd WorkQueue.reset s.host.queues q (fun x => { x with hold := some (.fault id) })
    { s with host := { s.host with queues := qs } }
  | .node r n _ => s.modRun r (fun x => { x with faults := (n, id) :: x.faults })
where
  /-- A stops at its next word (R346, R347). -/
  stopA (b : BankId) (src : Source) : State := s.modBank b (fun k => { k with
    faults := k.faults ++ [⟨id, va, src, false⟩]
    a := { k.a with status := if k.a.status = .running then .faulted else k.a.status, block := none } })

/-- A fault, or a coalesced group: one record to the fault ring, FRCOUNT, MSI-X vector 0, and its sources stop (21 R348). -/
def raiseFault (s : State) (ctx page : Nat) (reqs : List WalkReq) : State :=
  match reqs with
  | [] => s
  | q :: _ =>
    let id := s.host.nextFault
    let g := (s.ctx ctx).gen
    let log2 := bits s.host.fring.toNat 4 0
    let slot := bits s.host.fring.toNat 63 12 * 4096 + 32 * (s.host.frcount.toNat % (1 <<< log2))
    let pf : PendingFault := ⟨id, ctx, g, BitVec.ofNat 64 (page * 65536), q.write, reqs.map (fun r => (r.src, r.va))⟩
    let s1 := s.write (Config.hostBase + slot) (faultBytes s id ctx g page q.write q.src)
    let s2 := { s1 with host := { s1.host with
      frcount := s1.host.frcount + 1, nextFault := (id + 1) % 4294967296
      faults := s1.host.faults ++ [pf] } }
    reqs.foldl (fun s r => stopSource s id r.va r.src) (s2.msix 0)

/-- A walk that finds a forbidden entry: its sources meet ACCESS_VIOLATION when they next try (21 R343). -/
def noteForbidden (s : State) (page : Nat) (reqs : List WalkReq) : State :=
  reqs.foldl (fun s r => match r.src.bank with
    | some b => s.modBank b (fun k => { k with badWalks := k.badWalks ++ [(page, r.src)] })
    | none => match r.src with
      | .coll p => { s with esc := { s.esc with refused := s.esc.refused ++ [p] } }
      | .queue q => { s with host := { s.host with badQueues := s.host.badQueues ++ [q] } }
      | .node r n _ => s.modRun r (fun x => { x with refused := n :: x.refused })
      | _ => s) s

/-- Whether a walk has told a party of a bank that a page is forbidden. -/
def Bank.badPage (b : Bank) (x : Source) (va : W64) : Bool := b.badWalks.any (fun w => w.1 == vaBits va / 65536 && w.2 == x)
def Bank.clearBad (b : Bank) (x : Source) (va : W64) : Bank :=
  { b with badWalks := b.badWalks.filter (fun w => !(w.1 == vaBits va / 65536 && w.2 == x)) }

/-- The die whose walker serves an I/O-die party (log entry 9). -/
def ioDie : Nat := 0

/-- A finished walk's translation reaches every core that waits for it, and the I/O die, to whose translations the spec sets no number (log entry
9). -/
def installFor (s : State) (reqs : List WalkReq) (e : TlbEntry) : State :=
  reqs.foldl (fun s r => match r.src.bank with
    | some b => tlbInstall s b.core e
    | none => { s with host := { s.host with iotlb := e :: s.host.iotlb.filter (· != e) } }) s

/-- Only translations for which `keep` holds stay, in every TLB. -/
def keepEntries (s : State) (keep : TlbEntry → Bool) : State :=
  { s with
    cores := s.cores.map (fun c => (c.1, { c.2 with tlb := c.2.tlb.filter keep }))
    host := { s.host with iotlb := s.host.iotlb.filter keep } }

end Sys2Proof.Machine
end

