-- ==== Sys2Proof/Machine/Home.lean ====
section
/-! DEFINITION. What happens at a home: errors, poison and rebuilds (22 R377–R381), the slice map (R374, R375), deadlines
(R373), plain writes with sector tags (11 R249, R265–R267), reads, and the events of 22 that act on lines. -/

namespace Sys2Proof.Machine

/-! ### Fault addresses and bad pages (22 R380, R381) -/

/-- The store of a model address as 21 R366 numbers it: 5 capacity tier, else 4; L2 is named by who reports. -/
def storeOf (pa : Nat) : Nat := if 2199023255552 ≤ pa && pa < 4398046511104 then 5 else 4

/-- A fault-address entry (21 R366). -/
def faqWord (store kind pa : Nat) : W64 :=
  BitVec.ofNat 64 (store <<< 60 + kind <<< 58 + pa / 64 * 64 % 4503599627370496)

/-- The bad-page list after an event on a page (22 R381): the list, and whether an append was lost. -/
def notePage (l : List W64) (store kind pa : Nat) : List W64 × Bool :=
  let frame := pa % 4503599627370496 / 65536
  match findIdx1 (fun (e : W64) => bits e.toNat 51 16 == frame) l 0 with
  | some (i, e) =>
    let n := min 65535 (bits e.toNat 15 0 + 1)
    let k := max (bits e.toNat 59 58) kind
    (modAt (fun _ => BitVec.ofNat 64 (bits e.toNat 63 60 <<< 60 + k <<< 58 + bits e.toNat 57 57 <<< 57 + frame <<< 16 + n)) l i, false)
  | none =>
    if l.length ≥ 4096 then (l, true)
    else (l ++ [BitVec.ofNat 64 (store <<< 60 + kind <<< 58 + frame <<< 16 + 1)], false)

/-- The physical address that is reported for a line: of shared scratch the spec gives none (a free value, log entry 5). -/
def lineAddress (s : State) (pa : Nat) : Nat × State :=
  if pa < 4503599627370496 then (pa, s)
  else
    let f := s.fresh
    (f.1 % 70368744177664 * 64, f.2)

/-- A fault-address entry arises (22 R380): it enters the queue of 256 or is lost; the bad-page list is updated. -/
def faultAddress (s : State) (store kind pa : Nat) : State :=
  let (pa, s) := lineAddress s pa
  let m := s.mem
  let bp := notePage m.badPages store kind pa
  let m := { m with badPages := bp.1, bpLost := if bp.2 then m.bpLost + 1 else m.bpLost }
  if m.faq.length < 256 then
    ({ s with mem := { m with faq := m.faq ++ [faqWord store kind pa], faqCount := m.faqCount + 1 } }).msix 1
  else { s with mem := { m with faqLost := m.faqLost + 1 } }

/-- A corrected event (22 R380): the fourth of its page makes an entry; 1,024 pages are counted, the least recent replaced. -/
def corrected (s : State) (store pa : Nat) : State :=
  let page := pa / 65536
  let n := (match s.mem.events.find? (fun e => e.1 == page) with | some e => e.2 | none => 0) + 1
  let s := { s with mem := { s.mem with events := ((page, n) :: s.mem.events.filter (fun e => e.1 != page)).take 1024 } }
  if n = 4 then faultAddress s store 0 pa else s

/-! ### Deadlines (22 R371, R373) -/

/-- `n` requests of a requester, in a class, with this deadline have completed now. -/
def noteMisses (s : State) (n requester cls limit : Nat) : State :=
  if s.tick > limit then
    { s with mem := { s.mem with miss := kupd 0 s.mem.miss (4 * requester + cls) (· + n) } }
  else s

/-- One such request. -/
def noteMiss (s : State) (requester cls limit : Nat) : State := noteMisses s 1 requester cls limit

/-- `n` replies to the copy channels of a core leave, to be there in cycle `c` (17 R303). -/
def State.reply (s : State) (core c n limit : Nat) : State :=
  s.setCore core { s.core core with replies := (s.core core).replies ++ [(c, n, limit)] }

/-- The replies that have arrived at the copy channels of a core count (22 R373). -/
def repliesBack (s : State) (core : Nat) : State :=
  let c := s.core core
  if c.replies.any (fun r => decide (r.1 ≤ s.cycle)) then
    (c.replies.filter (fun r => decide (r.1 ≤ s.cycle))).foldl (fun s r => noteMisses s r.2.1 (1280 + core) 2 r.2.2)
      (s.setCore core { c with replies := c.replies.filter (fun r => decide (s.cycle < r.1)) })
  else s

/-- The requester and class of requests that are performed in the step that makes them, unless their home holds them (22 R371, R373, R376;
log entry 9 names the escapement of a collective and of a queue). -/
def Asker.requester : Asker → Nat × Nat
  | .source (.chan b _) | .record b _ => (1280 + b.core, 2)
  | .source (.coll _) => (2560, 0)
  | .source (.queue _) | .source (.node _ _ _) => (2560, 1)
  | .source (.aStream b) | .source (.dstream b _) | .source (.fill b _) | .source (.drain b _) | .source (.dispatch b) => (b.core, 1)
  | .walk n _ => (n, 1)
  | .ats _ => (2562, 2)
  | .mgmt _ | .move _ | .upload => (2563, 3)

/-- A request is made which takes longer than a step. -/
def noteAsked (s : State) (x : Asker) : State :=
  if s.mem.asked.any (·.who == x) then s
  else { s with mem := { s.mem with asked := s.mem.asked ++ [⟨x, s.deadline x.requester.2, s.cycle, none, s.cycle⟩] } }

/-- A request waits at its home, which holds it: since the cycle in which it reached the line. -/
def noteHeld (s : State) (x : Asker) (pa : Nat) : State :=
  let s := noteAsked (wakeHome s pa) x
  { s with mem := { s.mem with asked := s.mem.asked.map (fun y => if y.who ≠ x then y
      else if y.line = some (pa / 64) then { y with last := s.cycle } else { y with line := some (pa / 64), cycle := s.cycle, last := s.cycle }) } }

/-- A party has nothing that waits any more. -/
def unasked (s : State) (x : Asker) : State :=
  if s.mem.asked.any (·.who == x) then { s with mem := { s.mem with asked := s.mem.asked.filter (·.who != x) } } else s

/-- `n` such requests have completed. -/
def served (s : State) (x : Asker) (n : Nat) : State :=
  match s.mem.asked.find? (·.who == x) with
  | none => s
  | some y =>
    noteMisses (unasked s x) n x.requester.1 x.requester.2 y.limit

/-! ### Lines at their channels (22 R377, R378) -/

/-- A line becomes poisoned (22 R377, kind 2). -/
def poisonLine (s : State) (store pa : Nat) : State :=
  faultAddress { s with mem := { s.mem with poison := pa / 64 :: s.mem.poison.filter (· != pa / 64) } } store 2 pa

/-- The tier copy of a line of a mirror range. -/
def tierCopy (m : MemSys) (pa : Nat) : Option Nat :=
  (m.mirrors.find? (fun x => decide (x.2.base.toNat ≤ pa) && decide (pa < x.2.base.toNat + x.2.len.toNat))).map
    (fun x => x.2.tier.toNat + (pa / 64 * 64 - x.2.base.toNat))

/-- A line is rebuilt (22 R378, kind 1): its write-back begins, in class 3. -/
def rebuilt (s : State) (pa : Nat) : State :=
  let s := noteAsked { s with mem := { s.mem with cwd := s.mem.cwd + 1, rebuilds := s.mem.rebuilds ++ [pa / 64] } } (.mgmt (Config.sliceCount + pa / 64))
  faultAddress s 4 1 pa

/-- The armed errors of a line that is read at its channel are met: whether one is uncorrectable, for which `f` stands. -/
def readArmed (f : State → State) (s : State) (line : Nat) : Bool × State :=
  let js := (armedIn s line 64).filter (fun x => x.2.store == storeOf line)
  let s := js.foldl (fun s x => let s := dropInj s x.1 x.2; if x.2.hard then s else corrected s (storeOf line) line) s
  if js.any (·.2.hard) then (false, f s) else (!s.mem.poison.contains (line / 64), s)

/-- A tier copy that is read: it has no source of its own. -/
def readTier (s : State) (line : Nat) : Bool × State := readArmed (fun s => poisonLine s (storeOf line) line) s line

/-- A line that is read at its channel as a source of a rebuild: whether it reads without an uncorrectable error. With one of its own it is
rebuilt from its clean tier copy, or poisoned: of its parity group the line that is being rebuilt is no source. -/
def readSource (s : State) (line : Nat) : Bool × State :=
  readArmed (fun s => match tierCopy s.mem line with
    | some t =>
      let x := if mirrorClean s.mem line then readTier s t else (false, s)
      if x.1 then rebuilt x.2 line else poisonLine x.2 (storeOf line) line
    | none => poisonLine s (storeOf line) line) s line

/-- Sources that must all answer. -/
def readSources (s : State) (lines : List Nat) : Bool × State :=
  lines.foldl (fun x l => let y := readSource x.2 l; (x.1 && y.1, y.2)) (true, s)

/-- The sources of a line in their order: its parity group, its tier copy; `parityOk` and `mirrorOk` are what the channel found of them. -/
def rebuildSource (s : State) (pa : Nat) (parityOk mirrorOk : Bool) : Bool × State :=
  let x := if isProtected s.mem pa && parityOk then readSources s ((groupLines (parityGroup pa)).filter (· != pa / 64 * 64)) else (false, s)
  match x.1, mirrorClean s.mem pa && mirrorOk, tierCopy s.mem pa with
  | false, true, some t => readTier x.2 t
  | _, _, _ => x

/-- An uncorrectable line (22 R377, R378): rebuilt where a source answers, else poisoned. -/
def uncorrectable (s : State) (pa : Nat) (parityOk mirrorOk : Bool) : State :=
  let x := if storeOf pa = 4 then rebuildSource s pa parityOk mirrorOk else (false, s)
  if x.1 then rebuilt x.2 pa else poisonLine x.2 (storeOf pa) pa

/-- A read of a line at its channel ends (22 R377). -/
def channelRead (s : State) (pa : Nat) (o : EccOutcome) : State :=
  match o with
  | .clean => s
  | .corrected => corrected s (storeOf pa) pa
  | .uncorrectable p m => uncorrectable s pa p m

/-- Whether a channel has a line at an address: of HBM, a parity line among them, or of the tier (22 R369, R370). -/
def lineExists (pa : Nat) : Bool := decide (pa < Config.hbmSize) || (decide (2199023255552 ≤ pa) && decide (pa < 4398046511104))

/-- MEMORY_READ (22 R377): a line that exists and that nothing holds is read at its channel with this outcome. -/
def memoryRead (s : State) (addr : Nat) (o : EccOutcome) : State :=
  if lineExists addr && !rebuildHeld s.mem addr then channelRead s addr o else s
def execMemoryRead (addr : Nat) (o : EccOutcome) (s : State) : Out := .next (memoryRead s addr o)

/-- SCRUB (22 R371, 24): the memory controller reads a line in class 3, once nothing holds it. -/
def scrub (s : State) (addr : Nat) (o : EccOutcome) : State :=
  if !lineExists addr then s
  else if mustQueue s.mem (addr / 64 * 64) 64 then queueOp (wakeHome s addr) (.scrub addr o) 3
  else channelRead s addr o
def execScrub (addr : Nat) (o : EccOutcome) (s : State) : Out := .next (scrub s addr o)

/-! ### The end of a hold (22 R375, R378) -/

/-- The accesses of a bank that are on their way to a home or wait there: the cycle of their arrival and their pieces. -/
def Bank.arriving (k : Bank) : List (Nat × List (Nat × Nat)) :=
  k.mem.reqs.map (fun r => (r.due, r.pieces)) ++ k.mem.sent.map (fun e => (e.due, [(e.pa, e.data.length)])) ++
  k.dstreams.toList.flatMap (fun d => match d.run with
    | some r => r.asked.map (fun a => (a.due, a.lines.map (fun l => (l, 64))))
    | none => [])

/-- Whether an access is one that had arrived while a hold lasted. -/
def PastHold.held (m : MemSys) (h : PastHold) (x : Nat × List (Nat × Nat)) : Bool :=
  decide (x.1 ≤ h.cycle) && x.2.any (fun p => h.covers m p.1)

/-- The accesses of other parties that wait at homes: the cycle of their arrival and their pieces. -/
def Asked.pieces (x : Asked) : List (Nat × Nat) := x.line.toList.map (fun l => (64 * l, 64))
def MemSys.waiting (m : MemSys) : List (Nat × List (Nat × Nat)) :=
  m.asked.map (fun x => (x.cycle, x.pieces)) ++ m.queued.map (fun w => (w.cycle, [w.op.span]))

/-- A hold has ended: it is kept as long as something waits that it held. -/
def endHold (s : State) (h : PastHold) : State :=
  let live := fun (h : PastHold) => (s.cores.flatMap (fun c => c.2.bank0.arriving ++ c.2.bank1.arriving) ++ s.mem.waiting).any (h.held s.mem)
  { s with mem := { s.mem with past := (s.mem.past ++ [h]).filter live } }

/-- REBUILD_WRITEBACK (22 R378): the rebuilt line is back in HBM; what it held can go on, in the order of its arrival. -/
def rebuildWriteback (s : State) (addr : Nat) : State :=
  if s.mem.rebuilds.contains (addr / 64) then
    let s := served s (.mgmt (Config.sliceCount + addr / 64)) 1
    endHold { s with mem := { s.mem with rebuilds := s.mem.rebuilds.filter (· != addr / 64) } } ⟨some (addr / 64), [], s.cycle⟩
  else s
def execRebuildWriteback (addr : Nat) (s : State) : Out := .next (rebuildWriteback s addr)

/-! ### Injected errors in L2, HBM and the tier (21 R367) -/

/-- A read meets an armed error: corrected, rebuilt or poisoned. Whether an L2 line is dirty is a free value (log entry 5);
shared scratch always is. -/
def meetOne (s : State) (c : Nat) (j : Injection) : State :=
  if !(s.core c).inj.contains j then s
  else
    let s := dropInj s c j
    if !j.hard then corrected s j.store j.addr
    else if j.store = 3 then
      let (f, s) := s.fresh
      if isDevice j.addr && f % 2 = 0 then
        faultAddress { s with mem := { s.mem with cwd := s.mem.cwd + 1 } } 3 1 j.addr
      else poisonLine s 3 j.addr
    else uncorrectable s j.addr true true

/-- A read meets every armed error of its bytes. -/
def meetInjection (s : State) (pa n : Nat) : State := (armedIn s pa n).foldl (fun s x => meetOne s x.1 x.2) s

/-! ### Reads and writes at the home (11 R249, R265–R267; 22 R379) -/

/-- A read reaches bytes at their homes and meets injected errors there. -/
def touchBytes (s : State) (pa n : Nat) : State := meetInjection (wakeHomes s pa n) pa n

/-- The same where an uncorrectable error that has been armed since its word issued is left for a later read (22 R379; log entry 58). -/
def touchIssued (s : State) (pa n : Nat) : State :=
  let s := wakeHomes s pa n
  ((armedIn s pa n).filter (fun x => !x.2.hard)).foldl (fun s x => meetOne s x.1 x.2) s

/-- A read at the home: its bytes, whether a line of it is poisoned, and the state that has met injected errors. -/
def homeRead (s : State) (pa n : Nat) : List Byte × Bool × State :=
  let s := touchBytes s pa n
  (s.peek pa n, poisonedIn s pa n, s)

/-- The reads of a walk of a page (21 R344). -/
def walkMeet (s : State) (ctx page : Nat) : State := (walkReads s ctx page).foldl (fun s a => touchBytes s a 8) s

/-- The pieces of a write by 32-byte sector. -/
def sectorPieces : Nat → Nat → List Byte → List (Nat × List Byte)
  | 0, _, _ => []
  | f + 1, pa, d =>
    if d.isEmpty then []
    else
      let n := min d.length (32 - pa % 32)
      (pa, d.take n) :: sectorPieces f (pa + n) (d.drop n)

/-- Whether a sector drops a write of an identity, and the tag it takes otherwise. -/
def sectorDrops (t : Option SectorTag) (id : Nat × Nat × Nat) : Bool :=
  match t with
  | some t => t.launch == id.1 && t.epoch == id.2.1 && decide (id.2.2 < t.ident)
  | none => false

/-- A plain write at its home; `id` is (launch, epoch, identity) in deterministic mode. The write is decided sector by sector;
a dropped sector counts in OVERRULED of context `ctx` (R267). Coherent host memory lies in no sector of L2 (R247, R266). -/
def plainWrite (s : State) (ctx : Nat) (id : Option (Nat × Nat × Nat)) (pa : Nat) (data : List Byte) : State :=
  match (if (homeOf s.mem pa).isSome then id else none) with
  | none => putBytes s pa data
  | some i =>
    let ps := sectorPieces (data.length + 1) pa data
    if ps.all (fun p => !sectorDrops (kfind s.mem.tags (p.1 / 32)) i) then
      let s := putBytes s pa data
      { s with mem := { s.mem with tags := ps.foldl (fun t p => kset t (p.1 / 32) ⟨i.1, i.2.1, i.2.2⟩) s.mem.tags } }
    else ps.foldl (fun s p =>
      if sectorDrops (kfind s.mem.tags (p.1 / 32)) i then
        (s.modCtx ctx (fun c => { c with overruled := c.overruled + 1 })).modLaunch i.1 (fun l => { l with dropped := l.dropped + 1 })
      else
        let s := putBytes s p.1 p.2
        { s with mem := { s.mem with tags := kset s.mem.tags (p.1 / 32) ⟨i.1, i.2.1, i.2.2⟩ } }) s

/-! ### The slice map (22 R375) -/

/-- The next slice after `n` that is not retired; `fuel` bounds the search. -/
def nextSlice (s : State) : Nat → Nat → Nat
  | 0, n => n
  | f + 1, n => let k := (n + 1) % Config.sliceCount; if (s.slice k).retired then nextSlice s f k else k

/-- Whether R375 lets firmware retire a slice now. -/
def mayRetire (s : State) (n : Nat) : Bool :=
  decide (n < Config.sliceCount) && !(s.slice n).retired && (s.slice n).owner.isNone && s.mem.moving.isNone &&
  !(s.host.launches.any (fun l => !l.2.done && (s.ctx l.2.ctx).det))

/-- SLRETIRE (22 R375, R376): once the conditions hold, for which firmware waits, the map names other slices and the slice's buckets
move; its write-back begins. -/
def slretire (s : State) (v : W64) : State :=
  let n := (v.extractLsb' 0 11).toNat
  if !v.getLsbD 63 || decide (Config.sliceCount ≤ n) || (s.slice n).retired then s
  else if !mayRetire s n then
    if s.mem.retire.contains n then s else { s with mem := { s.mem with retire := s.mem.retire ++ [n] } }
  else
    let s := noteAsked s (.mgmt n)
    let bs := (List.range 16384).filter (fun b => kget (b % 1280) s.mem.smap b == n)
    let t := nextSlice s 1280 n
    let g := s.mem.gen + 1
    let s := s.setSlice n { s.slice n with retired := true }
    { s with mem := { s.mem with
      gen := g, moving := some (n, bs), retire := s.mem.retire.filter (· != n)
      smap := bs.foldl (fun m b => kset m b t) s.mem.smap
      moved := bs.foldl (fun m b => kset m b g) s.mem.moved } }
def execSlretire (v : BitVec 64) (s : State) : Out := .next (slretire s v)

/-- RETIREMENT_WRITEBACK_DONE (22 R375): the old slice has written back; its sector tags go and its buckets stop moving. How many of
its lines were dirty, each a request (R371, R373), is a free value (log entry 5). -/
def retirementDone (s : State) : State :=
  match s.mem.moving with
  | none => s
  | some (n, bs) =>
    let (f, s) := s.fresh
    let s := served s (.mgmt n) (f % 16385)
    endHold { s with mem := { s.mem with
      moving := none, tags := s.mem.tags.filter (fun t => !(isDevice (32 * t.1) && bs.contains (bucketOf (32 * t.1)))) } } ⟨none, bs, s.cycle⟩
def execRetirementWritebackDone (s : State) : Out := .next (retirementDone s)

/-- The first item of a list with an old map is resent. -/
def resendFirst {α : Type} (stale : α → Bool) (again : α → α) (l : List α) : Option (List α) :=
  (findIdx1 stale l 0).map (fun x => modAt again l x.1)

/-- A row that a reading stream has asked for under an old map is asked for again, to arrive at the time `due` gives (17 R303). -/
def DataStream.freshen (d : DataStream) (sys : MemSys) (now : Nat) (due : List (Nat × Nat) → Nat) : Option DataStream :=
  d.run.bind (fun r => (resendFirst (fun (a : Ask) => a.got.isNone && decide (a.due ≤ now) && a.lines.any (staleMap sys a.gen))
    (fun a => { a with gen := sys.gen, due := due (a.lines.map (fun l => (l, 64))) }) r.asked).map (fun l => { d with run := some { r with asked := l } }))

/-- The record that a chain has asked for under an old map, asked for again. -/
def Chain.freshen (h : Chain) (sys : MemSys) (now : Nat) (due : List (Nat × Nat) → Nat) : Option Chain :=
  h.ask.bind (fun a => if a.got.isNone && decide (a.due ≤ now) && a.lines.any (staleMap sys a.gen) then
    some { h with ask := some { a with gen := sys.gen, due := due (a.lines.map (fun l => (l, 64))) } } else none)
def Channel.freshen (c : Channel) (sys : MemSys) (now : Nat) (due : List (Nat × Nat) → Nat) : Option Channel :=
  match c.heads with
  | h :: l => (h.freshen sys now due).map (fun x => { c with heads := x :: l })
  | [] => none

/-- A request, store, row or record read of a bank that has reached a slice with an old map, resent. -/
def Bank.freshen (k : Bank) (sys : MemSys) (now : Nat) (due : List (Nat × Nat) → Nat) : Option Bank :=
  match resendFirst (fun (r : MemReq) => decide (r.due ≤ now) && r.pieces.any (fun p => staleMap sys r.gen p.1)) (fun r => { r with gen := sys.gen, due := due r.pieces }) k.mem.reqs with
  | some l => some { k with mem := { k.mem with reqs := l } }
  | none => match resendFirst (fun (e : StoreEntry) => decide (e.due ≤ now) && staleMap sys e.gen e.pa) (fun e => { e with gen := sys.gen, due := due [(e.pa, 1)] }) k.mem.sent with
    | some l => some { k with mem := { k.mem with sent := l } }
    | none => ((List.range 8).findSome? (fun n => ((k.ds n).freshen sys now due).map (fun d => k.setDs n d))).or
        ((List.range 4).findSome? (fun n => ((k.chan n).freshen sys now due).map (fun c => k.setChan n c)))

/-- The first bank with such an access. -/
def firstStale (s : State) : List (Nat × Core) → Option (BankId × Bank)
  | [] => none
  | (n, c) :: l => match c.bank0.freshen s.mem s.cycle (fun ps => s.cycle + homeTimes s.mem n ps) with
    | some k => some (⟨n, false⟩, k)
    | none => match c.bank1.freshen s.mem s.cycle (fun ps => s.cycle + homeTimes s.mem n ps) with
      | some k => some (⟨n, true⟩, k)
      | none => firstStale s l

/-- REHASH_REPLY (22 R375): a request met the old owner; its requester takes the current map and resends it. -/
def rehashReply (s : State) : State :=
  match firstStale s s.cores with
  | some (b, k) =>
    let s := s.setBank b k
    { s with mem := { s.mem with rehash := s.mem.rehash + 1 } }
  | none => s
def execRehashReply (s : State) : Out := .next (rehashReply s)

/-! ### Registers of 22 R376 -/

/-- FAQPOP: a host read pops the oldest entry. -/
def faqpop (s : State) : State := { s with mem := { s.mem with faq := s.mem.faq.tail } }
def execFaqpop (s : State) : Out := .next (faqpop s)

/-- BPRETIRE: the entry is marked retired. -/
def bpretire (s : State) (v : W64) : State :=
  { s with mem := { s.mem with badPages := modAt (fun e => e ||| (1#64 <<< 57)) s.mem.badPages (v.extractLsb' 0 12).toNat } }
def execBpretire (v : BitVec 64) (s : State) : Out := .next (bpretire s v)

/-- Whether the tables of a registered context map a frame of an HBM GiB (22 R370). -/
def mapsGib (s : State) (g : Nat) : Bool :=
  s.ctxs.any (fun c => c.2.registered && (List.range 4096).any (fun i =>
    let e0 := pte s c.2.ptroot i
    e0 % 2 == 1 && (List.range 4096).any (fun j =>
      let e1 := pte s (bits e0 51 15 * 32768) j
      e1 % 2 == 1 && (List.range 4096).any (fun k =>
        let e2 := pte s (bits e1 51 15 * 32768) k
        e2 % 2 == 1 && bits e2 5 5 == 0 && bits e2 51 16 * 65536 / 1073741824 == g))))

/-- PROTMAP i (22 R370, R376): a GiB's mode changes only while no registered context maps a frame of it. -/
def protmap (s : State) (i : Nat) (v : W64) : State :=
  if i < 20 then
    let old := kget 0 s.mem.protmap i
    let ok := BitVec.ofNat 64 (packLanes 1 ((List.range 64).map (fun j => if mapsGib s (64 * i + j) then 0 else 1)))
    { s with mem := { s.mem with protmap := kset s.mem.protmap i ((old &&& ~~~ok) ||| (v &&& ok)) } }
  else s
def execProtmap (i : Nat) (v : BitVec 64) (s : State) : Out := .next (protmap s i v)

/-- MIRROR j's length, a multiple of 2 MiB (22 R376): a nonzero length marks every line of the range clean. Base and tier base are
written through the register window. -/
def mirror (s : State) (j : Nat) (len : W64) : State :=
  if j < 64 && len.toNat % 2097152 == 0 then
    let x := kget ⟨0, 0, 0⟩ s.mem.mirrors j
    let y : Mirror := { x with len := len }
    { s with mem := { s.mem with
      mirrors := kset s.mem.mirrors j y
      mirDirty := s.mem.mirDirty.filter (fun l => !(decide (y.base.toNat ≤ 64 * l) && decide (64 * l < y.base.toNat + len.toNat))) } }
  else s
def execMirror (j : Nat) (len : BitVec 64) (s : State) : Out := .next (mirror s j len)

end Sys2Proof.Machine
end

