-- ==== Sys2Proof/Machine/Flags.lean ====
section
/-! DEFINITION. The user control registers and their access (03 R62–R64, 04 R86–R89): reserved bits read as they stand, W1C
bits clear where one is written. -/

namespace Sys2Proof.Machine

def flagINV : Nat := 1
def flagOVF : Nat := 2
def flagSAT : Nat := 4
def flagSATD : Nat := 8
def flagWIDE48 : Nat := 16

/-- The writable bits of RNDCTL: ISAT, RH and RM (03 R62). -/
def rndMask : W64 := 0x1F3

/-- The RM field of RNDCTL (03 R62). -/
def Stream.rm (x : Stream) : Nat := bits x.rndctl.toNat 1 0
/-- The RH field of RNDCTL. -/
def Stream.rh (x : Stream) : Nat := bits x.rndctl.toNat 7 4
/-- The ISAT field of RNDCTL. -/
def Stream.isat (x : Stream) : Bool := x.rndctl.getLsbD 8

/-- A user control register as CSRR reads it (04 R87). -/
def readUcr (b : Bank) (x : Stream) (n : Nat) : W64 :=
  if n = 0 then b.cycles
  else if n = 1 then x.issued
  else if n = 0x10 then x.rndctl
  else if n = 0x11 then x.numflags
  else if n = 0x12 then x.srctr
  else x.stallctl

/-- The stream after CSRW of register `n` (04 R86–R89; 03 R62–R64). CYCLES and ISSUED are read only. -/
def writeUcr (x : Stream) (n : Nat) (v : W64) : Stream :=
  if n = 0x10 then { x with rndctl := (x.rndctl &&& ~~~rndMask) ||| (v &&& rndMask) }
  else if n = 0x11 then { x with numflags := x.numflags &&& ~~~(v &&& 0x1F) }
  else if n = 0x12 then { x with srctr := v }
  else if n = 0x13 then { x with stallctl := (x.stallctl &&& ~~~1) ||| (v &&& 1) }
  else x

end Sys2Proof.Machine
end

