-- ==== Sys2Proof/Machine/Scalar.lean ====
section
/-! DEFINITION. The G class but for its lift words: integer arithmetic, constants, branches, control registers, the tick,
semaphores, fences, software traps (04 R78–R97). -/

namespace Sys2Proof.Machine

/-! ### The functions of 04 R79–R82 -/

def opMulh (x y : W64) : W64 := ((x.signExtend 128 * y.signExtend 128).extractLsb' 64 64)
def opMulhu (x y : W64) : W64 := ((x.setWidth 128 * y.setWidth 128).extractLsb' 64 64)
def opDiv (x y : W64) : W64 :=
  if y = 0 then BitVec.allOnes 64 else if x = BitVec.intMin 64 ∧ y = BitVec.allOnes 64 then BitVec.intMin 64 else x.sdiv y
def opDivu (x y : W64) : W64 := if y = 0 then BitVec.allOnes 64 else x / y
def opRem (x y : W64) : W64 :=
  if y = 0 then x else if x = BitVec.intMin 64 ∧ y = BitVec.allOnes 64 then 0 else x - y * x.sdiv y
def opShl (x y : W64) : W64 := x <<< (y.extractLsb' 0 6).toNat
def opShr (x y : W64) : W64 := x >>> (y.extractLsb' 0 6).toNat
def opSra (x y : W64) : W64 := x.sshiftRight (y.extractLsb' 0 6).toNat
def opMin (x y : W64) : W64 := if x.slt y then x else y
def opMax (x y : W64) : W64 := if x.slt y then y else x
def opMinu (x y : W64) : W64 := if x.ult y then x else y
def opMaxu (x y : W64) : W64 := if x.ult y then y else x
def opSlt (x y : W64) : W64 := if x.slt y then 1 else 0
def opSltu (x y : W64) : W64 := if x.ult y then 1 else 0

/-- The register forms: d := f(s_a, s_b) with latency `l` (04 R79). -/
def aluR (f : W64 → W64 → W64) (l : Nat) (w : BitVec 3) (d a b : Reg) (s : State) : Res State := do
  let x ← rd s a
  let y ← rd s b
  .ok (retire (wrReg s d (f x y) l) w)

/-- The immediate forms: d := f(s_a, k), G1 (04 R81). -/
def aluI (f : W64 → W64 → W64) (w : BitVec 3) (d a : Reg) (k : W64) (s : State) : Res State := do
  let x ← rd s a
  .ok (retire (wrReg s d (f x k) 1) w)

def execAdd (w : BitVec 3) (d a b : Reg) (s : State) := run s (aluR (· + ·) 1 w d a b)
def execSub (w : BitVec 3) (d a b : Reg) (s : State) := run s (aluR (· - ·) 1 w d a b)
def execAnd (w : BitVec 3) (d a b : Reg) (s : State) := run s (aluR (· &&& ·) 1 w d a b)
def execOr (w : BitVec 3) (d a b : Reg) (s : State) := run s (aluR (· ||| ·) 1 w d a b)
def execXor (w : BitVec 3) (d a b : Reg) (s : State) := run s (aluR (· ^^^ ·) 1 w d a b)
def execShl (w : BitVec 3) (d a b : Reg) (s : State) := run s (aluR opShl 1 w d a b)
def execShr (w : BitVec 3) (d a b : Reg) (s : State) := run s (aluR opShr 1 w d a b)
def execSra (w : BitVec 3) (d a b : Reg) (s : State) := run s (aluR opSra 1 w d a b)
def execMul (w : BitVec 3) (d a b : Reg) (s : State) := run s (aluR (· * ·) 3 w d a b)
def execMulh (w : BitVec 3) (d a b : Reg) (s : State) := run s (aluR opMulh 3 w d a b)
def execMulhu (w : BitVec 3) (d a b : Reg) (s : State) := run s (aluR opMulhu 3 w d a b)
def execDiv (w : BitVec 3) (d a b : Reg) (s : State) := run s (aluR opDiv 18 w d a b)
def execDivu (w : BitVec 3) (d a b : Reg) (s : State) := run s (aluR opDivu 18 w d a b)
def execRem (w : BitVec 3) (d a b : Reg) (s : State) := run s (aluR opRem 18 w d a b)
def execMin (w : BitVec 3) (d a b : Reg) (s : State) := run s (aluR opMin 1 w d a b)
def execMax (w : BitVec 3) (d a b : Reg) (s : State) := run s (aluR opMax 1 w d a b)
def execMinu (w : BitVec 3) (d a b : Reg) (s : State) := run s (aluR opMinu 1 w d a b)
def execMaxu (w : BitVec 3) (d a b : Reg) (s : State) := run s (aluR opMaxu 1 w d a b)
def execSlt (w : BitVec 3) (d a b : Reg) (s : State) := run s (aluR opSlt 1 w d a b)
def execSltu (w : BitVec 3) (d a b : Reg) (s : State) := run s (aluR opSltu 1 w d a b)

def execAddi (w : BitVec 3) (d a : Reg) (i : BitVec 10) (s : State) := run s (aluI (· + ·) w d a (i.signExtend 64))
def execAndi (w : BitVec 3) (d a : Reg) (i : BitVec 10) (s : State) := run s (aluI (· &&& ·) w d a (i.signExtend 64))
def execOri (w : BitVec 3) (d a : Reg) (i : BitVec 10) (s : State) := run s (aluI (· ||| ·) w d a (i.signExtend 64))
def execXori (w : BitVec 3) (d a : Reg) (i : BitVec 10) (s : State) := run s (aluI (· ^^^ ·) w d a (i.signExtend 64))
def execSlti (w : BitVec 3) (d a : Reg) (i : BitVec 10) (s : State) := run s (aluI opSlt w d a (i.signExtend 64))
def execShli (w : BitVec 3) (d a : Reg) (i : BitVec 6) (s : State) := run s (aluI opShl w d a (i.setWidth 64))
def execShri (w : BitVec 3) (d a : Reg) (i : BitVec 6) (s : State) := run s (aluI opShr w d a (i.setWidth 64))
def execSrai (w : BitVec 3) (d a : Reg) (i : BitVec 6) (s : State) := run s (aluI opSra w d a (i.setWidth 64))

/-- LI (04 R82). -/
def execLi (w : BitVec 3) (d : Reg) (i : BitVec 15) (s : State) :=
  run s (fun s => .ok (retire (wrReg s d (i.signExtend 64) 1) w))

/-- LSH (04 R82). -/
def execLsh (w : BitVec 3) (d : Reg) (i : BitVec 15) (s : State) :=
  run s (fun s => do
    let x ← rd s d
    .ok (retire (wrReg s d ((x <<< 15) ||| i.setWidth 64) 1) w))

/-! ### Branches and jumps (04 R83–R85) -/

/-- The target of an offset in words from the next word (02 R36). -/
def target {n : Nat} (pc : W64) (o : BitVec n) : W64 := pc + 4 + 4 * o.signExtend 64

/-- The B forms: continue at the target where the condition holds. -/
def branchIf (p : W64 → W64 → Bool) (w : BitVec 3) (a b : Reg) (o : BitVec 10) (s : State) : Res State := do
  let x ← rd s a
  let y ← rd s b
  .ok (if p x y then redirect s w (target s.me.pc o) else retire s w)

def execBeq (w : BitVec 3) (a b : Reg) (o : BitVec 10) (s : State) := run s (branchIf (· == ·) w a b o)
def execBne (w : BitVec 3) (a b : Reg) (o : BitVec 10) (s : State) := run s (branchIf (· != ·) w a b o)
def execBlt (w : BitVec 3) (a b : Reg) (o : BitVec 10) (s : State) := run s (branchIf BitVec.slt w a b o)
def execBge (w : BitVec 3) (a b : Reg) (o : BitVec 10) (s : State) := run s (branchIf (fun x y => !x.slt y) w a b o)
def execBltu (w : BitVec 3) (a b : Reg) (o : BitVec 10) (s : State) := run s (branchIf BitVec.ult w a b o)
def execBgeu (w : BitVec 3) (a b : Reg) (o : BitVec 10) (s : State) := run s (branchIf (fun x y => !x.ult y) w a b o)

/-- JAL (04 R83). -/
def execJal (w : BitVec 3) (d : Reg) (o : BitVec 15) (s : State) :=
  run s (fun s => .ok (redirect (wrReg s d (s.me.pc + 4) 1) w (target s.me.pc o)))

/-- JALR (04 R84): the target from s_a before d is written. -/
def execJalr (w : BitVec 3) (d a : Reg) (i : BitVec 10) (s : State) :=
  run s (fun s => do
    let x ← rd s a
    let t := x + 4 * i.signExtend 64
    if t.extractLsb' 0 2 ≠ 0 then valTrap .misaligned t
    else .ok (redirect (wrReg s d (s.me.pc + 4) 1) w t))

/-! ### Control registers, the tick -/

/-- CSRR (04 R86): after every earlier word of the stream has completed. A CSRR of ISSUED does not count itself, which the spec leaves open
(DESIGN CHOICE, log entry 54). -/
def execCsrr (w : BitVec 3) (d : Reg) (n : BitVec 15) (s : State) :=
  run s (fun s => do
    waitIf (!(s.myBank.completed s.cur.engine)) (s.myBank.waitsOnA s.cur.engine)
    .ok (retire (wrReg s d (readUcr s.myBank s.me n.toNat) 1) w))

/-- CSRW (04 R86). -/
def execCsrw (w : BitVec 3) (d : Reg) (n : BitVec 15) (s : State) :=
  run s (fun s => do
    waitIf (!(s.myBank.completed s.cur.engine)) (s.myBank.waitsOnA s.cur.engine)
    let v ← rd s d
    .ok (retire (s.modMe (fun x => writeUcr x n.toNat v)) w))

/-- TICK (04 R90). -/
def execTick (w : BitVec 3) (d : Reg) (s : State) := run s (fun s => .ok (retire (wrReg s d s.time.tick 1) w))

/-- TICKWAIT (04 R91): blocks while the tick counter is below s_a. -/
def execTickwait (w : BitVec 3) (a : Reg) (s : State) :=
  run s (fun s => do
    let x ← rd s a
    if s.time.tick.ult x then .error (.block .tick 0) else .ok (retire s w))

/-! ### Semaphores, fences, traps -/

/-- SEMWAIT (04 R93): the error bit traps, an unmet test blocks, a met one acquires at PKG. The test is not met while a SEMSIG of
its own stream on the semaphore is still to be performed (R94). -/
def execSemwait (w : BitVec 3) (a : Reg) (n : BitVec 10) (s : State) :=
  run s (fun s => do
    let x ← rd s a
    let m := s.myCtx.sem n.toNat
    if m.err then .error (.trap ⟨.collectiveAbort, n.setWidth 64, 0, m.why⟩)
    else if semReached m.val (x.setWidth 32) && !(s.me.sigs.any (·.sem == n.toNat)) then .ok (retire (acquire s s.cur.bank) w)
    else .error (.block .sem (n.setWidth 64)))

/-- SEMSIG (04 R94): posted with the release it waits for; performed by SEMSIG_INCREMENT. -/
def execSemsig (w : BitVec 3) (a : Reg) (n : BitVec 10) (s : State) :=
  run s (fun s => do
    let x ← rd s a
    let m := s.myBank.markOf [s.cur.engine]
    let rel := if s.cur.engine = .A || s.cur.engine = .C then some m.mark else none
    .ok (retire (s.modMe (fun y => { y with sigs := y.sigs ++ [⟨n.toNat, x.setWidth 32, m, rel⟩] })) w))

/-- FENCE (04 R95): waits for the stream's earlier words; in A also a release, then an acquire. -/
def execFence (w : BitVec 3) (_c : BitVec 2) (s : State) :=
  run s (fun s => do
    waitIf (!(s.myBank.completed s.cur.engine)) (s.myBank.waitsOnA s.cur.engine)
    if s.cur.engine = .A then
      waitIf (!(s.released s.cur.bank s.myBank.mem.seq)) true
      .ok (retire (acquire (s.modMyBank (fun k => { k with mem := k.mem.reveal (fun _ => true) })) s.cur.bank) w)
    else .ok (retire s w))

/-- A software trap: the trap PC is the next word's, the word counts as issued, its W is not applied (04 R96). -/
def softTrap (c : Cause) (i : BitVec 20) (s : State) : State :=
  let s := settle s s.cur.bank s.cur.engine
  let s := s.modMe (fun x => { x with issued := x.issued + 1 })
  takeTrap s s.cur.bank s.cur.engine ⟨c, 0, i, 0⟩ (s.me.pc + 4)

def execBrk (_w : BitVec 3) (i : BitVec 20) (s : State) : Out := .next (softTrap .break i s)
def execTrap (_w : BitVec 3) (i : BitVec 20) (s : State) : Out := .next (softTrap .softTrap i s)

/-- NOP (04 R97). -/
def execNop (w : BitVec 3) (s : State) := run s (fun s => .ok (retire s w))

end Sys2Proof.Machine
end

