-- ==== Sys2Proof/Machine/Control.lean ====
section
/-! DEFINITION. The C class: starting and joining streams, safe points, identity, command words, group barriers, bound queues,
slice repartition (04 R98–R113). -/

namespace Sys2Proof.Machine

/-- The words of 04 R98 trap while the stream has a lift level open. -/
def noLift (s : State) : Res Unit := trapIf (!s.me.lift.isEmpty) s .liftDepth

/-! ### Starting and joining streams -/

def Bank.idle (b : Bank) (e : Engine) : Bool := (b.stream e).status == .idle

/-- The stream as FORK starts it (04 R99): control registers and counts keep their values. -/
def Stream.start (x : Stream) (s1 pc : W64) (at_ : Nat) : Stream :=
  { x with regs := (Vector.replicate 32 0).set 1 s1, pc := pc, tpc := 0, status := .running, block := none, nextIssue := max x.nextIssue at_
           lift := [], join := [], lrep := 0, wait := none, lock := false }

/-- FORK.X (04 R99). The stream it starts issues no earlier than the fetch redirect allows (17 R297); FORK's W delays C alone (02 R30, which
governs by 00_scope). -/
def fork (e : Engine) (w : BitVec 3) (d : Reg) (o : BitVec 15) (s : State) : Res State := do
  noLift s
  let v ← rd s d
  if !s.myBank.idle e then .error (.block .rdv 0)
  else
    let r := redirectNo s
    let t := target s.me.pc o
    .ok (retire (r.2.modStream s.cur.bank e (·.start v t (s.cycle + 1 + r.1))) w)

def execForkA (w : BitVec 3) (d : Reg) (o : BitVec 15) (s : State) := run s (fork .A w d o)
def execForkV (w : BitVec 3) (d : Reg) (o : BitVec 15) (s : State) := run s (fork .V w d o)
def execForkM (w : BitVec 3) (d : Reg) (o : BitVec 15) (s : State) := run s (fork .M w d o)
def execForkK (w : BitVec 3) (d : Reg) (o : BitVec 15) (s : State) := run s (fork .K w d o)

/-- A channel with a transfer of the unit that is not complete (04 R101). -/
def Channel.busy (c : Channel) : Bool := !c.heads.isEmpty || !c.ready.isEmpty || c.running.isSome
def Bank.copying (b : Bank) : Bool := b.chans.any Channel.busy

/-- The unit is pre-empted: its state stays in the bank (21 R355), and its release at SYS begins (11 R256). `again`: Helmal makes
the bank runnable at once (R363). `atEnd`: the unit was at its RDV.end. A requested pre-emption's budget runs on until the bank rests (17 R305). -/
def preemptUnit (s : State) (b : BankId) (again atEnd : Bool) : State :=
  s.modBank b (fun k => { k with phase := .preempted, runnable := again, back := again, yielded := some (k.mem.seq, atEnd)
                                 bindRec := { k.bindRec with resume := true } })

/-- The safe point (04 R101): `s` is the state in which the word has retired. A pending cancel, or else a pending pre-emption,
is acted on when no copy of the unit is incomplete. -/
def safePoint (s : State) (b : BankId) : State :=
  let k := s.bank b
  let o := s.bank ⟨b.core, !b.slot⟩
  let s := if o.back && o.runnable then s.setCore b.core { s.core b.core with want := true } else s
  if k.copying then s
  else if k.cancel then endUnit s b .cancelled
  else if k.preempt.isSome then preemptUnit s b false false
  else s

/-- RDV in C (04 R100, R101). -/
def execRdv (w : BitVec 3) (x : BitVec 4) (s : State) :=
  run s (fun s => do
    noLift s
    let b := s.myBank
    if (!x.getLsbD 0 || b.idle .A) && (!x.getLsbD 1 || b.idle .V) && (!x.getLsbD 2 || b.idle .M) && (!x.getLsbD 3 || b.idle .K)
    then .ok (safePoint (retire s w) s.cur.bank)
    else .error (.block .rdv 0))

/-- RDV.end (01 R19, 04 R100, R101): a safe point, then the end of the unit, which a pre-empted unit reaches when it resumes. -/
def execRdvEnd (w : BitVec 3) (s : State) :=
  run s (fun s => do
    noLift s
    let b := s.myBank
    if b.idle .A && b.idle .V && b.idle .M && b.idle .K then
      let t := retire s w
      if !b.copying && (b.cancel || b.preempt.isSome) then
        if b.cancel then .ok (endUnit t s.cur.bank .cancelled)
        else .ok (preemptUnit t s.cur.bank false true)
      else .ok (endUnit t s.cur.bank .complete)
    else .error (.block .rdv 0))

/-- A failure recorded by M or K and not yet delivered (07 R189, 09 R211). -/
def Bank.recorded (b : Bank) : Engine → Option Failure
  | .M => b.mEng.fail
  | .K => b.kEng.fail
  | _ => none

def Bank.clearRecorded (b : Bank) : Engine → Bank
  | .M => { b with mEng := { b.mEng with fail := none } }
  | .K => { b with kEng := { b.kEng with fail := none } }
  | _ => b

/-- The trap a recorded failure becomes at the word that delivers it. -/
def Failure.at_ (f : Failure) (w : W32) : Trap := if f.word then { f.trap with tval := w.setWidth 64 } else f.trap

/-- Delivers a recorded failure as a trap of the word being issued. -/
def deliver (s : State) : Res Unit :=
  match s.myBank.recorded s.cur.engine with
  | some f => .error (.trapIn (f.at_ s.cur.word) (s.modMyBank (·.clearRecorded s.cur.engine)))
  | none => .ok ()

/-- RDV in A, V, M or K (01 R19): idle once every issued word has completed; a recorded failure is delivered here. -/
def execRdvStream (w : BitVec 3) (s : State) :=
  run s (fun s => do
    noLift s
    waitIf (!(s.myBank.completed s.cur.engine)) (s.myBank.waitsOnA s.cur.engine)
    deliver s
    .ok ((retire s w).modMe (fun x => { x with status := .idle })))

/-- SAFEPT (04 R101). -/
def execSafept (w : BitVec 3) (s : State) :=
  run s (fun s => do
    noLift s
    .ok (safePoint (retire s w) s.cur.bank))

/-! ### Identity and parameters -/

/-- UNITID (04 R102). -/
def execUnitid (w : BitVec 3) (d : Reg) (s : State) :=
  run s (fun s => .ok (retire (wrReg s d (BitVec.ofNat 64 (unitWord s s.cur.bank)) 1) w))

/-- PARAM (04 R104). -/
def execParam (w : BitVec 3) (d : Reg) (k : BitVec 6) (s : State) :=
  run s (fun s => .ok (retire (wrReg s d (s.myBank.params.getD k.toNat 0) 1) w))

/-- The rank a unit holds in a group: its first bound entry naming the unit. -/
def rankIn (unit : Nat) : List RankEntry → Nat → Option Nat
  | [], _ => none
  | r :: l, i => if r.bound && r.unit == unit then some i else rankIn unit l (i + 1)

/-- The role word of a unit in the group binding table (04 R103, 18 R307). -/
def roleOf (unit : Nat) : List Group → Option Nat
  | [] => none
  | g :: l => match rankIn unit g.ranks 0 with
    | some r => some (65536 * g.num + r)
    | none => roleOf unit l

/-- The bound entry a role word names. -/
def entryOf (gs : List Group) (role : BitVec 32) : Option RankEntry :=
  match gs.find? (fun g => g.num == role.toNat / 65536) with
  | some g => match g.ranks[role.toNat % 65536]? with
    | some r => if r.bound then some r else none
    | none => none
  | none => none

def State.myGroups (s : State) : List Group := match s.launchOf s.cur.bank with | some l => l.groups | none => []
def State.myUnit (s : State) : Nat := s.myBank.bindRec.unit.toNat

/-- ROLE (04 R103). -/
def execRole (w : BitVec 3) (d : Reg) (s : State) :=
  run s (fun s => .ok (retire (wrReg s d (BitVec.ofNat 64 ((roleOf s.myUnit s.myGroups).getD 0xFFFFFFFF)) 1) w))

/-! ### Command words -/

/-- Marks what the bank had issued when the word was first tried, and waits as an interlock (the state with the mark). -/
def firstMark (s : State) (es : List Engine) : Mark := match s.me.wait with | some m => s.myBank.carryMark m | none => s.myBank.markOf es
def keepMark (s : State) (m : Mark) (onA : Bool) : State := s.modMe (fun x => { x with wait := some m, block := none, lock := onA })

/-- ENQR (04 R106). Command words still on their way count towards the 16 of the target's queue, which the spec leaves open (DESIGN
CHOICE, log entry 54). -/
def execEnqr (w : BitVec 3) (a b : Reg) (s : State) :=
  run s (fun s => do
    let ra ← rd s a
    let v ← rd s b
    trapIf (ra.extractLsb' 32 32 ≠ 0) s .accessViolation
    let role : BitVec 32 := ra.setWidth 32
    match s.launchOf s.cur.bank, entryOf s.myGroups role with
    | some l, some e =>
      if e.chip ≠ s.time.chip.toNat then wordTrap s .accessViolation
      else match kfind l.units e.unit with
        | some (.placed p) =>
          let k := s.bank p
          if k.phase ≠ .running ∧ k.phase ≠ .preempted then wordTrap s .accessViolation
          else if k.inbound.length + k.arrivals.length ≥ 16 then .error (.block .queue (role.setWidth 64))
          else
            let m := firstMark s []
            if !s.released s.cur.bank m.mark then .ok (keepMark s m true)
            else
              let (t, s) := s.inject s.cur.bank.core p.core s.cycle
              .ok (retire (s.modBank p (fun k => { k with arrivals := k.arrivals ++ [(t, s.myUnit, v)] })) w)
        | some .waiting | some (.bound _) => if l.cancel then wordTrap s .accessViolation else .error (.block .queue (role.setWidth 64))
        | _ => wordTrap s .accessViolation
    | _, _ => wordTrap s .accessViolation)

/-- CMDPOP (04 R107). -/
def execCmdpop (w : BitVec 3) (d : Reg) (s : State) :=
  run s (fun s =>
    match s.myBank.inbound with
    | [] => .error (.block .queue 0xFFFFFFFF)
    | v :: rest => .ok (retire (acquire (wrInt (s.modMyBank (fun k => { k with inbound := rest })) d v) s.cur.bank) w))

/-- The word at a pc of the bank's text. -/
def Bank.wordAt (b : Bank) (pc : W64) : Option W32 := b.text[((pc - b.textBase).toNat) / 4]?

/-- Whether the unit's C is at a CMDPOP that issues in this cycle: it takes the oldest word (04 R108). -/
def popsNow (s : State) (b : BankId) : Bool :=
  let k := s.bank b
  k.phase == .running && (s.core b.core).active == b.slot && (s.core b.core).switching.isNone && k.c.status == .running &&
  decide (k.c.nextIssue ≤ s.cycle) && (match k.wordAt k.c.pc with
    | some x => fld x 29 3 == 0 && fld x 20 6 == 0x0B
    | none => false)

/-- The first word with RELOC set, and the list without it. -/
def takeReloc : List W64 → Option (W64 × List W64)
  | [] => none
  | v :: l => if v.getLsbD 63 then some (v, l) else match takeReloc l with
    | some (x, r) => some (x, v :: r)
    | none => none

/-- The first bank in the list whose queue holds a word with RELOC set, with the word taken. -/
def stealFrom (s : State) (launch : BitVec 32) : List BankId → Option (W64 × State)
  | [] => none
  | p :: l =>
    let k := s.bank p
    let here := k.bindRec.launch == launch && k.phase != .free && p != s.cur.bank
    let keep := if popsNow s p then k.inbound.take 1 else []
    match (if here then takeReloc (k.inbound.drop keep.length) else none) with
    | some (v, rest) => some (v, s.setBank p { k with inbound := keep ++ rest })
    | none => stealFrom s launch l

/-- The banks of a core strip in ascending train row after the core's own, wrapping round (04 R108); within a row slot 0 before slot 1,
which the spec leaves open (DESIGN CHOICE, log entry 54). -/
def stripBanks (core : Nat) : List BankId :=
  let strip := core / 10 * 10
  ((List.range 10).map (fun i => strip + (core % 10 + 1 + i) % 10)).flatMap (fun c => [⟨c, false⟩, ⟨c, true⟩])

/-- CMDSTEAL (04 R108; 18 R316: a context in deterministic mode takes none). -/
def execCmdsteal (w : BitVec 3) (d : Reg) (s : State) :=
  run s (fun s =>
    if s.myCtx.det then .ok (retire (wrInt s d 0) w)
    else match stealFrom s s.myBank.bindRec.launch (stripBanks s.cur.bank.core) with
      | some (v, t) => .ok (retire (acquire (wrInt t d v) s.cur.bank) w)
      | none => .ok (retire (wrInt s d 0) w))

/-! ### Group barriers -/

def boundRanks (rs : List RankEntry) : Nat := (rs.filter (·.bound)).length

/-- The arrival of a group is the bank's own, that of another group is kept (04 R109). -/
def Bank.recall (b : Bank) (n : Nat) : Bank :=
  if b.gbar.any (·.group == n) then b
  else { b with gbar := b.gkept.find? (·.group == n), gkept := b.gkept.filter (·.group != n) ++ b.gbar.toList }

/-- GBAR (04 R109): waits for what the unit had issued, then for the release of its stores, arrives once, and blocks until
GBAR_COMPLETION has completed it. After a trap of its watchdog an arrival is kept for the group, also where C goes on at another word
and comes to another GBAR of it: the spec speaks of the same word alone (DESIGN CHOICE, log entry 54). A GBAR of another group arrives for
itself. -/
def execGbar (w : BitVec 3) (g : BitVec 10) (s : State) :=
  run s (fun s => do
    noLift s
    let n := g.toNat
    match s.myGroups.find? (fun x => x.num == n) with
    | none => wordTrap s .accessViolation
    | some gr =>
      if (rankIn s.myUnit gr.ranks 0).isNone || gr.ranks.any (fun r => r.bound && r.chip != s.time.chip.toNat) then
        wordTrap s .accessViolation
      else match (s.myBank.recall n).gbar with
        | some x =>
          if x.passed then .ok (retire (s.modMyBank (fun k => { k.recall n with gbar := none })) w)
          else .error (.block .sem (g.setWidth 64))
        | none =>
          let m := firstMark s engines
          let r := m.rel.getD s.myBank.mem.seq
          if engines.all (s.myBank.doneBefore s.cycle m) then
            if s.released s.cur.bank r then
              let s := s.modLaunch s.myBank.launchId (fun l => { l with barrier := kupd 0 l.barrier n (· + 1) })
              let k := kget 0 s.myBank.gcount n + 1
              .ok (noteBlock (s.modMyBank (fun b => { b.recall n with gbar := some ⟨n, k * boundRanks gr.ranks, false⟩ })) .sem (g.setWidth 64))
            else .ok (keepMark s { m with rel := some r } true)
          else .ok (keepMark s m ((engines.filter (· != .A)).all (s.myBank.doneBefore s.cycle m))))

/-! ### Bound queues -/

/-- The number of a queue specifier. -/
def queueNo (q : Spec) : Nat := q.toNat - 0x20

/-- A binding of queue `q` of bank `b` ends: the receiving end is freed, here or on another chip. -/
def releaseSender (s : State) (b : BankId) (q : Nat) (x : Binding) : State :=
  match x.bank with
  | some p => s.modBank p (fun k =>
      let y := k.queue x.peerQ
      if y.sender.any (fun z => z.bank == some b && z.q == q) then k.setQueue x.peerQ { y with sender := none } else k)
  | none => if x.chip = s.time.chip.toNat then s else s.sendOut (.unbind x.chip x.id)

/-- Whether two bindings of one queue have the same receiving end. -/
def Binding.samePeer (x y : Binding) : Bool := x.chip == y.chip && x.bank == y.bank && x.role == y.role && x.peerQ == y.peerQ

/-- Rows of a binding still on their way. -/
def Binding.travelling (x : Binding) (cycle : Nat) : Bool :=
  match x.bank with
  | some _ => !x.way.isEmpty
  | none => x.way.any (fun r => decide (cycle < r.1))

/-- The word waits as an interlock that is not on A's work, in this state. -/
def State.waits (s : State) : State := s.modMe (fun x => { x with block := none, lock := false })

/-- A bind request is posted; the word waits for its answer. The queue's own binding stands until then (18 R311). -/
def postBind (s : State) (n : Nat) (v : W64) (e : RankEntry) : State :=
  (s.modMyBank (fun k => { k.setQueue n { k.queue n with req := some ⟨k.opSeq, v, e.chip, e.unit, .posted⟩ } with
    opSeq := k.opSeq + 1 })).waits

/-- Where a unit of the launch of the word's unit is placed on this module. -/
def State.placeOf (s : State) (chip unit : Nat) : Option BankId :=
  if chip ≠ s.time.chip.toNat then none
  else match s.launchOf s.cur.bank with
    | some l => match kfind l.units unit with | some (.placed p) => some p | _ => none
    | none => none

/-- The binding that an accepted request makes. -/
def BindReq.made (y : BindReq) (s : State) : Binding :=
  ⟨y.id, y.chip, s.placeOf y.chip y.unit, (y.word.extractLsb' 32 4).toNat, y.word.setWidth 32, 0, 0, []⟩

/-- A request of another word, left when a trap took C elsewhere: it is waited for, and then what it gained is given up (log
entry 55). -/
def dropReq (s : State) (n : Nat) (y : BindReq) : Res State :=
  match y.stage with
  | .answered ok =>
    let mine := match (s.myBank.queue n).binding with | some z => z.samePeer (y.made s) | none => false
    let t := if ok && !mine then releaseSender s s.cur.bank n (y.made s) else s
    .ok (t.modMyBank (fun k => k.setQueue n { k.queue n with req := none })).waits
  | _ => .error (.interlock false)

/-- QBIND (04 R110, 18 R311). -/
def execQbind (w : BitVec 3) (q : Spec) (r : Reg) (s : State) :=
  run s (fun s => do
    noLift s
    let v ← rd s r
    let n := queueNo q
    let x := s.myBank.queue n
    let bind := v.getLsbD 36
    trapIf (v.extractLsb' 37 27 ≠ 0 || (!bind && v.extractLsb' 0 36 ≠ 0)) s .accessViolation
    match (if bind then entryOf s.myGroups (v.setWidth 32) else none) with
    | none =>
      if bind then wordTrap s .accessViolation
      else
        waitIf (!x.rows.isEmpty || x.reserved ≠ 0)
        match x.req with
        | some y => dropReq s n y
        | none => match x.binding with
          | some y =>
            waitIf (y.travelling s.cycle)
            .ok (retire ((releaseSender s s.cur.bank n y).modMyBank (fun k => k.setQueue n { k.queue n with binding := none })) w)
          | none => .ok (retire s w)
    | some e =>
      trapIf (e.chip ≠ s.time.chip.toNat && (kfind s.time.members e.chip).isNone) s .accessViolation
      waitIf (!x.rows.isEmpty || x.reserved ≠ 0)
      match x.req with
      | some y =>
        if y.word ≠ v || y.chip ≠ e.chip || y.unit ≠ e.unit then dropReq s n y
        else match y.stage with
          | .answered ok =>
            let t := s.modMyBank (fun k => k.setQueue n { k.queue n with req := none })
            if ok then
              match x.binding with
              | some z =>
                waitIf (z.travelling s.cycle)
                let t := if z.samePeer (y.made s) then t else releaseSender t s.cur.bank n z
                .ok (retire (t.modMyBank (fun k => k.setQueue n { k.queue n with binding := some (y.made s) })) w)
              | none => .ok (retire (t.modMyBank (fun k => k.setQueue n { k.queue n with binding := some (y.made s) })) w)
            else .error (.trapIn (mkTrap .accessViolation (s.cur.word.setWidth 64)) t)
          | _ => .error (.interlock false)
      | none => .ok (postBind s n v e))

/-- QDEPTH (04 R112). -/
def execQdepth (w : BitVec 3) (q : Spec) (r : Reg) (s : State) :=
  run s (fun s =>
    let x := s.myBank.queue (queueNo q)
    let v : Nat := match x.binding with
      | some y => 256 + (y.sent - y.back)
      | none => x.rows.length
    .ok (retire (wrReg s r (BitVec.ofNat 64 v) 1) w))

/-! ### Slice repartition -/

/-- SPLIT (04 R113): posted until the unit's next GBAR completion or its end. -/
def execSplit (w : BitVec 3) (a b : Reg) (s : State) :=
  run s (fun s => do
    noLift s
    let x ← rd s a
    let v ← rd s b
    let mine := match s.launchOf s.cur.bank with | some l => (kfind l.plan x.toNat).isSome | none => false
    trapIf (x.toNat ≥ Config.sliceCount || !mine || v.extractLsb' 16 48 ≠ 0) s .accessViolation
    .ok (retire (s.modMyBank (fun k => { k with splits := kset k.splits x.toNat (v.setWidth 16) })) w))

end Sys2Proof.Machine
end

