-- ==== Sys2Proof/Machine/Num.lean ====
section
/-! DEFINITION. Number formats and exact arithmetic (03): values are computed exactly as a signed integer times a power of two
and rounded once. -/

namespace Sys2Proof.Machine

/-! ### Formats (03 R56, R58) -/

def fmtFp32 : Nat := 0x00
def fmtBf16 : Nat := 0x01
def fmtE4m3 : Nat := 0x02
def fmtE5m2 : Nat := 0x03
def fmtMxfp4 : Nat := 0x04
def fmtE8m0 : Nat := 0x05
def fmtI8 : Nat := 0x08
def fmtU8 : Nat := 0x09
def fmtI32 : Nat := 0x0A
def fmtI64 : Nat := 0x0B
def fmtB1 : Nat := 0x0C

/-- Element width in bits of a format code; 0 for a code R56 does not list. -/
def fmtBits (f : Nat) : Nat :=
  match f with
  | 0x00 => 32 | 0x01 => 16 | 0x02 => 8 | 0x03 => 8 | 0x04 => 4 | 0x05 => 8
  | 0x08 => 8 | 0x09 => 8 | 0x0A => 32 | 0x0B => 64 | 0x0C => 1
  | _ => 0

/-- Row capacity in elements (03 R56). -/
def fmtCap (f : Nat) : Nat := if fmtBits f = 0 then 0 else 2048 / fmtBits f

def isFloat (f : Nat) : Bool := f == 0 || f == 1
def isInt (f : Nat) : Bool := 8 ≤ f && f ≤ 11
def isSigned (f : Nat) : Bool := f != 9 && f != 12

/-- A binary floating-point format: fraction bits, bias, code width, largest finite magnitude, Inf where it has one, the
canonical NaN, and whether conversions saturate to the largest finite value. -/
structure FF where
  mant : Nat
  bias : Nat
  wid  : Nat
  top  : Nat
  inf  : Option Nat
  nan  : Nat
  sat  : Bool
  deriving DecidableEq, Repr

def ff32 : FF := ⟨23, 127, 32, 0x7F7FFFFF, some 0x7F800000, 0x7FC00000, false⟩
def ffbf : FF := ⟨7, 127, 16, 0x7F7F, some 0x7F80, 0x7FC0, false⟩
def ffe4 : FF := ⟨3, 7, 8, 0x7E, none, 0x7F, true⟩
def ffe5 : FF := ⟨2, 15, 8, 0x7B, some 0x7C, 0x7F, true⟩
def ffe2 : FF := ⟨1, 1, 4, 0x7, none, 0x0, true⟩
def ff64 : FF := ⟨52, 1023, 64, 0x7FEFFFFFFFFFFFFF, some 0x7FF0000000000000, 0x7FF8000000000000, false⟩

def ffOf (f : Nat) : FF :=
  match f with
  | 0x01 => ffbf | 0x02 => ffe4 | 0x03 => ffe5 | 0x04 => ffe2
  | _ => ff32

/-- An exact value: (−1)^neg · m · 2^e, an infinity, or NaN. -/
inductive Fv where
  | nan
  | inf (neg : Bool)
  | fin (neg : Bool) (m : Nat) (e : Int)
  deriving DecidableEq, Repr

/-- The value of a code (03 R58). -/
def FF.dec (f : FF) (c : Nat) : Fv :=
  let neg := (c >>> (f.wid - 1)) % 2 == 1
  let mag := c % (1 <<< (f.wid - 1))
  if mag > f.top then (if f.inf = some mag then .inf neg else .nan)
  else
    let ex := mag >>> f.mant
    let fr := mag % (1 <<< f.mant)
    if ex = 0 then .fin neg fr (1 - (f.bias : Int) - f.mant)
    else .fin neg (fr + 1 <<< f.mant) ((ex : Int) - f.bias - f.mant)

/-- A result code with the flags it raises (03 R63). -/
structure Rnd where
  code : Nat
  fl   : Nat
  deriving DecidableEq, Repr

/-- Rounding modes (02 R39); stochastic with its draw. -/
inductive Mode where
  | rne | rtz | sr (draw : Nat)
  deriving DecidableEq, Repr

/-- Whether a magnitude with remainder `rem` below a last place of `sh` bits rounds up (03 R65, R66). -/
def Mode.up (m : Mode) (sig rem sh : Nat) : Bool :=
  match m with
  | .rtz => false
  | .rne => 2 * rem > 1 <<< sh || (2 * rem == 1 <<< sh && sig % 2 == 1)
  | .sr d => 65536 ≤ (if 16 ≤ sh then rem >>> (sh - 16) else rem <<< (16 - sh)) + d

def FF.sign (f : FF) (neg : Bool) : Nat := if neg then 1 <<< (f.wid - 1) else 0

/-- Rounds m · 2^e (m > 0) once into a format (03 R65): the code, OVF where it overflows. -/
def FF.roundMag (f : FF) (mo : Mode) (neg : Bool) (m : Nat) (e : Int) : Rnd :=
  let lead := e + (Nat.log2 m : Int)
  let q := max lead (1 - (f.bias : Int)) - f.mant
  let sig :=
    if q ≤ e then m <<< (e - q).toNat
    else
      let sh := (q - e).toNat
      let s0 := m >>> sh
      if mo.up s0 (m - s0 <<< sh) sh then s0 + 1 else s0
  let code := ((q + f.mant + f.bias - 1).toNat <<< f.mant) + sig
  if code ≤ f.top then ⟨f.sign neg + code, 0⟩
  else ⟨f.sign neg + (match f.inf with
    | some i => if f.sat || mo = .rtz then f.top else i
    | none => f.top), 2⟩

/-- Rounds an exact value into a format; NaN becomes the canonical NaN (03 R60, R67). -/
def FF.enc (f : FF) (mo : Mode) : Fv → Rnd
  | .nan => ⟨f.nan, 0⟩
  | .inf neg => match f.inf with
    | some i => ⟨f.sign neg + i, 0⟩
    | none => ⟨f.sign neg + f.top, 2⟩
  | .fin neg m e => if m = 0 then ⟨f.sign neg, 0⟩ else f.roundMag mo neg m e

/-! ### Exact operations on values; the flag INV where a NaN arises from operands that hold none -/

structure ValF where
  v  : Fv
  fl : Nat
  deriving DecidableEq, Repr

def Fv.neg : Fv → Fv
  | .nan => .nan
  | .inf n => .inf (!n)
  | .fin n m e => .fin (!n) m e

def Fv.abs : Fv → Fv
  | .nan => .nan
  | .inf _ => .inf false
  | .fin _ m e => .fin false m e

/-- The signed integer m·2^(e − k) of a finite value at a common exponent k ≤ e. -/
def scaled (neg : Bool) (m : Nat) (e k : Int) : Int :=
  let x : Int := (m <<< (e - k).toNat : Nat)
  if neg then -x else x

def Fv.add : Fv → Fv → ValF
  | .nan, _ => ⟨.nan, 0⟩
  | _, .nan => ⟨.nan, 0⟩
  | .inf a, .inf b => if a = b then ⟨.inf a, 0⟩ else ⟨.nan, 1⟩
  | .inf a, .fin _ _ _ => ⟨.inf a, 0⟩
  | .fin _ _ _, .inf b => ⟨.inf b, 0⟩
  | .fin n m e, .fin n' m' e' =>
    if m = 0 && m' = 0 then ⟨.fin (n && n') 0 e, 0⟩
    else if m = 0 then ⟨.fin n' m' e', 0⟩
    else if m' = 0 then ⟨.fin n m e, 0⟩
    else
      let k := min e e'
      let x := scaled n m e k + scaled n' m' e' k
      ⟨.fin (x < 0) x.natAbs k, 0⟩

def Fv.mul : Fv → Fv → ValF
  | .nan, _ => ⟨.nan, 0⟩
  | _, .nan => ⟨.nan, 0⟩
  | .inf a, .inf b => ⟨.inf (a != b), 0⟩
  | .inf a, .fin n m _ => if m = 0 then ⟨.nan, 1⟩ else ⟨.inf (a != n), 0⟩
  | .fin n m _, .inf b => if m = 0 then ⟨.nan, 1⟩ else ⟨.inf (n != b), 0⟩
  | .fin n m e, .fin n' m' e' => ⟨.fin (n != n') (m * m') (e + e'), 0⟩

def Fv.isNan : Fv → Bool
  | .nan => true
  | _ => false

/-- x·y + z exactly; INV only where no operand is NaN. -/
def Fv.fma (x y z : Fv) : ValF :=
  if x.isNan || y.isNan || z.isNan then ⟨.nan, 0⟩
  else
    let p := x.mul y
    if p.v.isNan then ⟨.nan, 1⟩ else p.v.add z

/-- x ÷ y to 96 bits below the leading one, the lowest bit sticky. -/
def Fv.div : Fv → Fv → ValF
  | .nan, _ => ⟨.nan, 0⟩
  | _, .nan => ⟨.nan, 0⟩
  | .inf _, .inf _ => ⟨.nan, 1⟩
  | .inf a, .fin n _ _ => ⟨.inf (a != n), 0⟩
  | .fin n _ _, .inf b => ⟨.fin (n != b) 0 0, 0⟩
  | .fin n m e, .fin n' m' e' =>
    if m' = 0 then (if m = 0 then ⟨.nan, 1⟩ else ⟨.inf (n != n'), 0⟩)
    else if m = 0 then ⟨.fin (n != n') 0 0, 0⟩
    else
      let k := 96 + Nat.log2 m'
      let q := (m <<< k) / m'
      let st := if q * m' = m <<< k then 0 else 1
      ⟨.fin (n != n') (2 * q + st) (e - e' - k - 1), 0⟩

/-- Integer square root, bit by bit. -/
def isqrtFrom (n : Nat) : Nat → Nat → Nat
  | 0, r => if (r + 1) * (r + 1) ≤ n then r + 1 else r
  | i + 1, r =>
    let t := r + 1 <<< (i + 1)
    isqrtFrom n i (if t * t ≤ n then t else r)

def isqrt (n : Nat) : Nat := isqrtFrom n (Nat.log2 n / 2 + 1) 0

/-- √x, the lowest bit sticky. -/
def Fv.sqrt : Fv → ValF
  | .nan => ⟨.nan, 0⟩
  | .inf n => if n then ⟨.nan, 1⟩ else ⟨.inf false, 0⟩
  | .fin n m e =>
    if m = 0 then ⟨.fin n 0 0, 0⟩
    else if n then ⟨.nan, 1⟩
    else
      let k := 192 + (if e % 2 = 0 then 0 else 1)
      let x := m <<< k
      let r := isqrt x
      ⟨.fin false (2 * r + (if r * r = x then 0 else 1)) ((e - k) / 2 - 1), 0⟩

/-- 1 ÷ √x, the lowest bit sticky (06 R156). -/
def Fv.rsqrt : Fv → ValF
  | .nan => ⟨.nan, 0⟩
  | .inf n => if n then ⟨.nan, 1⟩ else ⟨.fin false 0 0, 0⟩
  | .fin n m e =>
    if m = 0 then ⟨.inf n, 0⟩
    else if n then ⟨.nan, 1⟩
    else
      let t := Nat.log2 m + 192
      let k := t + (if (e + t) % 2 = 0 then 0 else 1)
      let r := isqrt ((1 <<< k) / m)
      ⟨.fin false (2 * r + (if r * r * m = 1 <<< k then 0 else 1)) ((0 - e - k) / 2 - 1), 0⟩

/-- Rounds a value that carries flags. -/
def FF.fin (f : FF) (mo : Mode) (x : ValF) : Rnd :=
  let r := f.enc mo x.v
  ⟨r.code, r.fl ||| x.fl⟩

/-- Compares two values exactly: x < y, −0 equal to +0, false with NaN (03 R60). -/
def Fv.lt : Fv → Fv → Bool
  | .nan, _ => false
  | _, .nan => false
  | .inf a, .inf b => a && !b
  | .inf a, .fin _ _ _ => a
  | .fin _ _ _, .inf b => !b
  | .fin n m e, .fin n' m' e' => let k := min e e'; scaled n m e k < scaled n' m' e' k

def Fv.eqv : Fv → Fv → Bool
  | .nan, _ => false
  | _, .nan => false
  | .inf a, .inf b => a == b
  | .inf _, .fin _ _ _ => false
  | .fin _ _ _, .inf _ => false
  | .fin n m e, .fin n' m' e' => let k := min e e'; scaled n m e k == scaled n' m' e' k

def Fv.isNeg : Fv → Bool
  | .nan => false
  | .inf n => n
  | .fin n _ _ => n

/-- The total order of VMIN and VMAX: −0 below +0 (03 R60). -/
def Fv.below (x y : Fv) : Bool := x.lt y || (x.eqv y && x.isNeg && !y.isNeg)

def Fv.min (x y : Fv) : Fv := if x.isNan || y.isNan then .nan else if y.below x then y else x
def Fv.max (x y : Fv) : Fv := if x.isNan || y.isNan then .nan else if x.below y then y else x

def Fv.ofInt (i : Int) : Fv := .fin (i < 0) i.natAbs 0

/-- Times 2^k. -/
def Fv.shift (x : Fv) (k : Int) : Fv :=
  match x with
  | .fin n m e => .fin n m (e + k)
  | y => y

/-- Rounds a magnitude m·2^e to an integer by the mode. -/
def roundInt (mo : Mode) (m : Nat) (e : Int) : Nat :=
  if 0 ≤ e then m <<< e.toNat
  else
    let sh := (-e).toNat
    let s0 := m >>> sh
    if mo.up s0 (m - s0 <<< sh) sh then s0 + 1 else s0

/-! ### FP32 operations on codes (03 R69–R72) -/

def f32 (c : Nat) : Fv := ff32.dec c
def fadd32 (a b : Nat) (m : Mode) : Rnd := ff32.fin m ((f32 a).add (f32 b))
def fsub32 (a b : Nat) (m : Mode) : Rnd := ff32.fin m ((f32 a).add (f32 b).neg)
def fmul32 (a b : Nat) (m : Mode) : Rnd := ff32.fin m ((f32 a).mul (f32 b))
def fdiv32 (a b : Nat) (m : Mode) : Rnd := ff32.fin m ((f32 a).div (f32 b))
def fsqrt32 (a : Nat) (m : Mode) : Rnd := ff32.fin m (f32 a).sqrt
def fma32 (a b c : Nat) (m : Mode) : Rnd := ff32.fin m ((f32 a).fma (f32 b) (f32 c))
def scale32 (a : Nat) (k : Int) (m : Mode) : Rnd := ff32.enc m ((f32 a).shift k)

/-- The FP32 code nearest a decimal n / 10^k (03 R71, R72). -/
def decimal32 (n k : Nat) : Nat := (ff32.fin .rne ((Fv.fin false n 0).div (.fin false (10 ^ k) 0))).code

/-- VEXP2 of one lane (03 R71). -/
def exp2Lane (c : Nat) (m : Mode) : Rnd :=
  let x := f32 c
  if x.isNan then ⟨ff32.nan, 0⟩
  else if x = .inf false then ⟨0x7F800000, 0⟩
  else if !x.lt (Fv.ofInt 128) then ⟨if m = .rtz then 0x7F7FFFFF else 0x7F800000, 2⟩
  else if x.lt (Fv.ofInt (-151)) then ⟨0, 0⟩
  else match x with
    | .fin n mm e =>
      let k : Int := let r : Int := roundInt .rne mm e; if n then -r else r
      let f := (ff32.fin .rne (x.add (Fv.ofInt (-k)))).code
      let p := decimal32 154035304 12
      let p := (fma32 p f (decimal32 133335581 11) .rne).code
      let p := (fma32 p f (decimal32 961812911 11) .rne).code
      let p := (fma32 p f (decimal32 555041086 10) .rne).code
      let p := (fma32 p f (decimal32 240226507 9) .rne).code
      let p := (fma32 p f (decimal32 693147182 9) .rne).code
      let p := (fma32 p f 0x3F800000 .rne).code
      scale32 p k m
    | _ => ⟨0, 0⟩

/-- VLOG2 of one lane (03 R72). -/
def log2Lane (c : Nat) (m : Mode) : Rnd :=
  match f32 c with
  | .nan => ⟨ff32.nan, 0⟩
  | .inf n => if n then ⟨ff32.nan, 1⟩ else ⟨0x7F800000, 0⟩
  | .fin n mm e =>
    if mm = 0 then ⟨0xFF800000, 0⟩
    else if n then ⟨ff32.nan, 1⟩
    else
      let l := Nat.log2 mm
      let g0 := (ff32.enc .rne (.fin false mm (-(l : Int)))).code
      let half := decide (g0 > 0x3FB504F3)
      let g := if half then g0 - 0x800000 else g0
      let ex : Int := e + l + (if half then 1 else 0)
      let t := (fdiv32 (fsub32 g 0x3F800000 .rne).code (fadd32 g 0x3F800000 .rne).code .rne).code
      let z := (fmul32 t t .rne).code
      let q := decimal32 320598898 9
      let q := (fma32 q z (decimal32 412198583 9) .rne).code
      let q := (fma32 q z (decimal32 577078016 9) .rne).code
      let q := (fma32 q z (decimal32 961796694 9) .rne).code
      let q := (fma32 q z (decimal32 288539008 8) .rne).code
      fadd32 (ff32.enc .rne (Fv.ofInt ex)).code (fmul32 q t .rne).code m

/-! ### Integers and E8M0 -/

/-- The integer an element of an integer format holds (03 R61). -/
def intOf (f c : Nat) : Int := if isSigned f then sgn (fmtBits f) c else (c : Int)

def intMinOf (f : Nat) : Int := if isSigned f then -((1 <<< (fmtBits f - 1) : Nat) : Int) else 0
def intMaxOf (f : Nat) : Int := if isSigned f then ((1 <<< (fmtBits f - 1) : Nat) : Int) - 1 else ((1 <<< fmtBits f : Nat) : Int) - 1

/-- The low `w` bits of an integer. -/
def wrapTo (w : Nat) (i : Int) : Nat := (i % ((1 <<< w : Nat) : Int)).toNat

/-- An integer clamped to a format, with `fl` where it clamps (03 R61). -/
def clampTo (f : Nat) (i : Int) (fl : Nat) : Rnd :=
  let j := max (intMinOf f) (min (intMaxOf f) i)
  ⟨wrapTo (fmtBits f) j, if j = i then 0 else fl⟩

/-- A value as an E8M0 code (03 R397). -/
def e8m0Of : Fv → Nat
  | .fin false m e =>
    if m = 0 then 0xFF
    else
      let lead := e + (Nat.log2 m : Int)
      -- nearest power of two: above 1.5·2^lead goes up, the midpoint to the even code
      let two := 2 * m
      let mid := 3 <<< Nat.log2 m
      let c := lead + 127 + (if two > mid || (two = mid && (lead + 127) % 2 ≠ 0) then 1 else 0)
      if lead < -127 then 0 else if c < 0 then 0 else if 254 < c then 254 else c.toNat
  | _ => 0xFF

/-- The value of an element with a block scale byte (03 R59). -/
def scaledBy (x : Fv) (byte : Nat) : Fv := if byte = 0xFF then .nan else x.shift ((byte : Int) - 127)

/-- Converts an exact value to a format by a mode (03 R67, R68, R397). -/
def convertTo (f : Nat) (mo : Mode) (x : Fv) : Rnd :=
  if isInt f then
    match x with
    | .nan => ⟨0, 1⟩
    | .inf n => ⟨wrapTo (fmtBits f) (if n then intMinOf f else intMaxOf f), 4⟩
    | .fin n m e =>
      let r : Int := roundInt mo m e
      clampTo f (if n then -r else r) 4
  else if f = fmtE8m0 then ⟨e8m0Of x, 0⟩
  else if f = fmtB1 then (match x with | .fin _ m e => ⟨roundInt .rtz m e % 2, 0⟩ | _ => ⟨0, 0⟩)
  else if f = fmtMxfp4 then (match x with | .nan => ⟨0, 1⟩ | y => ffe2.enc mo y)
  else (ffOf f).enc mo x

/-- The integer `i` as an element of a format, as lrow holds it (06 R149; LIDX, 10 R235). -/
def laneIndex (f i : Nat) : Nat :=
  if f = fmtB1 then i % 2
  else if isInt f then wrapTo (fmtBits f) (max (intMinOf f) (min (intMaxOf f) i))
  else (convertTo f .rne (Fv.ofInt i)).code

/-! ### The counter mixer (03 R77) -/

def mix (key : W64 × W64) (c : W64) : BitVec 32 :=
  let z := c + key.1
  let z := (z ^^^ (z >>> 30)) * 0xBF58476D1CE4E5B9
  let z := (z ^^^ (z >>> 27)) * 0x94D049BB133111EB
  let z := (z ^^^ (z >>> 31)) ^^^ key.2
  let z := (z ^^^ (z >>> 30)) * 0xBF58476D1CE4E5B9
  let z := z ^^^ (z >>> 31)
  z.extractLsb' 32 32

/-! ### The reduction tree (03 R69, R70) -/

/-- One level: lane i becomes op(lane i, lane i + s) for i below s; `op` is given the draw index s + i. -/
def treeLevel (op : Nat → Nat → Nat → Rnd) (s : Nat) (l : List Nat) : List Nat × Nat :=
  let r := (List.range s).map (fun i => op (s + i) (l.getD i 0) (l.getD (i + s) 0))
  (r.map (·.code), r.foldl (fun f x => f ||| x.fl) 0)

/-- The tree over 2^k lanes. -/
def treeReduce (op : Nat → Nat → Nat → Rnd) : Nat → List Nat → Nat → Rnd
  | 0, l, fl => ⟨l.getD 0 0, fl⟩
  | k + 1, l, fl =>
    let r := treeLevel op (1 <<< k) l
    treeReduce op k r.1 (fl ||| r.2)

/-- The smallest k with n ≤ 2^k. -/
def ceilLog2 (n : Nat) : Nat := if n ≤ 1 then 0 else Nat.log2 (n - 1) + 1

end Sys2Proof.Machine
end

