-- ==== Sys2Proof/Machine/Operands.lean ====
section
/-! DEFINITION. Operands: tiles with their lift tags and copies (10 R229–R231, R236–R239), rows of tiles, queues, data streams
and constant rows as a word reads and writes them (02 R37, R38; 01 R16–R18; 05 R122, R124; 06 R149, R168–R170). -/

namespace Sys2Proof.Machine

/-! ### Lift tags and copies -/

def Tile.liftAt (t : Tile) (l : Nat) : TileLift := t.lift.getD l ⟨false, 0, none⟩
def Tile.setLift (t : Tile) (l : Nat) (x : TileLift) : Tile := { t with lift := t.lift.setIfInBounds l x }

/-- The open levels of a stream, outermost first. -/
def Stream.levels (x : Stream) : List Nat := List.range x.lift.length
def Stream.axis (x : Stream) (l : Nat) : Nat := match x.lift[l]? with | some v => v.n | none => 1
def Stream.maskAt (x : Stream) (l c : Nat) : Bool := match x.lift[l]? with | some v => v.mask.getLsbD c | none => true

/-- The effective tags of a tile in a stream (10 R229). -/
def tagsOf (x : Stream) (t : Tile) : List Nat := x.levels.filter (fun l => (t.liftAt l).t)

/-- The levels over which a tile has copies (10 R230). -/
def copyLevels (x : Stream) (t : Tile) : List Nat := x.levels.filter (fun l => (t.liftAt l).t || (t.liftAt l).b != 0)

/-- Index vectors over levels in ascending order, the highest-numbered level fastest (10 R236). -/
def indexVectors (x : Stream) : List Nat → List (List (Nat × Nat))
  | [] => [[]]
  | l :: ls => (List.range (x.axis l)).flatMap (fun c => (indexVectors x ls).map (fun v => (l, c) :: v))

/-- The index vector of repetition `r` over levels. -/
def indexOf (x : Stream) : List Nat → Nat → List (Nat × Nat)
  | [], _ => []
  | l :: ls, r =>
    let inner := ls.foldl (fun p j => p * x.axis j) 1
    (l, r / inner % x.axis l) :: indexOf x ls (r % inner)

/-- How many repetitions a widening set has. -/
def repCount (x : Stream) (ls : List Nat) : Nat := ls.foldl (fun p l => p * x.axis l) 1

/-- The base of the copy at an index vector, restricted to levels `ls` (10 R230). -/
def copyBase (t : Tile) (ls : List Nat) (v : List (Nat × Nat)) : Nat :=
  v.foldl (fun a c => if ls.contains c.1 then a + c.2 * (t.liftAt c.1).b else a) t.base

/-- Whether a repetition is active (10 R239). -/
def activeAt (x : Stream) (v : List (Nat × Nat)) : Bool := v.all (fun c => x.maskAt c.1 c.2)

/-- The first active repetition at or after `r`; `fuel` bounds the search. -/
def nextActive (x : Stream) (ls : List Nat) : Nat → Nat → Option Nat
  | 0, _ => none
  | fuel + 1, r => if r ≥ repCount x ls then none else if activeAt x (indexOf x ls r) then some r else nextActive x ls fuel (r + 1)

/-- Whether scratchpad bytes lie in the bank's share (01 R27). -/
def inShare (b : Bank) (base size : Nat) : Bool :=
  base + size ≤ 1048576 &&
    (List.range 16).all (fun g => !(decide (base < (g + 1) * 65536) && decide (g * 65536 < base + size)) || b.bindRec.spad.getLsbD g)

/-- The copies of a tile in a stream, as (is copy 0, base). -/
def copies (x : Stream) (t : Tile) : List (Bool × Nat) :=
  (indexVectors x (copyLevels x t)).map (fun v => (v.all (fun c => c.2 == 0), copyBase t (copyLevels x t) v))

def disjoint (a n b m : Nat) : Bool := a + n ≤ b || b + m ≤ a

/-- Each pair of a list of equal-size regions is disjoint. -/
def allApart (n : Nat) : List (Bool × Nat) → Bool
  | [] => true
  | c :: l => l.all (fun d => disjoint c.2 n d.2 n) && allApart n l

/-- The footprint conditions of 10 R231 for tile number `n`. -/
def footprintOk (b : Bank) (x : Stream) (n : Nat) : Bool :=
  let t := b.tile n
  let cs := copies x t
  let sz := 256 * t.rows
  cs.all (fun c => inShare b c.2 sz) && allApart sz cs &&
  (List.range 32).all (fun m =>
    let u := b.tile m
    m == n || u.rows == 0 || cs.all (fun c => (copies x u).all (fun d => (c.1 && d.1) || disjoint c.2 sz d.2 (256 * u.rows))))

/-- The effective tags of a tile for the word being issued: between its repetitions those it had before the first (10 R236; another stream may tag
the tile meanwhile). -/
def State.tagsIn (s : State) (n : Nat) : List Nat :=
  match (if s.me.lrep = 0 then none else s.me.xset.find? (·.1 == n)) with
  | some x => x.2
  | none => tagsOf s.me (s.myBank.tile n)

/-! ### Tiles, queues and data streams as operands -/

/-- An instruction that names a tile issues only while it is ready (01 R16). -/
def needReady (s : State) (sp : Spec) : Res Unit :=
  match operandOf sp with
  | .tile t => if (s.myBank.tile t).state = .ready then .ok () else .error (.block .tile (sp.setWidth 64))
  | _ => .ok ()

/-- The trap of a word that names a data stream with a recorded fault, whatever its cause: ACCESS_VIOLATION with the VA that was
recorded (05 R124, 06 R172, 07 R189, 09 R226; log entry 57). -/
def streamTrap (f : Trap) : Trap := mkTrap .accessViolation f.tval

/-- Whether `n` rows can be taken from an operand, or why not (01 R17, R18; 04 R111; 05 R122, R124). An exhausted stream still has the direction
that STGO gave it: a word that names it the other way traps, as before its end, which the spec leaves open (DESIGN CHOICE, log entry 54). -/
def canTake (s : State) (sp : Spec) (n : Nat) : Res Unit :=
  match operandOf sp with
  | .queue q =>
    let x := s.myBank.queue q
    if x.binding.isSome then wordTrap s .accessViolation
    else if x.rows.length < n then .error (.block .queue (sp.setWidth 64)) else .ok ()
  | .stream k =>
    let d := s.myBank.ds k
    match d.fault, d.run with
    | some f, _ => .error (.trap (streamTrap f))
    | none, some r =>
      if r.write then wordTrap s .accessViolation
      else if r.buf.length < n then .error (.block .queue (sp.setWidth 64)) else .ok ()
    | none, none => .error (.block .queue (sp.setWidth 64))
  | _ => .ok ()

/-- Results on their way into a writing data stream. -/
def pendingInto (b : Bank) (k : Nat) : Nat :=
  (engines.map (fun e => ((b.stream e).pend.filter (fun p => match p.wr with | .dstream j _ => j == k | _ => false)).length)).sum

/-- Whether a row can be given to an operand after `popped` rows have been taken from it; an exhausted stream keeps its direction as in
`canTake`. -/
def canGive (s : State) (sp : Spec) (popped : Nat) : Res Unit :=
  match operandOf sp with
  | .queue q =>
    let x := s.myBank.queue q
    if ({ x with rows := x.rows.drop popped } : Queue).hasRoom then .ok () else .error (.block .queue (sp.setWidth 64))
  | .stream k =>
    let d := s.myBank.ds k
    match d.fault, d.run with
    | some f, _ => .error (.trap (streamTrap f))
    | none, some r =>
      if !r.write then wordTrap s .accessViolation
      else if r.buf.length + pendingInto s.myBank k ≥ 4 || r.given ≥ DataStream.positions r then
        .error (.block .queue (sp.setWidth 64))
      else .ok ()
    | none, none => .error (.block .queue (sp.setWidth 64))
  | _ => .ok ()

/-- A row of a constant operand in a format (06 R149). -/
def onesRow (f : Nat) : Row := BitVec.ofNat 2048 (packLanes (fmtBits f) (List.replicate (fmtCap f) (laneIndex f 1)))
def laneRow (f : Nat) : Row := BitVec.ofNat 2048 (packLanes (fmtBits f) ((List.range (fmtCap f)).map (laneIndex f)))

/-- The scratchpad row of a tile at a copy base. -/
def rowIndex (base row : Nat) : Nat := base / 256 + row

/-- Whom the row that an operand gives next owes a credit. -/
def creditorOf (s : State) (sp : Spec) : Option Sender :=
  match operandOf sp with
  | .queue q => (s.myBank.queue q).creditor
  | _ => none

/-- Takes the row of an operand: the row itself, the scratchpad rows it read, and the state after a pop or a delivery, in which the credit of
a pop is still owed. -/
def takeRow (s : State) (sp : Spec) (f : Nat) (idx : List (Nat × Nat)) : Row × List Nat × State :=
  match operandOf sp with
  | .tile t =>
    let x := s.myBank.tile t
    let i := rowIndex (copyBase x (s.tagsIn t) idx) x.cursor
    ((s.core s.cur.bank.core).row i, [i], s)
  | .queue q => ((s.myBank.queue q).rows.headD 0, [], s.takeRow s.cur.bank q)
  | .stream k =>
    let d := s.myBank.ds k
    match d.run with
    | some r => ((match r.buf with | x :: _ => x.row | [] => 0), [], s.modMyBank (·.setDs k { d with run := some { r with buf := r.buf.tail, given := r.given + 1 } }))
    | none => (0, [], s)
  | .onesRow => (onesRow f, [], s)
  | .laneRow => (laneRow f, [], s)
  | _ => (0, [], s)

/-- A premature read of scratchpad rows (17 R299): with the checker on the word traps, with it off it reads the old row. -/
def checkRows (s : State) (rows : List Nat) : Res Unit :=
  trapIf (s.me.stallctl.getLsbD 0 && s.me.pend.any (fun p => match p.wr with | .row i _ => rows.contains i | _ => false))
    s .undersizedStall

/-- An uncorrectable error armed in a row that is read (06 R170; 21 R367). -/
def checkEcc (s : State) (rows : List Nat) : Res Unit :=
  match rows.find? (fun i => match (s.core s.cur.bank.core).injAt 0 (256 * i) 256 with | some j => j.hard | none => false) with
  | some i =>
    let c := s.core s.cur.bank.core
    let off := match c.injAt 0 (256 * i) 256 with | some j => j.addr | none => 0
    .error (.trapIn (mkTrap .sramUncorrected (BitVec.ofNat 64 off)) (s.setCore s.cur.bank.core (c.disarm 0 (256 * i) 256)))
  | none => .ok ()

/-- Bank-conflict cycles of an issue that reads these rows (06 R168). -/
def conflicts (rows : List Nat) : Nat :=
  let r := rows.dedup
  ((List.range 16).map (fun k => (r.filter (fun i => i % 16 == k)).length - 1)).sum

/-- The retention delay of an issue that reads or writes these rows (06 R169). -/
def wakeDelay (s : State) (rows : List Nat) : Nat :=
  if rows.any (fun i => (s.core s.cur.bank.core).retained.getLsbD (i % 16)) then 64 else 0

/-- A row written by a fixed-latency word in its ready cycle (17 R293, R298). -/
def pendRow (s : State) (i : Nat) (r : Row) (ready : Nat) (tiles : List Nat) : State :=
  s.modMe (fun x => { x with pend := x.pend ++
    [⟨effective x.pend (fun w => match w with | .row j _ => j == i | _ => false) ready, .row i r, tiles⟩] })

/-- A result that a word of another engine stream can see. -/
def PendWrite.seen : PendWrite → Bool
  | .row _ _ | .queue _ _ | .dstream _ _ => true
  | _ => false

/-- A row given to a destination: the copies of a tile, a queue or a data stream. A push comes after every earlier row of its
stream has taken effect (01 R25; log entry 53). -/
def giveRow (s : State) (sp : Spec) (bases : List Nat) (r : Row) (ready : Nat) (tiles : List Nat) : State :=
  match operandOf sp with
  | .tile t => bases.foldl (fun s b => pendRow s (rowIndex b (s.myBank.tile t).cursor) r ready tiles) s
  | .queue q =>
    let s := s.modMyBank (fun k => k.setQueue q { k.queue q with reserved := (k.queue q).reserved + 1 })
    s.modMe (fun x => { x with pend := x.pend ++
      [⟨effective x.pend (·.seen) ready, .queue q r, tiles⟩] })
  | .stream n =>
    let s := s.modMyBank (fun k =>
      let d := k.ds n
      k.setDs n { d with run := d.run.map (fun y => { y with given := y.given + 1 }) })
    s.modMe (fun x => { x with pend := x.pend ++
      [⟨effective x.pend (fun w => match w with | .dstream j _ => j == n | _ => false) ready, .dstream n r, tiles⟩] })
  | _ => s

/-- The rounding of lane draw `j` (03 R66). -/
def Draws.mode (d : Draws) (j : Nat) : Mode :=
  if d.kind = 2 then .rtz
  else if d.kind = 3 then .sr ((mix d.key (d.ctr + BitVec.ofNat 64 j)).extractLsb' 16 16).toNat
  else .rne

/-- How an m or x[1:0] field makes a word round (02 R39). -/
def drawsOf (s : State) (m : BitVec 2) : Draws :=
  ⟨if m = 0 then s.me.rm else m.toNat, s.myCtx.keys.getD s.me.rh (0, 0), s.me.srctr⟩

/-- Whether a field selects stochastic rounding. -/
def isSr (s : State) (m : BitVec 2) : Bool := (if m = 0 then s.me.rm else m.toNat) == 3

/-- The widening set of a word that reads these operands (10 R236). -/
def widenSet (s : State) (reads : List Spec) : List Nat :=
  s.me.levels.filter (fun l => reads.any (fun sp => match operandOf sp with
    | .tile t => (s.tagsIn t).contains l
    | _ => false))

/-- The destination takes the tags it lacks, where it holds a dormant stride (10 R237). -/
def settleTags (s : State) (td : Spec) (ws : List Nat) : Res State :=
  match operandOf td with
  | .tile t =>
    let x := s.myBank.tile t
    let lack := ws.filter (fun l => !(x.liftAt l).t)
    if lack.any (fun l => (x.liftAt l).b == 0) then wordTrap s .tagConflict
    else .ok (s.modMyBank (·.setTile t (lack.foldl (fun x l => x.setLift l ⟨true, (x.liftAt l).b, some s.cur.engine⟩) x)))
  | _ => .ok s

def tileNo (sp : Spec) : List Nat := match operandOf sp with | .tile t => [t] | _ => []

/-- The footprint check of those of the tiles that are tagged: a word widens over them or writes their copies (10 R231). -/
def checkTiles (s : State) (ts : List Nat) : Res Unit :=
  trapIf (ts.any (fun t => !(tagsOf s.me (s.myBank.tile t)).isEmpty && !footprintOk s.myBank s.me t)) s .axisOverflow

/-- The footprint check of the tiles a word names. -/
def checkFootprints (s : State) (ops : List Spec) : Res Unit := checkTiles s (ops.flatMap tileNo)

/-- The indices of the copies of a destination tile that a repetition writes: its own, and every active one along the levels of
the tile's tags that the word does not widen over (10 R237). -/
def destIndices (s : State) (t : Nat) (ws : List Nat) (idx : List (Nat × Nat)) : List (List (Nat × Nat)) :=
  let rest := (s.tagsIn t).filter (fun l => !ws.contains l)
  ((indexVectors s.me rest).filter (activeAt s.me)).map (idx ++ ·)

/-- The bases of those copies. -/
def destBases (s : State) (td : Spec) (ws : List Nat) (idx : List (Nat × Nat)) : List Nat :=
  match operandOf td with
  | .tile t => (destIndices s t ws idx).map (copyBase (s.myBank.tile t) (s.tagsIn t))
  | _ => []

end Sys2Proof.Machine
end

