-- ==== Sys2Proof/Machine/Vector.lean ====
section
/-! DEFINITION. The V class (06 R149–R173): one row per word, repeated over a batch under a lift (10 R236–R241). -/

namespace Sys2Proof.Machine

/-- What it gives: the destination row, flags, and the row of the destination's scale tile. -/
structure VOut where
  row   : Row
  fl    : Nat
  scale : Option Row
  ent   : Option (List (Option Int))
  deriving DecidableEq, Repr

def VIn.w (v : VIn) : Nat := fmtBits v.f
def VIn.mode (v : VIn) (i : Nat) : Mode := v.rnd.mode i
def VIn.ea (v : VIn) (i : Nat) : Nat := laneOf v.a v.w i
def VIn.eb (v : VIn) (i : Nat) : Nat := laneOf v.b v.w i
def VIn.ed (v : VIn) (i : Nat) : Nat := laneOf v.d v.w i

/-- Lanes 0 to n − 1 of width `w`, zero beyond (03 R57). -/
def lanes (n w : Nat) (f : Nat → Rnd) : VOut :=
  let r := (List.range n).map f
  ⟨BitVec.ofNat 2048 (packLanes w (r.map (·.code))), r.foldl (fun a x => a ||| x.fl) 0, none, none⟩

def exactCode (c : Nat) : Rnd := ⟨c, 0⟩

/-! ### Arithmetic, comparison, bits (06 R152–R159) -/

/-- A two-operand arithmetic word: exact, rounded once in float formats, wrapped in integer formats. -/
def vArith (fl : Fv → Fv → ValF) (int : Int → Int → Int) (v : VIn) : VOut :=
  if isFloat v.f then
    let k := ffOf v.f
    lanes v.l v.w (fun i => k.fin (v.mode i) (fl (k.dec (v.ea i)) (k.dec (v.eb i))))
  else lanes v.l v.w (fun i => exactCode (wrapTo v.w (int (intOf v.f (v.ea i)) (intOf v.f (v.eb i)))))

def vAddF := vArith Fv.add (· + ·)
def vSubF := vArith (fun x y => x.add y.neg) (· - ·)
def vMulF := vArith Fv.mul (· * ·)
def vMinF := vArith (fun x y => ⟨x.min y, 0⟩) min
def vMaxF := vArith (fun x y => ⟨x.max y, 0⟩) max
def vDivF := vArith Fv.div (fun x _ => x)

/-- VFMA and VFMS (06 R154). -/
def vFmaF (sub : Bool) (v : VIn) : VOut :=
  if isFloat v.f then
    let k := ffOf v.f
    lanes v.l v.w (fun i =>
      let x := k.dec (v.ea i)
      k.fin (v.mode i) ((if sub then x.neg else x).fma (k.dec (v.eb i)) (k.dec (v.ed i))))
  else lanes v.l v.w (fun i =>
    let p := intOf v.f (v.ea i) * intOf v.f (v.eb i)
    exactCode (wrapTo v.w (intOf v.f (v.ed i) + (if sub then -p else p))))

/-- A one-operand word. -/
def vUnary (fl : Fv → ValF) (int : Int → Int) (v : VIn) : VOut :=
  if isFloat v.f then
    let k := ffOf v.f
    lanes v.l v.w (fun i => k.fin (v.mode i) (fl (k.dec (v.ea i))))
  else lanes v.l v.w (fun i => exactCode (wrapTo v.w (int (intOf v.f (v.ea i)))))

def vAbsF := vUnary (fun x => ⟨x.abs, 0⟩) (fun i => (i.natAbs : Int))
def vNegF := vUnary (fun x => ⟨x.neg, 0⟩) (fun i => -i)
def vRcpF := vUnary (fun x => Fv.div (.fin false 1 0) x) id
def vRsqF := vUnary Fv.rsqrt id
def vExp2F (v : VIn) : VOut := lanes v.l 32 (fun i => exp2Lane (v.ea i) (v.mode i))
def vLog2F (v : VIn) : VOut := lanes v.l 32 (fun i => log2Lane (v.ea i) (v.mode i))

/-- VADDS and VMULS (06 R155). -/
def vScalarF (fl : Fv → Fv → ValF) (int : Int → Int → Int) (v : VIn) : VOut :=
  if isFloat v.f then
    let k := ffOf v.f
    let c := f32 (v.x.toNat % (1 <<< 32))
    lanes v.l v.w (fun i => k.fin (v.mode i) (fl (k.dec (v.ea i)) c))
  else lanes v.l v.w (fun i => exactCode (wrapTo v.w (int (intOf v.f (v.ea i)) v.x.toInt)))

/-- The condition of VCMP (06 R157). -/
def vCond (c : BitVec 2) (f a b : Nat) : Bool :=
  if isFloat f then
    let x := (ffOf f).dec a
    let y := (ffOf f).dec b
    match c.toNat with
    | 0 => x.eqv y
    | 1 => !x.eqv y
    | 2 => x.lt y
    | _ => x.lt y || x.eqv y
  else
    let x := intOf f a
    let y := intOf f b
    match c.toNat with
    | 0 => x == y
    | 1 => x != y
    | 2 => x < y
    | _ => x ≤ y

def vCmpF (c : BitVec 2) (v : VIn) : VOut :=
  lanes v.l v.w (fun i => exactCode (if vCond c v.f (v.ea i) (v.eb i) then 1 <<< v.w - 1 else 0))

def vSelF (v : VIn) : VOut := lanes v.l v.w (fun i => exactCode (if v.ed i ≠ 0 then v.ea i else v.eb i))

/-- The first ⌈L·w/8⌉ bytes of a row (06 R158). -/
def vBytes (n : Nat) (r : Row) : Row := BitVec.ofNat 2048 (r.toNat % (1 <<< (8 * n)))
def rowLenBytes (f l : Nat) : Nat := (l * fmtBits f + 7) / 8

/-- A row that is no tile's is its L elements of F (06 R149). -/
def elemsOnly (tile : Bool) (v : VIn) (r : Row) : Row := if tile then r else BitVec.ofNat 2048 (r.toNat % (1 <<< (v.l * v.w)))

def vBitF (op : Row → Row → Row) (v : VIn) : VOut :=
  ⟨vBytes (rowLenBytes v.f v.l) (op (elemsOnly v.ta v v.a) (elemsOnly v.tb v v.b)), 0, none, none⟩

def vShlF (v : VIn) : VOut :=
  lanes v.l v.w (fun i => exactCode (if v.eb i ≥ v.w then 0 else v.ea i <<< v.eb i))
def vShrF (v : VIn) : VOut :=
  lanes v.l v.w (fun i => exactCode (if v.eb i ≥ v.w then 0 else v.ea i >>> v.eb i))
def vSraF (v : VIn) : VOut :=
  lanes v.l v.w (fun i => exactCode (wrapTo v.w (intOf v.f (v.ea i) >>> (min (v.eb i) v.w))))

/-- The saturating forms (06 R159). -/
def vSatF (int : Int → Int → Int) (v : VIn) : VOut :=
  lanes v.l v.w (fun i => clampTo v.f (int (intOf v.f (v.ea i)) (intOf v.f (v.eb i))) flagSAT)

/-! ### Conversion, block scaling, reductions, moves (06 R160–R167) -/

/-- The exact value of an element in a source format, an integer included; an element of a tile with a scale-tile reference with its block
scale (03 R59). -/
def srcValue (f : Nat) (scal : Bool) (sc : Row) (c i : Nat) : Fv :=
  if isInt f then Fv.ofInt (intOf f c)
  else
    let x := (ffOf f).dec c
    if scal then scaledBy x (laneOf sc 8 (i / 32)) else x

/-- Element i of ta's row in its own format, zero at or beyond its length. -/
def VIn.src (v : VIn) (i : Nat) : Nat := if i < v.la then laneOf v.a (fmtBits v.fa) i else 0

/-- One element of VCVT (06 R160; 03 R67, R68): an MX element whose scaled value leaves the FP32 range becomes ±Inf with OVF
on its way. -/
def cvtLane (v : VIn) (i : Nat) : Rnd :=
  if isInt v.fa && isInt v.fd then clampTo v.fd (intOf v.fa (v.src i)) flagSAT
  else
    let x := if i < v.la then srcValue v.fa v.scal v.sca (v.src i) i else .fin false 0 0
    if v.scal then
      let y := ff32.enc .rne x
      let r := if y.fl = 0 then convertTo v.fd (v.mode i) x else convertTo v.fd (v.mode i) (f32 y.code)
      ⟨r.code, r.fl ||| y.fl⟩
    else convertTo v.fd (v.mode i) x

def vCvtF (v : VIn) : VOut := lanes v.ld (fmtBits v.fd) (cvtLane v)

/-- The block exponent of 03 R73: `none` ZERO; NAN is the exponent 1000. -/
def blockEntry (f : Nat) (xs : List Nat) : Option Int :=
  xs.foldl (fun e c => match (ffOf f).dec c with
    | .nan => some 1000
    | .inf _ => some 1000
    | .fin _ m k => if m = 0 then e else
      let t := k + (Nat.log2 m : Int)
      match e with
      | some y => some (max y t)
      | none => some t) none

/-- The four entries VBMAX writes. -/
def vbmaxEntries (v : VIn) : List (Option Int) :=
  (List.range 4).map (fun b => blockEntry v.fa ((List.range 32).map (fun i => v.src (32 * b + i))))

def vBmaxF (v : VIn) : VOut := ⟨0, 0, none, some (vbmaxEntries v)⟩

def emaxOf (f : Nat) : Int := if f = fmtMxfp4 then 2 else if f = fmtE4m3 then 8 else 15

/-- VBQ (03 R74, 06 R161): the quantised row and the scale-tile row. Of a NaN or Inf element under a finite entry, which a row other
than the measured one can bring, the spec says nothing: NaN gives the canonical NaN (0x0 in E2M1), Inf the largest finite, and no
flag is set (log entry 54). -/
def vBqF (v : VIn) : VOut :=
  let k := ffOf v.fd
  let xOf := fun (e : Int) => max (-127) (min 127 (e - emaxOf v.fd))
  let el := fun (i : Nat) => match v.sc.getD (i / 32) none with
    | none => exactCode 0
    | some e =>
      if e = 1000 then exactCode k.nan
      else match ((ffOf v.fa).dec (v.src i)).shift (-(xOf e)) with
        | .inf n => exactCode (k.sign n + k.top)
        | y => exactCode (k.enc (v.mode i) y).code
  let bytes := (List.range ((v.ld + 31) / 32)).map (fun b => match v.sc.getD b none with
    | none => 0
    | some e => if e = 1000 then 0xFF else (xOf e + 127).toNat)
  let r := lanes v.ld (fmtBits v.fd) el
  ⟨r.row, 0, some (BitVec.ofNat 2048 (packLanes 8 bytes)), none⟩

/-- The reductions (03 R69, 06 R163): kind 0 sum, 1 maximum, 2 minimum. -/
def vReduceF (kind : Nat) (v : VIn) : VOut :=
  let n := v.la
  let k := ceilLog2 n
  if isInt v.fa then
    let idn : Int := if kind = 0 then 0 else if kind = 1 then -9223372036854775808 else 9223372036854775807
    let xs := (List.range n).map (fun i => intOf v.fa (v.src i))
    let r : Int := if kind = 0 then xs.foldl (· + ·) 0 else if kind = 1 then xs.foldl max idn else xs.foldl min idn
    ⟨BitVec.ofNat 2048 (wrapTo 64 r), 0, none, none⟩
  else
    let ident := if kind = 0 then 0x80000000 else if kind = 1 then 0xFF800000 else 0x7F800000
    let ws := (List.range n).map (fun i => ff32.enc .rne (srcValue v.fa v.scal v.sca (v.src i) i))
    let l := ws.map (·.code) ++ List.replicate (1 <<< k - n) ident
    let fl := ws.foldl (fun a x => a ||| x.fl) 0
    let op := fun (j a b : Nat) =>
      if kind = 0 then fadd32 a b (v.mode j)
      else if kind = 1 then ff32.enc .rne ((f32 a).max (f32 b)) else ff32.enc .rne ((f32 a).min (f32 b))
    let r := treeReduce op k l fl
    ⟨BitVec.ofNat 2048 r.code, r.fl, none, none⟩

/-- VMOV (06 R164). -/
def vMovF (srcBytes : Nat) (v : VIn) : VOut :=
  ⟨vBytes (if v.dt then rowLenBytes v.fd v.ld else 256) (vBytes srcBytes v.a), 0, none, none⟩

def vBcstF (v : VIn) : VOut := lanes v.l v.w (fun _ => exactCode (v.x.toNat % (1 <<< v.w)))
def vPermF (v : VIn) : VOut := lanes v.l v.w (fun i => exactCode (v.ea (v.eb i % v.l)))
def vRotF (v : VIn) : VOut := lanes v.l v.w (fun i => exactCode (v.ea ((i + v.x.toNat) % v.l)))

/-- VRNG (03 R77, 06 R167). -/
def vRngF (key : W64 × W64) (v : VIn) : VOut :=
  let r : Row := BitVec.ofNat 2048 (packLanes 32 ((List.range 64).map (fun i => (mix key (v.x + BitVec.ofNat 64 i)).toNat)))
  ⟨vBytes (if v.dt then rowLenBytes v.fd v.ld else 256) r, 0, none, none⟩

/-- The arithmetic of each V word. -/
def VFn.out : VFn → VIn → VOut
  | .add => vAddF
  | .sub => vSubF
  | .mul => vMulF
  | .min => vMinF
  | .max => vMaxF
  | .div => vDivF
  | .fma x => vFmaF x
  | .abs => vAbsF
  | .neg => vNegF
  | .rcp => vRcpF
  | .rsq => vRsqF
  | .exp2 => vExp2F
  | .log2 => vLog2F
  | .adds => vScalarF Fv.add (· + ·)
  | .muls => vScalarF Fv.mul (· * ·)
  | .cmp c => vCmpF c
  | .sel => vSelF
  | .and => vBitF (· &&& ·)
  | .or => vBitF (· ||| ·)
  | .xor => vBitF (· ^^^ ·)
  | .not => vBitF (fun a _ => ~~~a)
  | .shl => vShlF
  | .shr => vShrF
  | .sra => vSraF
  | .qadd => vSatF (· + ·)
  | .qsub => vSatF (· - ·)
  | .qmul => vSatF (· * ·)
  | .qabs => vSatF (fun x _ => (x.natAbs : Int))
  | .cvt => vCvtF
  | .bmax => vBmaxF
  | .bq => vBqF
  | .red k => vReduceF k
  | .mov n => vMovF n
  | .bcst => vBcstF
  | .perm => vPermF
  | .rot => vRotF
  | .rng key => vRngF key

/-! ### The frame of a V word -/

/-- The tile an operand names. -/
def tileOf (s : State) (sp : Spec) : Option Tile :=
  match operandOf sp with
  | .tile t => some (s.myBank.tile t)
  | _ => none

/-- The operands of a V word. `m` is the rounding field where the word rounds; `scA` says that it values ta's elements with the scale tile of ta
(06 R160, R163), `scD` that it writes a row of td's scale tile. -/
structure VOps where
  td  : Option Spec
  rdD : Bool
  ta  : Option Spec
  tb  : Option Spec
  reg : Option Reg
  m   : Option (BitVec 2)
  scA : Bool
  scD : Bool
  deriving DecidableEq, Repr

def VOps.reads (o : VOps) : List Spec := o.ta.toList ++ o.tb.toList ++ (if o.rdD then o.td.toList else [])
def VOps.all (o : VOps) : List Spec := o.ta.toList ++ o.tb.toList ++ o.td.toList

/-- F and L: of the first tile among ta, tb, td, else FP32 (06 R149). -/
def shapeOf (s : State) (o : VOps) : Nat × Nat :=
  match o.all.filterMap (tileOf s) with
  | t :: _ => (t.fmt, t.len)
  | [] => (fmtFp32, 64)

/-- The format and length of one field, FP32 and 64 where it is no tile (06 R160–R163). -/
def sideOf (s : State) (sp : Option Spec) : Nat × Nat :=
  match sp.bind (tileOf s) with
  | some t => (t.fmt, t.len)
  | none => (fmtFp32, 64)

/-- The scratchpad row of a tile's scale tile that belongs to its cursor row, in the copy of an index vector: a tagged scale tile is
addressed by the tile's own index (10 R230). A scale tile that is null or has no row of that index is not checked for, but for the bank's share
(01 R27): the row is the one at that place of the scratchpad (06 R161 says nothing of it; log entry 54). -/
def scaleRow (s : State) (n : Nat) (idx : List (Nat × Nat)) : Option Nat :=
  let t := s.myBank.tile n
  t.scale.map (fun m =>
    rowIndex (copyBase (s.myBank.tile m) (s.tagsIn m) (idx.filter (fun c => (s.tagsIn n).contains c.1))) t.cursor)

/-- Whether a tile's elements have block scales: mxfp4 and FP8 tiles with a scale-tile reference (03 R59). -/
def Tile.scaled (t : Tile) : Bool := (t.fmt == fmtMxfp4 || t.fmt == fmtE4m3 || t.fmt == fmtE5m2) && t.scale.isSome

/-- The rows of td's scale tile that a repetition of VBQ writes: one for each copy of td that it writes (06 R161; 10 R230, R237). -/
def scaleRows (s : State) (td : Option Spec) (ws : List Nat) (idx : List (Nat × Nat)) : List Nat :=
  ((td.toList.flatMap tileNo).flatMap (fun t => (destIndices s t ws idx).filterMap (scaleRow s t))).dedup

/-- The tiles whose footprint a word checks before its first repetition (10 R231): those it widens over, a tagged destination, and
the scale tiles it reads or writes by their index. -/
def footTiles (s : State) (o : VOps) (ws : List Nat) : List Nat :=
  let td := (o.td.toList.flatMap tileNo).filter (fun t => !(tagsOf s.me (s.myBank.tile t)).isEmpty)
  let ts := if ws.isEmpty then td else o.all.flatMap tileNo
  let read := (o.ta.toList.flatMap tileNo).filter (fun t => !ws.isEmpty && o.scA && (s.myBank.tile t).scaled)
  ts ++ (read ++ (if o.scD then td else [])).filterMap (fun t => (s.myBank.tile t).scale)

/-- The scale register that a repetition of VBQ reads: WI − 2 where one element is quantised; over n elements the n that the VBMAX widened over
the same axis wrote, in its order (03 R74, 06 R171; log entry 56). -/
def scaleReg (s : State) (ws : List Nat) (r : Nat) : Nat :=
  let on := fun (k : Nat) => ((List.range k).filter (fun i => activeAt s.me (indexOf s.me ws i))).length
  let n := on (repCount s.me ws)
  if ws.isEmpty || n ≤ 1 then (s.myBank.wi + 2) % 4 else (s.myBank.wi + 3 * n + on r) % 4

/-- Every operand of the general rules has format F and length L; masks of VCMP and VSEL only F's width (06 R150). -/
def uniform (s : State) (o : VOps) (mask : Bool) : Bool :=
  let f := shapeOf s o
  let ok := fun (sp : Spec) => match tileOf s sp with | some t => t.fmt == f.1 && t.len == f.2 | none => true
  let okM := fun (sp : Spec) => match tileOf s sp with | some t => fmtBits t.fmt == fmtBits f.1 && t.len == f.2 | none => true
  (o.ta.toList ++ o.tb.toList).all ok && o.td.toList.all (if mask then okM else ok)

/-- Counts how many rows an operand gives in one repetition. -/
def takes (o : VOps) (sp : Spec) : Nat := (o.reads.filter (· == sp)).length

/-- The scratchpad row of an operand whose contents are still to be read after extra cycles: not one that an earlier result of V's own reaches until
then, which the word does not see (17 R299). -/
def lateRow (s : State) (e : Nat) : List Nat → Option Nat
  | i :: _ => if s.me.pend.any (fun p => decide (p.cyc ≤ s.cycle + e) && (match p.wr with | .row j _ => j == i | _ => false)) then none else some i
  | [] => none

/-- The rows popped by operands, for a trap that takes them back, with the credits still owed for them. -/
def popped (ps : List (Option Spec × Row × Option Sender)) : List (Spec × Row × Option Sender) :=
  ps.flatMap (fun x => match x.1.map (fun sp => (sp, operandOf sp)) with
    | some (sp, .queue _) | some (sp, .stream _) => [(sp, x.2.1, x.2.2)]
    | _ => [])

/-- One repetition of a V word with latency `lat`; the checks of 10 R244 come before the first repetition: `okf` is its format check, `fc` the format constant rows take, `rounds` whether it rounds on
these formats, `f` its arithmetic. With extra cycles e the rows are read after them (17 R302): `late` holds the word, and its results in flight are
those of the rows as they stand until then. Of several causes, blocks and waits that hold at once the word takes the first in the order of these
lines, among which the spec gives none (06 R172; DESIGN CHOICE, log entry 63). -/
def vword (w : BitVec 3) (lat : Nat) (o : VOps) (okf : State → Bool) (fc : State → Nat) (rounds : State → Bool)
    (f : State → VFn) (s : State) :
    Res State := do
  o.all.forM (needReady s)
  let first := s.me.lrep == 0
  trapIf (first && !okf s) s .reservedOperand
  let x ← match o.reg with | some r => rd s r | none => .ok 0
  let ws := widenSet s o.reads
  let s0 := s
  let s ← match o.td with | some td => (if first then settleTags s td ws else .ok s) | none => .ok s
  if first then checkTiles s (footTiles s o ws) else .ok ()
  let r := if ws.isEmpty then 0 else (nextActive s.me ws (repCount s.me ws) s.me.lrep).getD 0
  let idx := indexOf s.me ws r
  o.reads.forM (fun sp => canTake s sp (takes o sp))
  match o.td with | some td => canGive s td (takes o td) | none => .ok ()
  let fcv := fc s
  let (ra, ia, s1) := match o.ta with | some sp => takeRow s sp fcv idx | none => (0, [], s)
  let (rb, ib, s2) := match o.tb with | some sp => takeRow s1 sp fcv idx | none => (0, [], s1)
  let (rdv, id_, s3) := match o.td with | some sp => (if o.rdD then takeRow s2 sp fcv idx else (0, [], s2)) | none => (0, [], s2)
  let ca := o.ta.bind (creditorOf s)
  let cb := o.tb.bind (creditorOf s1)
  let cd := if o.rdD then o.td.bind (creditorOf s2) else none
  let sa := match o.ta.map operandOf with
    | some (.tile t) => if o.scA && (s.myBank.tile t).scaled then scaleRow s t idx else none
    | _ => none
  let scRows := if o.scD then scaleRows s3 o.td ws idx else []
  trapIf ((sa.toList ++ scRows).any (fun i => !inShare s.myBank (256 * i) 256)) s .accessViolation
  let rows := ia ++ ib ++ id_ ++ sa.toList
  checkRows s rows
  let bases := match o.td with | some td => destBases s3 td ws idx | none => []
  let wr := (match o.td.bind (tileOf s) with | some t => bases.map (fun b => rowIndex b t.cursor) | none => []) ++ scRows
  let (wk, pr, mate) := pairOf s
  let wake := max wk (wakeDelay s (rows ++ wr))
  let e := wake + conflicts (pr ++ rows)
  if e = 0 then checkEcc s0 rows else .ok ()
  let s3 := if e = 0 then ((s3.credit ca).credit cb).credit cd else s3
  let owed := fun (c : Option Sender) => if e = 0 then none else c
  let (fF, lF) := shapeOf s o
  let (fa, la) := sideOf s o.ta
  let (fd, ld) := sideOf s o.td
  let s4 := (rows ++ wr).foldl (fun s i => s.touchRow s.cur.bank.core i) s3
  let fn := f s
  let inp : VIn := { f := fF, l := lF, fa := fa, la := la, fd := fd, ld := ld, dt := (o.td.bind (tileOf s)).isSome, ta := (o.ta.bind (tileOf s)).isSome, tb := (o.tb.bind (tileOf s)).isSome
                     a := ra, b := rb, d := rdv, x := x, sca := (match sa with | some i => (s.core s.cur.bank.core).row i | none => 0)
                     scal := sa.isSome, sc := ((s.myBank.sc.getD (scaleReg s ws r) (Vector.replicate 4 none)).toList), rnd := drawsOf s (o.m.getD 0) }
  let out := fn.out inp
  let ready := s.cycle + e + lat
  let s4 := if pr.isEmpty && wk = 0 then s4 else s4.modMe (fun m => { m with pend := m.pend.map (fun p =>
    if p.wr = .done && p.cyc ≥ s.cycle + 4 && !(p.cyc ≥ ready) then { p with cyc := ready } else p) })
  let tiles := (o.all.map tileNo).flatten
  let s5 := match o.td with | some td => giveRow s4 td bases out.row ready tiles | none => s4
  let dests := s5.me.pend.length - s4.me.pend.length
  let s6 := match out.scale with
    | some sr => scRows.foldl (fun s i => pendRow s i sr ready tiles) s5
    | none => s5
  let s7 := s6.modMe (fun m => { m with pend := m.pend ++
    [⟨ready, if out.fl = 0 then .done else .flags (BitVec.ofNat 64 out.fl), tiles⟩] })
  let late : VLate := { due := s.cycle + e, fn := fn, inp := inp, ra := lateRow s e ia, rb := lateRow s e ib, rd := lateRow s e id_, rs := lateRow s e sa.toList
                        dests := dests, scs := s6.me.pend.length - s5.me.pend.length
                        undo := { pc := s.me.pc, lrep := s0.me.lrep, issued := s.me.issued, srctr := s.me.srctr
                                  tags := (o.td.toList.flatMap tileNo).flatMap (fun t => (ws.filter (fun l => !((s0.myBank.tile t).liftAt l).t)).map (fun l => (t, l)))
                                  pops := popped [(o.ta, ra, owed ca), (o.tb, rb, owed cb), (if o.rdD then o.td else none, rdv, owed cd)]
                                  reg := if out.ent.isSome then some (s.myBank.wi, s.myBank.sc.getD s.myBank.wi (Vector.replicate 4 none)) else none } }
  let s7 := if e = 0 then s7 else s7.modMyBank (fun k => { k with late :=
    match mate with | some y => [{ y with due := s.cycle + e }, late] | none => k.late ++ [late] })
  let s8 := if o.m.isSome && isSr s (o.m.getD 0) && rounds s then s7.modMe (fun m => { m with srctr := m.srctr + 512 }) else s7
  let s8 := match out.ent with
    | some es => s8.modMyBank (fun k => { k with
        sc := k.sc.setIfInBounds k.wi (Vector.ofFn (fun i : Fin 4 => es.getD i.val none)), wi := (k.wi + 1) % 4
        vpair := if w = 0 && ws.isEmpty then some (s.cycle, wake, rows, late) else none })
    | none => s8.modMyBank (fun k => { k with vpair := none })
  let fixed := ((o.all.flatMap tileNo) ++ (o.all.flatMap tileNo).filterMap (fun t => (s.myBank.tile t).scale)).map (fun t => (t, s.tagsIn t))
  if ws.isEmpty then .ok (retireAt s8 w (s8.me.pc + 4) e)
  else match nextActive s.me ws (repCount s.me ws) (r + 1) with
    | some _ => .ok (s8.modMe (fun m => { m with lrep := r + 1, xset := fixed, nextIssue := s.cycle + 1 + e, block := none, names := tiles }))
    | none => .ok (retireAt s8 w (s8.me.pc + 4) e)
where
  /-- The wake-up time, the rows and the word of a VBMAX that issued in this same cycle (06 R162). -/
  pairOf (s : State) : Nat × List Nat × Option VLate :=
    match s.myBank.vpair with
    | some (c, k, rows, y) => if c = s.cycle then (k, rows, some y) else (0, [], none)
    | none => (0, [], none)

/-! ### Rows read after the extra cycles of an issue (06 R169, R170; 17 R302) -/

def VLate.rows (l : VLate) : List Nat := l.ra.toList ++ l.rb.toList ++ l.rd.toList ++ l.rs.toList

/-- The word's inputs with the rows of the scratchpad as they stand. -/
def VLate.inputs (l : VLate) (c : Core) : VIn :=
  let now := fun (i : Option Nat) (r : Row) => match i with | some j => c.row j | none => r
  { l.inp with a := now l.ra l.inp.a, b := now l.rb l.inp.b, d := now l.rd l.inp.d, sca := now l.rs l.inp.sca }

/-- How many of V's results in flight are the word's: its rows and its flags. -/
def VLate.results (l : VLate) : Nat := l.dests + l.scs + 1

/-- A result in flight with the row of a late read. -/
def PendWrite.withRow (w : PendWrite) (r : Row) : PendWrite :=
  match w with
  | .row i _ => .row i r
  | .queue q _ => .queue q r
  | .dstream n _ => .dstream n r
  | .reg _ _ | .ireg _ _ | .flags _ | .done => w

/-- The word's results in flight as a late read gives them: destination rows, scale rows, flags. -/
def VLate.patch (l : VLate) (o : VOut) (ps : List Pend) : List Pend :=
  ps.zipIdx.map (fun x =>
    if x.2 < l.dests then { x.1 with wr := x.1.wr.withRow o.row }
    else if x.2 < l.dests + l.scs then { x.1 with wr := x.1.wr.withRow (o.scale.getD 0) }
    else { x.1 with wr := if o.fl = 0 then .done else .flags (BitVec.ofNat 64 o.fl) })

/-- The word reads its rows: its results, or VBMAX's scale register, are those of the rows as they stand, and the credits of its pops go back. -/
def VLate.reads (l : VLate) (s : State) (b : BankId) : State :=
  let o := l.fn.out (l.inputs (s.core b.core))
  (l.undo.pops.foldl (fun s x => s.credit x.2.2) s).modBank b (fun k =>
    let n := k.v.pend.length - l.results
    let k := if l.undo.reg.isSome then k else { k with v := { k.v with pend := k.v.pend.take n ++ l.patch o (k.v.pend.drop n) } }
    match o.ent, l.undo.reg with
    | some es, some x => { k with sc := k.sc.setIfInBounds x.1 (Vector.ofFn (fun i : Fin 4 => es.getD i.val none)) }
    | _, _ => k)

/-- A row goes back to the head of the queue or stream it was taken from, with the credit it owes. -/
def Bank.putBack (k : Bank) (x : Spec × Row × Option Sender) : Bank :=
  match operandOf x.1 with
  | .queue q => let y := k.queue q; k.setQueue q { y with rows := x.2.1 :: y.rows, owed := x.2.2 :: y.owed }
  | .stream n => let d := k.ds n
    k.setDs n { d with run := d.run.map (fun y => { y with buf := ⟨y.given - 1, x.2.1, 0, false⟩ :: y.buf, given := y.given - 1 }) }
  | _ => k

/-- A result in flight that will not come gives its slot back. -/
def Bank.dropResult (k : Bank) (p : Pend) : Bank :=
  match p.wr with
  | .queue q _ => k.setQueue q { k.queue q with reserved := (k.queue q).reserved - 1 }
  | .dstream n _ => let d := k.ds n
    k.setDs n { d with run := d.run.map (fun y => { y with given := y.given - 1 }) }
  | .reg _ _ | .ireg _ _ | .row _ _ | .flags _ | .done => k

/-- The word has no effect (06 R170): its results, pops, tags, draws and count are taken back. -/
def VLate.back (l : VLate) (k : Bank) : Bank :=
  let u := l.undo
  let n := k.v.pend.length - l.results
  let k := (k.v.pend.drop n).foldl Bank.dropResult k
  let k := u.pops.reverse.foldl Bank.putBack k
  let k := u.tags.foldl (fun k x => k.setTile x.1 ((k.tile x.1).setLift x.2 { (k.tile x.1).liftAt x.2 with t := false, acq := none })) k
  let k := match u.reg with
    | some x => { k with sc := k.sc.setIfInBounds x.1 x.2, wi := x.1 }
    | none => k
  { k with v := { k.v with pend := k.v.pend.take n, pc := u.pc, lrep := u.lrep, issued := u.issued, srctr := u.srctr } }

/-- The words read their rows, the oldest first. One that meets an uncorrectable error has no effect, nor has the word behind it; it traps while V
runs. -/
def readAll (b : BankId) : List VLate → State → State
  | [], s => s
  | l :: rest, s =>
    match l.rows.findSome? (fun i => ((s.core b.core).injAt 0 (256 * i) 256).bind (fun j => if j.hard then some (i, j.addr) else none)) with
    | none => readAll b rest (l.reads s b)
    | some (i, a) =>
      let s := s.modBank b ((l :: rest).reverse.foldl (fun k x => x.back k))
      let s := s.setCore b.core ((s.core b.core).disarm 0 (256 * i) 256)
      if (s.bank b).v.status = .running then takeTrap s b .V (mkTrap .sramUncorrected (BitVec.ofNat 64 a)) l.undo.pc else s

/-- The V words of a bank whose extra cycles are over read their rows. -/
def lateReads (s : State) (b : BankId) : State :=
  let (now, later) := (s.bank b).late.partition (fun l => decide (l.due ≤ s.cycle))
  if now.isEmpty then s else readAll b now (s.modBank b (fun k => { k with late := later }))

/-! ### Format checks (06 R151, R153, R155, R160, R161, R163) -/

def ops3 (p q r : Spec) (m : Option (BitVec 2)) : VOps := ⟨some p, false, some q, some r, none, m, false, false⟩
def ops2 (p q : Spec) (m : Option (BitVec 2)) : VOps := ⟨some p, false, some q, none, none, m, false, false⟩

/-- The operands of a word that reads ta with its block scales. -/
def opsMx (p q : Spec) (m : Option (BitVec 2)) : VOps := { ops2 p q m with scA := true }

def okArith (o : VOps) (s : State) : Bool :=
  let f := (shapeOf s o).1
  uniform s o false && (isFloat f || (isInt f && o.m.getD 0 == 0))
def okFloat (o : VOps) (s : State) : Bool := uniform s o false && isFloat (shapeOf s o).1
def ok32 (o : VOps) (s : State) : Bool := uniform s o false && (shapeOf s o).1 == fmtFp32
def okInt (o : VOps) (s : State) : Bool := uniform s o false && isInt (shapeOf s o).1
def okAny (o : VOps) (s : State) : Bool := uniform s o false
def okNum (o : VOps) (mask : Bool) (s : State) : Bool :=
  uniform s o mask && (isFloat (shapeOf s o).1 || isInt (shapeOf s o).1)
def cvtFmt (f : Nat) : Bool := f ≤ 4 || isInt f
def okCvt (o : VOps) (s : State) : Bool := cvtFmt (sideOf s o.ta).1 && cvtFmt (sideOf s o.td).1
def okBmax (o : VOps) (s : State) : Bool := isFloat (sideOf s o.ta).1
def okBq (o : VOps) (s : State) : Bool :=
  isFloat (sideOf s o.ta).1 && (match o.td.bind (tileOf s) with
    | some t => (t.fmt == 2 || t.fmt == 3 || t.fmt == 4) && t.scale.isSome && t.len ≤ 128
    | none => false)
def okRed (o : VOps) (s : State) : Bool :=
  let fa := (sideOf s o.ta).1
  cvtFmt fa && (match o.td.bind (tileOf s) with
    | some t => t.fmt == (if isInt fa then fmtI64 else fmtFp32)
    | none => true)

def fcF (o : VOps) (s : State) : Nat := (shapeOf s o).1
def fc32 (_ : State) : Nat := fmtFp32

/-- An arithmetic word of the general rules. -/
def vgen (w : BitVec 3) (lat : Nat) (o : VOps) (okf : VOps → State → Bool) (f : VFn) (s : State) : Out :=
  run s (vword w lat o (okf o) (fcF o) (fun s => isFloat (shapeOf s o).1) (fun _ => f))

def execVadd (w : BitVec 3) (p q r : Spec) (m : BitVec 2) (s : State) := vgen w 4 (ops3 p q r (some m)) okArith .add s
def execVsub (w : BitVec 3) (p q r : Spec) (m : BitVec 2) (s : State) := vgen w 4 (ops3 p q r (some m)) okArith .sub s
def execVmul (w : BitVec 3) (p q r : Spec) (m : BitVec 2) (s : State) := vgen w 4 (ops3 p q r (some m)) okArith .mul s
def execVfma (w : BitVec 3) (p q r : Spec) (m : BitVec 2) (s : State) :=
  vgen w 6 ⟨some p, true, some q, some r, none, some m, false, false⟩ okArith (.fma false) s
def execVfms (w : BitVec 3) (p q r : Spec) (m : BitVec 2) (s : State) :=
  vgen w 6 ⟨some p, true, some q, some r, none, some m, false, false⟩ okArith (.fma true) s
def execVmin (w : BitVec 3) (p q r : Spec) (s : State) := vgen w 4 (ops3 p q r none) okArith .min s
def execVmax (w : BitVec 3) (p q r : Spec) (s : State) := vgen w 4 (ops3 p q r none) okArith .max s
def execVdiv (w : BitVec 3) (p q r : Spec) (m : BitVec 2) (s : State) := vgen w 14 (ops3 p q r (some m)) okFloat .div s
def execVabs (w : BitVec 3) (p q : Spec) (s : State) := vgen w 4 (ops2 p q none) okArith .abs s
def execVneg (w : BitVec 3) (p q : Spec) (s : State) := vgen w 4 (ops2 p q none) okArith .neg s
def execVrcp (w : BitVec 3) (p q : Spec) (m : BitVec 2) (s : State) := vgen w 14 (ops2 p q (some m)) okFloat .rcp s
def execVrsq (w : BitVec 3) (p q : Spec) (m : BitVec 2) (s : State) := vgen w 14 (ops2 p q (some m)) okFloat .rsq s
def execVexp2 (w : BitVec 3) (p q : Spec) (m : BitVec 2) (s : State) := vgen w 14 (ops2 p q (some m)) ok32 .exp2 s
def execVlog2 (w : BitVec 3) (p q : Spec) (m : BitVec 2) (s : State) := vgen w 14 (ops2 p q (some m)) ok32 .log2 s
def execVcmp (w : BitVec 3) (p q r : Spec) (c : BitVec 2) (s : State) :=
  vgen w 4 (ops3 p q r none) (fun o => okNum o true) (.cmp c) s
def execVsel (w : BitVec 3) (p q r : Spec) (s : State) :=
  vgen w 4 ⟨some p, true, some q, some r, none, none, false, false⟩ (fun o s => uniform s o true) .sel s
def execVand (w : BitVec 3) (p q r : Spec) (s : State) := vgen w 4 (ops3 p q r none) okAny .and s
def execVor (w : BitVec 3) (p q r : Spec) (s : State) := vgen w 4 (ops3 p q r none) okAny .or s
def execVxor (w : BitVec 3) (p q r : Spec) (s : State) := vgen w 4 (ops3 p q r none) okAny .xor s
def execVnot (w : BitVec 3) (p q : Spec) (s : State) := vgen w 4 (ops2 p q none) okAny .not s
def execVshl (w : BitVec 3) (p q r : Spec) (s : State) := vgen w 4 (ops3 p q r none) okInt .shl s
def execVshr (w : BitVec 3) (p q r : Spec) (s : State) := vgen w 4 (ops3 p q r none) okInt .shr s
def execVsra (w : BitVec 3) (p q r : Spec) (s : State) := vgen w 4 (ops3 p q r none) okInt .sra s
def execVadds (w : BitVec 3) (p q : Spec) (r : Reg) (m : BitVec 2) (s : State) :=
  vgen w 4 ⟨some p, false, some q, none, some r, some m, false, false⟩ okArith .adds s
def execVmuls (w : BitVec 3) (p q : Spec) (r : Reg) (m : BitVec 2) (s : State) :=
  vgen w 4 ⟨some p, false, some q, none, some r, some m, false, false⟩ okArith .muls s
def execVqadd (w : BitVec 3) (p q r : Spec) (s : State) := vgen w 4 (ops3 p q r none) okInt .qadd s
def execVqsub (w : BitVec 3) (p q r : Spec) (s : State) := vgen w 4 (ops3 p q r none) okInt .qsub s
def execVqmul (w : BitVec 3) (p q r : Spec) (s : State) := vgen w 4 (ops3 p q r none) okInt .qmul s
def execVqabs (w : BitVec 3) (p q : Spec) (s : State) := vgen w 4 (ops2 p q none) okInt .qabs s

/-- VBQ and VCVT: as the second word of a pair they issue in VBMAX's cycle only if they can issue there alone; otherwise
nothing happens in this cycle (06 R162, 17 R301). The pair's reads are counted together. -/
def paired (s : State) (ta : Spec) (f : State → Res State) : Out :=
  match s.myBank.vpair with
  | some (c, _) =>
    if c = s.cycle then
      .next (if (widenSet s [ta]).isEmpty then (match f s with | .ok t => t | .error _ => s) else s)
    else run s f
  | none => run s f

def execVcvt (w : BitVec 3) (p q : Spec) (m : BitVec 2) (s : State) :=
  paired s q (vword w 4 (opsMx p q (some m)) (okCvt (ops2 p q (some m))) fc32 (fun _ => true) (fun _ => .cvt))
def execVbq (w : BitVec 3) (p q : Spec) (m : BitVec 2) (s : State) :=
  paired s q (vword w 4 ⟨some p, false, some q, none, none, some m, false, true⟩ (okBq (ops2 p q (some m))) fc32 (fun _ => true) (fun _ => .bq))

/-- VBMAX (03 R73, 06 R161). -/
def execVbmax (w : BitVec 3) (q : Spec) (s : State) :=
  let o : VOps := ⟨none, false, some q, none, none, none, false, false⟩
  run s (vword w 4 o (okBmax o) fc32 (fun _ => false) (fun _ => .bmax))

def execVrsum (w : BitVec 3) (p q : Spec) (m : BitVec 2) (s : State) :=
  run s (vword w 10 (opsMx p q (some m)) (okRed (ops2 p q (some m))) fc32
    (fun s => !isInt (sideOf s (some q)).1) (fun _ => .red 0))
def execVrmax (w : BitVec 3) (p q : Spec) (s : State) :=
  run s (vword w 10 (opsMx p q none) (okRed (ops2 p q none)) fc32 (fun _ => false) (fun _ => .red 1))
def execVrmin (w : BitVec 3) (p q : Spec) (s : State) :=
  run s (vword w 10 (opsMx p q none) (okRed (ops2 p q none)) fc32 (fun _ => false) (fun _ => .red 2))

/-- VMOV: any formats; a source tile gives its own row bytes (06 R164). -/
def execVmov (w : BitVec 3) (p q : Spec) (s : State) :=
  let o := ops2 p q none
  run s (vword w 4 o (fun _ => true) (fcF o) (fun _ => false) (fun s =>
    .mov (match tileOf s q with | some t => rowLenBytes t.fmt t.len | none => 256)))

/-- VBCST: F and L from td alone (06 R164). -/
def execVbcst (w : BitVec 3) (p : Spec) (r : Reg) (s : State) :=
  vgen w 4 ⟨some p, false, none, none, some r, none, false, false⟩ okAny .bcst s
def execVperm (w : BitVec 3) (p q r : Spec) (s : State) := vgen w 4 (ops3 p q r none) okAny .perm s
def execVrot (w : BitVec 3) (p q : Spec) (r : Reg) (s : State) :=
  vgen w 4 ⟨some p, false, some q, none, some r, none, false, false⟩ okAny .rot s

/-- VROW (06 R166): the cursor of a ready tile. -/
def execVrow (w : BitVec 3) (p : Spec) (r : Reg) (s : State) :=
  run s (fun s => do
    needReady s p
    let v ← rd s r
    match operandOf p with
    | .tile t =>
      let x := s.myBank.tile t
      trapIf (v.toNat ≥ x.rows) s .accessViolation
      .ok (retire (s.modMyBank (·.setTile t { x with cursor := v.toNat })) w)
    | _ => wordTrap s .reservedOperand)

/-- VNEXT (06 R166). -/
def execVnext (w : BitVec 3) (p : Spec) (s : State) :=
  run s (fun s => do
    needReady s p
    match operandOf p with
    | .tile t =>
      let x := s.myBank.tile t
      .ok (retire (s.modMyBank (·.setTile t { x with cursor := (x.cursor + 1) % x.rows })) w)
    | _ => wordTrap s .reservedOperand)

/-- VRNG (06 R167). -/
def execVrng (w : BitVec 3) (p : Spec) (h : BitVec 4) (r : Reg) (s : State) :=
  run s (vword w 6 ⟨some p, false, none, none, some r, none, false, false⟩ (fun _ => true) fc32 (fun _ => false)
    (fun s => .rng (s.myCtx.keys.getD h.toNat (0, 0))))

end Sys2Proof.Machine
end

