-- ==== Sys2Proof/Machine/Lift.lean ====
section
/-! DEFINITION. The lift words of the G class (10 R228–R243). -/

namespace Sys2Proof.Machine

/-- Goes on at a pc: a redirect where it is not the next word (10, Opening and closing levels). -/
def goTo (s : State) (w : BitVec 3) (pc : W64) : State := if pc = s.me.pc + 4 then retire s w else redirect s w pc

/-- The same with extra cycles `x` of the issue: the next word waits for the later of them and the redirect (17 R296, R297). -/
def goToAt (s : State) (w : BitVec 3) (pc : W64) (x : Nat) : State :=
  if pc = s.me.pc + 4 then retireAt s w pc x
  else
    let r := redirectNo s
    retireAt r.2 w pc (max x r.1)

/-- The mask of `n` ones. -/
def onesMask (n : Nat) : BitVec 256 := BitVec.ofNat 256 (1 <<< n - 1)

/-- LCALL (10 R232). -/
def execLcall (w : BitVec 3) (d : Reg) (o : BitVec 15) (s : State) :=
  run s (fun s => do
    let n := (← rd s d).toNat
    let x := s.me
    let l := x.lift.length
    trapIf (l == 4 || n == 0 || n > 256 || n * (x.lift.foldl (fun p v => p * v.n) 1) > 4096) s .axisOverflow
    let t := s.modMe (fun x => { x with lift := x.lift ++ [⟨n, x.pc + 4, onesMask n⟩] })
    trapIf ((List.range 32).any (fun k =>
      let u := t.myBank.tile k
      ((u.liftAt l).t || (u.liftAt l).b != 0) && !footprintOk t.myBank t.me k)) s .axisOverflow
    .ok (goTo t w (target s.me.pc o)))

/-- The tiles whose tag at level `l` a stream's propagation set (10 R229). -/
def acquired (b : Bank) (e : Engine) (l : Nat) : List Nat :=
  (List.range 32).filter (fun k => ((b.tile k).liftAt l).acq == some e)

/-- LRET (10 R233). -/
def execLret (w : BitVec 3) (s : State) :=
  run s (fun s => do
    let x := s.me
    match x.lift.getLast? with
    | none => wordTrap s .liftDepth
    | some v =>
      let l := x.lift.length - 1
      trapIf (x.join.any (fun j => decide (l < j.opened))) s .liftDepth
      let ts := acquired s.myBank s.cur.engine l
      if engines.any (fun e => (s.myBank.namedBy e).any (fun t => ts.contains t)) then .error (.block .join 0)
      else
        let s := s.modMyBank (fun b => ts.foldl (fun b k =>
          let u := b.tile k
          b.setTile k (u.setLift l { u.liftAt l with t := false, acq := none })) b)
        .ok (goTo (s.modMe (fun x => { x with lift := x.lift.dropLast })) w v.ret))

/-- The wait TFREE, TFILL, TDRAIN, TDESC and LTAG make on a tile that is not filling or draining (01 R16). -/
def freeWait (s : State) (sp : Spec) (t : Nat) : Res Unit :=
  match (s.myBank.tile t).state with
  | .filling | .draining => .error (.block .tile (sp.setWidth 64))
  | _ => waitIf (s.myBank.tileBusy s.cur.engine t) (s.myBank.heldByA s.cur.engine t)

/-- LTAG (10 R234). -/
def execLtag (w : BitVec 3) (p : Spec) (r : Reg) (l : BitVec 2) (s : State) :=
  run s (fun s => do
    let v ← rd s r
    let st := (v.extractLsb' 0 24).toNat
    let dorm := v.getLsbD 24
    trapIf (v.extractLsb' 25 39 ≠ 0 || st % 256 ≠ 0 || st ≥ 1048576 || (dorm && st == 0)) s .accessViolation
    match operandOf p with
    | .tile t =>
      trapIf ((s.myBank.tile t).rows == 0) s .accessViolation
      freeWait s p t
      let k := l.toNat
      let x : TileLift := if v = 0 then ⟨false, 0, none⟩ else ⟨!dorm, st, none⟩
      let u := s.modMyBank (fun b => b.setTile t ((b.tile t).setLift k x))
      trapIf (decide (k < s.me.lift.length) && !footprintOk u.myBank u.me t) s .axisOverflow
      .ok (retire u w)
    | _ => wordTrap s .reservedOperand)

/-- LIDX (10 R235): one repetition per active copy. -/
def execLidx (w : BitVec 3) (p : Spec) (l : BitVec 2) (s : State) :=
  run s (fun s => do
    needReady s p
    match operandOf p with
    | .tile t =>
      let k := l.toNat
      let first := s.me.lrep == 0
      trapIf (first && s.me.lift.length ≤ k) s .liftDepth
      let x := s.myBank.tile t
      trapIf (first && !(x.liftAt k).t && (x.liftAt k).b == 0) s .tagConflict
      let s := if (x.liftAt k).t then s
        else s.modMyBank (·.setTile t (x.setLift k ⟨true, (x.liftAt k).b, some s.cur.engine⟩))
      if first then checkFootprints s [p] else .ok ()
      let x := s.myBank.tile t
      let ws := s.tagsIn t
      let r := (nextActive s.me ws (repCount s.me ws) s.me.lrep).getD 0
      let idx := indexOf s.me ws r
      let i := rowIndex (copyBase x ws idx) x.cursor
      let c := ((idx.find? (fun v => v.1 == k)).map (·.2)).getD 0
      let e := wakeDelay s [i]
      let row : Row := BitVec.ofNat 2048 (packLanes (fmtBits x.fmt) (List.replicate x.len (laneIndex x.fmt c)))
      let s := pendRow (s.touchRow s.cur.bank.core i) i row (s.cycle + e + 3) [t]
      match nextActive s.me ws (repCount s.me ws) (r + 1) with
      | some _ => .ok (s.modMe (fun m => { m with lrep := r + 1, xset := [(t, ws)], nextIssue := s.cycle + 1 + e, block := none, names := [t] }))
      | none => .ok (retireAt s w (s.me.pc + 4) e)
    | _ => wordTrap s .reservedOperand)

/-- Lane 0 of a row as BRB reads it (10 R242). -/
def lane0 (s : State) (sp : Spec) (r : Row) : Nat :=
  laneOf r (match tileOf s sp with | some t => fmtBits t.fmt | none => 32) 0

/-- Whether a nest, a write-back, a K operation or a fill of the stream itself is still to write a scratchpad row (17 R295). -/
def Bank.ownWork (b : Bank) (e : Engine) (i : Nat) : Bool :=
  match e with
  | .A => b.moves.any (fun m => !m.drain && m.copies.any (fun c => match c with
      | some d => decide (d / 256 ≤ i) && decide (i < d / 256 + m.rows) | none => false))
  | .M => b.mEng.nest.any (fun n => n.reps.any (fun r => r.dsts.any (fun d =>
        decide (d / 256 ≤ i) && decide (i < d / 256 + (b.tile n.cTile).rows)))) ||
      b.mEng.backs.any (fun x => x.rows.any (·.1 == i))
  | .K => b.kEng.op.any (fun o => o.todo.any (fun x => match x with | .give (.spad j) _ => j == i | _ => false))
  | _ => false

/-- A word other than V's that reads tile rows: it waits for its own engine's work on them (17 R295), the stall checker
runs, and an uncorrectable error traps as 06 R170 says for V words (DEDUCED, log entry 54). With extra cycles e it reads them after those (17 R302)
and stays at its pc until then, unless an earlier result of its stream, which it must not see (17 R299), is on its way to one. `f` is what it does
with the cycles still to come: a redirect is one of the cycle in which the rows are read (17 R297). -/
def readRows (s t : State) (rows tiles : List Nat) (f : Nat → State → State) : Res State := do
  waitIf (rows.any (s.myBank.ownWork s.cur.engine))
  match s.me.reading.filter (fun x => !rows.isEmpty && x.1 == s.me.pc && x.2 == s.me.nextIssue) with
  | some _ =>
    checkEcc s rows
    .ok (f 0 (t.modMe (fun m => { m with reading := none })))
  | none =>
    checkRows s rows
    let e := wakeDelay s rows + conflicts rows
    let u := fun (t : State) => rows.foldl (fun t i => t.touchRow t.cur.bank.core i) t
    if e = 0 || s.me.pend.any (fun p => match p.wr with | .row i _ => rows.contains i | _ => false) then
      checkEcc s rows
      .ok (f e (u t))
    else
      .ok ((u s).modMe (fun m => { m with
        reading := some (m.pc, s.cycle + e), nextIssue := s.cycle + e, block := none, lock := false, wait := none
        pend := m.pend ++ [⟨s.cycle + e + 1, .done, tiles⟩] }))

/-- BRB (10 R242). -/
def execBrb (w : BitVec 3) (p : Spec) (o : BitVec 14) (s : State) :=
  run s (fun s => do
    needReady s p
    let g := match tileOf s p with | some t => tagsOf s.me t | none => []
    match g with
    | [] =>
      canTake s p 1
      let (r, rows, t) := takeRow s p fmtFp32 []
      readRows s (t.credit (creditorOf s p)) rows (tileNo p) (fun e t => if lane0 s p r ≠ 0 then goToAt t w (target s.me.pc o) e else retireAt t w (s.me.pc + 4) e)
    | [l] =>
      trapIf ((s.me.join.filter (·.level == l)).length ≥ 8) s .liftDepth
      checkFootprints s [p]
      let n := s.me.axis l
      let rs := (List.range n).map (fun c => takeRow s p fmtFp32 [(l, c)])
      let cnd : BitVec 256 := BitVec.ofNat 256 (packLanes 1 (rs.map (fun r => if lane0 s p r.1 ≠ 0 then 1 else 0)))
      let m := match s.me.lift[l]? with | some v => v.mask | none => 0
      let tm := m &&& cnd
      let fm := m &&& ~~~cnd
      let pc := s.me.pc
      readRows s s ((rs.map (·.2.1)).flatten) (tileNo p) (fun e t =>
        let t := t.modMe (fun x => { x with
          join := x.join ++ [⟨l, m, pc + 4, fm, tm != 0 && fm != 0, x.lift.length⟩]
          lift := if tm ≠ 0 then modAt (fun v => { v with mask := tm }) x.lift l else x.lift })
        if tm ≠ 0 then goToAt t w (target pc o) e else retireAt t w (pc + 4) e)
    | _ => wordTrap s .tagConflict)

/-- JOIN (10 R243). -/
def execJoin (w : BitVec 3) (s : State) :=
  run s (fun s =>
    match s.me.join.getLast? with
    | none => wordTrap s .liftDepth
    | some e =>
      if e.pending then
        .ok (goTo (s.modMe (fun x => { x with
          join := x.join.dropLast ++ [{ e with pending := false }]
          lift := modAt (fun v => { v with mask := e.pmask }) x.lift e.level })) w e.pc)
      else
        .ok (retire (s.modMe (fun x => { x with
          join := x.join.dropLast
          lift := modAt (fun v => { v with mask := e.saved }) x.lift e.level })) w))

end Sys2Proof.Machine
end

