-- ==== Sys2Proof/Machine/Access.lean ====
section
/-! DEFINITION. The A class but for POSTC: data streams, tiles, queue loads and stores, loads, stores, atomics, copy channels
and prefetch (05 R116–R146). -/

namespace Sys2Proof.Machine

/-! ### Data streams (05 R118–R121) -/

/-- STDIM (05 R119). -/
def execStdim (w : BitVec 3) (n : BitVec 3) (a b : Reg) (k : BitVec 5) (s : State) :=
  run s (fun s => do
    let d ← rd s a
    let e ← rd s b
    trapIf (d.toInt < -2147483648 || d.toInt > 2147483647 || e.toNat > 4294967295) s .accessViolation
    .ok (retire (s.modMyBank (fun b =>
      let x := b.ds n.toNat
      b.setDs n.toNat { x with dims := modAt (fun _ => ⟨e.toNat, d.toInt⟩) x.dims k.toNat })) w))

/-- STBASE (05 R119). -/
def execStbase (w : BitVec 3) (n : BitVec 3) (a : Reg) (s : State) :=
  run s (fun s => do
    let v ← rd s a
    .ok (retire (s.modMyBank (fun b => b.setDs n.toNat { b.ds n.toNat with base := v })) w))

/-- Request slots in use by a bank's words (05 R116). -/
def BankMem.slots (m : BankMem) : Nat :=
  (m.reqs.map (·.pieces.length)).sum + (m.returns.map (·.req.pieces.length)).sum + m.dirty.length + m.sent.length + m.unacked.length

/-- The slots that a run of a stream holds: those of its rows on their way, and of one row as long as it has one to come, which its STGO has
reserved (DESIGN CHOICE, log entry 64). -/
def StreamRun.slots (r : StreamRun) : Nat :=
  4 * max r.asked.length (if (r.write && !r.buf.isEmpty) || decide ((if r.write then r.given else r.next) < DataStream.positions r) then 1 else 0)

/-- The slots that a channel holds for the record it reads and the run it performs (log entry 64). -/
def Channel.slots (c : Channel) : Nat := if c.busy then 4 else 0

def Bank.slots (k : Bank) : Nat :=
  k.mem.slots + (k.dstreams.toList.map (fun d => match d.run with | some r => r.slots | none => 0)).sum + (k.chans.toList.map Channel.slots).sum

/-- Stores that stay in the FIFO until earlier rows of the bank have entered it. -/
def Bank.stuckStores (k : Bank) : Nat := (k.mem.dirty.filter (fun e => !(k.going).rowsStored e.seq)).length

/-- The slots of a core in use, as bank `slot` finds them: stores of the other bank that wait there for rows, which move only once that bank is
active again (23 R382), do not keep it (log entry 64). -/
def Core.slots (c : Core) (slot : Bool) : Nat := (c.bank slot).slots + ((c.bank !slot).slots - (c.bank !slot).stuckStores)
def State.slots (s : State) (b : BankId) : Nat := (s.core b.core).slots b.slot

/-- The waits of every memory word of A: no GBAR arrival pending (04 R109), and a free slot for each line it touches (05 R116). -/
def memGate (s : State) (n : Nat) : Res Unit := do
  waitIf ((s.myBank.gbar.toList ++ s.myBank.gkept).any (fun g => !g.passed))
  waitIf (s.slots s.cur.bank + n > 512)

/-- Whether a writing stream still holds rows handed to it, which it is still to store (05 R121). -/
def storing (b : Bank) (n : Nat) : Bool :=
  match (b.ds n).run with
  | some r => r.write && (!r.buf.isEmpty || pendingInto b n != 0)
  | none => false

/-- A's loads see every row stored by stream `n` (05 R123). -/
def Bank.revealStream (b : Bank) (n : Nat) : Bank := { b with mem := b.mem.reveal (fun o => o.row.any (·.1 == n)) }

/-- The lines a bank holds, as a stream keeps them: a poisoned one without bytes (22 R379). -/
def linesKept (m : BankMem) : List (Nat × List Byte) := m.lines.map (fun x => if m.badLines.contains x.1 then (x.1, []) else x)

/-- STGO (05 R120, R123): ends an earlier run, checks alignment, fixes the view and starts at position 0. -/
def execStgo (w : BitVec 3) (n : BitVec 3) (r : BitVec 1) (s : State) :=
  run s (fun s => do
    let k := n.toNat
    waitIf (storing s.myBank k) true
    let d := s.myBank.ds k
    if d.base.toNat % 64 ≠ 0 || d.dims.any (fun x => x.d % 64 != 0) then
      .error (.trapIn (mkTrap .misaligned d.base) (s.modMyBank (fun b => (b.revealStream k).setDs k { d with run := none, fault := none })))
    else
      memGate s 4
      waitIf (s.myBank.mem.reqs.any (·.first)) true
      let s := s.modMyBank (·.revealStream k)
      let m := s.myBank.mem
      let x : StreamRun := ⟨d.base, d.dims, r == 1, 0, [], 0, m.own, linesKept m, m.seq + 1, []⟩
      .ok (retire (s.modMyBank (fun b => (b.setDs k { d with run := some x, fault := none }).bumpSeq)) w))

/-- STRST (05 R121). -/
def execStrst (w : BitVec 3) (n : BitVec 3) (s : State) :=
  run s (fun s => do
    waitIf (storing s.myBank n.toNat) true
    .ok (retire (s.modMyBank (fun b => (b.revealStream n.toNat).setDs n.toNat { b.ds n.toNat with run := none, fault := none })) w))

/-! ### Tiles (05 R126–R131) -/

/-- The tile a packed descriptor word describes (05 R126), where it is valid in the bank. -/
def unpackTile (b : Bank) (v : W64) (scale : Option Nat) : Option Tile :=
  let f := (v.extractLsb' 32 8).toNat
  let len := (v.extractLsb' 20 12).toNat
  let rows := (v.extractLsb' 12 8).toNat + 1
  let base := (v.extractLsb' 0 12).toNat * 256
  if v.extractLsb' 40 24 = 0 ∧ fmtBits f ≠ 0 ∧ 1 ≤ len ∧ len ≤ fmtCap f ∧ inShare b base (256 * rows) then
    some { Tile.null with base := base, rows := rows, len := len, fmt := f, scale := scale, state := .ready }
  else none

/-- TDESC (05 R126, R127, R131). It waits for its own tile alone: of a scale tile ta it takes the number, whatever that tile's state
(01 R16 does not say whether it must be ready; log entry 54). -/
def execTdesc (w : BitVec 3) (p q : Spec) (r : Reg) (s : State) :=
  run s (fun s => do
    let v ← rd s r
    match operandOf p with
    | .tile t =>
      let sc := match operandOf q with | .tile u => some u | _ => none
      match unpackTile s.myBank v sc with
      | none => wordTrap s .accessViolation
      | some x =>
        trapIf (!(tagsOf s.me (s.myBank.tile t)).isEmpty) s .tagConflict
        freeWait s p t
        .ok (retire (s.modMyBank (·.setTile t x)) w)
    | _ => wordTrap s .reservedOperand)

/-- The number of a data-stream specifier. -/
def streamNo (q : Spec) : Nat := q.toNat - 0x30

/-- The positions of one fifth-index slice, and the fifth extent (05 R131). -/
def sliceSize (r : StreamRun) : Nat := (r.dims.take 4).foldl (fun p d => p * d.e) 1
def fifth (r : StreamRun) : Nat := match r.dims[4]? with | some d => d.e | none => 1

/-- The checks of TFILL and TDRAIN on the stream, and the copies they move (05 R122, R124, R128, R131). An exhausted stream still has the direction
that STGO gave it: a word that names it the other way traps, as before its end, which the spec leaves open (DESIGN CHOICE, log entry 54). -/
def moveCopies (s : State) (t k : Nat) (rows : Nat) (write : Bool) : Res (List (Option Nat) × Nat × Bool) := do
  let x := s.myBank.tile t
  let d := s.myBank.ds k
  match d.fault with | some f => .error (.trap (streamTrap f)) | none => .ok ()
  trapIf (match d.run with | some r => r.write != write | none => false) s .accessViolation
  let ws := tagsOf s.me x
  if ws.isEmpty then .ok ([some x.base], 0, false)
  else
    let n := repCount s.me ws
    match d.run with
    | none => wordTrap s .accessViolation
    | some r =>
      trapIf (r.given ≠ 0 || rows > sliceSize r) s .accessViolation
      trapIf (fifth r < n || !footprintOk s.myBank s.me t) s .axisOverflow
      let cs := (indexVectors s.me ws).map (fun v => if activeAt s.me v then some (copyBase x ws v) else none)
      .ok (cs, sliceSize r, true)

/-- TFILL (05 R128): the tile goes to filling; FILL_ROW moves the rows. -/
def execTfill (w : BitVec 3) (p q : Spec) (r : Reg) (s : State) :=
  run s (fun s => do
    let v ← rd s r
    match operandOf p with
    | .tile t =>
      let x := s.myBank.tile t
      freeWait s p t
      trapIf (x.rows == 0 || v.toNat > x.rows) s .accessViolation
      let (cs, sl, lifted) ← moveCopies s t (streamNo q) v.toNat false
      memGate s 1
      if v = 0 && !lifted then .ok (retire (s.modMyBank (·.setTile t { x with state := .ready, cursor := 0 })) w)
      else
        .ok (retire (s.modMyBank (fun b => { b.setTile t { x with state := .filling } with
          moves := b.moves ++ [⟨b.opSeq, b.mem.seq, false, t, streamNo q, v.toNat, 0, cs, sl, lifted, false⟩], opSeq := b.opSeq + 1 })) w)
    | _ => wordTrap s .reservedOperand)

/-- TDRAIN (05 R129): the tile goes to draining; STREAM_ROW_STORE moves and stores the rows. -/
def execTdrain (w : BitVec 3) (p q : Spec) (r : Reg) (o : BitVec 1) (s : State) :=
  run s (fun s => do
    let v ← rd s r
    match operandOf p with
    | .tile t =>
      let x := s.myBank.tile t
      trapIf (x.rows == 0) s .accessViolation
      needReady s p
      waitIf (s.myBank.tileBusy s.cur.engine t) (s.myBank.heldByA s.cur.engine t)
      trapIf (v.toNat > x.rows) s .accessViolation
      let (cs, sl, lifted) ← moveCopies s t (streamNo q) v.toNat true
      memGate s 1
      if v = 0 && !lifted then
        .ok (retire (s.modMyBank (·.setTile t { x with state := if o = 1 then .empty else .ready })) w)
      else
        .ok (retire (s.modMyBank (fun b => { b.setTile t { x with state := .draining } with
          moves := b.moves ++ [Move.mk b.opSeq b.mem.seq true t (streamNo q) v.toNat 0 cs sl lifted (o == 1)]
          opSeq := b.opSeq + 1 }.bumpSeq)) w)
    | _ => wordTrap s .reservedOperand)

/-- TFREE (05 R130). -/
def execTfree (w : BitVec 3) (p : Spec) (s : State) :=
  run s (fun s => do
    match operandOf p with
    | .tile t =>
      freeWait s p t
      .ok (retire (s.modMyBank (fun b => b.setTile t { b.tile t with state := .empty })) w)
    | _ => wordTrap s .reservedOperand)

def TileState.code : TileState → Nat
  | .empty => 0 | .filling => 1 | .ready => 2 | .draining => 3

/-- TSTATE (05 R130). -/
def execTstate (w : BitVec 3) (p : Spec) (r : Reg) (s : State) :=
  run s (fun s =>
    match operandOf p with
    | .tile t => .ok (retire (wrReg s r (BitVec.ofNat 64 (s.myBank.tile t).state.code) 1) w)
    | _ => wordTrap s .reservedOperand)

/-! ### Reaching memory (05 R116, R117; 21 R346) -/

/-- The pieces of `n` bytes at `va`, one per 64-byte line. -/
def pieces (va : W64) : Nat → Nat → List (W64 × Nat)
  | 0, _ => []
  | fuel + 1, n =>
    if n = 0 then []
    else
      let k := min n (64 - va.toNat % 64)
      (va, k) :: pieces (va + BitVec.ofNat 64 k) fuel (n - k)

/-- What reaching memory gives a word: its pieces by address, or how the word ends instead. -/
inductive Reach where
  | ok (ps : List (Nat × Nat))
  | stop (r : Res State)
  deriving DecidableEq, Repr

/-- Translates every line of an access of bank `b`, asked for by `src`; `f` makes a trap of a forbidden line. -/
def reach (s : State) (b : BankId) (src : Source) (a : Access) : List (W64 × Nat) → Reach
  | [] => .ok []
  | (va, n) :: l =>
    if (s.bank b).badPage src va then
      .stop (.error (.trapIn (mkTrap .accessViolation va) (s.modBank b (·.clearBad src va))))
    else match translate s b.core (s.bank b).ctxNum (s.launchOf b) va a with
      | .forbidden => .stop (.error (.trap (mkTrap .accessViolation va)))
      | .held => .stop (.error (.interlock false))
      | .miss => .stop (.ok (interlocked (requestWalk s (dieOf b.core) (s.bank b).ctxNum va src (a == .write)) false))
      | .ok pa => match reach s b src a l with
        | .ok ps => .ok ((pa, n) :: ps)
        | .stop r => .stop r

/-- How a memory word reads: not at all, ordinarily, or at the home. -/
inductive View where
  | none | ordinary | home
  deriving DecidableEq, Repr

/-- Whether a read of these pieces meets poison: in a line the bank holds, else at the home, where an earlier store of the bank to the whole line
is performed first (22 R379). -/
def meetsPoison (s : State) (m : BankMem) (v : View) (seq : Nat) (ps : List (Nat × Nat)) : Bool :=
  ps.any (fun p =>
    let l := p.1 / 64
    match v with
    | .none => false
    | .ordinary => !coversLine m.shown seq l && (if (kfind m.lines l).isSome then m.badLines.contains l else s.mem.poison.contains l)
    | .home => s.mem.poison.contains l && !coversLine (m.own.filter (!·.done)) seq l)

/-- The pieces of a read that come from their homes. -/
def fromHome (m : BankMem) (v : View) (seq : Nat) (ps : List (Nat × Nat)) : List (Nat × Nat) :=
  match v with
  | .none => []
  | .ordinary => ps.filter (fun p => (kfind m.lines (p.1 / 64)).isNone && needsLine m.shown seq p)
  | .home => ps

/-- A read that is about to meet an armed uncorrectable error meets it before its word issues, so that a trap is precise (22 R379), unless an
earlier store of the bank is to disarm it at the home first (21 R367). -/
def meetsFirst (s : State) (m : BankMem) (v : View) (ps : List (Nat × Nat)) : State :=
  let met := fun (j : Injection) => j.hard && !(v == .home && m.own.any (fun o => !o.done && j.hits o.pa 1))
  if ps.any (fun p => (armedIn s p.1 p.2).any (fun x => met x.2)) && !ps.any (fun p => homeHeld s.mem p.1) then
    ps.foldl (fun s p => touchBytes s p.1 p.2) s
  else s

/-- A memory word of A on `n` bytes at `va`: translated wholly before it issues (21 R346); a read of a poisoned line traps
(22 R379). -/
def withMem (s : State) (va : W64) (n : Nat) (a : Access) (v : View) (f : State → List (Nat × Nat) → Res State) : Res State := do
  let ps := pieces va 8 n
  memGate s ps.length
  match reach s s.cur.bank (.aStream s.cur.bank) a ps with
  | .ok l =>
    let m := s.myBank.mem
    let s := meetsFirst s m v (fromHome m v m.seq l)
    if meetsPoison s m v m.seq l then .error (.trapIn (mkTrap .memUncorrected va) s) else f s l
  | .stop r => r

/-- The writer identity of a plain write of a bank: launch, epoch, unit, in a context in deterministic mode (11 R265). -/
def identOf (s : State) (b : BankId) : Option (Nat × Nat × Nat) :=
  let k := s.bank b
  if (s.ctxOf b).det then some (k.launchId, k.epoch, k.bindRec.unit.toNat) else none

/-- The bytes of a store piece by piece. -/
def splitData : List (Nat × Nat) → List Byte → List (Nat × List Byte)
  | [], _ => []
  | (pa, n) :: l, d => (pa, d.take n) :: splitData l (d.drop n)

/-- The bytes of a store at place `seq`, of stream `row` where they are a row of a writing stream, with whether a drain handed it over. -/
def ownBytes (row : Option (Nat × Bool)) (pa seq : Nat) : List Byte → List OwnByte
  | [] => []
  | x :: l => ⟨pa, x, seq, false, row⟩ :: ownBytes row (pa + 1) seq l

/-- Keeps the FIFO in A's order: entries with a lower or equal place stay ahead. -/
def insertStore (e : StoreEntry) : List StoreEntry → List StoreEntry
  | [] => [e]
  | x :: l => if e.seq < x.seq then e :: x :: l else x :: insertStore e l

/-- A reading stream sees a store of the bank that stands before its STGO (05 R123). -/
def StreamRun.sees (r : StreamRun) (seq : Nat) (os : List OwnByte) : StreamRun :=
  if !r.write && decide (seq < r.seq) then { r with own := os ++ r.own } else r

/-- A plain store of a bank at place `seq` of A's order enters the dirty-line FIFO; its own reads see it from then on, a row of stream
`row` after a wait of 05 R123 (11 R260, R263). -/
def storeAt (s : State) (b : BankId) (row : Option (Nat × Bool)) (seq : Nat) (ps : List (Nat × Nat)) (data : List Byte) : State :=
  let id := identOf s b
  let parts := splitData ps data
  let os := (parts.map (fun p => ownBytes row p.1 seq p.2)).flatten
  s.modBank b (fun k => { k with
    dstreams := k.dstreams.map (fun d => { d with run := d.run.map (·.sees seq os) })
    mem := { k.mem with
      own := os ++ k.mem.own
      dirty := parts.foldl (fun d p => insertStore (StoreEntry.mk seq p.1 p.2 id s.tick (s.deadline 1) s.mem.gen 0) d) k.mem.dirty } })

/-- A store word's store. -/
def enqueueStore (s : State) (b : BankId) (ps : List (Nat × Nat)) (data : List Byte) : State :=
  (storeAt s b none (s.bank b).mem.seq ps data).modBank b Bank.bumpSeq

/-- A request enters the bank's queue of accesses to be performed in order. -/
def enqueueReq (s : State) (b : BankId) (va : W64) (ps : List (Nat × Nat)) (kind : ReqKind) (dest : ReqDest) (rel : Option Nat)
    (acq : Bool) : State :=
  s.modBank b (fun k => { k with mem := { k.mem with
    seq := k.mem.seq + 1
    reqs := k.mem.reqs ++ [⟨k.mem.seq, kind, va, ps, dest, rel, acq, s.tick, s.deadline (if kind = .prefetch then 2 else 1), s.mem.gen, s.me.pc, s.cycle + homeTimes s.mem b.core ps⟩] } })

/-- A register is about to be written by a result of variable latency: earlier results on their way to it are lost. -/
def claimReg (s : State) (d : Reg) : State :=
  let s := s.modMyBank (fun b => { b with mem := b.mem.forget d })
  s.modMe (fun x => { x with pend := x.pend.map (fun p => if p.wr.toReg d then { p with wr := .done } else p) })

def regDest (d : Reg) (signed : Bool) : ReqDest := .reg (if d = 0 then none else some d) signed

/-- Bytes of a size field (02 R43). -/
def sizeOf2 (z : BitVec 2) : Nat := 1 <<< z.toNat

/-- LD, LDU, LDL, LDACQ (05 R133–R135). -/
def load (kind : ReqKind) (signed acq : Bool) (w : BitVec 3) (d a b : Reg) (z : BitVec 2) (s : State) : Res State := do
  let x ← rd s a
  let y ← rd s b
  let va := x + y
  if va.toNat % sizeOf2 z ≠ 0 then valTrap .misaligned va
  else withMem s va (sizeOf2 z) .read (if kind = .ordinary then .ordinary else .home) (fun s ps =>
    .ok (retire (enqueueReq (claimReg s d) s.cur.bank va ps kind (regDest d signed) none acq) w))

def execLd (w : BitVec 3) (d a b : Reg) (z : BitVec 2) (s : State) := run s (load .ordinary true false w d a b z)
def execLdu (w : BitVec 3) (d a b : Reg) (z : BitVec 2) (s : State) := run s (load .ordinary false false w d a b z)
def execLdl (w : BitVec 3) (d a b : Reg) (z : BitVec 2) (s : State) := run s (load .home true false w d a b z)
def execLdacq (w : BitVec 3) (d a b : Reg) (_c z : BitVec 2) (s : State) := run s (load .home true true w d a b z)

/-- ST and STREL (05 R133, R135): STREL is performed at the home after its release. -/
def store (rel : Bool) (w : BitVec 3) (d a b : Reg) (z : BitVec 2) (s : State) : Res State := do
  let v ← rd s d
  let x ← rd s a
  let y ← rd s b
  let va := x + y
  if va.toNat % sizeOf2 z ≠ 0 then valTrap .misaligned va
  else withMem s va (sizeOf2 z) .write .none (fun s ps =>
    let data := leBytes (sizeOf2 z) v.toNat
    if rel then
      let seq := s.myBank.mem.seq
      let s := enqueueReq s s.cur.bank va ps (.storeRel data) .nowhere (some seq) false
      .ok (retire (s.modMyBank (fun k => { k with mem := { k.mem with
        own := ((splitData ps data).map (fun p => ownBytes none p.1 seq p.2)).flatten ++ k.mem.own } })) w)
    else .ok (retire (enqueueStore s s.cur.bank ps data) w))

def execSt (w : BitVec 3) (d a b : Reg) (z : BitVec 2) (s : State) := run s (store false w d a b z)
def execStrel (w : BitVec 3) (d a b : Reg) (_c z : BitVec 2) (s : State) := run s (store true w d a b z)

/-- LDQ (05 R132). -/
def execLdq (w : BitVec 3) (p : Spec) (r : Reg) (s : State) :=
  run s (fun s => do
    let va ← rd s r
    if va.toNat % 64 ≠ 0 then valTrap .misaligned va
    else
      let q := queueNo p
      if !(s.myBank.queue q).hasRoom then .error (.block .queue (p.setWidth 64))
      else withMem s va 256 .read .ordinary (fun s ps =>
        let s := s.modMyBank (fun k => k.setQueue q { k.queue q with reserved := (k.queue q).reserved + 1 })
        .ok (retire (enqueueReq s s.cur.bank va ps .ordinary (.queue q) none false) w)))

/-- STQ (05 R132). -/
def execStq (w : BitVec 3) (q : Spec) (r : Reg) (s : State) :=
  run s (fun s => do
    let va ← rd s r
    if va.toNat % 64 ≠ 0 then valTrap .misaligned va
    else
      canTake s q 1
      withMem s va 256 .write .none (fun s ps =>
        let (x, s) := s.popRow s.cur.bank (queueNo q)
        .ok (retire (enqueueStore s s.cur.bank ps (rowBytes x)) w)))

/-! ### Atomics (05 R136, R137) -/

/-- The new value of an atomic of `w` bits from the old one and the operand. -/
def atomicNew (op : AtomicOp) (w : Nat) (old x expect : Nat) : Nat :=
  let wr := fun (n : Nat) => n % (1 <<< w)
  match op with
  | .add => wr (old + x)
  | .and => old &&& x
  | .or => old ||| x
  | .xor => old ^^^ x
  | .min => if sgn w old < sgn w x then old else x
  | .max => if sgn w old < sgn w x then x else old
  | .minu => if old < x then old else x
  | .maxu => if old < x then x else old
  | .swp => x
  | .cas => if old = expect then x else old

/-- An atomic word: f[4:3] ordering, f[0] width. -/
def atomic (op : AtomicOp) (w : BitVec 3) (d a b : Reg) (o : BitVec 2) (x : BitVec 1) (s : State) : Res State := do
  let va ← rd s a
  let v ← rd s b
  let e ← if op = .cas then rd s d else .ok 0
  let n := if x = 1 then 4 else 8
  if va.toNat % n ≠ 0 then valTrap .misaligned va
  else withMem s va n .write .home (fun s ps =>
    let s := claimReg s d
    let rel := if o.getLsbD 1 then some s.myBank.mem.seq else none
    .ok (retire (enqueueReq s s.cur.bank va ps (.rmw op v e) (regDest d false) rel (o.getLsbD 0)) w))

def execAadd (w : BitVec 3) (d a b : Reg) (o _c : BitVec 2) (x : BitVec 1) (s : State) := run s (atomic .add w d a b o x)
def execAand (w : BitVec 3) (d a b : Reg) (o _c : BitVec 2) (x : BitVec 1) (s : State) := run s (atomic .and w d a b o x)
def execAor (w : BitVec 3) (d a b : Reg) (o _c : BitVec 2) (x : BitVec 1) (s : State) := run s (atomic .or w d a b o x)
def execAxor (w : BitVec 3) (d a b : Reg) (o _c : BitVec 2) (x : BitVec 1) (s : State) := run s (atomic .xor w d a b o x)
def execAmin (w : BitVec 3) (d a b : Reg) (o _c : BitVec 2) (x : BitVec 1) (s : State) := run s (atomic .min w d a b o x)
def execAmax (w : BitVec 3) (d a b : Reg) (o _c : BitVec 2) (x : BitVec 1) (s : State) := run s (atomic .max w d a b o x)
def execAminu (w : BitVec 3) (d a b : Reg) (o _c : BitVec 2) (x : BitVec 1) (s : State) := run s (atomic .minu w d a b o x)
def execAmaxu (w : BitVec 3) (d a b : Reg) (o _c : BitVec 2) (x : BitVec 1) (s : State) := run s (atomic .maxu w d a b o x)
def execAswp (w : BitVec 3) (d a b : Reg) (o _c : BitVec 2) (x : BitVec 1) (s : State) := run s (atomic .swp w d a b o x)
def execAcas (w : BitVec 3) (d a b : Reg) (o _c : BitVec 2) (x : BitVec 1) (s : State) := run s (atomic .cas w d a b o x)

/-! ### Copy channels and prefetch (05 R140, R142, R143, R146) -/

/-- CPYHD (05 R140, R143). -/
def execCpyhd (w : BitVec 3) (d a : Reg) (n : BitVec 2) (s : State) :=
  run s (fun s => do
    let va ← rd s a
    if va.toNat % 64 ≠ 0 then valTrap .misaligned va
    else
      let c := s.myBank.chan n.toNat
      match c.fail with
      | some f => .error (.trap (f.at_ s.cur.word))
      | none =>
        memGate s (if c.busy then 0 else 4)
        if c.heads.length ≥ 8 then .ok (retire (wrReg s d 0 1) w)
        else
          let s := s.modMyBank (fun b => { b.setChan n.toNat { c with heads := c.heads ++ [⟨b.orders, b.mem.seq, va, s.cycle, none⟩] } with
            orders := b.orders + 1 })
          .ok (retire (wrReg s d 1 1) w))

/-- CPYST (05 R142). -/
def execCpyst (w : BitVec 3) (d : Reg) (n : BitVec 2) (s : State) :=
  run s (fun s => .ok (retire (wrReg s d (BitVec.ofNat 64 (s.myBank.chan n.toNat).complete) 1) w))

/-- CPYWAIT (05 R142, R143): an acquire of its channel's records; what it established counts for 18 R318. -/
def execCpywait (w : BitVec 3) (a : Reg) (n : BitVec 2) (s : State) :=
  run s (fun s => do
    let v ← rd s a
    let c := s.myBank.chan n.toNat
    if v.toNat ≤ c.complete then
      .ok (retire ((acquire s s.cur.bank).modMyBank (fun b => { b with waited := (n.toNat, c.complete, b.orders) :: b.waited })) w)
    else match c.fail with
      | some f => .error (.trap (f.at_ s.cur.word))
      | none => .error (.block .copy 0))

/-- The request of a PREF of bank `b`, for its line (22 R371). One that cannot be translated is dropped. -/
def prefetch (s : State) (b : BankId) (va : W64) : State :=
  match translate s b.core (s.bank b).ctxNum (s.launchOf b) va .read with
  | .ok pa => enqueueReq s b va [(pa / 64 * 64, 64)] .prefetch .nowhere none false
  | _ => s

/-- PREF (05 R146): no architectural effect. -/
def execPref (w : BitVec 3) (a b : Reg) (s : State) :=
  run s (fun s => do
    let x ← rd s a
    let y ← rd s b
    memGate s 1
    .ok (retire (prefetch s s.cur.bank (x + y)) w))

end Sys2Proof.Machine
end

