-- ==== Sys2Proof/Machine/Matrix.lean ====
section
/-! DEFINITION. The M class, bank loads and nests (07 R174–R193; the block arithmetic of 03 R75, R76). -/

namespace Sys2Proof.Machine

/-! ### CIM banks (07 R174) -/

def Core.cim (c : Core) (k : Bool) : CimBank := if k then c.cim1 else c.cim0
def Core.setCim (c : Core) (k : Bool) (x : CimBank) : Core := if k then { c with cim1 := x } else { c with cim0 := x }

/-- Whether the bind record gives CIM bank `k` to the bank (01 R27). -/
def Bank.hasCim (b : Bank) (k : Bool) : Bool := b.bindRec.cim.getLsbD (if k then 1 else 0)

/-- The bytes of a CIM bank as ECCINJ counts them (21 R367; log entry 13). -/
def cimBytes : Nat := 262144

/-! ### Block arithmetic (03 R75, R76) -/

/-- The formats of R176's floating-point rows, and p and W − p of 03 R75. -/
def mFloat (f : Nat) : Bool := 1 ≤ f && f ≤ 4
def mInt (f : Nat) : Bool := f == fmtI8 || f == fmtU8
def mSig (f : Nat) : Nat := match f with | 0x01 => 8 | 0x02 => 4 | _ => 3
def mSlack (f : Nat) : Nat := match f with | 0x01 => 8 | 0x02 => 4 | 0x03 => 5 | _ => 0

/-- An element as ±M·2^q with M of p significand bits, or how it poisons its block (1 NaN, 2 Inf). -/
inductive MElt where
  | num (neg : Bool) (m : Nat) (q : Int)
  | bad (k : Nat)
  deriving DecidableEq, Repr

def mElt (f c : Nat) : MElt :=
  match (ffOf f).dec c with
  | .nan => .bad 1
  | .inf _ => .bad 2
  | .fin n m e =>
    if m = 0 then .num n 0 0
    else if f = fmtMxfp4 then .num n (m <<< (e + 1).toNat) (-1)
    else
      let k := mSig f - 1 - Nat.log2 m
      .num n (m <<< k) (e - k)

/-- A block of elements: how it is poisoned (0 clean), Q, and the aligned integers. -/
def alignBlock (f : Nat) (cs : List Nat) : Nat × Int × List Int :=
  let es := cs.map (mElt f)
  let bad := es.foldl (fun b x => match x with | .bad k => if b = 1 || k = 1 then 1 else 2 | _ => b) 0
  let qs := es.filterMap (fun x => match x with | .num _ m q => if m = 0 then none else some q | _ => none)
  let q := match qs with | [] => 0 | a :: l => l.foldl max a
  (bad, q, es.map (fun x => match x with
    | .num n m e => let a : Int := roundInt .rne m (e - q + mSlack f); if n then -a else a
    | .bad _ => 0))

/-- Σ of rows of 512 columns, each times its factor: the block integers D. -/
def blockSum : List Int → List (Option (List Int)) → List Int → List Int
  | a :: as, some r :: rs, d => blockSum as rs (List.zipWith (fun x y => x + a * y) d r)
  | _ :: as, none :: rs, d => blockSum as rs d
  | _, _, d => d

def zero512 : List Int := List.replicate 512 0

/-- K-block `j` of a bank: its 32 K-rows, their check values, and the exponents of its columns. -/
def CimBank.block (b : CimBank) (j : Nat) : List (Option (List Int)) := (List.range 32).map (fun i => kfind b.rows (32 * j + i))
def CimBank.check (b : CimBank) (k : Nat) : Nat := kget 0 b.checks k
def CimBank.exps (b : CimBank) (j : Nat) : List (Int × Int × Nat) := kget (List.replicate 512 (0, 0, 0)) b.blocks j

/-- An A vector: its format, its elements as one number, and the scale exponent of each K-block (none for 0xFF). -/
structure AVec where
  fmt : Nat
  x   : Nat
  sc  : List (Option Int)
  deriving DecidableEq, Repr

def AVec.code (a : AVec) (k : Nat) : Nat := (a.x >>> (fmtBits a.fmt * k)) % (1 <<< fmtBits a.fmt)
def AVec.block (a : AVec) (j : Nat) : List Nat := (List.range 32).map (fun i => a.code (32 * j + i))

/-- What a step gives: accumulators, flags, mismatches of the residue check, columns poisoned by the bank. -/
structure MAcc where
  acc  : List Int
  fl   : Nat
  bad  : Nat
  pois : List Nat
  deriving DecidableEq, Repr

/-- Whether the residue check of a block fails (07 R188). -/
def residueFails (b : CimBank) (j : Nat) (a d : List Int) : Bool :=
  let lhs := (a.zip ((List.range 32).map (fun i => b.check (32 * j + i)))).foldl (fun s x => s + x.1 * (x.2 : Int)) 0
  lhs % 251 != (d.foldl (· + ·) 0) % 251

/-- One column of one block, float: the accumulator's code and its flags. A block that an Inf alone poisons sets INV whatever the
accumulator holds, a NaN too, which 03 R75 leaves open (DESIGN CHOICE, log entry 54). -/
def blockFloat (abad : Nat) (base d : Int) (e : Int × Int × Nat) (acc : Int) : Rnd :=
  let p := e.2.2
  if abad ≠ 0 || p ≠ 0 then ⟨ff32.nan, if abad = 1 || p = 1 then 0 else flagINV⟩
  else
    let p1 := ff32.enc .rne (Fv.ofInt d)
    let p2 := scale32 p1.code (base + e.1 + e.2.1) .rne
    let r := fadd32 acc.toNat p2.code .rne
    ⟨r.code, p1.fl ||| p2.fl ||| r.fl⟩

/-- One block of a float step, in every column (03 R75; INV of a poisoned block as `blockFloat` says, log entry 54). -/
def stepFloat (a : AVec) (b : CimBank) (bf : Nat) (m : MAcc) (j : Nat) : MAcc :=
  let (bad, q, v) := alignBlock a.fmt (a.block j)
  let sc := a.sc.getD j (some 0)
  let abad := if sc.isNone then 1 else bad
  let d := blockSum v (b.block j) zero512
  let base := q - mSlack a.fmt - mSlack bf + sc.getD 0
  let es := b.exps j
  let r := List.zipWith (fun (x : Int × (Int × Int × Nat)) c => blockFloat abad base x.1 x.2 c) (d.zip es) m.acc
  { acc := r.map (fun x => (x.code : Int)), fl := r.foldl (fun f x => f ||| x.fl) m.fl
    bad := m.bad + (if residueFails b j v d then 1 else 0)
    pois := m.pois ++ (List.range 512).filter (fun n => (es.getD n (0, 0, 0)).2.2 != 0) }

/-- A sum in the 48-bit accumulator (03 R76). -/
def wrap48 (i : Int) : Int := (i + 140737488355328) % 281474976710656 - 140737488355328

def stepInt (a : AVec) (b : CimBank) (m : MAcc) (j : Nat) : MAcc :=
  let v := (a.block j).map (intOf a.fmt)
  let d := blockSum v (b.block j) zero512
  let t := List.zipWith (· + ·) m.acc d
  { acc := t.map wrap48, fl := if t.any (fun x => wrap48 x != x) then m.fl ||| flagWIDE48 else m.fl
    bad := m.bad + (if residueFails b j v d then 1 else 0), pois := m.pois }

/-- The exact value a bank holds for K-row `k`, column `n` (07 R183). -/
def CimBank.value (b : CimBank) (bf k n : Nat) : Fv :=
  let i := ((kfind b.rows k).getD []).getD n 0
  let e := (b.exps (k / 32)).getD n (0, 0, 0)
  .fin (i < 0) i.natAbs (e.1 + e.2.1 - mSlack bf)

/-- One element of min-plus or max-times for one column. A poisoned block sets INV only when no operand held a NaN (03 R63, R75): `nan` are the
K-blocks whose A elements do. -/
def tropStep (mp : Bool) (a : AVec) (nan : List Bool) (b : CimBank) (bf n : Nat) (r : Rnd) (k : Nat) : Rnd :=
  let sc := a.sc.getD (k / 32) (some 0)
  let p := ((b.exps (k / 32)).getD n (0, 0, 0)).2.2
  if sc.isNone || p ≠ 0 then ⟨ff32.nan, if sc.isNone || p = 1 || nan.getD (k / 32) false then r.fl else r.fl ||| flagINV⟩
  else
    let x := ff32.enc .rne (((ffOf a.fmt).dec (a.code k)).shift (sc.getD 0))
    let y := ff32.enc .rne (b.value bf k n)
    let z := if mp then fadd32 x.code y.code .rne else fmul32 x.code y.code .rne
    let v := if mp then (f32 r.code).min (f32 z.code) else (f32 r.code).max (f32 z.code)
    ⟨(ff32.enc .rne v).code, r.fl ||| x.fl ||| y.fl ||| z.fl⟩

def stepTrop (mp : Bool) (a : AVec) (b : CimBank) (bf : Nat) (m : MAcc) : MAcc :=
  let nan := (List.range 8).map (fun j => (alignBlock a.fmt (a.block j)).1 == 1)
  let rs := (List.range 512).map (fun n =>
    (List.range 256).foldl (tropStep mp a nan b bf n) ⟨(m.acc.getD n 0).toNat, 0⟩)
  { acc := rs.map (fun r => (r.code : Int)), fl := rs.foldl (fun f r => f ||| r.fl) m.fl, bad := m.bad
    pois := m.pois ++ (List.range 512).filter (fun n =>
      (List.range 8).any (fun j => ((b.exps j).getD n (0, 0, 0)).2.2 != 0)) }

def stepOr (a : AVec) (b : CimBank) (m : MAcc) : MAcc :=
  let on := (List.range 256).filter (fun k => a.code k != 0)
  { m with acc := on.foldl (fun acc k => match kfind b.rows k with
      | some r => List.zipWith (fun x y => if x != 0 || y != 0 then 1 else 0) acc r
      | none => acc) m.acc }

/-- One step of a semiring (07 R183). -/
def mStep (ring : Nat) (a : AVec) (b : CimBank) (m : MAcc) : MAcc :=
  let bf := b.fmt.getD 0
  if ring = 3 then stepOr a b m
  else if ring = 1 then stepTrop true a b bf m
  else if ring = 2 then stepTrop false a b bf m
  else if mFloat a.fmt then (List.range 8).foldl (stepFloat a b bf) m
  else (List.range 8).foldl (stepInt a b) m

/-! ### Shapes (07 R175, R176) -/

/-- V: the bytes of an A vector. -/
def aBytes (f : Nat) : Nat := 32 * fmtBits f

/-- The C format of a semiring on an A format and a bank format. -/
def cFormat (ring af bf : Nat) : Option Nat :=
  if ring = 3 then (if af = fmtB1 && bf = fmtB1 then some fmtB1 else none)
  else if mFloat af && mFloat bf then some fmtFp32
  else if ring = 0 && mInt af && mInt bf then some fmtI32
  else none

/-- The cycles a step holds the array. -/
def stepCycles (ring af : Nat) : Nat :=
  if ring = 3 then 1 else if ring ≠ 0 then 64
  else match af with | 0x01 => 8 | 0x04 => 2 | _ => 4

def cRows (cf : Nat) : Nat := if cf = fmtB1 then 1 else 8
def identity (ring : Nat) : Int := if ring = 1 then 0x7F800000 else if ring = 2 then 0xFF800000 else 0

/-! ### The shadow nest (07 R179–R181, R187) -/

def modShadow (s : State) (f : NestTable → NestTable) : State :=
  s.modMyBank (fun b => { b with mEng := { b.mEng with shadow := f b.mEng.shadow } })

/-- Whether a value fits an item of a level. -/
def itemFits (i : BitVec 2) (v : Int) : Bool :=
  if i = 0 then decide (0 ≤ v) && decide (v ≤ 65535)
  else if i = 3 then v == 0 || v == 1
  else decide (-32768 ≤ v) && decide (v ≤ 32767)

def NestLevel.put (l : NestLevel) (i : BitVec 2) (v : Int) : NestLevel :=
  if i = 0 then { l with ext := v.toNat } else if i = 1 then { l with ast := v }
  else if i = 2 then { l with cst := v } else { l with bst := v == 1 }

/-- MNEST (07 R180). -/
def execMnest (w : BitVec 3) (l : BitVec 3) (a : Reg) (i : BitVec 2) (s : State) :=
  run s (fun s => do
    let v ← rd s a
    trapIf (!itemFits i v.toInt) s .accessViolation
    .ok (retire (modShadow s (fun t => { t with
      levels := t.levels.setIfInBounds l.toNat ((t.levels.getD l.toNat ⟨1, 0, 0, false⟩).put i v.toInt) })) w))

/-- Whether a specifier names a constant row. -/
def isConst (q : Spec) : Bool := match operandOf q with | .tile _ | .queue _ | .stream _ => false | _ => true

/-- MBIND (07 R181), once the tiles it names are ready (01 R16). -/
def execMbind (w : BitVec 3) (p q : Spec) (s : State) :=
  run s (fun s => do
    trapIf (isConst q) s .reservedOperand
    needReady s p
    needReady s q
    .ok (retire (modShadow s (fun t => { t with bound := some (p, q) })) w))

/-- MBANK (07 R181, R174). -/
def execMbank (w : BitVec 3) (k : BitVec 1) (s : State) :=
  run s (fun s => do
    trapIf (!s.myBank.hasCim (k == 1)) s .accessViolation
    .ok (retire (modShadow s (fun t => { t with start := k == 1 })) w))

/-- MRING (07 R181). -/
def execMring (w : BitVec 3) (r : BitVec 2) (s : State) :=
  run s (fun s => .ok (retire (modShadow s (fun t => { t with ring := r.toNat })) w))

/-- MCLR (07 R187). -/
def execMclr (w : BitVec 3) (s : State) :=
  run s (fun s => .ok (retire (s.modMyBank (fun b => { b with mEng := { b.mEng with armed := true } })) w))

/-- What counter `c` has to add at cycle `t` for the step in the array (BUSY) and the wait that lasts (AWAIT). -/
def Nest.counting (n : Nest) (c t : Nat) : Nat :=
  if c = 4 then (match n.held with | some (cyc, _) => min cyc (t + cyc - n.nextCyc) | none => 0)
  else if c = 5 then (match n.waiting with | some (t0, _) => t - t0 | none => 0)
  else 0

/-- A counter as it stands (07 R190). -/
def MEngine.stat (m : MEngine) (c t : Nat) : W64 :=
  m.cnt.getD c 0 + BitVec.ofNat 64 (match m.nest with | some n => n.counting c t | none => 0)

/-- MSTAT (07 R190). -/
def execMstat (w : BitVec 3) (d : Reg) (c : BitVec 3) (s : State) :=
  run s (fun s => .ok (retire (wrReg s d (s.myBank.mEng.stat c.toNat s.cycle) 1) w))

/-- MWAIT (07 R185). -/
def execMwait (w : BitVec 3) (s : State) :=
  run s (fun s => do
    waitIf s.myBank.mEng.nest.isSome
    deliver s
    .ok (retire s w))

/-! ### Bank loads (07 R177, R178, R191) -/

/-- Tile rows of a K-row. -/
def rowsPerK (f : Nat) : Nat :=
  if f = fmtBf16 then 4 else if f = fmtMxfp4 || f = fmtB1 then 1
  else if f = fmtE4m3 || f = fmtE5m2 || mInt f then 2 else 0

/-- The scale tile an MXFP4 tile of B uses. -/
def bScale (b : Bank) (t : Tile) : Option Tile := if t.fmt = fmtMxfp4 then t.scale.map b.tile else none

/-- The conditions of 07 R177 on a tile and a first K-row. -/
def loadFits (b : Bank) (t : Tile) (first : Nat) : Bool :=
  let n := rowsPerK t.fmt
  n != 0 && t.rows % n == 0 && t.len == (if t.fmt = fmtB1 then 512 else fmtCap t.fmt) &&
  first % 32 == 0 && (t.rows / n) % 32 == 0 && decide (first + t.rows / n ≤ 256) &&
  (match bScale b t with | some u => decide (t.rows / 16 ≤ u.rows) && u.len == 256 | none => true)

/-- The scale tile that M reads with an operand (07 R175, R177), whose copies 10 R231 concerns too. -/
def scaleTiles (s : State) (sp : Spec) : List Nat :=
  match tileOf s sp with
  | some t => if t.fmt = fmtMxfp4 || t.fmt = fmtE4m3 || t.fmt = fmtE5m2 then t.scale.toList else []
  | none => []

/-- The base of a tile's scale tile at an index vector (10 R230). -/
def scaleBase (b : Bank) (x : Stream) (t : Tile) (idx : List (Nat × Nat)) : Option Nat :=
  t.scale.map (fun n =>
    let u := b.tile n
    copyBase u (tagsOf x u) (idx.filter (fun c => (tagsOf x t).contains c.1)))

/-- Whether rows of a scale tile at a base lie in the bank's share (01 R27). -/
def scaleInShare (b : Bank) (base first n : Nat) : Bool := inShare b (base + 256 * first) (256 * n)

/-- BANK_LOAD_START (07 R178): the oldest load starts and takes ⌈rows/2⌉ cycles. -/
def bankLoadStart (s : State) (b : BankId) : State :=
  match (s.bank b).mEng.loads with
  | l :: ls =>
    if l.finish.isSome then s
    else s.modBank b (fun k => { k with mEng := { k.mEng with loads := { l with finish := some (s.cycle + (l.rows + 1) / 2) } :: ls } })
  | [] => s

def execBankLoadStart (b : BankId) (s : State) : Out := .next (bankLoadStart s b)

/-- The scratchpad rows a load reads: the tile's, and of MXFP4 its scale tile's. -/
def BankLoad.rowsRead (l : BankLoad) (base : Nat) (sc : Option Nat) : List Nat :=
  (List.range l.rows).map (base / 256 + ·) ++
    (match sc with | some u => (List.range (l.rows / rowsPerK l.fmt / 16)).map (u / 256 + ·) | none => [])

/-- MLOADB (07 R177, R178): where no earlier load is left its load starts at once. It waits for rows that M's own nest is still to write (17 R295). -/
def execMloadb (w : BitVec 3) (q : Spec) (r : Reg) (k : BitVec 1) (s : State) :=
  run s (fun s => do
    needReady s q
    let v ← rd s r
    let bk := k == 1
    trapIf (!s.myBank.hasCim bk) s .accessViolation
    waitIf (match s.myBank.mEng.nest with | some n => n.banks.contains bk | none => false)
    match operandOf q with
    | .tile t =>
      let x := s.myBank.tile t
      trapIf (!loadFits s.myBank x v.toNat) s .accessViolation
      let ws := widenSet s [q]
      if ws.isEmpty then .ok () else checkTiles s (tileNo q ++ (if x.fmt = fmtMxfp4 then scaleTiles s q else []))
      let cs := ((indexVectors s.me ws).filter (activeAt s.me)).map (fun i =>
        (copyBase x (tagsOf s.me x) i, if x.fmt = fmtMxfp4 then scaleBase s.myBank s.me x i else none))
      let l : BankLoad := ⟨s.myBank.opSeq, bk, t, x.fmt, x.rows, v.toNat, cs, none⟩
      trapIf (cs.any (fun c => match c.2 with | some u => !scaleInShare s.myBank u 0 (l.rows / rowsPerK l.fmt / 16) | none => false)) s .accessViolation
      waitIf (cs.any (fun c => (l.rowsRead c.1 c.2).any (s.myBank.ownWork .M)))
      .ok (retire (bankLoadStart (s.modMyBank (fun b => { b with opSeq := b.opSeq + 1, mEng := { b.mEng with loads := b.mEng.loads ++ [l] } })) s.cur.bank) w)
    | _ => wordTrap s .reservedOperand)

/-- The codes of K-row `i` of a load, all 512 columns. -/
def kRowCodes (c : Core) (f base i : Nat) : List Nat :=
  let n := rowsPerK f
  ((List.range n).map (fun r =>
    let x := c.row (base / 256 + n * i + r)
    (List.range (512 / n)).map (laneOf x (fmtBits f)))).flatten

/-- A K-block of a load as the bank stores it: exponents per column, and its 32 K-rows of aligned values. -/
def loadBlock (c : Core) (f base : Nat) (scale : Option Nat) (j : Nat) : List (Int × Int × Nat) × List (List Int) :=
  let rs := (List.range 32).map (fun i => kRowCodes c f base (32 * j + i))
  if mFloat f then
    let cols := (List.range 512).map (fun n =>
      let a := alignBlock f (rs.map (fun r => r.getD n 0))
      let sb := match scale with | some u => laneOf (c.row (u / 256 + 2 * j + n / 256)) 8 (n % 256) | none => 127
      ((a.2.1, (sb : Int) - 127, if sb = 255 then 1 else a.1), a.2.2))
    (cols.map (·.1), (List.range 32).map (fun i => cols.map (fun x => x.2.getD i 0)))
  else (List.replicate 512 (0, 0, 0), rs.map (fun r => r.map (intOf f)))

/-- The bank after block `j` of a load whose first K-row is `first`; check values per 07 R177. -/
def CimBank.putBlock (b : CimBank) (first j : Nat) (x : List (Int × Int × Nat) × List (List Int)) : CimBank :=
  let k0 := first + 32 * j
  let z := x.2.zipIdx
  { b with
    blocks := if x.1.all (· == (0, 0, 0)) then kdel b.blocks (k0 / 32) else kset b.blocks (k0 / 32) x.1
    rows := z.foldl (fun l r => if r.1.all (· == 0) then kdel l (k0 + r.2) else kset l (k0 + r.2) r.1) b.rows
    checks := z.foldl (fun l r =>
      let v := ((r.1.foldl (· + ·) 0) % 251).toNat
      if v = 0 then kdel l (k0 + r.2) else kset l (k0 + r.2) v) b.checks }

/-- One bank load performed (07 R177): another format clears the bank first. -/
def loadBank (c : Core) (l : BankLoad) (base : Nat) (scale : Option Nat) : Core :=
  let b := c.cim l.bank
  let b := if b.fmt = some l.fmt then b else { CimBank.reset with fmt := some l.fmt, owner := b.owner }
  let n := l.rows / rowsPerK l.fmt
  let b := (List.range (n / 32)).foldl (fun b j => b.putBlock l.first j (loadBlock c l.fmt base scale j)) b
  (c.setCim l.bank b).disarm 1 ((if l.bank then cimBytes else 0) + 1024 * l.first) (1024 * n)

/-- BANK_LOAD_FINISH (07 R178, R191): the running load is performed; the next repetition, or the next load, may start.
An uncorrectable error in a row it reads is recorded and leaves the bank as it is; the repetitions of a widened MLOADB after it still load, which the
spec leaves open (DESIGN CHOICE, log entry 13). -/
def bankLoadFinish (s : State) (b : BankId) : State :=
  match (s.bank b).mEng.loads with
  | l :: ls =>
    if !(match l.finish with | some t => decide (t ≤ s.cycle) | none => false) then s
    else match l.copies with
      | (base, sc) :: rest =>
        let rows := l.rowsRead base sc
        let s := rows.foldl (fun s i => s.touchRow b.core i) s
        let s := match (rows.findSome? (fun i => (s.core b.core).injAt 0 (256 * i) 256)).filter (·.hard) with
          | some j => (s.setCore b.core ((s.core b.core).disarm 0 j.addr 1)).modBank b (fun k => { k with mEng := { k.mEng with
              fail := some (k.mEng.fail.getD ⟨mkTrap .sramUncorrected (BitVec.ofNat 64 j.addr), false⟩) } })
          | none => s.setCore b.core (loadBank (s.core b.core) l base sc)
        let ls := if rest.isEmpty then ls else { l with copies := rest, finish := none } :: ls
        s.modBank b (fun k => { k with mEng := { k.mEng with loads := ls } })
      | [] => s.modBank b (fun k => { k with mEng := { k.mEng with loads := ls } })
  | [] => s

def execBankLoadFinish (b : BankId) (s : State) : Out := .next (bankLoadFinish s b)

/-! ### MGO and MMA (07 R182, R186, R191) -/

/-- The smallest and largest sum of strides over the levels. -/
def strideSpan (ls : List NestLevel) (f : NestLevel → Int) : Int × Int :=
  ls.foldl (fun p l =>
    let x := ((l.ext : Int) - 1) * f l
    (p.1 + min 0 x, p.2 + max 0 x)) (0, 0)

def NestTable.steps (t : NestTable) : Nat := t.levels.toList.foldl (fun p l => p * l.ext) 1

/-- The banks a table reaches from its start bank. -/
def NestTable.reach (t : NestTable) : List Bool :=
  if t.levels.toList.any (fun l => l.bst && decide (2 ≤ l.ext)) then [t.start, !t.start] else [t.start]

/-- A nest counts when it completes, and so does each repetition (07 R190, R191). -/
def MEngine.count (m : MEngine) (i n : Nat) : MEngine :=
  { m with cnt := m.cnt.setIfInBounds i (m.cnt.getD i 0 + BitVec.ofNat 64 n) }

/-- NEST_COMPLETE (07 R184, R187, R190): nothing is in the array or on its way; the next repetition starts 4 cycles later, or
the flags are set and a failure is recorded (that of a bank load recorded meanwhile stands). A nest without steps ends at once. -/
def finishNest : Nat → State → BankId → State
  | 0, s, _ => s
  | fuel + 1, s, b =>
    let m := (s.bank b).mEng
    match m.nest with
    | none => s
    | some n =>
      if n.held.isSome || !m.backs.isEmpty || (n.failed.isNone && decide (n.pos < n.total)) then s
      else
        let s := s.modBank b (fun k => { k with mEng := k.mEng.count 7 1 })
        match n.reps.tail, n.failed with
        | r :: rs, none =>
          let s := s.modBank b (fun k => { k with mEng := { k.mEng with nest := some { n with
            reps := r :: rs, pos := 0, nextCyc := s.cycle + 4, run := none, poisoned := [], written := [] } } })
          finishNest fuel s b
        | _, f =>
          let s := s.modBank b (fun k => { k with mEng := { k.mEng with nest := none, fail := k.mEng.fail <|> f } })
          s.modStream b .M (fun x => { x with numflags := x.numflags ||| BitVec.ofNat 64 n.flags })

/-- The wait for the banks a nest reaches and for a running nest, and the delivery of a recorded failure. -/
def mgoWait (s : State) (reach : List Bool) : Res Unit := do
  waitIf (s.myBank.mEng.nest.isSome || s.myBank.mEng.loads.any (fun l => reach.contains l.bank))
  match s.myBank.recorded .M with
  | some f => .error (.trapIn (f.at_ s.cur.word) (s.modMyBank (fun b => { (b.clearRecorded .M) with mEng := { (b.clearRecorded .M).mEng with armed := false } })))
  | none => .ok ()

/-- MGO and MMA after their waits; `one` tells the A offset and C vector of an MMA from its tiles. A trap consumes the arming
(R187). The spec gives the causes outside R182's table no place in its order: a bank not given (R174) comes before the formats, TAG_CONFLICT and
AXIS_OVERFLOW after them, then a scale tile outside the share (01 R27) (DESIGN CHOICE, log entry 54). -/
def startNest (s0 : State) (w : BitVec 3) (td ta : Spec) (tab : NestTable) (isMma : Bool) : Res State := do
  needReady s0 td
  needReady s0 ta
  let fresh := s0.myBank.mEng.armed
  let s := s0.modMyBank (fun b => { b with mEng := { b.mEng with armed := false } })
  let bad := fun (c : Bool) (x : Cause) =>
    if c then (.error (.trapIn (mkTrap x (s.cur.word.setWidth 64)) s) : Res Unit) else .ok ()
  bad (isConst ta) .reservedOperand
  match operandOf td with
  | .tile c =>
    let ct := s.myBank.tile c
    let at_ := tileOf s ta
    let reach := tab.reach
    bad (reach.any (fun k => !s.myBank.hasCim k)) .accessViolation
    let core := s.core s.cur.bank.core
    bad (reach.any (fun k => match (core.cim k).fmt with
      | none => true
      | some bf => cFormat tab.ring (match at_ with | some t => t.fmt | none => bf) bf != some ct.fmt)) .reservedOperand
    bad (match at_ with | some t => t.len != fmtCap t.fmt | none => false) .reservedOperand
    bad (ct.len != (if ct.fmt = fmtB1 then 512 else 64) || ct.rows % cRows ct.fmt != 0) .reservedOperand
    let total := if isMma then 1 else tab.steps
    let ls := tab.levels.toList
    let aOk := match at_ with
      | some t =>
        if isMma then decide (256 * t.cursor + aBytes t.fmt ≤ 256 * t.rows)
        else
          let p := strideSpan ls (·.ast)
          decide (0 ≤ p.1) && decide (p.2 < ((256 * t.rows / aBytes t.fmt : Nat) : Int))
      | none => true
    let cOk := isMma || (let p := strideSpan ls (·.cst)
      decide (0 ≤ p.1) && decide (p.2 < ((ct.rows / cRows ct.fmt : Nat) : Int)))
    bad (total != 0 && !(aOk && cOk)) .accessViolation
    let ws := widenSet s [td, ta]
    let s ← match settleTags s td ws with
      | .ok t => .ok t
      | .error _ => .error (.trapIn (mkTrap .tagConflict (s.cur.word.setWidth 64)) s)
    bad (!ws.isEmpty && (match checkTiles s (tileNo td ++ tileNo ta ++ scaleTiles s ta) with | .ok _ => false | .error _ => true)) .axisOverflow
    let ct := s.myBank.tile c
    let reps := ((indexVectors s.me ws).filter (activeAt s.me)).map (fun i =>
      (⟨match at_ with | some t => copyBase t (tagsOf s.me t) i | none => 0
       , match at_ with | some t => scaleBase s.myBank s.me t i | none => none
       , copyBase ct (tagsOf s.me ct) i, destBases s td ws i⟩ : NestRep))
    let aRows := match at_ with
      | some t => if isMma then (t.cursor, t.cursor + (aBytes t.fmt - 1) / 256)
        else ((strideSpan ls (·.ast)).1.toNat * aBytes t.fmt / 256, (((strideSpan ls (·.ast)).2.toNat + 1) * aBytes t.fmt - 1) / 256)
      | none => (0, 0)
    bad (total != 0 && !(scaleTiles s ta).isEmpty && reps.any (fun r => match r.sc with
      | some u => !scaleInShare s.myBank u aRows.1 (aRows.2 + 1 - aRows.1) | none => false)) .accessViolation
    let n : Nest := {
      id := s.myBank.opSeq, tab := tab, cTile := c, aSpec := ta, aFmt := at_.map (·.fmt), cFmt := ct.fmt, banks := reach
      one := if isMma then some (match at_ with | some t => 256 * t.cursor | none => 0, ct.cursor / cRows ct.fmt) else none
      reps := reps, pos := 0, total := total, nextCyc := s.cycle + 4, held := none, fresh := fresh, isat := s.me.isat
      rtrap := s.myBank.residue, run := none, poisoned := [], written := [], waiting := none, flags := 0, failed := none }
    let s := s.modMyBank (fun b => { b with opSeq := b.opSeq + 1, mEng := { b.mEng with nest := some n } })
    .ok (finishNest (reps.length + 1) (retire s w) s.cur.bank)
  | _ => bad true .reservedOperand; .ok s

/-- MGO (07 R182). -/
def execMgo (w : BitVec 3) (s : State) :=
  run s (fun s => do
    let tab := s.myBank.mEng.shadow
    mgoWait s tab.reach
    match tab.bound with
    | some (c, a) => startNest s w c a tab false
    | none => .error (.trapIn (mkTrap .reservedOperand (s.cur.word.setWidth 64))
        (s.modMyBank (fun b => { b with mEng := { b.mEng with armed := false } }))))

/-- The table an MMA runs: the shadow's semiring and start bank, one step. -/
def NestTable.single (t : NestTable) : NestTable := { NestTable.reset with ring := t.ring, start := t.start }

/-- MMA (07 R186). -/
def execMma (w : BitVec 3) (p q : Spec) (s : State) :=
  run s (fun s => do
    let tab := s.myBank.mEng.shadow.single
    mgoWait s tab.reach
    startNest s w p q tab true)

/-- The word at a pc is an MGO or MMA: it consumes the arming even if it traps (07 R187). -/
def armedAway (s : State) (b : BankId) (e : Engine) : State :=
  let k := s.bank b
  match (if e = .M then k.wordAt k.m.pc else none) with
  | some x => if fld x 29 3 == 3 && (fld x 20 6 == 5 || fld x 20 6 == 7) then
      s.modBank b (fun k => { k with mEng := { k.mEng with armed := false } }) else s
  | none => s

/-! ### Steps of a nest (07 R183, R184, R188, R189) -/

/-- The loop indices of a step, level 0 fastest. -/
def nestIdx : List Nat → Nat → List Nat
  | [], _ => []
  | e :: l, p => p % e :: nestIdx l (p / e)

/-- A vector offset in bytes (A tile only), bank and C vector of step `p`. -/
def Nest.at_ (n : Nest) (p : Nat) : Nat × Bool × Int :=
  match n.one with
  | some (off, cv) => (off, n.tab.start, (cv : Int))
  | none =>
    let ls := n.tab.levels.toList
    let ix := ls.zip (nestIdx (ls.map (·.ext)) p)
    let sum := fun (f : NestLevel → Int) => ix.foldl (fun a x => a + (x.2 : Int) * f x.1) 0
    let bs := sum (fun l => if l.bst then 1 else 0)
    ((sum (·.ast)).toNat * aBytes (n.aFmt.getD 0), n.tab.start != (bs % 2 == 1), sum (·.cst))

/-- Whether step `p` begins or ends its K-run. -/
def Nest.first (n : Nest) (p : Nat) : Bool := p == 0 || (n.at_ (p - 1)).2.2 != (n.at_ p).2.2
def Nest.last (n : Nest) (p : Nat) : Bool := decide (n.total ≤ p + 1) || (n.at_ (p + 1)).2.2 != (n.at_ p).2.2

/-- The bytes from an offset of a tile's byte sequence, as one number. -/
def tileBytes (c : Core) (base off n : Nat) : Nat :=
  let r := base / 256 + off / 256
  if n ≤ 256 then (c.row r).toNat >>> (8 * (off % 256)) else (c.row r).toNat + (c.row (r + 1)).toNat <<< 2048

/-- The scale exponents of an A vector of a tile (07 R175). A scale tile that is null, or has fewer rows or shorter ones than A needs, is not
checked for: the bytes are those at their places of the scratchpad, which the spec leaves open (DESIGN CHOICE, log entry 54). -/
def aScales (c : Core) (f : Nat) (sc : Option Nat) (off : Nat) : List (Option Int) :=
  match (if f = fmtMxfp4 || f = fmtE4m3 || f = fmtE5m2 then sc else none) with
  | none => List.replicate 8 (some 0)
  | some u => (List.range 8).map (fun b =>
      let byte := off + 4 * fmtBits f * b
      let v := laneOf (c.row (u / 256 + byte / 256)) 8 (byte % 256 * 8 / fmtBits f / 32)
      if v = 255 then none else some ((v : Int) - 127))

/-- The rows of A's scale tile that a step reads. -/
def aScaleRows (f : Nat) (sc : Option Nat) (off : Nat) : List Nat :=
  match (if f = fmtMxfp4 || f = fmtE4m3 || f = fmtE5m2 then sc else none) with
  | none => []
  | some u => ((List.range 8).map (fun b => u / 256 + (off + 4 * fmtBits f * b) / 256)).dedup

/-- The scratchpad rows of A that a step reads. -/
def aRowsRead (n : Nest) (off : Nat) : List Nat :=
  match n.aFmt, n.reps with
  | some f, r :: _ => let i := r.a / 256 + off / 256; if aBytes f > 256 then [i, i + 1] else [i]
  | _, _ => []

/-- Pops `k` rows for a nest. -/
def popFor (s : State) (b : BankId) (sp : Spec) : Nat → List Row × State
  | 0 => ([], s)
  | k + 1 =>
    let (r, s) := match operandOf sp with
      | .queue q => s.popRow b q
      | .stream d => (match ((s.bank b).ds d).run with
          | some x => ((match x.buf with | y :: _ => y.row | [] => 0), s.modBank b (·.setDs d { (s.bank b).ds d with
              run := some { x with buf := x.buf.tail, given := x.given + 1 } }))
          | none => (0, s))
      | _ => (0, s)
    let (rs, s) := popFor s b sp k
    (r :: rs, s)

/-- Whether a queue or data stream can give a nest its rows: a failure (07 R189), not yet, or yes. -/
inductive Feed where
  | fails (f : Failure) | waits | ready
  deriving DecidableEq, Repr

def feedOf (s : State) (b : BankId) (sp : Spec) (k : Nat) : Feed :=
  match operandOf sp with
  | .queue q =>
    let x := (s.bank b).queue q
    if x.binding.isSome then .fails ⟨mkTrap .accessViolation 0, true⟩
    else if x.rows.length < k then .waits else .ready
  | .stream d =>
    let x := (s.bank b).ds d
    match x.fault, x.run with
    | some f, _ => .fails ⟨streamTrap f, false⟩
    | none, some r =>
      if r.write then .fails ⟨mkTrap .accessViolation 0, true⟩ else if r.buf.length < k then .waits else .ready
    | none, none => .waits
  | _ => .ready

/-- An uncorrectable error armed in a row or in the CIM bank that a step reads (21 R367): its byte offset, and the core that
has met it. -/
def stepError (c : Core) (rows : List Nat) (k : Bool) : Option (Nat × Core) :=
  match (rows.findSome? (fun i => c.injAt 0 (256 * i) 256)).filter (·.hard) with
  | some j => some (j.addr, c.disarm 0 j.addr 1)
  | none => match (c.injAt 1 (if k then cimBytes else 0) cimBytes).filter (·.hard) with
    | some j => some (j.addr, c.disarm 1 j.addr 1)
    | none => none

/-- The rows of a C vector. -/
def cRowsRead (cf base : Nat) (cv : Int) : List Nat := (List.range (cRows cf)).map (base / 256 + cRows cf * cv.toNat + ·)

/-- The C vector of a K-run as it stands in the tile. -/
def readC (c : Core) (cf base : Nat) (cv : Int) : List Int :=
  let n := cRows cf
  let per := 512 / n
  ((List.range n).map (fun i =>
    let r := c.row (base / 256 + n * cv.toNat + i)
    (List.range per).map (fun e =>
      let x := laneOf r (fmtBits cf) e
      if cf = fmtI32 then sgn 32 x else (x : Int)))).flatten

/-- The values a K-run leaves, with the flags of the integer write-back (03 R76). -/
def finalC (cf : Nat) (isat : Bool) (acc : List Int) : List Int × Nat :=
  if cf = fmtI32 then
    if isat then
      let r := acc.map (fun x => max (-2147483648) (min 2147483647 x))
      (r, if r = acc then 0 else flagSATD)
    else (acc.map (fun x => sgn 32 (wrapTo 32 x)), 0)
  else (acc, 0)

/-- The rows of a C vector, ascending, for each copy written. -/
def backRows (cf : Nat) (dsts : List Nat) (cv : Int) (v : List Int) : List (Nat × Row) :=
  let n := cRows cf
  let per := 512 / n
  dsts.flatMap (fun base => (List.range n).map (fun i =>
    (base / 256 + n * cv.toNat + i,
     BitVec.ofNat 2048 (packLanes (fmtBits cf) (((v.drop (per * i)).take per).map (wrapTo (fmtBits cf)))))))

/-- The step in the array ends: it counts, and the last of a K-run sends its values on their way (R184). -/
def endStep (s : State) (b : BankId) (n : Nest) : State :=
  match n.held with
  | none => s
  | some (c, ch) =>
    let s := s.modBank b (fun k => { k with mEng := ((k.mEng.count 0 1).count 4 c).count 1 ch })
    s.modBank b (fun k => { k with mEng := { k.mEng with nest := some { n with held := none } } })

/-- A step fails: nothing more of the nest runs (R189). -/
def failStep (s : State) (b : BankId) (n : Nest) (f : Failure) : State :=
  s.modBank b (fun k => { k with mEng := { k.mEng with
    nest := some { n with failed := some f, run := none, waiting := none }
    cnt := k.mEng.cnt.setIfInBounds 3 (BitVec.ofNat 64 n.pos) } })

/-- The next step starts: it reads its A vector and updates the accumulators (R183). -/
def startStep (s : State) (b : BankId) (n : Nest) : State :=
  let (off, bk, cv) := n.at_ n.pos
  let cim := (s.core b.core).cim bk
  let af := n.aFmt.getD (cim.fmt.getD 0)
  let k := if aBytes af > 256 then 2 else 1
  let feed := if n.aFmt.isSome then Feed.ready else feedOf s b n.aSpec k
  let waited := fun (s : State) => match n.waiting with
    | some (c, _) => s.modBank b (fun x => { x with mEng := x.mEng.count 5 (s.cycle - c) })
    | none => s
  match feed with
  | .fails f => failStep (waited s) b n f
  | .waits =>
    if n.waiting.isSome then s
    else s.modBank b (fun x => { x with mEng := { x.mEng with nest := some { n with waiting := some (s.cycle, s.tick) } } })
  | .ready =>
    match n.reps with
    | [] => s
    | r :: _ =>
      let s := waited s
      let reads := n.first n.pos && !n.fresh && (n.written.find? (fun v => v.1 == cv)).isNone
      let rows := aRowsRead n off ++ (if n.aFmt.isSome then aScaleRows af r.sc off else []) ++
        (if reads then cRowsRead n.cFmt r.c cv else [])
      match stepError (s.core b.core) rows bk with
      | some (a, c) => failStep (s.setCore b.core c) b n ⟨mkTrap .sramUncorrected (BitVec.ofNat 64 a), false⟩
      | none =>
        let (rs, s) := if n.aFmt.isSome then ([], s) else popFor s b n.aSpec k
        let s := rows.foldl (fun s i => s.touchRow b.core i) s
        let c := s.core b.core
        let x := if n.aFmt.isSome then tileBytes c r.a off (aBytes af)
          else (rs.headD 0).toNat % (1 <<< (if k = 2 then 2048 else 8 * aBytes af)) + (rs.getD 1 0).toNat <<< 2048
        let a : AVec := ⟨af, x, if n.aFmt.isSome then aScales c af r.sc off else List.replicate 8 (some 0)⟩
        let acc := if n.first n.pos then
            (match n.written.find? (fun v => v.1 == cv) with
              | some v => v.2
              | none => if n.fresh then List.replicate 512 (identity n.tab.ring) else readC c n.cFmt r.c cv)
          else match n.run with | some v => v.2 | none => []
        let m := mStep n.tab.ring a cim ⟨acc, n.flags, 0, if n.first n.pos then [] else n.poisoned⟩
        let checks := if n.tab.ring = 0 then 8 else 0
        let s := { s with fleet := { s.fleet with resmis := s.fleet.resmis + BitVec.ofNat 64 m.bad } }
        let s := if m.bad = 0 then s else s.modBank b (fun x => { x with mEng := { x.mEng.count 2 m.bad with
          cnt := (x.mEng.count 2 m.bad).cnt.setIfInBounds 3 (BitVec.ofNat 64 n.pos) } })
        let n := { n with flags := m.fl, waiting := none }
        if m.bad ≠ 0 && n.rtrap then
          let s := s.modBank b (fun x => { x with mEng := (x.mEng.count 1 checks).count 4 (stepCycles n.tab.ring af) })
          failStep s b n ⟨mkTrap .residueMismatch (BitVec.ofNat 64 n.pos), false⟩
        else
          let cyc := stepCycles n.tab.ring af
          let (v, fl) := finalC n.cFmt n.isat m.acc
          let done := n.last n.pos
          let n' := { n with
            pos := n.pos + 1, nextCyc := s.cycle + cyc, held := some (cyc, checks)
            run := if done then none else some (cv, m.acc)
            poisoned := m.pois
            written := if done then (cv, v) :: n.written.filter (fun y => y.1 != cv) else n.written
            flags := if done then n.flags ||| fl else n.flags }
          let back : List WriteBack := if done then
              [⟨n.id, n.cTile, s.cycle + cyc + 12, backRows n.cFmt r.dsts cv v
              , (m.pois.dedup.filter (fun i => v.getD i 0 == (ff32.nan : Int))).length⟩]
            else []
          s.modBank b (fun x => { x with mEng := { x.mEng with nest := some n', backs := x.mEng.backs ++ back } })

/-- NEST_STEP (07 R183): in the cycle in which the array is free, the step in it ends and the next one starts. -/
def nestStep (s : State) (b : BankId) : State :=
  match (s.bank b).mEng.nest with
  | none => s
  | some n =>
    if s.cycle < n.nextCyc then s
    else
      let s := endStep s b n
      match (s.bank b).mEng.nest with
      | some n => if n.failed.isNone && decide (n.pos < n.total) then
          (let s := startStep s b n; finishNest (n.reps.length + 1) s b)
        else finishNest (n.reps.length + 1) s b
      | none => s

def execNestStep (b : BankId) (s : State) : Out := .next (nestStep s b)

/-- K_RUN_WRITEBACK (07 R184, R190, R193): the oldest write-back that is due reaches the scratchpad, rows ascending. -/
def kRunWriteback (s : State) (b : BankId) : State :=
  match (s.bank b).mEng.backs with
  | x :: rest =>
    if s.cycle < x.cyc then s
    else
      let s := x.rows.foldl (fun s r => s.putRow b.core r.1 r.2) s
      let s := s.modBank b (fun k => { k with mEng := { (k.mEng.count 6 x.poison) with backs := rest } })
      match (s.bank b).mEng.nest with
      | some n => finishNest (n.reps.length + 1) s b
      | none => s
  | [] => s

def execKRunWriteback (b : BankId) (s : State) : Out := .next (kRunWriteback s b)

end Sys2Proof.Machine
end

