-- ==== Sys2Proof/Machine/Sketch.lean ====
section
/-! DEFINITION. The K class: the factor pair, the fold and the shrink (08 R194–R210; 03 R70) and the sixteen K words
(09 R211–R227). -/

namespace Sys2Proof.Machine

/-! ### FP32 arithmetic with what it raises (08 R198) -/

/-- Computations that gather flags, and whether a value formed was NaN or Inf. -/
abbrev Ar := StateM (Nat × Bool)

/-- Whether a code is NaN or Inf. -/
def notFinite (c : Nat) : Bool := c / 8388608 % 256 == 255

def ar (r : Rnd) : Ar Nat := do
  let s ← get
  set (s.1 ||| r.fl, s.2 || notFinite r.code)
  pure r.code

def aAdd (a b : Nat) : Ar Nat := ar (fadd32 a b .rne)
def aSub (a b : Nat) : Ar Nat := ar (fsub32 a b .rne)
def aMul (a b : Nat) : Ar Nat := ar (fmul32 a b .rne)
def aDiv (a b : Nat) : Ar Nat := ar (fdiv32 a b .rne)
def aSqrt (a : Nat) : Ar Nat := ar (fsqrt32 a .rne)
def aFma (a b c : Nat) : Ar Nat := ar (fma32 a b c .rne)

/-- The code with its sign changed, and without it. -/
def negCode (c : Nat) : Nat := c ^^^ 0x80000000
def absCode (c : Nat) : Nat := c % 0x80000000

def zipM (f : Nat → Nat → Ar Nat) : List Nat → List Nat → Ar (List Nat)
  | a :: as, b :: bs => do
    let x ← f a b
    let r ← zipM f as bs
    pure (x :: r)
  | _, _ => pure []

/-- The tree over 256 lanes (03 R70). -/
def dotTree : Nat → List Nat → Ar Nat
  | 0, p => pure (p.headD 0)
  | k + 1, p => do
    let r ← zipM aAdd (p.take (1 <<< k)) (p.drop (1 <<< k))
    dotTree k r

/-- The lanes of a dot product after one block of at most 256 elements; lanes past the block stand. -/
def dotBlock : List Nat → List Nat → List Nat → Ar (List Nat)
  | p :: ps, a :: as, b :: bs => do
    let x ← aFma a b p
    let r ← dotBlock ps as bs
    pure (x :: r)
  | ps, _, _ => pure ps

/-- All blocks in order; `fuel` bounds their number. -/
def dotLanes : Nat → List Nat → List Nat → List Nat → Ar (List Nat)
  | 0, p, _, _ => pure p
  | f + 1, p, x, y =>
    if x.isEmpty then pure p
    else do
      let q ← dotBlock p x y
      dotLanes f q (x.drop 256) (y.drop 256)

/-- The K dot product (03 R70). -/
def dot (x y : List Nat) : Ar Nat := do
  let p ← dotLanes (x.length / 256 + 1) (List.replicate 256 0) x y
  dotTree 8 p

def norm (x : List Nat) : Ar Nat := do
  let d ← dot x x
  aSqrt d

def codeLe (a b : Nat) : Bool := (f32 a).lt (f32 b) || (f32 a).eqv (f32 b)

/-! ### The shrink (08 R199–R204) -/

/-- One pass of Gram–Schmidt: w less its components along the columns, and R's entries. -/
def cgsPass (qs : List (List Nat)) (wr : List Nat × List Nat) : Ar (List Nat × List Nat) := do
  let h ← qs.mapM (fun q => dot q wr.1)
  let w ← (qs.zip h).foldlM (fun w x => zipM (fun q y => aFma (negCode x.2) q y) x.1 w) wr.1
  let r ← zipM aAdd wr.2 h
  pure (w, r)

/-- A column of CGS2: the new Q column and column j of R down to its diagonal. -/
def cgsColumn (qs : List (List Nat)) (z : List Nat) : Ar (List Nat × List Nat) := do
  let nrm ← norm z
  let a ← cgsPass qs (z, List.replicate qs.length 0)
  let b ← cgsPass qs a
  let rho ← norm b.1
  let lim ← aMul 0x33800000 nrm
  if codeLe rho lim then pure (List.replicate z.length 0, b.2 ++ [0])
  else do
    let q ← b.1.mapM (fun x => aDiv x rho)
    pure (q, b.2 ++ [rho])

/-- Q and the columns of R. -/
def qr (zs : List (List Nat)) : Ar (List (List Nat) × List (List Nat)) :=
  zs.foldlM (fun s z => do
    let x ← cgsColumn s.1 z
    pure (s.1 ++ [x.1], s.2 ++ [x.2])) ([], [])

/-- Row i of a matrix given by its columns; entries below the diagonal of R are +0. -/
def rowAt (cols : List (List Nat)) (i : Nat) : List Nat := cols.map (fun c => c.getD i 0)

/-- Stage 3: S by columns. -/
def coreMatrix (c : Nat) (ru rv : List (List Nat)) : Ar (List (List Nat)) :=
  (List.range c).mapM (fun j => (List.range c).mapM (fun i => dot (rowAt ru i) (rowAt rv j)))

/-- A rotation of two columns. -/
def rotate (cs sn : Nat) (x y : List Nat) : Ar (List Nat × List Nat) := do
  let p ← zipM (fun a b => do let t ← aMul cs a; aFma (negCode sn) b t) x y
  let q ← zipM (fun a b => do let t ← aMul cs b; aFma sn a t) x y
  pure (p, q)

/-- One pair of the balance (08 R201). -/
def balancePair (sw : List (List Nat) × List (List Nat)) (p q : Nat) : Ar (List (List Nat) × List (List Nat)) := do
  let x := sw.1.getD p []
  let y := sw.1.getD q []
  let a ← dot x x
  let b ← dot y y
  let g ← dot x y
  let ab ← aMul a b
  let r ← aSqrt ab
  let th ← aMul 0x33800000 r
  if codeLe (absCode g) th then pure sw
  else do
    let d ← aSub b a
    let g2 ← aMul 0x40000000 g
    let z ← aDiv d g2
    let sg := if (f32 z).lt (.fin false 0 0) then 0xBF800000 else 0x3F800000
    let zz ← aFma z z 0x3F800000
    let rz ← aSqrt zz
    let den ← aAdd (absCode z) rz
    let tn ← aDiv sg den
    let tt ← aFma tn tn 0x3F800000
    let rt ← aSqrt tt
    let cs ← aDiv 0x3F800000 rt
    let sn ← aMul cs tn
    let u ← rotate cs sn x y
    let v ← rotate cs sn (sw.2.getD p []) (sw.2.getD q [])
    let put := fun (m : List (List Nat)) (w : List Nat × List Nat) => modAt (fun _ => w.2) (modAt (fun _ => w.1) m p) q
    pure (put sw.1 u, put sw.2 v)

/-- The pairs of step t for c' indices. -/
def balancePairs (c t : Nat) : List (Nat × Nat) :=
  let l := fun (i : Nat) => if i = 0 then 0 else 1 + (i - 1 + t) % (c - 1)
  (List.range (c / 2)).map (fun i => (min (l i) (l (c - 1 - i)), max (l i) (l (c - 1 - i))))

def balance (c : Nat) (sw : List (List Nat) × List (List Nat)) : Ar (List (List Nat) × List (List Nat)) :=
  (List.range 6).foldlM (fun sw _ => (List.range (c - 1)).foldlM (fun sw t =>
    (balancePairs c t).foldlM (fun sw x => balancePair sw x.1 x.2) sw) sw) sw

/-- Inserts behind every entry that is not smaller: a stable non-increasing order, by codes. A NaN of a poisoned shrink stands above every number,
which the spec leaves open (DESIGN CHOICE, log entry 59). -/
def insertDown (x : Nat × Nat) : List (Nat × Nat) → List (Nat × Nat)
  | [] => [x]
  | y :: l => if y.1 < x.1 then x :: y :: l else y :: insertDown x l

def sortDown (l : List (Nat × Nat)) : List (Nat × Nat) := l.foldl (fun r x => insertDown x r) []

def identityCols (c : Nat) : List (List Nat) :=
  (List.range c).map (fun j => (List.range c).map (fun i => if i = j then 0x3F800000 else 0))

/-- Binary64 operations on codes. -/
def fadd64 (a b : Nat) : Rnd := ff64.fin .rne ((ff64.dec a).add (ff64.dec b))
def fmul64 (a b : Nat) : Rnd := ff64.fin .rne ((ff64.dec a).mul (ff64.dec b))
def widen64 (c : Nat) : Nat := (ff64.enc .rne (f32 c)).code

/-- KENERGY with the square of a singular value added, times `f` (08 R204). -/
def addSquare (e : Nat × Nat) (sigma : Nat) (f : Option Nat) : Nat × Nat :=
  let q := fmul64 (widen64 sigma) (widen64 sigma)
  let q := match f with | some l => fmul64 (ff64.enc .rne (Fv.ofInt l)).code q.code | none => q
  let r := fadd64 e.1 q.code
  (r.code, e.2 ||| q.fl ||| r.fl)

/-- What stages 1 to 6 give: U', V', the sorted σ, δ. -/
def shrinkStages (w : KPair) (us vs : List (List Nat)) : Ar (List (List Nat) × List (List Nat) × List Nat × Nat) := do
  let c := us.length
  let c2 := c + c % 2
  let qu ← qr us
  let qv ← qr vs
  let s0 ← coreMatrix c qu.2 qv.2
  let sw ← balance c2 (s0 ++ (if c % 2 = 1 then [List.replicate c 0] else []), identityCols c2)
  let sg ← sw.1.mapM norm
  let ps ← (sw.1.zip sg).mapM (fun x => if x.2 = 0 then pure (List.replicate c 0) else x.1.mapM (fun y => aDiv y x.2))
  let pi := sortDown (sg.zipIdx)
  let delta := if w.l < c then (pi.getD w.l (0, 0)).1 else 0
  let keep := pi.take (min w.l c)
  let un ← keep.mapM (fun x => (List.range w.m).mapM (fun r => dot (rowAt qu.1 r) (ps.getD x.2 [])))
  let vn ← keep.mapM (fun x => do
    let sp ← if w.fd then (do
        let q ← aMul x.1 x.1
        let t ← aFma (negCode delta) delta q
        aSqrt (ff32.enc .rne ((f32 t).max (.fin false 0 0))).code)
      else pure x.1
    (List.range w.n).mapM (fun r => do
      let d ← dot (rowAt qv.1 r) (((sw.2.getD x.2 []).take c))
      aMul d sp))
  pure (un, vn, pi.map (·.1), delta)

/-- The shrink of Ũ and Ṽ, and its flags (08 R198–R204). -/
def shrink (w : KPair) (us vs : List (List Nat)) : KPair × Nat :=
  let c := us.length
  let h := min w.l c
  let start := us.any (fun x => x.any notFinite) || vs.any (fun x => x.any notFinite)
  let ((un, vn, sg, delta), fl, bad) := (shrinkStages w us vs).run (0, start)
  if bad then
    ({ w with k := h, u := List.replicate h (List.replicate w.m ff32.nan), v := List.replicate h (List.replicate w.n ff32.nan)
              canon := true, energy := 0x7FF8000000000000 }, fl)
  else
    let e := (sg.drop h).foldl (fun e x => addSquare e x none) (w.energy, fl)
    let e := if w.fd && decide (w.l < c) then addSquare e delta (some w.l) else e
    ({ w with k := h, u := un, v := vn, canon := true, energy := e.1 }, e.2)

/-! ### The fold (08 R197) and its time (08 R205) -/

/-- ⌈x/256⌉ and ⌈x/64⌉. -/
def up256 (x : Nat) : Nat := (x + 255) / 256
def up64 (x : Nat) : Nat := (x + 63) / 64

def qrTime (c x : Nat) : Nat := 2 * c * (c - 1) * up256 x + c * (2 * up256 x + 40)
def shrinkTime (w : KPair) (c : Nat) : Nat :=
  let c2 := c + c % 2
  qrTime c w.m + qrTime c w.n + (c * up256 (c * c) + 16) + 6 * (c2 - 1) * ((7 * c2 * c2 + 511) / 512 + 44) + (8 * c + 16) +
    (w.l * c * up256 (w.m + w.n) + 20)

def appendTime (w : KPair) (n : Nat) : Nat := if n = 0 then 0 else n * up256 (w.m + w.n) + 4

/-- Whether a fold of `n` pairs appends. -/
def appends (w : KPair) (n : Nat) : Bool := n != 0 && decide (w.k + n ≤ w.l)

def foldTime (w : KPair) (n : Nat) : Nat :=
  if appends w n then appendTime w n
  else if n = 0 && w.k = 0 then 4
  else appendTime w n + shrinkTime w (w.k + n)

/-- A fold of a panel: the pair and the flags. -/
def foldPanel (w : KPair) (us vs : List (List Nat)) (alpha : Nat) : KPair × Nat :=
  let (un, fl, _) := (us.mapM (fun (u : List Nat) => u.mapM (aMul alpha))).run (0, false)
  if appends w us.length then
    ({ w with u := w.u ++ un, v := w.v ++ vs, k := w.k + us.length, canon := false }, fl)
  else if us.isEmpty && w.k = 0 then (w, 0)
  else
    let r := shrink w (w.u ++ un) (w.v ++ vs)
    (r.1, fl ||| r.2)

/-- The bytes of the factor store a configuration needs (08 R195). -/
def footprintOf (m n l p : Nat) : Nat := 4 * (m + n) * (l + p) + 16 * (l + p + 1) * (l + p + 1)

/-- The bytes of the factor store the bind record gives the bank. -/
def Bank.fstBytes (b : Bank) : Nat := 65536 * ((List.range 20).filter (fun i => b.bindRec.fst.getLsbD i)).length

/-! ### Vectors and images in rows (09 R212, R221) -/

/-- Elements of rows of a format and length, widened to FP32, a BF16 NaN to the canonical NaN (03 R60, R67); a constant row or
queue row is FP32 of length 64. -/
def vecOf (len fmt x : Nat) (rs : List Row) : List Nat :=
  ((rs.map (fun r => (List.range len).map (fun i =>
    if fmt = fmtBf16 then (ff32.enc .rne (ffbf.dec (laneOf r 16 i))).code else laneOf r 32 i))).flatten).take x

/-- The rows of a vector for a destination of a format and length, and the flags of the rounding. -/
def rowsOfVec (len fmt : Nat) : Nat → List Nat → List Row × Nat
  | 0, _ => ([], 0)
  | f + 1, v =>
    if v.isEmpty then ([], 0)
    else
      let c := (v.take len).map (fun x => if fmt = fmtBf16 then ffbf.enc .rne (f32 x) else (⟨x, 0⟩ : Rnd))
      let r := rowsOfVec len fmt f (v.drop len)
      (BitVec.ofNat 2048 (packLanes (fmtBits fmt) (c.map (·.code))) :: r.1, c.foldl (fun a x => a ||| x.fl) r.2)

/-- The header row of an image. -/
def headerRow (w : KPair) : Row :=
  rowOf (leBytes 8 w.energy ++ leBytes 2 w.m ++ leBytes 2 w.n ++ leBytes 1 w.l ++ leBytes 1 w.p ++
    leBytes 1 (if w.fd then 1 else 0) ++ leBytes 1 w.k ++ leBytes 1 (if w.canon then 1 else 0) ++ leBytes 1 1)

/-- The image of a pair (09 R221). -/
def imageRows (w : KPair) : List Row :=
  headerRow w :: ((w.u ++ w.v).map (fun c => (rowsOfVec 64 fmtFp32 (up64 c.length + 1) c).1)).flatten

/-- The fields of a header as a pair without columns, where VER, the ranges of M and N and the reserved bytes are right. -/
def readHeader (r : Row) : Option KPair :=
  let b := fun (i n : Nat) => (r.toNat >>> (8 * i)) % (1 <<< (8 * n))
  let w : KPair := ⟨b 8 2, b 10 2, b 12 1, b 13 1, b 14 1 == 1, b 15 1, [], [], b 16 1 == 1, b 0 8⟩
  if b 17 1 = 1 ∧ r.toNat >>> 144 = 0 ∧ 1 ≤ w.m ∧ w.m ≤ 1024 ∧ 1 ≤ w.n ∧ w.n ≤ 1024 ∧ w.k ≤ 64 then some w else none

/-- The further conditions SKLOAD sets (09 R222). -/
def headerFull (b : Bank) (r : Row) (w : KPair) : Bool :=
  let y := fun (i : Nat) => (r.toNat >>> (8 * i)) % 256
  decide (1 ≤ w.l) && decide (w.l ≤ 64) && decide (1 ≤ w.p) && decide (w.p ≤ 32) && decide (w.k ≤ w.l) &&
  decide (y 14 ≤ 1) && decide (y 16 ≤ 1) && decide (footprintOf w.m w.n w.l w.p ≤ b.fstBytes)

/-- The rows of an image after its header. -/
def bodyRows (w : KPair) : Nat := w.k * (up64 w.m + up64 w.n)

/-- Cuts rows into columns of x elements. -/
def columnsOf (x : Nat) : Nat → List Row → List (List Nat)
  | 0, _ => []
  | k + 1, rs => vecOf 64 fmtFp32 x (rs.take (up64 x)) :: columnsOf x k (rs.drop (up64 x))

/-- The pair of an image whose header is the first row. -/
def pairOfImage (rs : List Row) : Option KPair :=
  match rs with
  | h :: body => (readHeader h).map (fun w =>
      { w with u := columnsOf w.m w.k body, v := columnsOf w.n w.k (body.drop (w.k * up64 w.m)) })
  | [] => none

/-! ### Running an operation -/

/-- Row i of a source. -/
def KSrc.port (a : KSrc) (i : Nat) : RowPort :=
  match operandOf a.spec with
  | .tile _ => .spad (a.row0 + i)
  | .queue q => .queue q
  | .stream n => .dstream n
  | .onesRow => .const (onesRow fmtFp32)
  | .laneRow => .const (laneRow fmtFp32)
  | _ => .const 0

def KSrc.isTile (a : KSrc) : Bool := match operandOf a.spec with | .tile _ => true | _ => false

def takes' (a : KSrc) (i n : Nat) : List KTodo := (List.range n).map (fun j => .take (a.port (i + j)))

/-- The columns [c, c + n) of a merge's panel as steps: its rows, then its vectors; V's columns begin at row `off` of their
operand (09 R223). -/
def panelSteps (w : KPair) (a b : KSrc) (off c n : Nat) : List KTodo :=
  let ru := up64 w.m
  let rv := up64 w.n
  takes' a (1 + c * ru) (n * ru) ++ List.replicate n (.vec true ru 64 fmtFp32 w.m) ++
  takes' b (off + c * rv) (n * rv) ++ List.replicate n (.vec false rv 64 fmtFp32 w.n)

/-- The panels of a merge of k columns, each with its fold; `whole` says that the image body has been taken before. -/
def mergePanels (w : KPair) (whole : Bool) (off : Nat) (a b : KSrc) (last : Bool) (k : Nat) : List KTodo :=
  let n := (k + w.p - 1) / w.p
  (List.range n).flatMap (fun i =>
    let c := i * w.p
    let m := min k (c + w.p) - c
    (if whole then [] else panelSteps w a b off c m) ++ [.fold m 0x3F800000 (last && i + 1 == n)])

/-- What follows a header (09 R222, R223): the rows and steps of the image, or none where the header or a tile refuses it. -/
def afterHeader (k : Bank) (w : KPair) (merge same last : Bool) (a b : KSrc) (h : Row) : Option (KPair × Nat × List KTodo) :=
  match readHeader h with
  | none => none
  | some x =>
    if merge then
      let need := 1 + x.k * up64 x.m + (if same then x.k * up64 x.n else 0)
      if x.m ≠ w.m || x.n ≠ w.n then none
      else if (a.isTile && decide (a.left < need)) || (!same && b.isTile && decide (b.left < x.k * up64 x.n)) then none
      else if same && !a.isTile &&
          decide (k.fstBytes < footprintOf w.m w.n w.l w.p + 4 * (w.m + w.n) * x.k) then none
      else
        let e := fadd64 w.energy x.energy
        let w := { w with energy := e.code }
        if x.k = 0 then some (w, e.fl, [.pass 4])
        else
          let pre := if same && !a.isTile then
              takes' a 1 (x.k * up64 x.m) ++ List.replicate x.k (.vec true (up64 x.m) 64 fmtFp32 x.m) ++
              takes' a (1 + x.k * up64 x.m) (x.k * up64 x.n) ++ List.replicate x.k (.vec false (up64 x.n) 64 fmtFp32 x.n)
            else []
          some (w, e.fl, pre ++ mergePanels w (same && !a.isTile) (if same then 1 + x.k * up64 x.m else 0) a b last x.k)
    else if !headerFull k h x then none
    else if a.isTile && decide (a.left < 1 + bodyRows x) then none
    else some (w, 0, takes' a 1 (bodyRows x) ++ [.pass (1 + bodyRows x + 8), .image])

def modOp (s : State) (b : BankId) (f : KOp → KOp) : State :=
  s.modBank b (fun k => { k with kEng := { k.kEng with op := k.kEng.op.map f } })

/-- A repetition of a widened word ends: what it did to the pair stands, and its flags (10 R244). -/
def commitOp (s : State) (b : BankId) (o : KOp) : State :=
  s.modBank b (fun k => { k with kEng := { k.kEng with pair := o.work, err := (if o.clears then none else k.kEng.err), op := some { o with kept := o.flags } } })

/-- The operation fails: recorded, the pair as it was, or pair and flags as its last whole repetition left them (09 R211; 10 R244). -/
def failOp (s : State) (b : BankId) (f : Failure) : State :=
  let kept := match (s.bank b).kEng.op with | some o => o.kept | none => 0
  (s.modBank b (fun k => { k with kEng := { k.kEng with op := none, fail := some f } })).modStream b .K
    (fun x => { x with numflags := x.numflags ||| BitVec.ofNat 64 kept })

/-- The pair when its words are lost: nothing is known of it (08 R207; log entry 5). -/
def lostPair (w : KPair) (f : Nat) : KPair :=
  let col := fun (i : Nat) (c : List Nat) => c.zipIdx.map (fun x => (f >>> (64 + 32 * (1024 * i + x.2))) % 4294967296)
  { w with energy := f % 18446744073709551616, u := w.u.zipIdx.map (fun x => col x.2 x.1)
           v := w.v.zipIdx.map (fun x => col (64 + x.2) x.1) }

/-- The error armed in the factor-store granules of a bank. -/
def storeError (s : State) (b : BankId) : Option Injection :=
  ((s.core b.core).inj.find? (·.store == 2)).filter (fun j => (s.bank b).bindRec.fst.getLsbD (j.addr / 65536))

/-- What an operation has written disarms errors there (21 R367): one that sets the whole pair leaves none that a later operation reads; of an
append, whether it writes the bytes of an error is a free value, since the store's layout is not visible (08 R195; log entry 5). -/
def disarmWritten (s : State) (b : BankId) (o : KOp) : State :=
  match storeError s b with
  | none => s
  | some j =>
    let gone := fun (s : State) => s.setCore b.core ((s.core b.core).disarm 2 j.addr 1)
    if o.clears then gone s
    else if (s.bank b).kEng.pair.k < o.work.k then
      let (f, s) := s.fresh
      if f % 2 = 1 then gone s else s
    else s

/-- The operation completes (08 R207, 09 R211, R226): the pair, KERR and the flags are set; an uncorrectable error in the
factor store that it read is recorded: any operation that reads the pair meets an error armed in the bank's share and not disarmed (DESIGN CHOICE, log
entry 59). The rows that it has given, and the flags that it sets, are those of the pair as stored, which the spec leaves open (DESIGN CHOICE, log entry
63). -/
def endOp (s : State) (b : BankId) (o : KOp) : State :=
  let hit := (storeError s b).filter (fun j => o.reads && j.hard)
  let s := s.modStream b .K (fun x => { x with numflags := x.numflags ||| BitVec.ofNat 64 o.flags })
  match hit with
  | some j =>
    let (f, s) := s.fresh
    (s.setCore b.core ((s.core b.core).disarm 2 j.addr 1)).modBank b (fun k => { k with kEng := { k.kEng with
      op := none, err := some j.addr, pair := lostPair o.work f
      fail := some ⟨mkTrap .sramUncorrected (BitVec.ofNat 64 j.addr), false⟩ } })
  | none => (disarmWritten s b o).modBank b (fun k => { k with kEng := { k.kEng with
      op := none, pair := o.work, err := if o.clears then none else k.kEng.err } })

/-- Whether a row can be taken from or given to a port now. -/
def portFeed (s : State) (b : BankId) (p : RowPort) : Feed :=
  match p with
  | .spad _ => .ready
  | .queue q => feedOf s b (BitVec.ofNat 6 (0x20 + q)) 1
  | .dstream n => feedOf s b (BitVec.ofNat 6 (0x30 + n)) 1
  | .const _ => .ready

def portRoom (s : State) (b : BankId) (p : RowPort) : Feed :=
  match p with
  | .queue q => if ((s.bank b).queue q).hasRoom then .ready else .waits
  | .dstream n =>
    let d := (s.bank b).ds n
    match d.fault, d.run with
    | some f, _ => .fails ⟨streamTrap f, false⟩
    | none, some r =>
      if !r.write then .fails ⟨mkTrap .accessViolation 0, true⟩
      else if r.buf.length + pendingInto (s.bank b) n ≥ 4 || r.given ≥ DataStream.positions r then .waits
      else .ready
    | none, none => .waits
  | _ => .ready

/-- Takes a row. R226 gives K no trap for an uncorrectable scratchpad error: the row read is a free value (DESIGN CHOICE, log entry 59). -/
def takePort (s : State) (b : BankId) (p : RowPort) : Row × State :=
  match p with
  | .spad i =>
    let t := s.touchRow b.core i
    if (((s.core b.core).injAt 0 (256 * i) 256).filter (·.hard)).isSome then
      let (f, t) := t.fresh
      (BitVec.ofNat 2048 f, t.setCore b.core ((t.core b.core).disarm 0 (256 * i) 256))
    else ((s.core b.core).row i, t)
  | .queue q => s.popRow b q
  | .dstream n => let r := popFor s b (BitVec.ofNat 6 (0x30 + n)) 1; (r.1.headD 0, r.2)
  | .const r => (r, s)

def givePort (s : State) (b : BankId) (p : RowPort) (r : Row) : State :=
  match p with
  | .spad i => s.putRow b.core i r
  | .queue q => s.pushRow b q r
  | .dstream n => s.modBank b (fun k =>
      let k := k.acceptRow n r
      k.setDs n { k.ds n with run := (k.ds n).run.map (fun y => { y with given := y.given + 1 }) })
  | .const _ => s

/-- One thing to do, not a row or a wait: the operation after it. -/
def KOp.act (o : KOp) (k : Bank) (cycle : Nat) : KTodo → Option KOp
  | .vec isU n len fmt x =>
    let v := vecOf len fmt x (o.got.take n)
    some (if isU then { o with got := o.got.drop n, us := o.us ++ [v] } else { o with got := o.got.drop n, vs := o.vs ++ [v] })
  | .fold n alpha last =>
    let t := foldTime o.work n
    let r := foldPanel o.work (o.us.take n) (o.vs.take n) alpha
    let app := appendTime o.work n
    some { o with
      work := r.1, flags := o.flags ||| r.2, us := o.us.drop n, vs := o.vs.drop n
      reads := o.reads || (!appends o.work n && decide (0 < o.work.k))
      busy := cycle + (if last then app else t)
      todo := if last then .release :: .pass (t - app) :: o.todo else o.todo }
  | .pass n => some { o with busy := cycle + n }
  | .release => some { o with tiles := [] }
  | .head merge same last a b =>
    match o.got with
    | h :: _ => (afterHeader k o.work merge same last a b h).map (fun r =>
        { o with work := r.1, flags := o.flags ||| r.2.1, todo := r.2.2 ++ o.todo, got := if merge then [] else o.got })
    | [] => none
  | .image => (pairOfImage o.got).map (fun w => { o with work := w, got := [], clears := true })
  | .scale f =>
    let (v, fl, _) := (o.work.v.mapM (fun (c : List Nat) => c.mapM (aMul f))).run (0, false)
    some { o with work := { o.work with v := v }, flags := o.flags ||| fl }
  | .setPair w => some { o with work := w, clears := true }
  | .clearEnergy => some { o with work := { o.work with energy := 0 } }
  | .take _ | .give _ _ | .commit => none

/-- The operation goes on as far as it can in this cycle; `fuel` bounds how many things it does. A wait for a row begins at
`since` and lengthens the operation (09 R212). -/
def advanceOp : Nat → State → BankId → State
  | 0, s, _ => s
  | fuel + 1, s, b =>
    match (s.bank b).kEng.op with
    | none => s
    | some o =>
      if s.cycle < o.busy then s
      else match o.todo with
        | [] => endOp s b o
        | .take p :: rest => (match portFeed s b p with
          | .fails f => failOp s b f
          | .waits => if o.since.isSome then s else modOp s b (fun o => { o with since := some (s.cycle, s.tick) })
          | .ready =>
            let r := takePort s b p
            advanceOp fuel (modOp r.2 b (fun o => { o with todo := rest, got := o.got ++ [r.1], since := none })) b)
        | .give p r :: rest => (match portRoom s b p with
          | .fails f => failOp s b f
          | .waits => if o.since.isSome then s else modOp s b (fun o => { o with since := some (s.cycle, s.tick) })
          | .ready => advanceOp fuel (modOp (givePort s b p r) b (fun o => { o with todo := rest, since := none })) b)
        | .commit :: rest => advanceOp fuel (modOp (commitOp s b o) b (fun o => { o with todo := rest })) b
        | x :: rest => (match ({ o with todo := rest } : KOp).act (s.bank b) s.cycle x with
          | some o' => advanceOp fuel (modOp s b (fun _ => o')) b
          | none => failOp s b ⟨mkTrap .accessViolation 0, true⟩)

/-- More than an operation can do before time passes: a widened SKFOLD takes 4,096 pairs of at most 512 rows each, and does three things more for
each. -/
def opFuel : Nat := 4194304

/-- K_OPERATION_COMPLETE (08 R205, R206): the operation goes on where its time has passed or its row has come, and completes
when nothing is left to do. -/
def execKOperationComplete (b : BankId) (s : State) : Out := .next (advanceOp opFuel s b)

/-! ### Issue (09 R211) -/

/-- The waits and checks before every K word; `keeps` names those that KERR refuses (08 R207). -/
def kGate (s : State) (keeps : Bool) (ops : List Spec) : Res Unit := do
  waitIf s.myBank.kEng.op.isSome
  deliver s
  match (if keeps then s.myBank.kEng.err else none) with
  | some a => valTrap .sramUncorrected (BitVec.ofNat 64 a)
  | none => .ok ()
  ops.forM (needReady s)

/-- The operation starts in the cycle in which the word issues. -/
def startOp (s : State) (w : BitVec 3) (ops : List Spec) (reads : Bool) (flags : Nat) (todo : List KTodo) : Res State :=
  let k := s.myBank
  let o : KOp := { id := k.opSeq, tiles := (ops.map tileNo).flatten, work := k.kEng.pair, todo := todo, got := [], us := []
                   vs := [], flags := flags, kept := 0, busy := s.cycle, since := none, reads := reads, clears := false }
  .ok (advanceOp opFuel (retire (s.modMyBank (fun b => { b with opSeq := b.opSeq + 1, kEng := { b.kEng with op := some o } })) w)
    s.cur.bank)

/-- SKCFG (09 R213). -/
def execSkcfg (w : BitVec 3) (a b : Reg) (m : BitVec 1) (s : State) :=
  run s (fun s => do
    kGate s false []
    let x ← rd s a
    let y ← rd s b
    let f := fun (v : W64) (hi lo : Nat) => bits v.toNat hi lo
    let p : KPair := { KPair.reset with m := f x 10 0, n := f x 26 16, l := f y 6 0, p := f y 21 16, fd := m == 1 }
    trapIf (x &&& ~~~0x7FF07FF ≠ 0 || y &&& ~~~0x3F007F ≠ 0 || p.m = 0 || p.m > 1024 || p.n = 0 || p.n > 1024 || p.l = 0 ||
      p.l > 64 || p.p = 0 || p.p > 32 || footprintOf p.m p.n p.l p.p > s.myBank.fstBytes) s .accessViolation
    startOp s w [] false 0 [.pass 4, .setPair p])

/-- SKCLR (09 R214). -/
def execSkclr (w : BitVec 3) (s : State) :=
  run s (fun s => do
    kGate s false []
    let p := s.myBank.kEng.pair
    startOp s w [] false 0 [.pass 4, .setPair { KPair.reset with m := p.m, n := p.n, l := p.l, p := p.p, fd := p.fd }])

/-- SKENCLR (09 R214). -/
def execSkenclr (w : BitVec 3) (s : State) :=
  run s (fun s => do
    kGate s true []
    startOp s w [] false 0 [.pass 4, .clearEnergy])

/-- SKRANK and SKEN: K4, their result interlocked (09 R211, R214). -/
def execSkrank (w : BitVec 3) (d : Reg) (s : State) :=
  run s (fun s => do
    kGate s true []
    startOp (wrIreg s d (BitVec.ofNat 64 s.myBank.kEng.pair.k) 4) w [] false 0 [.pass 4])

def execSken (w : BitVec 3) (d : Reg) (s : State) :=
  run s (fun s => do
    kGate s true []
    startOp (wrIreg s d (BitVec.ofNat 64 s.myBank.kEng.pair.energy) 4) w [] false 0 [.pass 4])

/-- The check of a vector operand (09 R212). -/
def vecOk (s : State) (sp : Spec) (x : Nat) : Res Unit :=
  match tileOf s sp with
  | some t => do
    trapIf (!isFloat t.fmt) s .reservedOperand
    trapIf (t.cursor + (x + t.len - 1) / t.len > t.rows) s .accessViolation
  | none => .ok ()

/-- The length, format and row count of a vector of x elements in an operand. -/
def vecShape (s : State) (sp : Spec) (x : Nat) : Nat × Nat × Nat :=
  match tileOf s sp with
  | some t => (t.len, t.fmt, (x + t.len - 1) / t.len)
  | none => (64, fmtFp32, up64 x)

/-- An operand as a source at an index vector, from row `r` of the tile. -/
def srcAt (s : State) (sp : Spec) (idx : List (Nat × Nat)) (r : Nat) : KSrc :=
  match tileOf s sp with
  | some t => ⟨sp, rowIndex (copyBase t (tagsOf s.me t) idx) r, t.rows - r⟩
  | none => ⟨sp, 0, 0⟩

def cursorOf (s : State) (sp : Spec) : Nat := match tileOf s sp with | some t => t.cursor | none => 0

/-- The active repetitions of a K word that reads these operands, after its lift checks (10 R236, R239, R244). -/
def kReps (s : State) (reads : List Spec) : Res (List (List (Nat × Nat))) := do
  let ws := widenSet s reads
  if ws.isEmpty then .ok () else checkFootprints s reads
  .ok ((indexVectors s.me ws).filter (activeAt s.me))

/-- The steps that gather one vector. -/
def gather (s : State) (sp : Spec) (idx : List (Nat × Nat)) (isU : Bool) (x r : Nat) : List KTodo :=
  let (len, fmt, n) := vecShape s sp x
  takes' (srcAt s sp idx r) 0 n ++ [.vec isU n len fmt x]

/-- Cuts a list into pieces of n. -/
def pieces' {α : Type} (n : Nat) : Nat → List α → List (List α)
  | 0, _ => []
  | f + 1, l => if l.isEmpty then [] else l.take n :: pieces' n f (l.drop n)

/-- SKFOLD (09 R215, R225, R227): it takes its rows when it starts, v before u; a widened word folds panels of at most p pairs. -/
def execSkfold (w : BitVec 3) (p q : Spec) (r : Reg) (s : State) :=
  run s (fun s => do
    kGate s true [p, q]
    let k := s.myBank.kEng.pair
    vecOk s p k.m
    vecOk s q k.n
    let reps ← kReps s [p, q]
    let alpha := ((← rd s r).setWidth 32 : BitVec 32).toNat
    let panels := pieces' k.p (reps.length + 1) reps
    startOp s w [p, q] false 0 (
      reps.flatMap (fun i => gather s q i false k.n (cursorOf s q) ++ gather s p i true k.m (cursorOf s p)) ++
      panels.zipIdx.map (fun x => .fold x.1.length alpha (x.2 + 1 == panels.length))))

/-- SKPANEL (09 R216, R225). -/
def execSkpanel (w : BitVec 3) (q r : Spec) (s : State) :=
  run s (fun s => do
    kGate s true [q, r]
    let k := s.myBank.kEng.pair
    match tileOf s q, tileOf s r with
    | some ta, some tb =>
      trapIf (!isFloat ta.fmt || !isFloat tb.fmt) s .reservedOperand
      let ra := (k.m + ta.len - 1) / ta.len
      let rb := (k.n + tb.len - 1) / tb.len
      let n := ta.rows / ra
      trapIf (n == 0 || n > k.p || tb.rows / rb != n) s .accessViolation
      let reps ← kReps s [q, r]
      startOp s w [q, r] false 0 (reps.zipIdx.flatMap (fun x =>
        (List.range n).flatMap (fun j => gather s q x.1 true k.m (j * ra) ++ gather s r x.1 false k.n (j * rb)) ++
        [.fold n 0x3F800000 (x.2 + 1 == reps.length), .commit]))
    | _, _ => wordTrap s .reservedOperand)

/-- SKSHRINK (09 R217). -/
def execSkshrink (w : BitVec 3) (s : State) :=
  run s (fun s => do
    kGate s true []
    startOp s w [] false 0 [.fold 0 0 true])

/-- SKSCL (09 R220). -/
def execSkscl (w : BitVec 3) (a : Reg) (s : State) :=
  run s (fun s => do
    kGate s true []
    let k := s.myBank.kEng.pair
    let f := ((← rd s a).setWidth 32 : BitVec 32).toNat
    startOp s w [] (decide (0 < k.k)) 0 [.pass (k.l * up256 k.n + 4), .scale f])

/-- The rows of a destination: every active copy of a tile, or the queue or stream (09 R212, R225). -/
def giveSteps (s : State) (sp : Spec) (rs : List Row) : List KTodo :=
  match operandOf sp with
  | .tile t => (destBases s sp [] []).flatMap (fun base =>
      rs.zipIdx.map (fun x => .give (.spad (rowIndex base ((s.myBank.tile t).cursor + x.2))) x.1))
  | .queue q => rs.map (.give (.queue q))
  | .stream n => rs.map (.give (.dstream n))
  | _ => []

/-- A read-out of a vector (09 R218, R219, R224); `reads` says that it reads words of the factor store. -/
def readOut (s : State) (w : BitVec 3) (p : Spec) (v : List Nat) (fl cycles : Nat) (reads : Bool) : Res State := do
  vecOk s p v.length
  checkFootprints s [p]
  let (len, fmt, n) := vecShape s p v.length
  let r := rowsOfVec len fmt (n + 1) v
  startOp s w [p] reads (fl ||| r.2) (giveSteps s p r.1 ++ [.pass cycles])

/-- SKRDU and SKRDV (09 R218). -/
def execSkrdu (w : BitVec 3) (p : Spec) (r : Reg) (s : State) :=
  run s (fun s => do
    kGate s true [p]
    let i := (← rd s r).toNat
    trapIf (i ≥ 64) s .accessViolation
    let k := s.myBank.kEng.pair
    readOut s w p (if i < k.k then k.u.getD i [] else List.replicate k.m 0) 0 (up256 k.m + 8) (decide (i < k.k)))

def execSkrdv (w : BitVec 3) (p : Spec) (r : Reg) (s : State) :=
  run s (fun s => do
    kGate s true [p]
    let i := (← rd s r).toNat
    trapIf (i ≥ 64) s .accessViolation
    let k := s.myBank.kEng.pair
    readOut s w p (if i < k.k then k.v.getD i [] else List.replicate k.n 0) 0 (up256 k.n + 8) (decide (i < k.k)))

/-- SKRDS (09 R218). -/
def execSkrds (w : BitVec 3) (p : Spec) (s : State) :=
  run s (fun s => do
    kGate s true [p]
    let k := s.myBank.kEng.pair
    let (v, fl, _) := (k.v.mapM norm).run (0, false)
    readOut s w p (v ++ List.replicate (64 - v.length) 0) fl (k.l * up256 k.n + 8) (decide (0 < k.k)))

/-- SKROW (09 R219). -/
def execSkrow (w : BitVec 3) (p : Spec) (r : Reg) (s : State) :=
  run s (fun s => do
    kGate s true [p]
    let i := (← rd s r).toNat
    let k := s.myBank.kEng.pair
    trapIf (i ≥ k.m) s .accessViolation
    let (v, fl, _) := ((List.range k.n).mapM (fun j => dot (rowAt k.u i) (rowAt k.v j))).run (0, false)
    readOut s w p v fl (k.l * up256 k.n + 8) (decide (0 < k.k)))

/-- The check of a tile that holds an image of n rows (09 R221). -/
def imageOk (s : State) (sp : Spec) (n : Nat) : Res Unit :=
  match tileOf s sp with
  | some t => do
    trapIf (t.fmt != fmtFp32 || t.len != 64) s .reservedOperand
    trapIf (t.cursor + n > t.rows) s .accessViolation
  | none => .ok ()

/-- SKSAVE (09 R222). -/
def execSksave (w : BitVec 3) (p : Spec) (s : State) :=
  run s (fun s => do
    kGate s true [p]
    let rs := imageRows s.myBank.kEng.pair
    imageOk s p rs.length
    checkFootprints s [p]
    startOp s w [p] (decide (0 < s.myBank.kEng.pair.k)) 0 (giveSteps s p rs ++ [.pass (rs.length + 8)]))

/-- The header row as it stands before any row is taken (09 R222, R223). -/
def peekHeader (s : State) (sp : Spec) (idx : List (Nat × Nat)) : Res Row :=
  match operandOf sp with
  | .tile _ => do
    imageOk s sp 1
    .ok ((s.core s.cur.bank.core).row (srcAt s sp idx (cursorOf s sp)).row0)
  | _ => do
    canTake s sp 1
    .ok (takeRow s sp fmtFp32 []).1

/-- The headers a word examines at issue: those of every repetition where a tile holds them; a queue or stream shows the first
alone, the later ones behind the images before them (09 R211, R222, R223). -/
def headers (s : State) (sp : Spec) (reps : List (List (Nat × Nat))) (h : Row) : List (List (Nat × Nat) × Row) :=
  match operandOf sp with
  | .tile _ => reps.map (fun i => (i, (s.core s.cur.bank.core).row (srcAt s sp i (cursorOf s sp)).row0))
  | _ => [(reps.headD [], h)]

/-- SKLOAD (09 R222, R225). -/
def execSkload (w : BitVec 3) (q : Spec) (s : State) :=
  run s (fun s => do
    kGate s false [q]
    let reps ← kReps s [q]
    let h ← peekHeader s q (reps.headD [])
    let src := fun i => srcAt s q i (cursorOf s q)
    trapIf ((headers s q reps h).any (fun x => (afterHeader s.myBank s.myBank.kEng.pair false false false (src x.1) (src x.1) x.2).isNone))
      s .accessViolation
    startOp s w [q] false 0 (reps.flatMap (fun i => [.take ((src i).port 0), .head false false false (src i) (src i), .commit])))

/-- SKMRG (09 R223, R225). -/
def execSkmrg (w : BitVec 3) (q r : Spec) (s : State) :=
  run s (fun s => do
    kGate s true [q, r]
    let reps ← kReps s [q, r]
    let h ← peekHeader s q (reps.headD [])
    imageOk s r 0
    let src := fun sp i => srcAt s sp i (cursorOf s sp)
    trapIf ((headers s q reps h).any (fun x => (afterHeader s.myBank s.myBank.kEng.pair true (q == r) true (src q x.1) (src r x.1) x.2).isNone))
      s .accessViolation
    startOp s w [q, r] false 0 (reps.zipIdx.flatMap (fun x =>
      [.take ((src q x.1).port 0), .head true (q == r) (x.2 + 1 == reps.length) (src q x.1) (src r x.1), .commit])))

end Sys2Proof.Machine
end

