-- ==== Sys2Proof/Machine/System.lean ====
section
/-! DEFINITION. The S class (21 R360–R367). That S words issue only in C of a privileged context is checked where a word is
fetched (02 R32). -/

namespace Sys2Proof.Machine

/-! ### System registers (21 R361) -/

def readScr (s : State) (b : BankId) (n : Nat) : W64 :=
  let k := s.bank b
  if n = 0 then k.tcause
  else if n = 1 then k.tpcReg
  else if n = 2 then k.tval
  else if n = 3 then k.tvec
  else if n = 4 then k.cpc
  else BitVec.ofNat 64 (k.ctxNum + (s.ctxOf b).gen.toNat <<< 16)

/-- What SCSRW writes. Bits [1:0] of TPC and CPC are cleared at the write, so that the stream goes on at a word: 21 R361 names no trap for them
(DESIGN CHOICE, log entry 63). -/
def writeScr (k : Bank) (n : Nat) (v : W64) : Bank :=
  if n = 1 then { k with tpcReg := v &&& ~~~3 }
  else if n = 3 then { k with tvec := v }
  else if n = 4 then { k with cpc := v &&& ~~~3 }
  else k

/-- SCSRR and SCSRW (21 R361). -/
def execScsrr (w : BitVec 3) (d : Reg) (n : BitVec 15) (s : State) :=
  run s (fun s => .ok (retire (wrReg s d (readScr s s.cur.bank n.toNat) 1) w))

def execScsrw (w : BitVec 3) (d : Reg) (n : BitVec 15) (s : State) :=
  run s (fun s => do
    let v ← rd s d
    .ok (retire (s.modMyBank (writeScr · n.toNat v)) w))

/-- TRET (21 R362). -/
def execTret (w : BitVec 3) (s : State) :=
  run s (fun s => do
    trapIf (!s.myBank.valid) s .accessViolation
    .ok (returnFromTrap (retire s w) s.cur.bank))

/-- Whether a bank holds a unit that could run (01 R28). -/
def Bank.ready (b : Bank) : Bool :=
  match b.phase with
  | .running => b.runnable
  | .preempted => b.runnable && !b.faults.any (fun f => !f.refused)
  | .ending _ => !b.faults.any (fun f => !f.refused)
  | .free => false

/-- CTXBANK (21 R363): a safe point, and where bank `k` is the other one and can run, the unit gives way to it. -/
def execCtxbank (w : BitVec 3) (k : BitVec 1) (s : State) :=
  run s (fun s =>
    let t := retire s w
    let b := s.cur.bank
    let k' := k == 1
    let u := safePoint t b
    if s.myBank.copying || s.myBank.cancel || s.myBank.preempt.isSome then .ok u
    else if k' != (s.core b.core).active && (s.bank ⟨b.core, k'⟩).ready then .ok (preemptUnit t b true false)
    else .ok u)

/-! ### TLBINV (21 R364) -/

/-- The entries an extent drops: of one page, of a context, or all. -/
def dropsPage (e : BitVec 2) (ctx : Nat) (v : W64) (c page : Nat) : Bool :=
  if e = 0 then c == ctx && page == vaBits v / 65536
  else if e = 1 then c == (v.extractLsb' 0 16).toNat
  else true

def dropsTlb (e : BitVec 2) (ctx : Nat) (v : W64) (t : TlbEntry) : Bool :=
  if e = 0 then t.covers ctx (vaBits v) else dropsPage e ctx v t.ctx t.page

/-- Whether an ATS answer served a page that is dropped, or another of its large page. -/
def dropsAts (e : BitVec 2) (ctx : Nat) (v : W64) (a : AtsEntry) : Bool :=
  dropsPage e ctx v a.ctx a.page || (e == 0 && a.ctx == ctx && a.page / 32 == vaBits v / 2097152)

/-- Drops the entries of every core TLB, of the I/O die's, and of the ATS cache, there every tag of an IOVA that is dropped. -/
def dropTranslations (s : State) (e : BitVec 2) (ctx : Nat) (v : W64) : State :=
  let gone := (s.host.ats.filter (dropsAts e ctx v)).map (·.iova)
  let s := keepEntries s (fun t => !dropsTlb e ctx v t)
  { s with host := { s.host with ats := s.host.ats.filter (fun a => !gone.contains a.iova) } }

/-- Whether accesses of a bank that were issued by tick `t` still await their homes. -/
def BankMem.oldAccess (m : BankMem) (t : Nat) : Bool :=
  m.reqs.any (fun r => decide (r.tick ≤ t)) || m.dirty.any (fun r => decide (r.tick ≤ t)) || m.sent.any (fun r => decide (r.tick ≤ t))

/-- The same with the rows of its data streams and the records of its chains that have been asked for, and what its copies have still to write. -/
def Bank.oldAccess (b : Bank) (t : Nat) : Bool :=
  let old := fun (a : Ask) => a.got.isNone && decide (a.tick ≤ t)
  b.mem.oldAccess t || b.dstreams.any (fun d => d.run.any (fun r => r.asked.any old)) || b.chans.any (fun c => c.heads.any (fun h => h.ask.any old) ||
    c.running.any (fun r => r.out.any (fun o => decide (o.tick ≤ t))))

/-- Whether TLBINV, which dropped its entries at tick `t`, must still wait (log entry 14). -/
def invWaits (s : State) (e : BitVec 2) (ctx : Nat) (v : W64) (t : Nat) : Bool :=
  let mine := fun (b : Bank) => (e == 2 || b.ctxNum == (if e = 0 then ctx else (v.extractLsb' 0 16).toNat)) && b.oldAccess t
  s.cores.any (fun c => mine c.2.bank0 || mine c.2.bank1) ||
  s.host.walks.any (fun w => dropsPage e ctx v w.2.ctx w.2.page && decide (w.2.since ≤ t))

/-- TLBINV: drops when first tried, completes when what went before has ended. -/
def execTlbinv (w : BitVec 3) (a : Reg) (e : BitVec 2) (s : State) :=
  runNow s (fun s => do
    let v ← rd s a
    let ctx := s.myBank.ctxNum
    match s.me.wait with
    | none =>
      let s := dropTranslations s e ctx v
      if invWaits s e ctx v s.tick then .ok (keepMark s ⟨0, s.tick, 0, [], none⟩ false) else .ok (retire s w)
    | some m => if invWaits s e ctx v m.mark then .error (.interlock false) else .ok (retire s w))

/-! ### HALT, WFI, ERRPOP, ECCINJ -/

/-- HALT (21 R365). -/
def execHalt (w : BitVec 3) (s : State) :=
  run s (fun s => .ok (endUnit (retire s w) s.cur.bank .complete))

/-- WFI (21 R365): completes once WFI_WAKE or an arriving command word has woken it. -/
def execWfi (w : BitVec 3) (s : State) :=
  run s (fun s =>
    match s.myBank.wfi with
    | some x =>
      if x.woken then .ok (retire (s.modMyBank (fun k => { k with wfi := none })) w) else .error (.interlock false)
    | none => .ok ((s.modMyBank (fun k => { k with wfi := some ⟨s.myCtx.changes, s.mem.faqCount, s.tick, false⟩ })).modMe
        (fun x => { x with block := none })))

/-- ERRPOP (21 R366). -/
def execErrpop (w : BitVec 3) (d : Reg) (s : State) :=
  run s (fun s =>
    let t := { s with mem := { s.mem with faq := s.mem.faq.tail } }
    .ok (retire (wrInt t d (s.mem.faq.headD 0)) w))

/-- The `n`-th set bit of a mask. -/
def nthSet (f : Nat → Bool) (w n : Nat) : Option Nat := ((List.range w).filter f)[n]?

/-- The byte of a store that an offset in the bank's share names (21 R367; log entry 13). -/
def shareByte (b : Bank) (store off : Nat) : Option Nat :=
  let at_ := fun (size : Nat) (i : Option Nat) => i.map (fun i => i * size + off % size)
  if store = 0 then at_ 65536 (nthSet (fun i => b.bindRec.spad.getLsbD i) 16 (off / 65536))
  else if store = 1 then at_ cimBytes (nthSet (fun i => b.bindRec.cim.getLsbD i) 2 (off / cimBytes))
  else at_ 65536 (nthSet (fun i => b.bindRec.fst.getLsbD i) 20 (off / 65536))

/-- The device or shared-scratch address of a VA translated for read in a bank, from the tables (log entry 14). -/
def readAddress (s : State) (b : BankId) (va : W64) : Option Nat :=
  if !canonical va then none
  else match walkTable s (s.bank b).ctxNum (vaBits va / 65536) with
    | .entry e =>
      if !e.r then none
      else match (s.launchOf b).bind (fun l => (scratchOff l (vaBits va)).map (fun o => (l, o))) with
        | some (l, off) => match scratchWay s l off with | .ok pa => some pa | _ => none
        | none => if frameExists s (e.addr (vaBits va)) then some (e.addr (vaBits va)) else none
    | _ => none

/-- An injection armed in a store of a core, in place of an earlier one. -/
def Core.arm (c : Core) (j : Injection) : Core := { c with inj := j :: c.inj.filter (fun x => x.store != j.store) }

/-- ECCINJ (21 R367). -/
def execEccinj (w : BitVec 3) (a : Reg) (st : BitVec 3) (s : State) :=
  run s (fun s => do
    let v ← rd s a
    if v.extractLsb' 1 2 ≠ 0 then valTrap .misaligned v
    else
      let hard := v.getLsbD 0
      let core := s.cur.bank.core
      let va := v &&& ~~~7
      if st.toNat ≤ 2 then
        match shareByte s.myBank st.toNat (vaBits va) with
        | none => wordTrap s .accessViolation
        | some n => .ok (retire (s.setCore core ((s.core core).arm ⟨st.toNat, n, hard⟩)) w)
      else match readAddress s s.cur.bank va with
        | none => valTrap .accessViolation va
        | some pa => .ok (retire (s.setCore core ((s.core core).arm ⟨st.toNat, pa, hard⟩)) w))

end Sys2Proof.Machine
end

