-- ==== Sys2Proof/Machine/MemEvents.lean ====
section
/-! DEFINITION. The steps by which a bank's memory accesses are performed: requests, stores, acknowledgments, load returns
(05 R116–R137; 11 R259–R268), data-stream rows, fills and drains (05 R118–R131), semaphore increments (04 R94). -/

namespace Sys2Proof.Machine

/-! ### The bank's own view (11 R260) -/

/-- The bytes of a piece as an ordinary read sees them over lines the bank holds. -/
def viewBytes (os : List OwnByte) (lines : List (Nat × List Byte)) (seq : Nat) (pa n : Nat) : List Byte :=
  (List.range n).map (fun i =>
    match ownByte os (pa + i) seq with
    | some v => v
    | none => (kget [] lines ((pa + i) / 64)).getD ((pa + i) % 64) 0)

/-- Whether what is kept of a replaced byte is kept for this run of a stream. -/
def Shadow.serves (x : Shadow) (b : BankId) (n : Nat) (r : StreamRun) : Bool := x.bank == b && x.stream == n && x.run == r.seq

/-- A reading stream that does not hold a line takes it as it is first filled, without what later stores of the bank have put there
(05 R123), `pre` the bytes that they have replaced; of a poisoned line no byte. -/
def StreamRun.fills (r : StreamRun) (pre : List Shadow) (l : Nat) (d : List Byte) : StreamRun :=
  if r.write || (kfind r.lines l).isSome then r
  else { r with lines := kset r.lines l (pre.foldl (fun d x => if x.pa / 64 = l then modAt (fun _ => x.old) d (x.pa % 64) else d) d) }
def Bank.streamsFill (k : Bank) (sh : List Shadow) (b : BankId) (l : Nat) (d : List Byte) : Bank :=
  { k with dstreams := k.dstreams.mapIdx (fun n x => { x with run := x.run.map (fun r => r.fills (sh.filter (·.serves b n r)) l d) }) }

/-- Fills a line from its home where the bank does not hold it, for a word that has issued or a stream: the bytes, whether they are poisoned. The
bank's streams that are reading take it too (05 R123). -/
def fillLine (s : State) (b : BankId) (issued : Bool) (l : Nat) : State :=
  if (kfind (s.bank b).mem.lines l).isSome then s
  else
    let s := if issued then touchIssued s (64 * l) 64 else touchBytes s (64 * l) 64
    let d := s.peek (64 * l) 64
    let bad := poisonedIn s (64 * l) 64
    s.modBank b (fun k => { k.streamsFill s.mem.shadow b l (if bad then [] else d) with mem := { k.mem with
      lines := kset k.mem.lines l d, badLines := if bad then l :: k.mem.badLines else k.mem.badLines } })

/-- What the bank's reading streams that stand before place `seq` go on seeing of bytes that a write there replaces, in lines they do not hold
yet: what is kept of them already, else the bytes as they are (05 R123: a store sequenced after STGO is never shown). -/
def shadowsOf (s : State) (b : BankId) (seq pa n : Nat) : List Shadow :=
  (List.range 8).flatMap (fun i => match ((s.bank b).ds i).run with
    | some r =>
      if r.write || decide (seq < r.seq) then []
      else ((List.range n).filter (fun j => (kfind r.lines ((pa + j) / 64)).isNone)).map (fun j =>
        (s.mem.shadow.find? (fun x => x.serves b i r && x.pa == pa + j)).getD ⟨b, i, r.seq, pa + j, s.byteAt (pa + j)⟩)
    | none => [])

/-- Whether the run that a kept byte is kept for still stands. -/
def Shadow.live (x : Shadow) (s : State) : Bool := ((s.bank x.bank).ds x.stream).run.any (·.seq == x.run)

/-- A write of the bank's at its home, by a word of A or a copy, at place `seq` of A's order; its streams that are reading and
stand before that keep the bytes it replaced. -/
def ownWrite (s : State) (b : BankId) (id : Option (Nat × Nat × Nat)) (seq pa : Nat) (d : List Byte) : State :=
  let kept := shadowsOf s b seq pa d.length
  let s := plainWrite s (s.bank b).ctxNum id pa d
  if kept.isEmpty then s else { s with mem := { s.mem with shadow := kept ++ s.mem.shadow.filter (·.live s) } }

/-- A write of A's at its home (plain with an identity, or an RMW or STREL's without reordering): what its own reads see
afterwards, where they see it (`shown`). A line held that it covers carries poison no more (22 R379). -/
def bankWrite (s : State) (b : BankId) (id : Option (Nat × Nat × Nat)) (shown : Bool) (seq pa : Nat) (d : List Byte) : State :=
  let s := ownWrite s b id seq pa d
  if shown && s.peek pa d.length = d then s.modBank b (fun k => { k with mem := { k.mem with
    lines := patchLines k.mem.lines pa d
    badLines := k.mem.badLines.filter (fun l => !(decide (pa ≤ 64 * l) && decide (64 * l + 64 ≤ pa + d.length))) } }) else s

/-- Whether place `seq` is that of rows which A's loads do not see yet. -/
def BankMem.hides (m : BankMem) (seq pa n : Nat) : Bool := m.own.any (fun o => o.seq == seq && inBytes pa n o.pa && o.row.isSome)

/-- Of the bank's bytes at place `seq` in [pa, pa + n) the oldest of each address that has not been performed is; the list has the newest first. -/
def markDone (seq pa n : Nat) : List OwnByte → List OwnByte × List Nat
  | [] => ([], [])
  | o :: l =>
    let x := markDone seq pa n l
    if o.seq = seq && inBytes pa n o.pa && !o.done && !x.2.contains o.pa then ({ o with done := true } :: x.1, o.pa :: x.2) else (o :: x.1, x.2)

/-- The bank's stores at place `seq` have been performed: they replace its older ones at home, and are kept only while the bank's
snapshot is older or a wait has still to show them (R260; 05 R123). -/
def BankMem.performed (m : BankMem) (seq pa n : Nat) : BankMem :=
  let hid := m.hides seq pa n
  let own := (markDone seq pa n m.own).1
  let own := own.filter (fun o => !(inBytes pa n o.pa && o.done && decide (o.seq < seq) && (!hid || o.row.isSome)))
  { m with
    own := own.filter (fun o => !(o.done && decide (o.seq < m.snap) && o.row.isNone))
    copied := m.copied.filter (fun c => !inBytes pa n c.1) }

/-- An RMW of the bank at place `seq` makes its earlier stores to those bytes old. -/
def BankMem.overwritten (m : BankMem) (seq pa n : Nat) : BankMem :=
  { m with own := m.own.filter (fun o => !(decide (o.seq < seq) && inBytes pa n o.pa)), copied := m.copied.filter (fun c => !inBytes pa n c.1) }

/-! ### HOME_REQUEST -/

/-- Whether earlier stores of the bank to the same granules still await their home. -/
def BankMem.storesBefore (m : BankMem) (seq : Nat) (ps : List (Nat × Nat)) : Bool :=
  (m.dirty ++ m.sent).any (fun e => decide (e.seq < seq) && overlaps (granules ps) [(e.pa, e.data.length)])

/-- Whether what A issued before place `seq` lets an access of a stream or copy to these bytes be performed: earlier stores to them have
reached their home, and of earlier requests none is left that must come first or touches them (11 R258, R260). -/
def BankMem.older (m : BankMem) (seq : Nat) (ps : List (Nat × Nat)) : Bool :=
  m.storesBefore seq ps || m.reqs.any (fun r => decide (r.seq < seq) && r.kind != .prefetch && (r.first || overlaps (granules r.pieces) (granules ps)))

/-- Whether a request can be performed now: it has reached its home (17 R303), which does not hold it, and what must come before it has. -/
def reqReady (s : State) (b : BankId) (r : MemReq) : Bool :=
  decide (r.due ≤ s.cycle) && !(r.pieces.any (fun p => homeHeld s.mem p.1 || staleMap s.mem r.gen p.1)) &&
  (match r.rel with | some m => s.released b m | none => true) &&
  (match r.kind with | .ordinary | .prefetch => true | _ => !((s.bank b).mem.storesBefore r.seq r.pieces))

/-- Requests passed over: the granules of STRELs among them, those of atomics, and whether a home read or an atomic is among them. -/
structure Passed where
  rels : List (Nat × Nat)
  rmws : List (Nat × Nat)
  home : Bool
  deriving DecidableEq, Repr

/-- Whether a request must stay behind those passed over: home reads and atomics keep program order, an ordinary read sees STREL's store
as its own (11 R259, R260). -/
def MemReq.behind (r : MemReq) (p : Passed) : Bool :=
  overlaps (granules r.pieces) p.rmws ||
  (match r.kind with
    | .ordinary | .prefetch => false
    | .storeRel _ => overlaps (granules r.pieces) p.rels
    | .home | .rmw _ _ _ => p.home || overlaps (granules r.pieces) p.rels)

/-- What may be performed before a request that waits: behind STREL accesses to other bytes, behind a read or atomic kept by one such
accesses in program order where the spec asks for it; behind an acquire, or any other request that waits, nothing (05 R135, R148; 11
R259, R260). -/
def Passed.pass (p : Passed) (r : MemReq) : Option Passed :=
  match r.kind with
  | .storeRel _ => some { p with rels := granules r.pieces ++ p.rels }
  | .rmw _ _ _ => if r.acq || !r.behind p then none else some { p with rmws := granules r.pieces ++ p.rmws, home := true }
  | .home => if r.acq || !r.behind p then none else some { p with home := true }
  | .prefetch => some p
  | .ordinary => none

/-- The request to perform: the first that can be performed before those that it would pass over. -/
def pickReq (ready : MemReq → Bool) (p : Passed) : List MemReq → Nat → Option (Nat × MemReq)
  | [], _ => none
  | r :: l, i =>
    if !r.behind p && ready r then some (i, r)
    else match p.pass r with
      | some p => pickReq ready p l (i + 1)
      | none => none

/-- The indices of a position, i0 fastest. -/
def posIdx : List Dim → Nat → List Nat
  | [], _ => []
  | d :: l, p => p % d.e :: posIdx l (p / d.e)

/-- The VA of a position's row. -/
def rowVa (r : StreamRun) (p : Nat) : W64 :=
  r.base + w64 ((r.dims.zip (posIdx r.dims p)).foldl (fun a x => a + (x.2 : Int) * x.1.d) 0)

/-- The interval of addresses a side of a record or a stream covers (18 R319): none where it wraps. -/
def interval (a : W64) (e : List Nat) (ks : List Int) (shift : Nat) : Option (Nat × Nat) :=
  let terms := (e.tail.zip ks).map (fun x => ((x.1 : Int) - 1) * x.2)
  let sc : Int := ((1 <<< shift : Nat) : Int)
  let lo : Int := (a.toNat : Int) + sc * (terms.map (min 0)).sum
  let hi : Int := (a.toNat : Int) + sc * (terms.map (max 0)).sum + (e.headD 1 : Int) - 1
  if lo < 0 || hi ≥ ((1 <<< 64 : Nat) : Int) then none else some (lo.toNat, hi.toNat)

/-- Whether two such intervals meet; none is every address. -/
def meets : Option (Nat × Nat) → Option (Nat × Nat) → Bool
  | some a, some b => decide (a.1 ≤ b.2) && decide (b.1 ≤ a.2)
  | _, _ => true

/-- Whether rows that A's words before place `seq` hand to a writing stream are still to be stored in an interval (11 R250, R258). -/
def Bank.rowsBefore (k : Bank) (seq : Nat) (i : Option (Nat × Nat)) : Bool :=
  (List.range 8).any (fun n => match (k.ds n).run with
    | some r => r.write && (r.buf.any (fun x => decide (x.seq < seq)) ||
        k.moves.any (fun m => m.drain && m.stream == n && decide (m.seq < seq) && !k.stuckMove m)) &&
        meets i (interval r.base (256 :: r.dims.map (·.e)) (r.dims.map (·.d)) 0)
    | none => false)

/-- Whether a fault on this stream is pending. -/
def Bank.streamHeld (k : Bank) (n : Nat) : Bool :=
  k.faults.any (fun f => match f.src with | .dstream _ m | .fill _ m | .drain _ m => m == n | _ => false)

/-- The next row of a stream to be read at its homes, with how many rows read before it are still on their way back. -/
def StreamRun.nextRead (r : StreamRun) : Option (Nat × Ask) :=
  let i := (r.asked.takeWhile (·.got.isSome)).length
  r.asked[i]?.map (fun a => (i, a))

/-- Whether that row has reached its homes in a bank whose rows move, and no earlier word of A holds it back (05 R123). -/
def StreamRun.readsNow (r : StreamRun) (s : State) (b : BankId) (a : Nat × Ask) : Bool :=
  let va := (rowVa r (r.next + a.1)).toNat
  s.rowsMove b && decide (a.2.due ≤ s.cycle) && !a.2.lines.any (staleMap s.mem a.2.gen) && !(s.bank b).rowsBefore r.seq (some (va, va + 255))

/-- The accesses of a bank that wait at their homes and could be performed: the request, the store, the row of each stream that come
next. -/
def nextAt (s : State) (b : BankId) : List (Nat × List (Nat × Nat)) :=
  let k := s.bank b
  (pickReq (reqReady s b) ⟨[], [], false⟩ k.mem.reqs 0).toList.map (fun r => (r.2.due, r.2.pieces)) ++
  (k.mem.sent.head?.filter (fun e => decide (e.due ≤ s.cycle) && !homeHeld s.mem e.pa && !staleMap s.mem e.gen e.pa)).toList.map
    (fun e => (e.due, [(e.pa, e.data.length)])) ++
  k.dstreams.toList.filterMap (fun d => d.run.bind (fun r => (r.nextRead).bind (fun a =>
    if r.readsNow s b a && !a.2.lines.any (homeHeld s.mem) then some (a.2.due, a.2.lines.map (fun l => (l, 64))) else none)))

/-- The accesses of other parties that wait at their homes and could be performed: those that nothing but the hold has kept, which are tried anew
in every cycle of a core's clock (24 R386), and those that nobody tries anew. -/
def State.waitingNow (s : State) : List (Nat × List (Nat × Nat)) :=
  ((s.mem.asked.filter (fun x => decide (s.cycle ≤ x.last + 2) && !x.line.any (fun l => homeHeld s.mem (64 * l)))).map (fun x => (x.cycle, x.pieces))) ++
  ((s.mem.queued.filter (fun w => !heldIn s.mem w.op.span.1 w.op.span.2)).map (fun w => (w.cycle, [w.op.span])))

/-- Whether an access that had arrived at its home while a hold lasted must let another go first, which had arrived there before it (22
R375, R378). -/
def yields (s : State) (x : Nat × List (Nat × Nat)) : Bool :=
  s.mem.past.any (fun h => h.held s.mem x &&
    (s.cores.flatMap (fun c => nextAt s ⟨c.1, false⟩ ++ nextAt s ⟨c.1, true⟩) ++ s.waitingNow).any (fun y => decide (y.1 < x.1) && h.held s.mem y))

/-- The state in which an access of a party that could be performed otherwise waits, where its homes hold it or another goes first. -/
def keptAt (s : State) (x : Asker) (ps : List (Nat × Nat)) : Option State :=
  match (ps.flatMap (fun p => linesOf p.1 p.2)).find? (fun l => homeHeld s.mem (64 * l)), s.mem.asked.find? (·.who == x) with
  | some l, _ => some (noteHeld s x (64 * l))
  | none, some y => if yields s (y.cycle, y.pieces) then some (noteHeld s x (64 * y.line.getD 0)) else none
  | none, none => none

/-- What a request does at the home: its data and the state. Poison that its line gets after its word has issued fails it no more (22 R379: a trap is
precise; log entry 58). -/
def performReq (s : State) (b : BankId) (r : MemReq) : List Byte × State :=
  match r.kind with
  | .ordinary =>
    let need := r.pieces.filter (needsLine (s.bank b).mem.shown r.seq)
    let s := need.foldl (fun s p => fillLine s b true (p.1 / 64)) s
    let m := (s.bank b).mem
    ((r.pieces.map (fun p => viewBytes m.shown m.lines r.seq p.1 p.2)).flatten, s)
  | .prefetch => ([], r.pieces.foldl (fun s p => wakeHomes s p.1 p.2) s)
  | .home =>
    r.pieces.foldl (fun x p =>
      let s := touchIssued x.2 p.1 p.2
      (x.1 ++ s.peek p.1 p.2, s)) (([] : List Byte), s)
  | .rmw op x e =>
    match r.pieces with
    | [(pa, n)] =>
      let s := touchIssued s pa n
      let d := s.peek pa n
      let old := leNat d
      let wrap := fun (v : W64) => v.toNat % (1 <<< (8 * n))
      let new := atomicNew op (8 * n) old (wrap x) (wrap e)
      if op = .cas && old ≠ wrap e then (d, s)
      else
        let s := bankWrite s b none true r.seq pa (leBytes n new)
        (d, s.modBank b (fun k => { k with mem := k.mem.overwritten r.seq pa n }))
    | _ => ([], s)
  | .storeRel data =>
    let s := (splitData r.pieces data).foldl (fun s p =>
      (bankWrite s b (identOf s b) true r.seq p.1 p.2).modBank b (fun k => { k with mem := k.mem.performed r.seq p.1 p.2.length })) s
    ([], s)

/-- HOME_REQUEST of the oldest request that can be performed; its data or its acknowledgment goes back. An acquiring read moves the snapshot point after it, and what it read
from another instance's release it sees too, for which the spec gives no guarantee (11 R254, litmus 1; DESIGN CHOICE, log entry 59). -/
def homeRead1 (s : State) (b : BankId) : State :=
  match pickReq (fun r => reqReady s b r && !yields s (r.due, r.pieces)) ⟨[], [], false⟩ (s.bank b).mem.reqs 0 with
  | none => s
  | some (i, r) =>
    let s := s.modBank b (fun k => { k with mem := { k.mem with reqs := delAt k.mem.reqs i } })
    let (d, s) := performReq s b r
    let s := if r.acq then acquire s b else s
    s.modBank b (fun k => { k with mem := { k.mem with returns := k.mem.returns ++ [⟨r, d, s.cycle + homeTimes s.mem b.core r.pieces⟩] } })

/-- HOME_REQUEST of the oldest store on its way. All granules of its line entry are performed in one step: no read of a home comes between
them, as it may (11 R261, litmus 4; DESIGN CHOICE, log entry 59). -/
def homeWrite1 (s : State) (b : BankId) : State :=
  match (s.bank b).mem.sent with
  | [] => s
  | e :: l =>
    if s.cycle < e.due || homeHeld s.mem e.pa || staleMap s.mem e.gen e.pa || yields s (e.due, [(e.pa, e.data.length)]) then s
    else
      let s := bankWrite s b e.ident (!(s.bank b).mem.hides e.seq e.pa e.data.length) e.seq e.pa e.data
      s.modBank b (fun k =>
        let m := k.mem.performed e.seq e.pa e.data.length
        { k with mem := { m with sent := l, unacked := m.unacked ++ [{ e with due := s.cycle + homeTime s.mem b.core e.pa }] } })

/-- HOME_REQUEST (11 R249, R259, R263). -/
def execHomeRequest (b : BankId) (write : Bool) (s : State) : Out :=
  .next (if write then homeWrite1 s b else homeRead1 s b)

/-- DIRTY_LINE_DRAIN (11 R263): the oldest entry of the bank leaves the core's FIFO for its home, unless one of the other bank stands
ahead of it. -/
def dirtyLineDrain (s : State) (b : BankId) : State :=
  let k := s.bank b
  match k.drains with
  | none => s
  | some e =>
    if (s.bank { b with slot := !b.slot }).front.any (fun x => decide (x.seq < e.seq)) then s
    else s.setBank b { k with mem := { k.mem with
      dirty := k.mem.dirty.tail, sent := k.mem.sent ++ [{ e with due := s.cycle + homeTime s.mem b.core e.pa }] } }
def execDirtyLineDrain (b : BankId) (s : State) : Out := .next (dirtyLineDrain s b)

/-- HOME_ACK (11 R263; 17 R303; 22 R373). -/
def homeAck (s : State) (b : BankId) : State :=
  match (s.bank b).mem.unacked with
  | [] => s
  | e :: l => if s.cycle < e.due then s else noteMiss (s.modBank b (fun k => { k with mem := { k.mem with unacked := l } })) b.core 1 e.limit
def execHomeAck (b : BankId) (s : State) : Out := .next (homeAck s b)

/-! ### LOAD_RETURN (05 R116, R132) -/

/-- A loaded value: sign- or zero-extended to 64 bits. -/
def loadValue (d : List Byte) (signed : Bool) : W64 :=
  let n := leNat d
  if signed then w64 (sgn (8 * d.length) n) else BitVec.ofNat 64 n

/-- Whether an LDQ row must wait for an earlier one of the same queue. -/
def earlierRow (m : BankMem) (q seq : Nat) : Bool :=
  m.reqs.any (fun r => r.dest == .queue q && decide (r.seq < seq)) ||
  m.returns.any (fun r => r.req.dest == .queue q && decide (r.req.seq < seq))

/-- The service class of a request (22 R371). -/
def MemReq.cls (r : MemReq) : Nat := if r.kind = .prefetch then 2 else 1

/-- LOAD_RETURN of return `n` of a bank: the register is written, the row enters its queue, the POSTC that still waits has its command. -/
def loadReturn (s : State) (b : BankId) (n : Nat) : State :=
  let m := (s.bank b).mem
  match m.returns[n]? with
  | none => s
  | some r =>
    if s.cycle < r.due then s else
    let drop := fun (s : State) =>
      noteMiss (s.modBank b (fun k => { k with mem := { k.mem with returns := delAt k.mem.returns n } })) b.core r.req.cls r.req.limit
    match r.req.dest with
    | .reg (some d) g => (drop s).modStream b .A (·.put d (loadValue r.data g))
    | .reg none _ | .nowhere => drop s
    | .command => (drop s).modBank b (fun k => { k with mem := { k.mem with command := some (r.req.pc, r.data) } })
    | .queue q =>
      if earlierRow m q r.req.seq then s
      else ((drop s).modBank b (fun k => k.setQueue q { k.queue q with reserved := (k.queue q).reserved - 1 })).pushRow b q (rowOf r.data)
def execLoadReturn (b : BankId) (n : Nat) (s : State) : Out := .next (loadReturn s b n)

/-! ### Data-stream rows (05 R118, R122–R124) -/

/-- The stream ends exhausted with a fault recorded (05 R124; 21 R349; 22 R379); a fill or drain on it stops, its tile as it
is. -/
def streamFault (s : State) (b : BankId) (n : Nat) (t : Trap) : State :=
  s.modBank b (fun k => { k.setDs n { k.ds n with fault := some t, run := (k.ds n).run.map (fun r => { r with buf := [], asked := [], given := DataStream.positions r, next := DataStream.positions r }) } with
    moves := k.moves.filter (fun m => m.stream != n) })

/-- Translates the four lines of a row for a stream: their addresses, or the state that has asked for a page or recorded a
fault. -/
inductive RowReach where
  | ok (ps : List Nat)
  | stop (s : State)
  deriving DecidableEq, Repr

def reachRow (s : State) (b : BankId) (n : Nat) (src : Source) (a : Access) (va : W64) : Nat → RowReach
  | 0 => .ok []
  | i + 1 =>
    let v := va + BitVec.ofNat 64 (64 * (3 - i))
    let k := s.bank b
    if k.badPage src v then .stop (streamFault (s.modBank b (·.clearBad src v)) b n (mkTrap .accessViolation v))
    else match translate s b.core k.ctxNum (s.launchOf b) v a with
      | .forbidden => .stop (streamFault s b n (mkTrap .accessViolation v))
      | .held => .stop s
      | .miss => .stop (requestWalk s (dieOf b.core) k.ctxNum v src (a == .write))
      | .ok pa => match reachRow s b n src a va i with
        | .ok l => .ok (pa :: l)
        | .stop t => .stop t

/-- Who stores a row of a stream: the drain that handed it over, else the stream; what a fill takes the stream itself fetches (21 R348,
and "The fault" of the program of 23; log entry 58). -/
def BufRow.source (x : BufRow) (b : BankId) (n : Nat) : Source :=
  if x.drain then .drain b n else .dstream b n

/-- The bank's stores that a reading stream sees (05 R123): those before its STGO, rows of earlier drains among them. -/
def StreamRun.view (r : StreamRun) (m : BankMem) : List OwnByte := (m.own.filter (fun o => decide (o.seq < r.seq))) ++ r.own

/-- A line of a reading stream (05 R123): as it holds it, or filled from home, which every reading stream then keeps. -/
def streamLine (s : State) (b : BankId) (n l : Nat) : State :=
  match ((s.bank b).ds n).run with
  | none => s
  | some r =>
    if (kfind r.lines l).isSome || !needsLine (r.view (s.bank b).mem) r.seq (64 * l, 64) then s
    else
      let s := fillLine s b false l
      s.modBank b (fun k => k.streamsFill s.mem.shadow b l (if k.mem.badLines.contains l then [] else kget [] k.mem.lines l))

def putRun (s : State) (b : BankId) (n : Nat) (r : StreamRun) : State := s.modBank b (fun k => k.setDs n { k.ds n with run := some r })

/-- The rows that are back from their homes enter the stream's buffer (17 R303; 22 R373). -/
def rowsBack (s : State) (b : BankId) (n : Nat) (r : StreamRun) : State :=
  let rows := r.asked.takeWhile (fun a => a.got.isSome && decide (a.due ≤ s.cycle))
  let s := putRun s b n { r with
    asked := r.asked.drop rows.length, next := r.next + rows.length
    buf := r.buf ++ (rows.zipIdx.map (fun x => ⟨r.next + x.2, x.1.got.getD 0, 0, false⟩)) }
  rows.foldl (fun s a => noteMisses s 4 b.core 1 a.limit) s

/-- The next row asked for is read, once it is at its homes, which do not hold it, and A's earlier words let it (05 R123; 22 R375,
R379). -/
def rowRead (s : State) (b : BankId) (n : Nat) (r : StreamRun) : State :=
  match r.nextRead with
  | none => s
  | some (i, a) =>
    let va := rowVa r (r.next + i)
    let ps := a.lines.map (fun l => (l, 64))
    if !r.readsNow s b (i, a) || a.lines.any (homeHeld s.mem) || yields s (a.due, ps) then s
    else
      let s := a.lines.foldl (fun s pa => streamLine s b n (pa / 64)) s
      match ((s.bank b).ds n).run with
      | none => s
      | some r =>
        let os := r.view (s.bank b).mem
        if a.lines.any (fun pa => kget [0] r.lines (pa / 64) == [] && !coversLine os r.seq (pa / 64)) then
          streamFault s b n (mkTrap .memUncorrected va)
        else
          let d := (a.lines.map (fun pa => viewBytes os r.lines r.seq pa 64)).flatten
          let back := { a with got := some (rowOf d), due := s.cycle + homeTimes s.mem b.core ps }
          putRun s b n { r with asked := modAt (fun _ => back) r.asked i }

/-- A reading stream asks for its next row while it holds fewer than four (05 R122); the first of those on their way has its slots (05 R116). -/
def rowAsk (s : State) (b : BankId) (n : Nat) (r : StreamRun) : State :=
  let p := r.next + r.asked.length
  if r.buf.length + r.asked.length ≥ 4 || p ≥ DataStream.positions r || (!r.asked.isEmpty && decide (s.slots b + 4 > 512)) then s
  else match reachRow s b n (.dstream b n) .read (rowVa r p) 4 with
    | .stop t => t
    | .ok ps =>
      putRun s b n { r with asked := r.asked ++
        [⟨s.cycle + homeTimes s.mem b.core (ps.map (fun l => (l, 64))), s.tick, s.deadline 1, s.mem.gen, ps, none⟩] }

/-- STREAM_ROW_FETCH (05 R122–R124; 17 R303): of a reading stream, rows come back, the next is read at its homes, another is asked for. What a
fault finds translated goes on (21 R347). -/
def streamRowFetch (s : State) (b : BankId) (n : Nat) : State :=
  let step := fun (held : Bool) (f : State → BankId → Nat → StreamRun → State) (s : State) =>
    let k := s.bank b
    match (k.ds n).run with
    | none => s
    | some r => if !s.rowsMove b || r.write || (k.ds n).fault.isSome || (held && k.streamHeld n) then s else f s b n r
  step true rowAsk (step false rowRead (step false rowsBack s))
def execStreamRowFetch (b : BankId) (n : BitVec 3) (s : State) : Out := .next (streamRowFetch s b n.toNat)

/-! ### Fills and drains (05 R128–R131) -/

def putMove (s : State) (b : BankId) (m : Move) : State :=
  s.modBank b (fun k => { k with moves := k.moves.map (fun x => if x.id = m.id then m else x) })

/-- A fill or drain completes: the tile's state and, for a fill, its cursor. -/
def endMove (s : State) (b : BankId) (m : Move) : State :=
  s.modBank b (fun k =>
    let k := if m.drain then { k with mem := k.mem.reveal (fun o => o.row == some (m.stream, true) && o.seq == m.seq) } else k
    let t := k.tile m.tile
    let t := if m.drain then { t with state := if m.free then .empty else .ready } else { t with state := .ready, cursor := 0 }
    { k.setTile m.tile t with moves := k.moves.filter (fun x => x.id != m.id) })

/-- Where row number `p` of a move goes: the scratchpad row, or none for a position passed over. -/
def Move.target (m : Move) (p : Nat) : Option Nat :=
  if m.lifted then
    if p % m.slice < m.rows then (m.copies.getD (p / m.slice) none).map (fun base => rowIndex base (p % m.slice)) else none
  else ((m.copies.headD none).map (fun base => rowIndex base p))

/-- FILL_ROW (05 R122, R128, R131): the fill of a tile takes the stream's next row, behind the earlier fills from that stream. -/
def fillRow (s : State) (b : BankId) (t : Nat) : State :=
  match (s.bank b).moves.find? (fun m => m.tile == t && !m.drain) with
  | none => s
  | some m =>
    match ((s.bank b).ds m.stream).run with
    | none => s
    | some r =>
      if r.write || !s.rowsMove b || (s.bank b).moves.find? (fun x => x.stream == m.stream && !x.drain) != some m then s else
      match r.buf with
      | [] => if m.row ≥ m.total then endMove s b m else s
      | x :: rest =>
        if m.row ≥ m.total then endMove s b m
        else
          let s := s.modBank b (fun k => k.setDs m.stream { k.ds m.stream with run := some { r with buf := rest, given := r.given + 1 } })
          let s := match m.target m.row with | some i => s.putRow b.core i x.row | none => s
          let m := { m with row := m.row + 1 }
          if m.row ≥ m.total then endMove s b m else putMove s b m
def execFillRow (b : BankId) (t : BitVec 5) (s : State) : Out := .next (fillRow s b t.toNat)

/-- Whether a fill issued before move `id` is still to write a scratchpad row (17 R295). -/
def Bank.filling (k : Bank) (id i : Nat) : Bool :=
  k.moves.any (fun m => !m.drain && decide (m.id < id) && (List.range m.total).any (fun p => decide (m.row ≤ p) && m.target p == some i))

/-- The oldest drain on a writing stream moves its next rows into the stream's buffer, or passes positions over. A row that an earlier fill of A
is still to write is waited for (01 R14; 17 R295). -/
def feedDrain : Nat → State → BankId → Nat → State
  | 0, s, _, _ => s
  | fuel + 1, s, b, n =>
    match (s.bank b).moves.find? (fun m => m.stream == n && m.drain), ((s.bank b).ds n).run with
    | some m, some r =>
      if !r.write || m.row ≥ m.total || r.given ≥ DataStream.positions r then s
      else match m.target m.row with
        | none =>
          let s := s.modBank b (fun k => k.setDs n { k.ds n with run := some { r with next := r.next + 1, given := r.given + 1 } })
          feedDrain fuel (putMove s b { m with row := m.row + 1 }) b n
        | some i =>
          if r.buf.length + pendingInto (s.bank b) n ≥ 4 || (s.bank b).filling m.id i then s
          else match ((s.core b.core).injAt 0 (256 * i) 256).filter (·.hard) with
            | some j => streamFault (s.setCore b.core ((s.core b.core).disarm 0 j.addr 1)) b n
                (mkTrap .sramUncorrected (BitVec.ofNat 64 j.addr))
            | none =>
              let row := (s.core b.core).row i
              let s := (s.touchRow b.core i).modBank b (fun k => k.setDs n { k.ds n with run := some { r.accept row m.seq true with given := r.given + 1 } })
              feedDrain fuel (putMove s b { m with row := m.row + 1 }) b n
    | _, _ => s

/-- A drain all of whose rows have been stored completes. -/
def settleDrains (s : State) (b : BankId) (n : Nat) : State :=
  match (s.bank b).moves.find? (fun m => m.stream == n && m.drain), ((s.bank b).ds n).run with
  | some m, some r => if r.write && m.row ≥ m.total && !(r.buf.any (fun x => x.drain && x.seq == m.seq)) then endMove s b m else s
  | _, _ => s

/-- Whether another stream of the bank has still to store rows with a place before `seq`. -/
def Bank.rowsAhead (k : Bank) (n seq : Nat) : Bool :=
  (List.range 8).any (fun i => i != n && (match (k.ds i).run with
    | some r => r.write && (r.buf.any (fun x => decide (x.seq < seq)) || k.going.moves.any (fun m => m.drain && m.stream == i && decide (m.seq < seq)))
    | none => false))

/-- STREAM_ROW_STORE (05 R122, R124, R129): a drain hands over its next row, and the oldest row of the buffer is stored. It takes the slots that
its stream holds, and leaves four more to streams with earlier rows (05 R116; log entry 64). -/
def streamRowStore (s : State) (b : BankId) (n : Nat) : State :=
  let k := s.bank b
  if (k.ds n).fault.isSome || k.streamHeld n || !s.rowsMove b then s
  else
    let s := feedDrain 4096 s b n
    match ((s.bank b).ds n).run with
    | none => s
    | some r =>
      if !r.write then s
      else match r.buf with
        | [] => settleDrains s b n
        | x :: rest =>
          match reachRow s b n (x.source b n) .write (rowVa r x.pos) 4 with
          | .stop t => t
          | .ok ps =>
            if s.slots b + (if (s.bank b).rowsAhead n x.seq then 4 else 0) > 512 then s
            else
              let s := s.modBank b (fun k => k.setDs n { k.ds n with run := some { r with buf := rest } })
              settleDrains (storeAt s b (some (n, x.drain)) x.seq (ps.map (fun p => (p, 64))) (rowBytes x.row)) b n
def execStreamRowStore (b : BankId) (n : BitVec 3) (s : State) : Out := .next (streamRowStore s b n.toNat)

/-! ### SEMSIG_INCREMENT (04 R94) -/

/-- The oldest posted SEMSIG of a stream adds, once its earlier words have completed and its release has. -/
def semsigIncrement (s : State) (b : BankId) (e : Engine) : State :=
  let k := s.bank b
  match (k.stream e).sigs with
  | [] => s
  | g :: rest =>
    let g := { g with mark := k.carryMark g.mark }
    if !k.doneBefore s.cycle g.mark e then s.modStream b e (fun x => { x with sigs := g :: rest })
    else
      let rel := g.rel.getD k.mem.seq
      if s.released b rel then semAdd (s.modStream b e (fun x => { x with sigs := rest })) k.ctxNum g.sem g.inc
      else s.modStream b e (fun x => { x with sigs := { g with rel := some rel } :: rest })
def execSemsigIncrement (b : BankId) (e : Engine) (s : State) : Out := .next (semsigIncrement s b e)

/-! ### Walks (21 R344, R345) -/

/-- PAGE_WALK (21 R344): walk `n` of a die's walker reads its entries at home, in level order, and ends: a translation, a fault,
ACCESS_VIOLATION, or a request to the host (R345). -/
def pageWalk (die n : Nat) (s : State) : State :=
  match ((s.host.walks.filter (·.1 == die))[n]?) with
  | none => s
  | some (d, w) =>
    let reads := walkReads s w.ctx w.page
    let me : Asker := .walk (match (w.reqs.head?).bind (·.src.bank) with | some b => b.core | none => 2560) w.page
    if w.ats.isSome then s
    else match keptAt s me (reads.map (fun a => (a, 8))) with
    | some t => t
    | none =>
      let s := served (walkMeet s w.ctx w.page) me reads.length
      let drop := fun (s : State) => { s with host := { s.host with walks := s.host.walks.filter (· != (d, w)) } }
      match walkTable s w.ctx w.page with
      | .fault => raiseFault (drop s) w.ctx w.page w.reqs
      | .forbidden => noteForbidden (drop s) w.page w.reqs
      | .entry e => installFor (drop s) w.reqs e
      | .host iova e =>
        match s.host.ats.find? (·.iova == iova) with
        | some x =>
          let y : AtsEntry := { x with ctx := w.ctx, page := w.page }
          let s := { s with host := { s.host with ats := y :: s.host.ats.filter (· != y) } }
          installFor (drop s) w.reqs { e with frame := x.frame }
        | none =>
          let s := noteAsked s (.ats iova)
          { s with host := { s.host with walks := s.host.walks.map (fun x => if x = (d, w) then (d, { w with ats := some iova }) else x) } }

def execPageWalk (die n : Nat) (s : State) : Out := .next (pageWalk die n s)

/-- ATS_TRANSLATION_RESPONSE (21 R345): an answer is cached and its walks go on; a negative one becomes a PRI request. -/
def atsAnswer (iova : Nat) (ans : Option Nat) (s : State) : State :=
  let asked := s.host.walks.any (fun x => x.2.ats == some iova && !x.2.pri)
  if !asked then s
  else
    let s := served s (.ats iova) 1
    match ans with
    | some h => { s with host := { s.host with
        ats := (s.host.walks.filter (fun x => x.2.ats == some iova)).map (fun x => ⟨x.2.ctx, x.2.page, iova, h⟩) ++ s.host.ats
        walks := s.host.walks.map (fun x => if x.2.ats = some iova then (x.1, { x.2 with ats := none }) else x) } }
    | none => { s with host := { s.host with
        walks := s.host.walks.map (fun x => if x.2.ats = some iova then (x.1, { x.2 with pri := true }) else x) } }

def execAtsTranslationResponse (iova : Nat) (ans : Option Nat) (s : State) : Out := .next (atsAnswer iova ans s)

end Sys2Proof.Machine
end

