-- ==== Sys2Proof/Machine/Units.lean ====
section
/-! DEFINITION. How a unit ends and what its end does (01 R19–R21; 04 R113; 11 R251, R266; 18 R311, R314), and where the failure
of asynchronous work is reported (21 R354). -/

namespace Sys2Proof.Machine

/-! ### Completions (01 R20) -/

/-- Whether a stage has completed: closed on every queue that opened it, and nothing scheduled in it left. -/
def State.stageDone (s : State) (n : Nat) : Bool :=
  match kfind s.host.stages n with
  | some x => x.opened.isEmpty && x.open_ == 0
  | none => true

/-- Whether a job is complete now. -/
def State.jobDone (s : State) (j : Nat) : Bool :=
  s.host.queues.all (fun q => q.2.job != j || ((!q.2.en || q.2.rptr == q.2.wptr) && q.2.active.isEmpty))

def bumpAt (l : List (Nat × W64)) (k : Nat) : List (Nat × W64) := kupd 0 l k (· + 1)

/-! ### Reports of asynchronous failures (21 R354) -/

/-- Reports a failure of a launch's asynchronous work: an error record with level 0, then the first of launch, graph run,
stage and job that has not completed, and the record once more with that level. `mk` makes the record of a level. -/
def asyncReport (s : State) (ctx launch : Nat) (mk : Nat → List Byte) : State :=
  let s := s.errorRecord ctx (mk 0)
  match s.launch? launch with
  | none => s
  | some l =>
    if !l.done then
      (s.setLaunch launch { l with async := some (l.async.getD (mk 1)) }).errorRecord ctx (mk 1)
    else
      match (match l.origin with | .graph r _ => (kfind s.host.runs r).map (fun x => (r, x)) | _ => none) with
      | some (r, x) => if x.done then atStage s l else
          ({ s with host := { s.host with runs := kset s.host.runs r { x with async := some (x.async.getD (mk 2)) } } }).errorRecord ctx (mk 2)
      | none => atStage s l
where
  atStage (s : State) (l : Launch) : State :=
    match l.stage with
    | some n => if s.stageDone n then atJob s l else
        ({ s with host := { s.host with stagefail := bumpAt s.host.stagefail n } }).errorRecord ctx (mk 3)
    | none => atJob s l
  atJob (s : State) (l : Launch) : State :=
    if l.job < 1024 && !s.jobDone l.job then
      ({ s with host := { s.host with jobfail := bumpAt s.host.jobfail l.job } }).errorRecord ctx (mk 4)
    else s

/-- The record of a level for a failure of a bank's unit. -/
def asyncBytes (s : State) (b : BankId) (source : Nat) (t : Trap) (level : Nat) : List Byte :=
  let k := s.bank b
  errorBytes t.cause.code (source + 16 * level) t.reason.toNat k.launchId (unitWord s b) k.ctxNum (s.ctxOf b).gen.toNat 0 t.tval

/-! ### Way changes (04 R113, 18 R314) -/

/-- Window bytes of the ways in a mask of a slice read as zero. -/
def zeroWays (s : State) (slice : Nat) (mask : BitVec 16) : State :=
  let hit := fun (a : Nat) => decide (Config.scratchBase ≤ a) &&
    (let o := a - Config.scratchBase
     o / 65536 / 16 == slice && mask.getLsbD (o / 65536 % 16))
  { s with mem := { s.mem with cells := s.mem.cells.filter (fun c => !hit c.1), poison := s.mem.poison.filter (fun l => !hit (64 * l)) } }

/-- A change that has run its 4,096 cycles ends: the ways that changed are zero and the mask stands. -/
def endChange (s : State) (slice : Nat) (c : SplitChange) : State :=
  let x := s.slice slice
  (zeroWays s slice (x.ways ^^^ c.mask)).setSlice slice { x with ways := c.mask, changes := x.changes.tail }

/-- A posted mask starts to change its slice at a boundary `at_` of a unit, behind the changes under way, each of which runs its own
4,096 cycles: of the masks of one boundary the highest unit's stands. -/
def startSplit (s : State) (slice : Nat) (mask : BitVec 16) (unit at_ : Nat) : State :=
  let x := s.slice slice
  let same := fun (c : SplitChange) => at_ != 0 && c.epoch == at_
  let cs := if x.changes.any same then x.changes.map (fun c => if same c && decide (c.unit ≤ unit) then { c with mask := mask, unit := unit } else c)
    else x.changes ++ [⟨mask, s.cycle + 4096, unit, at_⟩]
  s.setSlice slice { x with changes := cs }

/-- Every mask the bank's unit has posted starts to take effect. -/
def applySplits (s : State) (b : BankId) (at_ : Nat) : State :=
  let k := s.bank b
  (k.splits.foldl (fun s x => startSplit s x.1 x.2 k.bindRec.unit.toNat at_) s).modBank b (fun k => { k with splits := [] })

/-- SPLIT_CHANGE_END (18 R314). -/
def splitChangeEnd (s : State) (slice : Nat) : State :=
  match (s.slice slice).changes with
  | c :: _ => if c.until_ ≤ s.cycle then endChange s slice c else s
  | [] => s
def execSplitChangeEnd (slice : Nat) (s : State) : Out := .next (splitChangeEnd s slice)

/-! ### The end of a unit -/

/-- Every queue of the module bound to receive from bank `b` is free again. -/
def freeSenders (s : State) (b : BankId) : State :=
  let f := fun (q : Queue) => if q.sender.any (fun x => x.bank == some b) then { q with sender := none } else q
  let g := fun (k : Bank) => { k with queues := k.queues.map f }
  { s with cores := s.cores.map (fun c => (c.1, { c.2 with bank0 := g c.2.bank0, bank1 := g c.2.bank1 })) }

/-- The bindings of an ending unit's queues to other chips, and its requests there, end. -/
def unbindRemote (s : State) (b : BankId) : State :=
  (s.bank b).queues.toList.foldl (fun s q =>
    let s := match q.binding with
      | some x => if x.bank.isNone && x.chip ≠ s.time.chip.toNat then s.sendOut (.unbind x.chip x.id) else s
      | none => s
    match q.req with
    | some r => if r.chip ≠ s.time.chip.toNat then s.sendOut (.unbind r.chip r.id) else s
    | none => s) s

/-- A queue when its unit ends: bindings end, and a receiving queue that is still bound discards its rows (R311). -/
def Queue.unitEnds (q : Queue) : Queue :=
  if q.sender.isSome then { Queue.empty with reserved := q.reserved } else { q with binding := none, req := none }

/-- The launch counts a unit's end (01 R20). -/
def Launch.unitEnds (l : Launch) (unit : Nat) (st : EndStatus) : Launch :=
  { l with count := l.count + 1, lost := if st = .lost then l.lost + 1 else l.lost, units := kset l.units unit (.ended st) }

/-- A failure of M or K that was never delivered is reported when the unit has ended (21 R354). -/
def reportUndelivered (s : State) (b : BankId) : State :=
  let k := s.bank b
  let go := fun (s : State) (e : Engine) (f : Option Failure) => match f with
    | some f => asyncReport s k.ctxNum k.launchId (asyncBytes s b (engineNum e) f.trap)
    | none => s
  (go (go s .M k.mEng.fail) .K k.kEng.fail).modBank b (fun k =>
    { k with mEng := { k.mEng with fail := none }, kEng := { k.kEng with fail := none } })

/-- Whether a source is an ended unit's own; its copy channels go on (04 R100). -/
def Source.endsWith (b : BankId) : Source → Bool
  | .aStream x | .dstream x _ | .fill x _ | .drain x _ | .dispatch x => x == b
  | .chan _ _ | .coll _ | .queue _ | .node _ _ _ => false

/-- Walks and faults no longer answer sources that have ended, and no home holds a request of theirs. -/
def forgetSources (s : State) (p : Source → Bool) : State :=
  { s with mem := { s.mem with asked := s.mem.asked.filter (fun x => match x.who with | .source y => !p y | _ => true) }, host := { s.host with
    walks := s.host.walks.map (fun w => (w.1, { w.2 with reqs := w.2.reqs.filter (fun r => !p r.src) }))
    faults := s.host.faults.map (fun f => { f with srcs := f.srcs.filter (fun x => !p x.1) }) } }

/-- Whether copies that a unit of a launch has queued go on in a bank (04 R100). -/
def Bank.copiesOf (k : Bank) (launch unit : Nat) : Bool :=
  k.launchId == launch && k.bindRec.unit.toNat == unit && k.copying
def State.copiesOf (s : State) (launch unit : Nat) : Bool :=
  s.cores.any (fun c => c.2.bank0.copiesOf launch unit || c.2.bank1.copiesOf launch unit)

/-- Whether a sector tag of launch `id` still has to stand when a unit ends: a unit of lower identity, or its copies, may still write (11 R265–R267; 18
R321). -/
def Launch.keepsTag (l : Launch) (s : State) (id : Nat) (t : SectorTag) : Bool :=
  l.units.any (fun u => decide (u.1 < t.ident) && ((match u.2 with | .ended _ => false | _ => true) || s.copiesOf id u.1))

/-- The sector tags of a launch clear which nothing of it with a lower identity is left to meet (11 R266; log entry 61). -/
def clearTags (s : State) (id : Nat) : State :=
  { s with mem := { s.mem with tags := s.mem.tags.filter (fun t => t.2.launch != id ||
    (match s.launch? id with | some l => l.keepsTag s id t.2 | none => false)) } }

/-- THE UNIT ENDS (01 R19): its masks apply, sector tags of its launch clear (11 R266), its bindings end, its inbound words are discarded,
the launch counts it and the bank is free. Its copy channels go on (04 R100). -/
def unitEnds (s : State) (b : BankId) (st : EndStatus) : State :=
  let k := s.bank b
  let s := applySplits s b 0
  let s := clearTags ((unbindRemote (freeSenders s b) b).modLaunch k.launchId (·.unitEnds k.bindRec.unit.toNat st)) k.launchId
  let s := (forgetSources s (Source.endsWith b)).modBank b (fun k => { k.haltAll with
    badWalks := k.badWalks.filter (fun w => !w.2.endsWith b), check := k.check.filter (·.state != some true)
    phase := .free, runnable := false, back := false, preempt := none, yielded := none, cancel := false, gbar := none, gkept := [], wfi := none, faults := []
    inbound := [], arrivals := [], held := [], queues := k.queues.map Queue.unitEnds, moves := []
    bindRec := { k.bindRec with valid := false, resume := false } })
  reportUndelivered s b

/-- Whether everything the ending unit has issued has completed and its release at SYS is complete (11 R251). A failed unit's
running copy records complete too (21 R351). -/
def Bank.mayEnd (k : Bank) (st : EndStatus) : Bool :=
  engines.all (fun e => k.going.completed e && (k.stream e).sigs.isEmpty) && k.going.rowsStored k.mem.seq &&
  k.mem.dirty.isEmpty && k.mem.sent.isEmpty && k.mem.unacked.isEmpty &&
  k.queues.all (fun q => match q.binding with | some x => x.bank.isNone || x.way.isEmpty | none => true) &&
  (st != .failed || k.chans.all (fun c => c.running.isNone))

/-- An ending unit ends once nothing holds it. -/
def tryEnd (s : State) (b : BankId) : State :=
  match (s.bank b).phase with
  | .ending st => if (s.bank b).mayEnd st && s.released b (s.bank b).mem.seq then unitEnds s b st else s
  | _ => s

/-- READY_WRITE (17 R293): results of a stream that are due take effect; with none due, V words whose extra cycles are over read their rows (17
R302), after every row that reaches the scratchpad in the cycle. A unit whose last issued word has completed ends (01 R19). -/
def execReadyWrite (b : BankId) (e : Engine) (s : State) : Out :=
  let ready := (s.stream b e).pend.any (fun p => decide (p.cyc ≤ s.cycle))
  .next (tryEnd (if e = .V && !ready then lateReads s b else settle s b e) b)

/-- In-flight work of a bank is abandoned (21 R356, R357): results, accesses, engines and chains are lost. -/
def Stream.abandon (x : Stream) : Stream := { x with pend := [], sigs := [], block := none, wait := none, lock := false }
def Bank.abandon (k : Bank) : Bank :=
  { k with
    c := k.c.abandon, a := k.a.abandon, v := k.v.abandon, m := k.m.abandon, k := k.k.abandon, moves := [], vpair := none, late := []
    mem := { BankMem.reset with seq := k.mem.seq }
    dstreams := k.dstreams.map (fun d => { d with run := none })
    mEng := { k.mEng with nest := none, backs := [], loads := [], fail := none }
    kEng := { k.kEng with op := none, fail := none }
    chans := k.chans.map (fun c => { c with heads := [], ready := [], running := none, fault := none }) }

end Sys2Proof.Machine
end

