-- ==== Sys2Proof/Machine/Copy.lean ====
section
/-! DEFINITION. Copy channels (05 R138–R144), order keys and the overlap checker (18 R317–R319), the busy counts of segments
(21 R358). -/

namespace Sys2Proof.Machine

/-! ### Segments (21 R358) -/

/-- The bases and lengths of a context's segments, with their indices. -/
def segments (s : State) (ctx : Nat) : List (Nat × Nat × Nat) :=
  (List.range (s.ctx ctx).nseg).map (fun i => (i, leNat (s.look (segAddr s ctx i) 8), leNat (s.look (segAddr s ctx i + 8) 8)))

/-- The segments that an interval of addresses meets; an interval of none is every address. -/
def touched (s : State) (ctx : Nat) (is : List (Option (Nat × Nat))) : List Nat :=
  ((segments s ctx).filter (fun g => is.any (fun i => match i with
    | some (lo, hi) => decide (lo < g.2.1 + g.2.2) && decide (g.2.1 ≤ hi)
    | none => true))).map (·.1)

/-- Whether a segment is held by a migration. -/
def segHeld (s : State) (ctx i : Nat) : Bool := leNat (s.look (segAddr s ctx i + 20) 1) % 2 == 1

/-! ### Records (05 R138) -/

/-- Signed 16 bits. -/
def s16 (n : Nat) : Int := sgn 16 n

/-- A record from its 64 bytes. -/
def readRecord (va : W64) (d : List Byte) : Record :=
  let f := leAt d 44 4
  { va := va, next := BitVec.ofNat 64 (leAt d 0 8 / 64 * 64), src := BitVec.ofNat 64 (leAt d 8 8), dst := BitVec.ofNat 64 (leAt d 16 8)
    e := (List.range 4).map (fun i => leAt d (24 + 2 * i) 2)
    ss := (List.range 3).map (fun i => s16 (leAt d (32 + 2 * i) 2))
    ds := (List.range 3).map (fun i => s16 (leAt d (38 + 2 * i) 2))
    flags := f, seqNo := leAt d 48 4
    preds := (if bits f 4 4 = 1 then [leAt d 52 4] else []) ++ (if bits f 5 5 = 1 then [leAt d 56 4] else [])
    sem := leAt d 60 2 }

/-- Whether a record's fields are valid (R143). -/
def recordOk (d : List Byte) : Bool :=
  let f := leAt d 44 4
  bits (leAt d 0 8) 5 1 == 0 && bits f 31 13 == 0 && bits f 7 6 == 0 && leAt d 62 2 == 0 &&
  (List.range 4).all (fun i => leAt d (24 + 2 * i) 2 != 0) && (leAt d 60 2 < 1024 || leAt d 60 2 == 0xFFFF)

def Record.shift (r : Record) : Nat := bits r.flags 12 8
def Record.srcInt (r : Record) : Option (Nat × Nat) := interval r.src r.e r.ss r.shift
def Record.dstInt (r : Record) : Option (Nat × Nat) := interval r.dst r.e r.ds r.shift

/-- The number of runs of a record, and the addresses of run `n` (R139). -/
def Record.runs (r : Record) : Nat := (r.e.tail).foldl (· * ·) 1
def Record.run (r : Record) (n : Nat) : W64 × W64 :=
  let e1 := r.e.getD 1 1
  let e2 := r.e.getD 2 1
  let is := [n % e1, n / e1 % e2, n / e1 / e2]
  let off := fun (ks : List Int) => w64 (((is.zip ks).map (fun x => (x.1 : Int) * x.2)).sum * ((1 <<< r.shift : Nat) : Int))
  (r.src + off r.ss, r.dst + off r.ds)

/-! ### The overlap checker (18 R317–R319) -/

def Accepted.entry (r : Accepted) (ch : Nat) (st : Option Bool) : CheckEntry :=
  ⟨r.xfer.seqNo, ch, r.id, r.order, st, r.xfer.srcInt, r.xfer.dstInt, r.xfer.preds⟩

/-- The entries of records of earlier CPYHDs, or earlier in the chain, of record `r` of channel `ch`. -/
def earlier (k : Bank) (ch : Nat) (r : Accepted) : List CheckEntry :=
  k.check.filter (fun x => decide (x.order < r.order) || (x.order == r.order && x.ch == ch && decide (x.id < r.id)))

/-- Whether entry `x` is ordered before entry `y` (R318); `fuel` bounds the chain of predecessors. -/
def orderedBefore (k : Bank) (all : List CheckEntry) : Nat → CheckEntry → CheckEntry → Bool
  | 0, _, _ => false
  | f + 1, x, y =>
    (x.ch == y.ch && decide (x.id < y.id)) ||
    k.waited.any (fun w => w.1 == x.ch && decide (x.id ≤ w.2.1) && decide (w.2.2 ≤ y.order)) ||
    y.preds.any (fun p => all.any (fun z => z.seqNo == p && ((z.ch == x.ch && z.id == x.id) || orderedBefore k all f x z)))

/-- The check of a record (R319): whether it passes, and whether it enters the table. -/
def judge (k : Bank) (ch : Nat) (r : Accepted) : Bool × Bool :=
  let es := earlier k ch r
  let y := r.entry ch none
  if k.check.any (fun x => x.seqNo == y.seqNo) || decide (256 ≤ k.check.length) then (false, false)
  else (!es.any (fun x => !orderedBefore k es 256 x y && (meets y.dst x.dst || meets y.dst x.src || meets y.src x.dst)), true)

/-- The first record, in the order of their CPYHDs, that is still to be checked and whose earlier chains have all been accepted to their
ends (R317, condition 1). -/
def unchecked (k : Bank) : Option (Nat × Accepted) :=
  ((List.range 4).flatMap (fun ch => (k.chan ch).ready.filterMap (fun r =>
    if r.verdict.isNone && !k.chans.any (fun c => c.heads.any (fun h => decide (h.order < r.order))) then some (ch, r) else none))).foldl
    (fun (b : Option (Nat × Accepted)) x => match b with
      | some y => if x.2.order < y.2.order || (x.2.order = y.2.order && x.2.id < y.2.id) then some x else some y
      | none => some x) none

/-- Checks every record that can be checked, at most `fuel` of them. -/
def checkAll : Nat → Bank → Bank
  | 0, k => k
  | f + 1, k =>
    match unchecked k with
    | none => k
    | some (ch, r) =>
      let v := judge k ch r
      let c := k.chan ch
      checkAll f { k.setChan ch { c with ready := c.ready.map (fun x => if x.id = r.id then { x with verdict := some v.1 } else x) } with
        check := if v.2 then k.check ++ [r.entry ch none] else k.check }

/-- In deterministic mode the records of a bank that can be checked are checked at once (R317). -/
def checkRecords (s : State) (b : BankId) : State :=
  if (s.ctxOf b).det then s.modBank b (fun k => checkAll ((k.chans.toList.map (fun c => c.ready.length)).sum) k) else s

/-- Records of a channel have failed, or are discarded with one that has: their entries say so (R317). -/
def Bank.markFailed (k : Bank) (ch : Nat) (rs : List Accepted) : Bank :=
  { k with check := k.check.map (fun x => if x.ch = ch && rs.any (·.id == x.id) then { x with state := some false } else x) ++
    (rs.filter (fun r => r.verdict.isNone && !k.check.any (fun x => x.ch == ch && x.id == r.id))).map (·.entry ch (some false)) }

/-! ### The error state of a channel (05 R143) -/

/-- Who asks for what a channel's walk reads; for what its record does, the record. -/
def walkerOf (b : BankId) (ch : Nat) : Asker := .source (.chan b ch)

/-- The unit's busy counts of records that will not be performed are lowered. -/
def dropRecords (s : State) (ctx : Nat) (rs : List Accepted) : State := busyBy s ctx (-1) (rs.flatMap (·.segs))

/-- Whether the unit that queued the bank's copies has ended. -/
def Bank.gone (k : Bank) : Bool := k.phase == .free

/-- A channel enters its error state: queued chains and the given later records are discarded. Where the unit has ended, the
failure is reported (21 R354). -/
def failChannel (s : State) (b : BankId) (ch : Nat) (f : Failure) : State :=
  let s := checkRecords ((unasked s (walkerOf b ch)).modBank b (fun k => { k.setChan ch { k.chan ch with heads := [], fail := some f } with
    badWalks := k.badWalks.filter (·.2 != .chan b ch) })) b
  if (s.bank b).gone then
    let k := s.bank b
    asyncReport s k.ctxNum k.launchId (asyncBytes s b (5 + ch) f.trap)
  else s

/-! ### Reaching memory for a channel (05 R141) -/

/-- What a channel's translation gives. -/
inductive CopyReach where
  | ok (ps : List (Nat × Nat))
  | wait
  | stop (s : State)
  | fails (f : Failure)
  deriving DecidableEq, Repr

/-- Translates the lines of an access of a channel. -/
def reachCopy (s : State) (b : BankId) (ch : Nat) (a : Access) : List (W64 × Nat) → CopyReach
  | [] => .ok []
  | (va, n) :: l =>
    let k := s.bank b
    if k.badPage (.chan b ch) va then .fails ⟨mkTrap .accessViolation va, false⟩
    else match translate s b.core k.ctxNum (s.launchOf b) va a with
      | .forbidden => .fails ⟨mkTrap .accessViolation va, false⟩
      | .held => .wait
      | .miss => .stop (requestWalk s (dieOf b.core) k.ctxNum va (.chan b ch) (a == .write))
      | .ok pa => match reachCopy s b ch a l with
        | .ok ps => .ok ((pa, n) :: ps)
        | x => x

/-- A write of a bank's copies at its home, of a chain at place `seq` (05 R139): what the bank's later copies read there afterwards. A
holds to its own view. -/
def copyWrite (s : State) (b : BankId) (seq pa : Nat) (d : List Byte) : State :=
  (ownWrite s b (identOf s b) seq pa d).modBank b (fun k => { k with mem := { k.mem with
    copied := ((d.zipIdx.map (fun x => (pa + x.2, x.1))).filter (fun x => (kfind k.mem.lines (x.1 / 64)).isSome || k.mem.own.any (·.pa == x.1))) ++
      k.mem.copied.filter (fun x => !inBytes pa d.length x.1) } })

/-- The record a channel performs or is about to perform fails: what its earlier runs wrote stays, the records after it are discarded. -/
def failRecord (s : State) (b : BankId) (ch : Nat) (r : Accepted) (f : Failure) : State :=
  let s := unasked s (.record b ch)
  let k := s.bank b
  let c := k.chan ch
  let later := c.ready.filter (·.id != r.id)
  let s := dropRecords s k.ctxNum (r :: later)
  let s := s.modBank b (fun k => (k.markFailed ch (r :: later)).setChan ch { c with ready := [], running := none })
  failChannel s b ch f

/-! ### CHAIN_WALK (05 R140, R143) -/

/-- The intervals a record's busy counts go by: its two sides and its own bytes (log entry 15). -/
def Record.intervals (r : Record) : List (Option (Nat × Nat)) :=
  [r.srcInt, r.dstInt, some (r.va.toNat, r.va.toNat + 63)]

/-- The walk of a channel's oldest chain `h` reads its next record, which lies in `ps`; the channel has it, and asks for the one after it, when
it is back (17 R303). -/
def takeRecord (s : State) (b : BankId) (ch : Nat) (h : Chain) (hs : List Chain) (a : Ask) (ps : List (Nat × Nat)) : State :=
  let k := s.bank b
  let c := k.chan ch
  let takeId := fun (s : State) => s.modBank b (fun k => k.setChan ch { k.chan ch with nextId := c.nextId + 1 })
  let back := s.cycle + homeTimes s.mem b.core ps
  let s := (unasked s (walkerOf b ch)).reply b.core back ps.length a.limit
  let (d, bad, s) := ps.foldl (fun x p => let (d, e, s) := homeRead x.2.2 p.1 p.2; (x.1 ++ d, x.2.1 || e, s)) (([] : List Byte), false, s)
  let r := readRecord h.pos d
  let rest := hs.map (fun x => { x with start := max x.start back })
  if bad then failChannel (takeId s) b ch ⟨mkTrap .memUncorrected h.pos, false⟩
  else if leAt d 0 8 % 2 = 0 then checkRecords (s.modBank b (fun k => k.setChan ch { k.chan ch with heads := rest })) b
  else if !recordOk d then failChannel (takeId s) b ch ⟨mkTrap .accessViolation 0, true⟩
  else
    let segs := touched s k.ctxNum r.intervals
    let s := busyBy s k.ctxNum 1 segs
    checkRecords ((takeId s).modBank b (fun k => k.setChan ch { k.chan ch with
      ready := c.ready ++ [⟨c.nextId, h.order, h.seq, r, segs, 0, [], none, back, 0, 0, 0⟩]
      heads := if r.next = 0 then rest else { h with pos := r.next, start := back, ask := none } :: hs })) b

/-- CHAIN_WALK (05 R140; 17 R303): the walk of a channel's oldest chain asks for its next record, and reads it once the request is at its
home, which serves it now (22 R375, R378), and A's words before the CPYHD let it (11 R250, R258). -/
def chainWalk (s : State) (b : BankId) (ch : Nat) : State :=
  let k := s.bank b
  let c := k.chan ch
  match c.heads with
  | [] => s
  | h :: hs =>
    if c.fail.isSome || c.fault.isSome || decide (s.cycle < h.start) then s
    else
      let takeId := fun (s : State) => s.modBank b (fun k => k.setChan ch { k.chan ch with nextId := c.nextId + 1 })
      let ask := fun (due : Nat) (ps : List (Nat × Nat)) => s.modBank b (fun k => k.setChan ch { c with
        heads := { h with ask := some ⟨due, s.tick, s.deadline 2, s.mem.gen, ps.map (·.1), none⟩ } :: hs })
      match reachCopy s b ch .write (pieces h.pos 2 64), h.ask with
      | .wait, none => ask s.cycle []
      | .wait, some _ => s
      | .stop t, _ => t
      | .fails f, _ => failChannel (takeId s) b ch f
      | .ok ps, none => ask (s.cycle + homeTimes s.mem b.core ps) ps
      | .ok ps, some a =>
        if s.cycle < a.due || a.lines.any (staleMap s.mem a.gen) || k.mem.older h.seq ps ||
            k.rowsBefore h.seq (some (h.pos.toNat, h.pos.toNat + 63)) then s
        else match keptAt s (walkerOf b ch) ps with
          | some t => t
          | none => takeRecord s b ch h hs a ps

/-- Where copies of an ended unit come to an end, the sector tags that stood for them clear (18 R321). -/
def copyEnds (s : State) (b : BankId) : State :=
  let k := s.bank b
  if k.gone && !k.copying then clearTags s k.launchId else s
def execChainWalk (b : BankId) (ch : BitVec 2) (s : State) : Out := .next (copyEnds (chainWalk s b ch.toNat) b)

/-- RECORD_START (05 R139, 18 R317): the oldest accepted record of a channel starts; in deterministic mode once it has passed its check
and its predecessors in the table have completed. -/
def recordStart (s : State) (b : BankId) (ch : Nat) : State :=
  let k := s.bank b
  let c := k.chan ch
  match c.running, c.ready with
  | none, r :: rest =>
    let overlap : Failure := ⟨mkTrap .overlap (BitVec.ofNat 64 r.xfer.seqNo), false⟩
    let ps := (earlier k ch r).filter (fun x => r.xfer.preds.contains x.seqNo)
    if c.fault.isSome || r.segs.any (segHeld s k.ctxNum) || decide (s.cycle < r.start) then s
    else if (s.ctx k.ctxNum).det && r.verdict.isNone then s
    else if (s.ctx k.ctxNum).det && (r.verdict == some false || ps.any (fun x => x.state == some false)) then failRecord s b ch r overlap
    else if (s.ctx k.ctxNum).det && ps.any (fun x => x.state.isNone) then s
    else s.modBank b (fun k => k.setChan ch { c with
      ready := rest, running := some { r with start := s.cycle, limit := s.deadline 2, gen := s.mem.gen } })
  | _, _ => s
def execRecordStart (b : BankId) (ch : BitVec 2) (s : State) : Out := .next (copyEnds (recordStart s b ch.toNat) b)

/-! ### RECORD_COMPLETE (05 R139, R142) -/

/-- The byte that what runs have still to write, in order, leaves at an address. -/
def outByte (out : List OutRun) (pa : Nat) : Option Byte :=
  (out.flatMap (fun o => splitData o.dst o.data)).foldl (fun b p => if inBytes p.1 p.2.length pa then p.2[pa - p.1]? else b) none

/-- A byte as a copy without ACQ reads it (05 R139; 11 R257): what the record itself has written, else the issuing core's
view: a store of the bank not yet at its home (one that A issued after the CPYHD shows or not, by the free bit of its eight bytes), the
bank's copies, its stores, the lines it holds. -/
def copyByte (s : State) (m : BankMem) (out : List OutRun) (seq f pa : Nat) : Byte :=
  let late := if f.testBit (pa / 8) then m.seq + 1 else seq
  let own := m.own.filter (fun o => decide (o.seq < late))
  match outByte out pa with
  | some v => v
  | none => match ownByte (own.filter (fun o => !o.done)) pa (m.seq + 1) with
    | some v => v
    | none => match m.copied.find? (·.1 == pa), ownByte own pa (m.seq + 1), kfind m.lines (pa / 64) with
      | some c, _, _ => c.2
      | none, some v, _ => v
      | none, none, some l => l.getD (pa % 64) 0
      | none, none, none => s.byteAt pa

/-- The record that a channel performs stands as `r`. -/
def putRunning (s : State) (b : BankId) (ch : Nat) (r : Accepted) : State :=
  s.modBank b (fun k => k.setChan ch { k.chan ch with running := some r })

/-- A request of the record met the old owner of its line, and is sent again under the current map (22 R375). -/
def resent (s : State) (b : BankId) (ch : Nat) (r : Accepted) : State :=
  putRunning { s with mem := { s.mem with rehash := s.mem.rehash + 1 } } b ch r

/-- What one run does: what it has to write and the cycle in which that can be at its homes, or how it waits or fails, with how many requests of it
have been answered. -/
inductive RunEnd where
  | done (s : State) (o : OutRun) (ready : Nat)
  | stop (s : State)
  | fails (s : State) (f : Failure) (n : Nat)
  deriving DecidableEq, Repr

/-- One run of a record: read wholly, then written (R139). What it asks for leaves when the record starts, and what it writes when that is
back (17 R303). With ACQ it is read at the homes when it is written. -/
def copyRun (s : State) (b : BankId) (ch : Nat) (r : Accepted) : RunEnd :=
  let x := r.xfer
  let n := x.e.headD 1
  let (sa, da) := x.run r.runs
  match reachCopy s b ch .read (pieces sa (n / 64 + 2) n), reachCopy s b ch .write (pieces da (n / 64 + 2) n) with
  | .fails f, _ => .fails s f 0
  | .stop t, _ => .stop t
  | .wait, _ => .stop s
  | _, .fails f => .fails s f 0
  | _, .stop t => .stop t
  | _, .wait => .stop s
  | .ok sp, .ok dp =>
    let m := (s.bank b).mem
    let acq := x.flags % 2 == 1
    let go := homeTimes s.mem b.core sp
    if s.cycle < r.start + go || m.older r.seq (if acq then sp ++ dp else dp) || (s.bank b).rowsBefore r.seq x.dstInt ||
        (s.bank b).rowsBefore r.seq x.srcInt then .stop s
    else
      let o : OutRun := ⟨sa, if acq then sp else [], dp, [], s.tick, s.deadline 2, s.mem.gen⟩
      let at_ := s.cycle + go + homeTimes s.mem b.core dp
      if acq then .done s o at_
      else if sp.any (fun p => staleMap s.mem r.gen p.1) then .stop (resent s b ch { r with gen := s.mem.gen, start := s.cycle })
      else match keptAt s (.record b ch) sp with
        | some t => .stop t
        | none =>
          let s := sp.foldl (fun s p => touchBytes s p.1 p.2) (unasked s (.record b ch))
          if sp.any (fun p => poisonedIn s p.1 p.2) then .fails s ⟨mkTrap .memUncorrected sa, false⟩ sp.length
          else
            let (f, s) := (s.reply b.core (s.cycle + go) sp.length r.limit).fresh
            .done s { o with data := sp.flatMap (fun p => (List.range p.2).map (fun i => copyByte s m r.out r.seq f (p.1 + i))) } at_

/-- A run's destination bytes reach their homes; their acknowledgments leave. -/
def writeRun (s : State) (b : BankId) (seq : Nat) (o : OutRun) (d : List Byte) : State :=
  (splitData o.dst d).foldl (fun s p => copyWrite s b seq p.1 p.2)
    (s.reply b.core (s.cycle + homeTimes s.mem b.core o.dst) o.dst.length o.limit)

/-- What runs have to write reaches the homes, in order; with ACQ each reads there first (11 R249, R257, R259), and poison ends it. -/
def flushOut (s : State) (b : BankId) (seq : Nat) : List OutRun → State × Option Failure
  | [] => (s, none)
  | o :: l =>
    if o.src.isEmpty then flushOut (writeRun s b seq o o.data) b seq l
    else
      let s := s.reply b.core (s.cycle + homeTimes s.mem b.core o.src) o.src.length o.limit
      let s := o.src.foldl (fun s p => touchBytes s p.1 p.2) s
      if o.src.any (fun p => poisonedIn s p.1 p.2) then (s, some ⟨mkTrap .memUncorrected o.va, false⟩)
      else flushOut (writeRun s b seq o (o.src.flatMap (fun p => s.peek p.1 p.2))) b seq l

/-- How what a record's runs have to write comes to its homes: it waits, or is there, with the failure that it met. -/
inductive OutEnd where
  | wait (s : State)
  | done (s : State) (f : Option Failure)
  deriving DecidableEq, Repr

/-- The bytes of a record's runs at their homes, in one piece (R144), once they can be there and the homes serve them now (22 R375, R378). -/
def writeOut (s : State) (b : BankId) (ch : Nat) (r : Accepted) : OutEnd :=
  let ps := r.out.flatMap (fun o => o.src ++ o.dst)
  if s.cycle < r.ready then .wait s
  else if r.out.any (fun o => (o.src ++ o.dst).any (fun p => staleMap s.mem o.gen p.1)) then
    .wait (resent s b ch { r with out := r.out.map (fun o => { o with gen := s.mem.gen }), ready := s.cycle + homeTimes s.mem b.core ps })
  else match keptAt s (.record b ch) ps with
    | some t => .wait t
    | none =>
      let (s, f) := flushOut (unasked s (.record b ch)) b r.seq r.out
      .done (putRunning s b ch { r with out := [] }) f

/-- A record fails, `n` requests of its run answered, after what its earlier runs have to write is at its homes. -/
def failAfter (s : State) (b : BankId) (ch : Nat) (r : Accepted) (f : Failure) (n : Nat) : State :=
  let fail := fun (s : State) (f : Failure) => failRecord (if n = 0 then s else s.reply b.core s.cycle n r.limit) b ch { r with out := [] } f
  if r.out.isEmpty then fail s f
  else match writeOut s b ch r with
    | .wait t => t
    | .done t g => fail t (g.getD f)

/-- The end of a record after its last run: its bytes at their homes, its release, OWN cleared, COMPLETE, the semaphore. -/
def finishRecord (s : State) (b : BankId) (ch : Nat) (r : Accepted) : State :=
  let k := s.bank b
  match reachCopy s b ch .write (pieces r.xfer.va 2 64) with
  | .wait => s
  | .stop t => t
  | .fails f => failAfter s b ch r f 0
  | .ok ps =>
    let a := (ps.headD (0, 0)).1
    let rel := bits r.xfer.flags 1 1 = 1
    let last := homeTime s.mem b.core a
    if !r.out.isEmpty then
      match writeOut s b ch r with
      | .wait t => t
      | .done t (some f) => failRecord t b ch { r with out := [] } f
      | .done t none =>
        let acks := (r.out.map (fun o => homeTimes s.mem b.core o.dst)).foldl max 0
        putRunning t b ch { r with out := [], ready := s.cycle + (if rel then acks else 0) + last, limit := s.deadline 2, gen := s.mem.gen }
    else if s.cycle < r.ready || (rel && !s.released b r.seq) || k.mem.older r.seq [(a, 8)] then s
    else if staleMap s.mem r.gen a then resent s b ch { r with gen := s.mem.gen, ready := s.cycle + last }
    else match keptAt s (.record b ch) [(a, 8)] with
      | some t => t
      | none =>
        let s := (unasked s (.record b ch)).reply b.core (s.cycle + last) 1 r.limit
        let s := copyWrite s b r.seq a (leBytes 8 (leNat (s.peek a 8) / 2 * 2))
        let s := s.modBank b (fun k => { k.setChan ch { k.chan ch with running := none, complete := r.id } with
          check := k.check.map (fun x => if x.ch = ch && x.id = r.id then { x with state := some true } else x) })
        let s := busyBy s k.ctxNum (-1) r.segs
        if r.xfer.sem = 0xFFFF then s else semAdd s k.ctxNum r.xfer.sem 1

/-- Performs runs while they can be performed, at most `fuel` of them in one step. -/
def copyRuns : Nat → State → BankId → Nat → State
  | 0, s, _, _ => s
  | fuel + 1, s, b, ch =>
    match ((s.bank b).chan ch).running with
    | none => s
    | some r =>
      if r.runs ≥ r.xfer.runs then finishRecord s b ch r
      else match copyRun s b ch r with
        | .stop t => t
        | .fails t f n => failAfter t b ch r f n
        | .done t o ready => copyRuns fuel (putRunning t b ch { r with runs := r.runs + 1, out := r.out ++ [o], ready := max r.ready ready }) b ch

/-- RECORD_COMPLETE (05 R139, R142): the running record's runs, then its end; a record whose access waits goes on at a later
step of this event. A running record whose translation has been refused (`verdict` is then false) fails. -/
def recordComplete (s : State) (b : BankId) (ch : Nat) : State :=
  let c := (s.bank b).chan ch
  if c.fault.isSome then s
  else match c.running, c.fail with
    | some r, some f => if r.verdict = some false then failAfter s b ch r f 0 else copyRuns 4096 s b ch
    | _, _ => copyRuns 4096 s b ch
def execRecordComplete (b : BankId) (ch : BitVec 2) (s : State) : Out := .next (copyEnds (recordComplete s b ch.toNat) b)

/-! ### Discarding chains (21 R351, R356, R357) -/

/-- Records of a bank not yet complete. -/
def Bank.records (k : Bank) : List Accepted := (k.chans.toList.map (fun c => c.ready ++ c.running.toList)).flatten

/-- In-flight work of a bank is abandoned, its records' busy counts lowered. -/
def abandonBank (s : State) (b : BankId) : State :=
  let k := s.bank b
  let s := (List.range 4).foldl (fun s ch => unasked (unasked s (.record b ch)) (walkerOf b ch)) s
  (dropRecords s k.ctxNum k.records).modBank b Bank.abandon

end Sys2Proof.Machine
end

