-- ==== Sys2Proof/Machine/CoreEvents.lean ====
section
/-! DEFINITION. The steps of a core that are not words: watchdogs (01 R24), command words and bound queues on their way
(04 R106, R111; 18 R311, R322), group barriers (04 R109), dispatch (20 R334), bank switches (01 R28), pre-emption (21 R355),
per-core reset (R357), WFI (R365). -/

namespace Sys2Proof.Machine

/-! ### Watchdogs (01 R24, 21 R350) -/

/-- Whether what began at a tick has lasted longer than the bank's watchdog interval. -/
def Bank.expired (k : Bank) (tick since : Nat) : Bool := decide (since + k.wdog < tick)

/-- A block of a kind that has lasted too long traps in the blocked stream of the active bank. -/
def blockWatchdog (s : State) (b : BankId) (e : Engine) (kind : BlockKind) (c : Cause) : Option State :=
  let k := s.bank b
  let x := k.stream e
  match x.block with
  | some y =>
    if y.kind = kind && x.status == .running && (s.core b.core).active == b.slot && k.expired s.tick y.since then
      some (takeTrap (armedAway s b e) b e (mkTrap c y.tval) x.pc)
    else none
  | none => none

/-- TILE_WATCHDOG (01 R24). -/
def execTileWatchdog (b : BankId) (e : Engine) (s : State) : Out := .next ((blockWatchdog s b e .tile .tileWatchdog).getD s)

/-- SEM_WATCHDOG (01 R24). -/
def execSemWatchdog (b : BankId) (e : Engine) (s : State) : Out := .next ((blockWatchdog s b e .sem .semWatchdog).getD s)

/-- The specifier of a K row port. -/
def RowPort.spec : RowPort → W64
  | .queue q => BitVec.ofNat 64 (0x20 + q)
  | .dstream n => BitVec.ofNat 64 (0x30 + n)
  | _ => 0

/-- The specifier of the operand a K operation waits for. -/
def KOp.waitsFor (o : KOp) : W64 :=
  match o.todo with
  | .take p :: _ => p.spec
  | .give p _ :: _ => p.spec
  | .head _ _ _ a _ :: _ => a.spec.setWidth 64
  | _ => 0

/-- A nest or K operation that has waited too long for a row fails, recorded (07 R184, R189; 09 R211). -/
def recordedWait (s : State) (b : BankId) (e : Engine) : State :=
  let k := s.bank b
  match e with
  | .M => match k.mEng.nest with
    | some n => match n.waiting with
      | some (c, t) =>
        if k.expired s.tick t then
          let s := s.modBank b (fun k => { k with mEng := k.mEng.count 5 (s.cycle - c) })
          failStep s b n ⟨mkTrap .queueWatchdog (n.aSpec.setWidth 64), false⟩
        else s
      | none => s
    | none => s
  | .K => match k.kEng.op with
    | some o => match o.since with
      | some (_, t) => if k.expired s.tick t then failOp s b ⟨mkTrap .queueWatchdog o.waitsFor, false⟩ else s
      | none => s
    | none => s
  | _ => s

/-- QUEUE_WATCHDOG (01 R24; 07 R189; 09 R211): a blocked word traps, a wait of M or K is recorded. -/
def execQueueWatchdog (b : BankId) (e : Engine) (s : State) : Out :=
  .next ((blockWatchdog s b e .queue .queueWatchdog).getD (recordedWait s b e))

/-! ### Command words and WFI (04 R106; 21 R365) -/

/-- The arrival to take: the earliest due, of one cycle the lowest sender unit. -/
def firstArrival : List (Nat × Nat × W64) → Option (Nat × Nat × W64)
  | [] => none
  | x :: l => match firstArrival l with
    | some y => if y.1 < x.1 || (y.1 == x.1 && decide (y.2.1 < x.2.1)) then some y else some x
    | none => some x

/-- ENQR_ARRIVAL: a command word whose train time is over enters the inbound queue. -/
def enqrArrival (s : State) (b : BankId) : State :=
  match firstArrival (s.bank b).arrivals with
  | some x =>
    if x.1 ≤ s.cycle then
      s.modBank b (fun k => { k with
        arrivals := k.arrivals.erase x, inbound := k.inbound ++ [x.2.2], wfi := k.wfi.map (fun w => { w with woken := true }) })
    else s
  | none => s
def execEnqrArrival (b : BankId) (s : State) : Out := .next (enqrArrival s b)

/-- WFI_WAKE. -/
def wfiWake (s : State) (b : BankId) : State :=
  let k := s.bank b
  match k.wfi with
  | some x =>
    if decide (x.changes < (s.ctxOf b).changes) || decide (x.faq < s.mem.faqCount) || k.expired s.tick x.since then
      s.modBank b (fun k => { k with wfi := some { x with woken := true } })
    else s
  | none => s
def execWfiWake (b : BankId) (s : State) : Out := .next (wfiWake s b)

/-! ### Bound queues (04 R110, R111; 18 R311; 19 R322) -/

/-- BOUND_ROW_ARRIVAL: with `ext` a row from another chip enters queue `q` of bank `b`; otherwise the oldest row on its way from
queue `q` of bank `b` enters the peer queue, once its time is over and while the binding stands there, or leaves the chip, a request of class 0 (22 R371, R373). A queue that local pushes have
filled takes it beyond 16 rows, which the spec leaves open (DESIGN CHOICE, log entry 54). -/
def boundRowArrival (s : State) (b : BankId) (q : Nat) (ext : Option Row) : State :=
  let x := (s.bank b).queue q
  match ext with
  | some r =>
    match x.sender with
    | some y => if y.bank.isNone then
        s.modBank b (fun k => k.setQueue q { x with rows := x.rows ++ [r], owed := x.owed ++ [some y] }) else s
    | none => s
  | none =>
    match x.binding with
    | some y => match y.way, y.bank with
      | (t, r, _) :: rest, some p =>
        if t ≤ s.cycle then
          let s := s.modBank b (fun k => k.setQueue q { x with binding := some { y with way := rest } })
          let z := (s.bank p).queue y.peerQ
          if z.sender.any (fun x => x.bank == some b && x.q == q) then
            s.modBank p (fun k => k.setQueue y.peerQ { z with rows := z.rows ++ [r], owed := z.owed ++ [some ⟨some b, q, y.id⟩] })
          else s
        else s
      | (t, r, limit) :: rest, none => if t ≤ s.cycle then
          noteMiss ((s.modBank b (fun k => k.setQueue q { x with binding := some { y with way := rest } })).sendOut (.row y.chip y.id r)) 2560 0 limit else s
      | [], _ => s
    | none => s
def execBoundRowArrival (b : BankId) (q : BitVec 4) (ext : Option Row) (s : State) : Out :=
  .next (boundRowArrival s b q.toNat ext)

/-- CREDIT_RETURN: a pop at the peer gives queue `q` of bank `b` a credit back. -/
def creditReturn (s : State) (b : BankId) (q : Nat) : State :=
  let x := (s.bank b).queue q
  match x.binding with
  | some y =>
    if y.bank.isSome && y.back = 0 || y.bank.isNone && !s.time.joined then s
    else if y.sent ≤ y.way.length then s
    else s.modBank b (fun k => k.setQueue q { x with binding := some { y with sent := y.sent - 1, back := y.back - 1 } })
  | none => s
def execCreditReturn (b : BankId) (q : BitVec 4) (s : State) : Out := .next (creditReturn s b q.toNat)

def setStage (s : State) (b : BankId) (q : Nat) (st : BindStage) : State :=
  s.modBank b (fun k => k.setQueue q { k.queue q with req := (k.queue q).req.map (fun r => { r with stage := st }) })

/-- A receiving queue takes a sender that asks for it: one that has none, or has this one already; else it refuses. -/
def Queue.claim (x : Queue) (y : Sender) : Option Queue :=
  match x.sender with
  | none => some { x with sender := some y }
  | some z => if z.bank = y.bank ∧ z.q = y.q ∧ (z.bank.isSome ∨ z.id = y.id) then some { x with sender := some y } else none

/-- A sender asks for queue `q` of bank `p`: whether it is accepted, and the state. -/
def claimQueue (s : State) (p : BankId) (q : Nat) (y : Sender) : Bool × State :=
  if (s.bank p).phase = .free then (false, s)
  else match ((s.bank p).queue q).claim y with
    | some x => (true, s.modBank p (·.setQueue q x))
    | none => (false, s)

/-- The answer to another chip's request for a queue of bank `p`. -/
def answerBind (s : State) (p : BankId) (r : RemoteBind) (q : Nat) : State :=
  let a := claimQueue s p q ⟨none, r.chip, r.id⟩
  a.2.sendOut (.bound r.chip r.id a.1)

/-- The requests of other chips held for a unit of a launch: answered in bank `p` when the unit is dispatched there (19 R322). -/
def answerHeld (s : State) (id u : Nat) (p : BankId) : State :=
  match s.launch? id with
  | some l =>
    let s := s.setLaunch id { l with binds := l.binds.filter (fun x => x.1.unit != u) }
    (l.binds.filter (fun x => x.1.unit == u)).foldl (fun s x => answerBind s p x.1 x.2) s
  | none => s

/-- A binding from another chip ends: every queue of the module it fed is free, a request still held is gone. -/
def freeRemote (s : State) (r : RemoteBind) : State :=
  let f := fun (q : Queue) => if q.sender = some ⟨none, r.chip, r.id⟩ then { q with sender := none } else q
  let g := fun (k : Bank) => { k with queues := k.queues.map f }
  let h := fun (x : RemoteBind × Nat) => !(x.1.chip == r.chip && x.1.id == r.id)
  { s with
    cores := s.cores.map (fun c => (c.1, { c.2 with bank0 := g c.2.bank0, bank1 := g c.2.bank1 }))
    host := { s.host with
      launches := s.host.launches.map (fun l => (l.1, { l.2 with binds := l.2.binds.filter h }))
      early := s.host.early.filter h } }

/-- Another chip's request for queue `q` of a unit of this chip: held until the unit is dispatched, its launch started first, then answered (19
R322). -/
def remoteBind (s : State) (r : RemoteBind) (q : Nat) : State :=
  if r.unbind then freeRemote s r
  else match s.launch? r.launch with
    | none => { s with host := { s.host with early := s.host.early ++ [(r, q)] } }
    | some l =>
      if l.done then s.sendOut (.bound r.chip r.id false)
      else match kfind l.units r.unit with
        | some (.placed p) => answerBind s p r q
        | some .waiting | some (.bound _) => s.setLaunch r.launch { l with binds := l.binds ++ [(r, q)] }
        | _ => s.sendOut (.bound r.chip r.id false)

/-- A request posted by queue `q` of bank `b` reaches the peer: held while the peer's unit is not dispatched, accepted where its
queue has no other sender, refused otherwise (18 R311, 19 R322). -/
def ownBind (s : State) (b : BankId) (q : Nat) : State :=
  match ((s.bank b).queue q).req with
  | none => s
  | some r =>
    if r.stage ≠ .posted then s
    else if r.chip ≠ s.time.chip.toNat then
      (setStage s b q (.asked none)).sendOut (.bind r.chip (r.word.setWidth 32) (r.word.extractLsb' 32 4) r.id)
    else match s.launchOf b with
      | none => setStage s b q (.asked (some false))
      | some l => match kfind l.units r.unit with
        | some .waiting | some (.bound _) => if l.cancel || l.done then setStage s b q (.asked (some false)) else s
        | some (.placed p) =>
          let a := claimQueue s p (r.word.extractLsb' 32 4).toNat ⟨some b, q, r.id⟩
          setStage a.2 b q (.asked (some a.1))
        | _ => setStage s b q (.asked (some false))

/-- BIND_REQUEST: what queue `q` of bank `b` has posted reaches its peer; with `ext`, what another chip asks of a queue numbered `q`. -/
def bindRequest (s : State) (b : BankId) (q : Nat) : Option RemoteBind → State
  | none => ownBind s b q
  | some r => remoteBind s r q
def execBindRequest (b : BankId) (q : BindStep) (s : State) : Out := .next (bindRequest s b q.q.toNat q.ext)

/-- BIND_ACK: the peer's answer reaches the sender; `ok` is what a peer on another chip answers. -/
def bindAck (s : State) (b : BankId) (q : Nat) (ok : Bool) : State :=
  match ((s.bank b).queue q).req with
  | some r => match r.stage with
    | .asked (some x) => setStage s b q (.answered x)
    | .asked none => setStage s b q (.answered ok)
    | _ => s
  | none => s
def execBindAck (b : BankId) (q : BitVec 4) (ok : Bool) (s : State) : Out := .next (bindAck s b q.toNat ok)

/-! ### GBAR_COMPLETION (04 R109) -/

/-- The arrival of a bank, one that a watchdog has interrupted among them, whose barrier holds its count. -/
def State.reached (s : State) (b : BankId) : Option GbarWait :=
  ((s.bank b).gbar.toList ++ (s.bank b).gkept).find? (fun g => !g.passed &&
    decide (g.target ≤ (match s.launchOf b with | some l => kget 0 l.barrier g.group | none => 0)))

/-- The arrival at a group has been completed. -/
def GbarWait.pass (g : GbarWait) (n : Nat) : GbarWait := if g.group = n then { g with passed := true } else g

/-- The barrier of a unit that has arrived holds its count: the snapshot is invalidated, a new phase begins, posted masks apply and the
checker drops completed records (18 R319). -/
def gbarCompletion (s : State) (b : BankId) : State :=
  match s.reached b with
  | none => s
  | some g =>
    let i := kget 0 (s.bank b).gcount g.group + 1
    let s := (acquire s b).modBank b (fun k => { k with
      gbar := k.gbar.map (·.pass g.group), gkept := k.gkept.map (·.pass g.group), gcount := kset k.gcount g.group i, epoch := k.epoch + 1
      check := k.check.filter (fun x => x.state != some true) })
    applySplits s b (1 + g.group + 1024 * i)
def execGbarCompletion (b : BankId) (s : State) : Out := .next (gbarCompletion s b)

/-! ### DISPATCH (20 R334; 01 R19; 17 R297) -/

/-- Whether a launch's unit holds a role on this chip. -/
def boundUnit (s : State) (l : Launch) (u : Nat) : Bool :=
  l.groups.any (fun g => g.ranks.any (fun r => r.bound && r.unit == u && r.chip == s.time.chip.toNat))

/-- Bound units of a launch not yet dispatched. -/
def boundWaiting (s : State) (l : Launch) : Nat :=
  (l.units.filter (fun x => x.2 == .waiting && boundUnit s l x.1)).length

/-- Whether a launch has begun to place its bound units and not finished. -/
def placing (s : State) (l : Launch) : Bool :=
  decide (0 < boundWaiting s l) && l.units.any (fun x => x.2 != .waiting && boundUnit s l x.1)

/-- Whether a bank can take a unit (R142, R334). -/
def Core.slotFree (c : Core) (slot : Bool) : Bool :=
  let k := c.bank slot
  c.usable && !c.resetting && k.phase == .free && !k.bindRec.valid && k.chans.all (fun x => !x.busy)

/-- Whether the masks of a launch leave the other bank's share alone. -/
def masksFree (o : Bank) (l : Launch) : Bool :=
  !o.bindRec.valid || (o.bindRec.spad &&& l.spad == 0 && o.bindRec.fst &&& l.fst == 0 && o.bindRec.cim &&& l.cim == 0)

/-- How many units of a launch a core can take now: never one granule or CIM bank for both slots (R334). -/
def Core.takes (c : Core) (l : Launch) : Nat :=
  match c.slotFree false, c.slotFree true with
  | true, true => if l.spad == 0 && l.fst == 0 && l.cim == 0 then 2 else 1
  | true, false => if masksFree c.bank1 l then 1 else 0
  | false, true => if masksFree c.bank0 l then 1 else 0
  | false, false => 0

/-- Slots of the module that can take units of a launch now. -/
def freeSlots (s : State) (l : Launch) : Nat :=
  (Config.coreCount - s.cores.length) * Core.reset.takes l + (s.cores.map (fun c => c.2.takes l)).sum

/-- Whether Helmal may place unit `u` of launch `id` now: all bound units together, no other launch's unit between them, then the others in
ascending order. -/
def mayPlace (s : State) (id : Nat) (l : Launch) (u : Nat) : Bool :=
  !(s.host.launches.any (fun x => x.1 != id && placing s x.2)) &&
  if boundUnit s l u then decide (boundWaiting s l ≤ freeSlots s l)
  else boundWaiting s l == 0 &&
    !(l.units.any (fun x => x.2 == .waiting && decide (x.1 < u)))

/-- The strip of a core, and whether it is in RUN (24 R385, R388). -/
def stripNo (core : Nat) : Nat := corePos core
def coreAwake (s : State) (core : Nat) : Bool :=
  s.fleet.module == .run && kget .run s.fleet.dies (dieOf core) == .run && kget .run s.fleet.strips (stripNo core) == .run

/-- The instruction words of a text as it stands (01 R33): the words, or how the read ends. -/
inductive TextRead where
  | ok (ws : List W32)
  | stop (s : State)
  | fails (c : Cause) (va : W64)
  deriving DecidableEq, Repr

def wordsOf (d : List Byte) : List W32 := (List.range (d.length / 4)).map (fun i => BitVec.ofNat 32 (leAt d (4 * i) 4))

/-- Reads the lines of a text through the core's translations; `fuel` bounds the lines. -/
def readText (s : State) (b : BankId) (ctx : Nat) (va : W64) : Nat → Nat → List Byte → TextRead
  | 0, _, acc => .ok (wordsOf acc)
  | f + 1, n, acc =>
    if n = 0 then .ok (wordsOf acc)
    else
      let k := min n 64
      match translate s b.core ctx none va .fetch with
      | .forbidden => .fails .accessViolation va
      | .held => .stop s
      | .miss => .stop (requestWalk s (dieOf b.core) ctx va (.dispatch b) false)
      | .ok pa =>
        match keptAt s (.source (.dispatch b)) [(pa, k)] with
        | some t => .stop t
        | none =>
          if !(armedIn s pa k).isEmpty || !homeAwake s pa then .stop (touchBytes s pa k)
          else if poisonedIn s pa k then .fails .memUncorrected va
          else readText s b ctx (va + BitVec.ofNat 64 k) f (n - k) (acc ++ s.look pa k)

/-- The homes that the reads of a text have reached (24 R387). -/
def textTouch (s : State) (b : BankId) (ctx : Nat) (va : W64) (n : Nat) : State :=
  served ((pieces va (n / 64 + 2) n).foldl (fun s p => match translate s b.core ctx none p.1 .fetch with
    | .ok a => touchBytes s a p.2
    | _ => s) s) (.source (.dispatch b)) 1

/-- Granules of `mask` that last belonged to another context pass to `ctx` and are cleared; SRAM rows of 64 KiB (R127). -/
def clearGranules (c : Core) (mask : BitVec 16) (ctx : BitVec 16) : Core :=
  let gs := (List.range 16).filter (fun g => mask.getLsbD g && kfind c.spadOwner g != some ctx)
  { c with
    spad := c.spad.filter (fun r => !gs.contains (r.1 / 256))
    inj := c.inj.filter (fun j => !(j.store == 0 && gs.contains (j.addr / 65536)))
    spadOwner := gs.foldl (fun o g => kset o g ctx) c.spadOwner }

/-- The factor-store granules and CIM banks of a share pass to `ctx`. A context number that has been unregistered and registered anew counts as the
same context (07 R174; DESIGN CHOICE, log entry 63). -/
def passStores (c : Core) (fst : BitVec 20) (cim : BitVec 2) (ctx : BitVec 16) : Core :=
  let c := { c with fstOwner := ((List.range 20).filter (fst.getLsbD ·)).foldl (fun o g => kset o g ctx) c.fstOwner }
  let pass := fun (x : CimBank) => if x.owner = some ctx then x else { CimBank.reset with owner := some ctx }
  { c with cim0 := if cim.getLsbD 0 then pass c.cim0 else c.cim0, cim1 := if cim.getLsbD 1 then pass c.cim1 else c.cim1 }

/-- A `.tile` entry (02 R55): the tile it installs and its number. -/
def tileEntry (d : List Byte) : Nat × Tile :=
  (leAt d 13 1, { Tile.null with
    base := leAt d 0 8, rows := leAt d 8 2, len := leAt d 10 2, fmt := leAt d 12 1
    scale := if leAt d 14 1 = 0xFF then none else some (leAt d 14 1), state := .ready })

/-- A `.stream` entry (02 R55): the configuration it installs and its number. -/
def streamEntry (d : List Byte) : Nat × DataStream :=
  (leAt d 48 1, { DataStream.reset with
    base := BitVec.ofNat 64 (leAt d 0 8)
    dims := (List.range 5).map (fun i => ⟨leAt d (8 + 8 * i) 4, sgn 32 (leAt d (12 + 8 * i) 4)⟩) })

/-- A stream as unit start leaves it (03 R64, 04 R87). -/
def Launch.stream (l : Launch) : Stream :=
  { Stream.reset with rndctl := l.rnd &&& rndMask, srctr := l.srctr, stallctl := if l.stallck then 1 else 0 }

/-- The bank as unit start leaves it: reset but for what the launch sets, and stores that a reset of the core has left on their way; C
stands at the entry (01 R19). -/
def startBank (old : Bank) (l : Launch) (r : BindRecord) (ws : List W32) (cycle : Nat) : Bank :=
  let x := l.stream
  let b : Bank := { Bank.reset with
    bindRec := r, phase := .running, runnable := true, text := ws, textBase := l.text, textLen := l.textLen, params := l.params
    wdog := l.wdog, residue := l.residue, a := x, v := x, m := x, k := x, opSeq := old.opSeq
    mem := { BankMem.reset with seq := old.mem.seq, snap := old.mem.seq, sent := old.mem.sent, unacked := old.mem.unacked }
    c := { x with pc := l.text + BitVec.ofNat 64 l.entry, status := .running, nextIssue := cycle + 1 } }
  let b := l.tiles.foldl (fun b d => let t := tileEntry d; b.setTile t.1 t.2) b
  l.streams.foldl (fun b d => let t := streamEntry d; b.setDs t.1 t.2) b

/-- The bind record of a placement (R334). -/
def bindOf (l : Launch) (id u : Nat) : BindRecord :=
  { launch := BitVec.ofNat 32 id, unit := BitVec.ofNat 20 u, desc := l.desc, params := l.paramVa, ctx := BitVec.ofNat 16 l.ctx
    spad := l.spad, fst := l.fst, cim := l.cim, valid := true, resume := false }

/-- A unit that fails before its first word (21 R348, R349). -/
def failDispatch (s : State) (b : BankId) (l : Launch) (c : Cause) (tv : W64) : State :=
  let s := (s.unitError b 10 (mkTrap c tv) (l.text + BitVec.ofNat 64 l.entry)).noteFailure b c
  unitEnds s b .failed

/-- A unit's place is chosen; of a bound unit it enters the group binding table entry (R308), of every bound unit before the first
starts. -/
def Launch.place (l : Launch) (u : Nat) (b : BankId) : Launch :=
  { l with units := kset l.units u (.bound b), groups := l.groups.map (fun g => { g with ranks := g.ranks.map (fun r =>
      if r.bound && r.unit == u then { r with core := b.core } else r) }) }

/-- A bank that is lost before its unit starts: the unit waits again. -/
def Launch.unbind (l : Launch) (b : BankId) : Launch :=
  { l with units := l.units.map (fun u => if u.2 = .bound b then (u.1, .waiting) else u) }

/-- DISPATCH of unit `u` of launch `id` into bank `b`: `b`, `id` and `u` are Helmal's choice. The bind record becomes valid, which
wakes the core (24 R388); once every bound unit has its place, the text is read, and the unit starts. -/
def dispatch (s : State) (b : BankId) (id u : Nat) : State :=
  let k := s.bank b
  match s.launch? id with
  | none => s
  | some l =>
    let mine := kfind l.units u == some (.bound b)
    if b.core ≥ Config.coreCount || l.done || l.cancel || !(mine || kfind l.units u == some .waiting) || k.phase ≠ .free then s
    else if !mine && (!(s.core b.core).slotFree b.slot || !mayPlace s id l u || !masksFree (s.bank ⟨b.core, !b.slot⟩) l) then s
    else if k.faults.any (fun f => !f.refused) && mine then s
    else
      let r := bindOf l id u
      let s := if mine then s else (s.modBank b (fun k => { k with bindRec := r, faults := [] })).modLaunch id (·.place u b)
      if !coreAwake s b.core || (match s.launch? id with | some l => boundWaiting s l != 0 | none => false) then s
      else match (s.bank b).faults.find? (·.refused) with
      | some f => failDispatch s b l .translationRefused f.va
      | none =>
        match (s.bank b).badWalks.find? (fun w => w.2 == .dispatch b) with
        | some w => failDispatch (s.modBank b (fun k => { k with badWalks := [] })) b l .accessViolation (if vaBits l.text / 65536 = w.1 then l.text else BitVec.ofNat 64 (w.1 * 65536))
        | none =>
          match readText s b l.ctx l.text 513 l.textLen [] with
          | .stop t => t
          | .fails c va => failDispatch s b l c va
          | .ok ws =>
            let s := textTouch s b l.ctx l.text l.textLen
            let c := clearGranules (s.core b.core) l.spad r.ctx
            let c := passStores c l.fst l.cim r.ctx
            let s := s.setCore b.core (c.setBank b.slot (startBank (c.bank b.slot) l r ws s.cycle))
            answerHeld (s.modLaunch id (fun l => { l with units := kset l.units u (.placed b) })) id u b
def execDispatch (b : BankId) (launch unit : Nat) (s : State) : Out := .next (dispatch s b launch unit)

/-! ### BANK_SWITCH (01 R28) -/

/-- Whether a stream of the active bank is at rest. -/
def Stream.rests (x : Stream) : Bool :=
  match x.status with
  | .running => x.block.isSome || (x.lock && x.pend.isEmpty)
  | _ => true

/-- A stands behind a page fault that has no answer yet, its own or one that counts as its own (05 R124; 21 R347). -/
def Bank.aStopped (k : Bank) : Bool := k.faults.any (fun f => !f.refused && f.src.ofA)

/-- Whether rows with a place before `mark` wait for the answer to a fault of their stream. -/
def Bank.rowsFaulted (k : Bank) (mark : Nat) : Bool :=
  (List.range 8).any (fun n => k.streamHeld n && (k.moves.any (fun m => m.drain && m.stream == n && decide (m.seq < mark)) ||
    (match (k.ds n).run with | some r => r.write && r.buf.any (fun x => decide (x.seq < mark)) | none => false)))

/-- Whether a request can go on only after the answer: its release, or a store to its granules, stands behind such rows. -/
def Bank.reqFaulted (k : Bank) (r : MemReq) : Bool :=
  r.rel.any k.rowsFaulted ||
  k.mem.dirty.any (fun e => decide (e.seq < r.seq) && overlaps (granules r.pieces) [(e.pa, e.data.length)] && k.rowsFaulted e.seq)

/-- Whether a request is left that can be performed before the answer, behind those passed over. -/
def Bank.leftBefore (k : Bank) (p : Passed) : List MemReq → Bool
  | [] => false
  | r :: l => (!r.behind p && !k.reqFaulted r) || (match p.pass r with | some p => k.leftBefore p l | none => false)

/-- Whether rows that a stream has asked for are still to be read, but for those that wait for the answer too. -/
def Bank.rowsLeft (k : Bank) : Bool :=
  k.dstreams.any (fun d => d.run.any (fun r => r.asked.any (·.got.isNone) && !k.rowsFaulted r.seq))

/-- Whether the A words issued before a fault have completed (21 R347, R368), but for those that stand behind rows which wait for the
answer too. -/
def Bank.aDone (k : Bank) : Bool := k.mem.returns.isEmpty && !k.leftBefore ⟨[], [], false⟩ k.mem.reqs && !k.rowsLeft

/-- Whether the release of a pre-empted unit is complete (11 R256); behind a fault it is completed after the answer. -/
def State.yieldDone (s : State) (b : BankId) : Bool :=
  match (s.bank b).yielded with
  | some y => (s.bank b).aStopped || s.released b y.1
  | none => true

/-- No M nest, K operation or V operation is in flight, and every stream is at rest, A behind a fault with its older words
complete; a pre-empted unit's C has stopped. -/
def Bank.rests (k : Bank) : Bool :=
  (k.phase == .preempted || k.c.rests) && (k.aStopped || k.a.rests) && k.v.rests && k.m.rests && k.k.rests &&
  k.mEng.nest.isNone && k.mEng.backs.isEmpty && k.kEng.op.isNone && k.v.pend.isEmpty &&
  ((k.a.status != .faulted && !k.aStopped) || k.aDone)

/-- A bank at rest whose release, where it gives way, is complete. -/
def State.rests (s : State) (b : BankId) : Bool := (s.bank b).rests && s.yieldDone b

/-- Whether a bank's unit is ending: its rows go on when it is active (23 R382). -/
def Bank.ends (k : Bank) : Bool := match k.phase with | .ending _ => true | _ => false

/-- Whether an event of R28 calls for a switch away from bank `k` to bank `o`. -/
def switchWanted (c : Core) (k o : Bank) : Bool :=
  o.ready && (k.phase == .free || k.phase == .preempted || k.aStopped ||
    ((o.back || o.ends) && (c.want || engines.any (fun e => (k.stream e).block.isSome))))

/-- The bank that becomes active; its accesses follow those of the bank that is left, up to place `seq`, in the core's FIFO (11 R263). A
pre-empted unit resumes (an acquire at SYS, 11 R256), to end if it gave way at its end. -/
def Bank.activate (k : Bank) (seq : Nat) : Bank :=
  let k := { k with back := false, mem := { k.mem with seq := max k.mem.seq seq } }
  if k.phase = .preempted then
    let x := { k with phase := .running, preempt := none, yielded := none, bindRec := { k.bindRec with resume := false }, mem := k.mem.acquire }
    if k.yielded.any (·.2) then { x.haltAll with phase := .ending .complete, cancel := false, gbar := none, gkept := [] } else x
  else k

/-- A stream whose bank is left asks anew, when that is active again, for the rows that it has not read (23 R382). -/
def DataStream.leave (d : DataStream) : DataStream :=
  { d with run := d.run.map (fun r => { r with asked := r.asked.takeWhile (·.got.isSome) }) }

/-- The bank that is left: behind a page fault it waits for the answer, a pre-empted one for Helmal too (01 R28). -/
def Bank.leave (k : Bank) : Bank :=
  { k with dstreams := k.dstreams.map DataStream.leave, runnable := k.runnable && !(k.aStopped && k.phase != .preempted) }

/-- BANK_SWITCH: begins where R28 calls for it and lets it take place, and ends 32 cycles later. -/
def bankSwitch (s : State) (core : Nat) : State :=
  let c := s.core core
  match c.switching with
  | some t =>
    if t ≤ s.cycle then
      let c := c.setBank c.active (c.bank c.active).leave
      let c := c.setBank (!c.active) ((c.bank (!c.active)).activate (c.bank c.active).mem.seq)
      s.setCore core { c with active := !c.active, switching := none, want := false }
    else s
  | none =>
    if switchWanted c (c.bank c.active) (c.bank (!c.active)) && s.rests ⟨core, c.active⟩ then
      s.setCore core { c with switching := some (s.cycle + 32) }
    else s
def execBankSwitch (core : Nat) (s : State) : Out := .next (bankSwitch s core)

/-! ### Pre-emption (21 R355) -/

/-- Whether a requested pre-emption still spends its budget: until the bank has come to rest (17 R305). -/
def State.spends (s : State) (b : BankId) : Bool :=
  (s.bank b).preempt.isSome && !((s.bank b).phase == .preempted && s.rests b)

/-- PREEMPT_REQUEST: a running unit is asked to give way; its budget starts. -/
def preemptRequest (s : State) (b : BankId) : State :=
  let k := s.bank b
  if k.phase = .running && k.preempt.isNone then
    let p := (s.ctxOf b).pbudget
    s.modBank b (fun k => { k with preempt := some s.tick, budget := if p = 0 then 400000 else p })
  else s
def execPreemptRequest (b : BankId) (s : State) : Out := .next (preemptRequest s b)

/-- UNIT_RESUME: Helmal sets a pre-empted bank runnable. -/
def unitResume (s : State) (b : BankId) : State :=
  let k := s.bank b
  if k.phase = .preempted then
    if (s.core b.core).active = b.slot && (s.core b.core).switching.isNone then
      s.modBank b (fun k => { k.activate ((s.core b.core).bank (!b.slot)).mem.seq with runnable := true })
    else s.modBank b (fun k => { k with runnable := true, back := true })
  else s
def execUnitResume (b : BankId) (s : State) : Out := .next (unitResume s b)

/-! ### Per-core reset (21 R357) -/

/-- A reset of a core begins: nothing issues on it any more. -/
def startReset (s : State) (core : Nat) : State :=
  if core < Config.coreCount then s.setCore core { s.core core with resetting := true, usable := false } else s

/-- CORERST. -/
def execCorerst (val : BitVec 64) (s : State) : Out := .next (startReset s (val.extractLsb' 0 11).toNat)

/-- CONTROL_STATE_ERROR. -/
def execControlStateError (core : Nat) (s : State) : Out := .next (startReset s core)

/-- The unit of a bank, started or only placed, is lost: its error record (whose source the spec leaves open, log entry 5), its end,
nothing of its work left. -/
def loseUnit (s : State) (b : BankId) : State :=
  let s := abandonBank s b
  if (s.bank b).phase = .free && !(s.bank b).bindRec.valid then s
  else
    let (f, s) := s.fresh
    unitEnds (s.unitError b (f % 12) (mkTrap .unitLost 0) 0) b .lost

/-- A bank after a reset of its core: stores that had left the FIFO are still on their way, in the context they were made in. -/
def Bank.afterReset (k : Bank) : Bank :=
  { Bank.reset with
    opSeq := k.opSeq, bindRec := { BindRecord.reset with ctx := k.bindRec.ctx }
    mem := { BankMem.reset with seq := k.mem.seq, sent := k.mem.sent, unacked := k.mem.unacked } }

/-- CORE_RESET_DONE: both banks, the TLB, queues, channels and FIFO are cleared; the core stays unusable until tested again. -/
def coreResetDone (s : State) (core : Nat) : State :=
  if (s.core core).resetting then
    let o := s.core core
    let s := loseUnit (loseUnit s ⟨core, false⟩) ⟨core, true⟩
    let c := s.core core
    s.setCore core { Core.reset with
      usable := false, spad := c.spad, spadOwner := c.spadOwner, fstOwner := c.fstOwner, cim0 := c.cim0, cim1 := c.cim1
      retained := c.retained, lastUse := c.lastUse, redir := c.redir, tap := c.tap, replies := c.replies
      bank0 := o.bank0.afterReset, bank1 := o.bank1.afterReset }
  else s
def execCoreResetDone (core : Nat) (s : State) : Out := .next (coreResetDone s core)

/-- CORE_RETEST: firmware's test of a reset core ends. -/
def coreRetest (s : State) (core : Nat) (ok : Bool) : State :=
  if core < Config.coreCount && !(s.core core).resetting && ok then s.setCore core { s.core core with usable := true } else s
def execCoreRetest (core : Nat) (ok : Bool) (s : State) : Out := .next (coreRetest s core ok)

end Sys2Proof.Machine
end

