-- ==== Sys2Proof/Machine/Completion.lean ====
section
/-! DEFINITION. What parties of an I/O die read and write through a context's tables (log entry 9), and how launches, graph runs,
packets, stages and jobs complete (01 R20; 20 R328, R333, R337). -/

namespace Sys2Proof.Machine

/-! ### The I/O die's reach -/

/-- What an I/O-die party finds for a VA, walking the tables. -/
def ioFind (s : State) (ctx : Nat) (va : W64) (a : Access) : Tr :=
  if !canonical va then .forbidden
  else match walkTable s ctx (vaBits va / 65536) with
    | .entry e => ioTr s ctx e va a
    | .host iova e => match s.host.ats.find? (·.iova == iova) with
      | some x => ioTr s ctx { e with frame := x.frame } va a
      | none => .miss
    | .fault => .miss
    | .forbidden => .forbidden
def ioAddr (s : State) (ctx : Nat) (va : W64) (a : Access) : Option Nat := match ioFind s ctx va a with | .ok pa => some pa | _ => none

/-- The bytes at a VA as an I/O-die party reads them from home, where every line translates and none is poisoned. -/
def vaRead (s : State) (ctx : Nat) (va : W64) (n : Nat) : Option (List Byte) :=
  ((pieces va (n / 64 + 2) n).mapM (fun (p : W64 × Nat) =>
    (ioAddr s ctx p.1 .read).bind (fun a => if poisonedIn s a p.2 then none else some (s.look a p.2)))).map List.flatten

/-- Such a read reaches its homes, through the tables, and meets injected errors (21 R367; 24 R388). -/
def vaMeet (s : State) (ctx : Nat) (va : W64) (n : Nat) : State :=
  (pieces va (n / 64 + 2) n).foldl (fun s p =>
    let s := walkMeet s ctx (vaBits p.1 / 65536)
    match ioAddr s ctx p.1 .read with
    | some a => touchBytes s a p.2
    | none => s) s

/-- What it reads: its entries and its bytes at their homes. -/
def vaPieces (s : State) (ctx : Nat) (va : W64) (n : Nat) : List (Nat × Nat) :=
  (pieces va (n / 64 + 2) n).flatMap (fun p => (walkReads s ctx (vaBits p.1 / 65536)).map (fun a => (a, 8)) ++
    (match ioFind s ctx p.1 .read with | .ok a => [(a, p.2)] | _ => []))

/-- The state in which such a read by a party waits, where a way is changing its role or a home keeps it (18 R314; 22 R375, R378). -/
def vaKept (s : State) (x : Asker) (ctx : Nat) (va : W64) (n : Nat) : Option State :=
  if (pieces va (n / 64 + 2) n).any (fun p => ioFind s ctx p.1 .read == .held) then some (noteAsked s x)
  else keptAt s x (vaPieces s ctx va n)

/-- Bytes written at a VA by an I/O-die party: a line that does not translate is left out (log entry 16). -/
def vaWrite (s : State) (ctx : Nat) (va : W64) (d : List Byte) : State :=
  ((pieces va (d.length / 64 + 2) d.length).foldl (fun (x : State × List Byte) p =>
    let s := walkMeet x.1 ctx (vaBits p.1 / 65536)
    ((match ioAddr s ctx p.1 .write with | some a => s.write a (x.2.take p.2) | none => s), x.2.drop p.2)) (s, d)).1

/-! ### Queues, stages and jobs -/

def State.queue (s : State) (q : Nat) : WorkQueue := kget WorkQueue.reset s.host.queues q
def State.setQueue (s : State) (q : Nat) (x : WorkQueue) : State :=
  { s with host := { s.host with queues := kset s.host.queues q x } }

/-- A packet of a queue completes: the job's counter rises (20 R328). -/
def packetDone (s : State) (q pkt : Nat) : State :=
  let x := s.queue q
  if x.active.contains pkt then
    let s := s.setQueue q { x with active := x.active.erase pkt }
    { s with host := { s.host with jobcnt := bumpAt s.host.jobcnt x.job } }
  else s

/-- A launch or graph run scheduled in a stage completes (01 R20). -/
def stageItem (s : State) : Option Nat → State
  | some n => { s with host := { s.host with
      stagecnt := bumpAt s.host.stagecnt n
      stages := kupd ⟨[], 0⟩ s.host.stages n (fun x => { x with open_ := x.open_ - 1 }) } }
  | none => s

/-! ### Completion records (20 R333) -/

/-- The stage in which a launch itself is scheduled: a node of a graph run is not, its run is (R20, R330). -/
def Launch.ownStage (l : Launch) : Option Nat := match l.origin with | .queue _ _ => l.stage | _ => none

/-- A completion record's first 32 bytes and the report. -/
def completionBytes (status cause id ended lost ovr tick : Nat) (report : Option (List Byte)) : List Byte :=
  leBytes 1 status ++ leBytes 1 cause ++ leBytes 2 0 ++ leBytes 4 id ++ leBytes 4 ended ++ leBytes 4 lost ++
  leBytes 8 ovr ++ leBytes 8 tick ++ report.getD (List.replicate 32 0)

/-- STATUS and the cause code (R333, R339, R351, R356; log entry 17). -/
def statusOf (killed cancelled : Bool) (first : Option Cause) : Nat × Nat :=
  let c := match first with | some c => c.code | none => 0
  if killed then (3, 0) else if cancelled then (2, c) else if first.isSome then (3, c) else (1, 0)

/-- Adds SINC to SSEM where it is valid (R333). -/
def addSsem (s : State) (ctx ssem sinc : Nat) : State :=
  if ssem / 32768 % 2 = 1 then semAdd s ctx (ssem % 1024) (BitVec.ofNat 32 sinc) else s

/-- A graph run's header. -/
def GraphRun.nodes (r : GraphRun) : Nat := leAt r.image 0 2

/-- A run whose last node has completed completes: record, semaphore, stage, packet (R337). What the record holds of a launch's
id, unit counts and OVERRULED the spec does not say for a graph (free values, log entry 5). -/
def runDone (s : State) (n : Nat) (r : GraphRun) : State :=
  let (f, s) := s.fresh
  let st := statusOf r.killed r.cancel r.first
  let rec_ := completionBytes st.1 st.2 (f % 4294967296) (f / 4294967296 % 4294967296) (f / 18446744073709551616 % 4294967296)
    (f / 79228162514264337593543950336 % 18446744073709551616) s.tick r.async
  let s := vaWrite s r.ctx (BitVec.ofNat 64 (leAt r.image 8 8)) rec_
  let s := addSsem s r.ctx (leAt r.image 16 2) (leAt r.image 18 2)
  let s := { s with host := { s.host with runs := kset s.host.runs n { r with done := true } } }
  let s := stageItem s r.stage
  match r.origin with
  | some (q, p) => packetDone s q p
  | none => s

/-- A node of a graph run completes, with its first failure (01 R20, 20 R337). -/
def nodeDone (s : State) (run node : Nat) (first : Option Cause) : State :=
  match kfind s.host.runs run with
  | none => s
  | some r =>
    if r.done || r.ended.contains node then s
    else
      let r := { r with ended := node :: r.ended, count := r.count + 1, first := if r.first.isSome then r.first else first }
      if r.count ≥ r.nodes then runDone s run r
      else { s with host := { s.host with runs := kset s.host.runs run r } }

/-- LAUNCH_COMPLETE (R333): every unit of the launch on this chip has ended; the record is written, SSEM raised, and what
started the launch goes on. -/
def launchComplete (s : State) (id : Nat) : State :=
  match s.launch? id with
  | none => s
  | some l =>
    if l.done || decide (l.count < l.units.length) then s
    else
      let st := statusOf l.killed l.cancel l.first
      let s := vaWrite s l.ctx l.crec (completionBytes st.1 st.2 id l.count l.lost l.dropped s.tick l.async)
      let s := addSsem s l.ctx l.ssem l.sinc
      let s := l.binds.foldl (fun s x => s.sendOut (.bound x.1.chip x.1.id false)) s
      let s := s.setLaunch id { l with done := true, binds := [] }
      let s := { s with mem := { s.mem with slices := s.mem.slices.map (fun x =>
        if x.2.owner = some id then (x.1, { x.2 with owner := none }) else x) } }
      let s := stageItem s l.ownStage
      match l.origin with
      | .queue q p => packetDone s q p
      | .graph r n => nodeDone s r n l.first
      | .unit _ => s
def execLaunchComplete (id : Nat) (s : State) : Out := .next (launchComplete s id)

end Sys2Proof.Machine
end

