-- ==== Sys2Proof/Machine/Collective.lean ====
section
/-! DEFINITION. The escapement: collective commands and their checks, posting, notices, tickets, starts, transfers, completion and
aborts (12 R273–R292; 05 R145; 18 R310). -/

namespace Sys2Proof.Machine

/-! ### Commands (12 R273–R277) -/

/-- Fields of a collective command. -/
def cType (d : List Byte) : Nat := leAt d 0 1
def cOpr (d : List Byte) : Nat := leAt d 1 1 / 16
def cFmt (d : List Byte) : Nat := leAt d 1 1 % 16
def cFlags (d : List Byte) : Nat := leAt d 2 2
def cMode (d : List Byte) : Nat := bits (cFlags d) 5 4
def cShift (d : List Byte) : Nat := bits (cFlags d) 10 6
def cGroup (d : List Byte) : Nat := leAt d 4 2
def cWsem (d : List Byte) : Nat := leAt d 6 2
def cSsem (d : List Byte) : Nat := leAt d 12 2
def cPeers (d : List Byte) : BitVec 64 := BitVec.ofNat 64 (leAt d 16 8)
def cExt (d : List Byte) : List Nat := (List.range 4).map (fun i => leAt d (40 + 2 * i) 2)
def cStr (d : List Byte) (at_ : Nat) : List Int := (List.range 4).map (fun i => s16 (leAt d (at_ + 2 * i) 2))

/-- Element size in bytes, element count C, member count g. -/
def cSize (d : List Byte) : Nat := fmtBits (cFmt d) / 8
def cCount (d : List Byte) : Nat := (cExt d).foldl (· * ·) 1
def members (p : BitVec 64) : List Nat := (List.range 64).filter (p.getLsbD ·)

/-- What OPR and FMT a type allows (R275). -/
def cKindOk (d : List Byte) : Bool :=
  let t := cType d
  let f := cFmt d
  let red := f == fmtFp32 || f == fmtBf16 || f == fmtI32 || f == fmtI64
  let wide := fmtBits f == 8 || fmtBits f == 16 || fmtBits f == 32 || fmtBits f == 64
  if t = 0x40 || t = 0x44 then decide (cOpr d ≤ 2) && red
  else if t = 0x41 then (decide (cOpr d ≤ 2) && red) || (cOpr d == 3 && f == fmtFp32)
  else if t = 0x42 || t = 0x43 then cOpr d == 0 && wide
  else false

/-- A collective group's entry (18 R310): chip and role of each rank; none where the table does not hold it within the limits.
`n` bounds the entries read. -/
def findGroup (s : State) (ctx g : Nat) : Nat → W64 → Option (List (Nat × Nat))
  | 0, _ => none
  | n + 1, va =>
    match vaRead s ctx va 16 with
    | none => none
    | some h =>
      let r := leAt h 2 1
      if r = 0 then none
      else if leAt h 0 2 = g then
        match vaRead s ctx (va + 16) (8 * r) with
        | none => none
        | some e =>
          let rs := (List.range r).map (fun i => (leAt e (8 * i + 4) 2, leAt e (8 * i) 4))
          let clean := (h.drop 3).all (· == 0) && (List.range r).all (fun i => leAt e (8 * i + 6) 2 == 0)
          if r ≤ 64 && g < 1024 && clean && decide (rs.map (·.1)).Nodup then some rs else none
      else findGroup s ctx g n (va + BitVec.ofNat 64 (16 + 8 * r))

def groupOf (s : State) (ctx g : Nat) : Option (List (Nat × Nat)) := findGroup s ctx g 1024 (s.ctx ctx).groupVa

/-- The bytes of the group table that a search for a group reads. -/
def groupSpan (s : State) (ctx g : Nat) : Nat → W64 → Nat
  | 0, _ => 0
  | n + 1, va => match vaRead s ctx va 16 with
    | none => 16
    | some h => if leAt h 2 1 = 0 then 16 else if leAt h 0 2 = g then 16 + 8 * leAt h 2 1
      else 16 + 8 * leAt h 2 1 + groupSpan s ctx g n (va + BitVec.ofNat 64 (16 + 8 * leAt h 2 1))

/-- The check of a command reads the table: how a party waits for it, and what it meets there (21 R367). -/
def groupKept (s : State) (x : Asker) (ctx : Nat) (d : List Byte) : Option State :=
  vaKept s x ctx (s.ctx ctx).groupVa (groupSpan s ctx (cGroup d) 1024 (s.ctx ctx).groupVa)
def groupMeet (s : State) (ctx : Nat) (d : List Byte) : State := vaMeet s ctx (s.ctx ctx).groupVa (groupSpan s ctx (cGroup d) 1024 (s.ctx ctx).groupVa)

/-- This chip's rank in a group. -/
def ownRank (s : State) (rs : List (Nat × Nat)) : Option Nat := (findIdx1 (fun (r : Nat × Nat) => r.1 == s.time.chip.toNat) rs 0).map (·.1)

/-- The checks of R277. -/
def commandOk (s : State) (ctx : Nat) (d : List Byte) : Bool :=
  let z := cSize d
  cKindOk d && cMode d != 3 && bits (cFlags d) 15 11 == 0 && bits (cWsem d) 14 10 == 0 && bits (cSsem d) 14 10 == 0 &&
  (cExt d).all (· != 0) && leAt d 24 8 % z == 0 && leAt d 32 8 % z == 0 && cPeers d != 0 &&
  (match groupOf s ctx (cGroup d) with
   | some rs => (members (cPeers d)).all (· < rs.length) && (match ownRank s rs with | some r => (cPeers d).getLsbD r | none => false)
   | none => false) &&
  (cOpr d != 3 || ((cExt d).drop 1 == [1, 1, 1] && (cStr d 48).headD 0 == 1 && (cStr d 56).headD 0 == 1 && cShift d == 0 &&
    cCount d % 64 == 0))

/-- The digest (R278). -/
def digestOf (d : List Byte) : Digest := ⟨cType d, cOpr d, cFmt d, cMode d, cCount d⟩

/-! ### Matches and segments (12 R278; 21 R358) -/

/-- How often a context has posted for a group and peers. -/
def Ctx.posts (c : Ctx) (g : Nat) (p : BitVec 64) : Nat :=
  match c.matched.find? (fun m => m.1 == g && m.2.1 == p) with | some m => m.2.2 | none => 0

/-- The interval of addresses one side of a command covers, over its blocks. -/
def cInterval (d : List Byte) (base at_ blocks : Nat) : Option (Nat × Nat) :=
  let z := cSize d
  let terms := ((cExt d).zip (cStr d at_)).map (fun x => ((x.1 : Int) - 1) * x.2)
  let sc : Int := ((z * (1 <<< cShift d) : Nat) : Int)
  let lo : Int := (leAt d base 8 : Int) + sc * (terms.map (min 0)).sum
  let hi : Int := (leAt d base 8 : Int) + sc * (terms.map (max 0)).sum + (z : Int) - 1 + (((blocks - 1) * cCount d * z : Nat) : Int)
  if lo < 0 || hi ≥ ((1 <<< 64 : Nat) : Int) then none else some (lo.toNat, hi.toNat)

/-- Blocks on the source and destination side (R275, R289). -/
def srcBlocks (d : List Byte) : Nat := if cType d = 0x44 then (members (cPeers d)).length else 1
def dstBlocks (d : List Byte) : Nat :=
  if cType d = 0x43 || (cType d = 0x41 && cOpr d = 3) then (members (cPeers d)).length else 1

/-! ### The table -/

def State.entry? (s : State) (p : CollId) : Option CollEntry := s.esc.table.find? (·.id == p)
def State.modEntry (s : State) (p : CollId) (f : CollEntry → CollEntry) : State :=
  { s with esc := { s.esc with table := s.esc.table.map (fun e => if e.id = p then f e else e) } }

/-- An entry is freed: its busy counts fall, and what posted it goes on (R287, R290). -/
def freeEntry (s : State) (e : CollEntry) (first : Option Cause) : State :=
  let s := busyBy s e.id.ctx (-1) e.segs
  let s := unasked { s with esc := { s.esc with
    table := s.esc.table.filter (·.id != e.id), refused := s.esc.refused.filter (· != e.id)
    notices := s.esc.notices.filter (·.1 != e.id), issued := s.esc.issued.filter (·.id != e.id) } } (.source (.coll e.id))
  match e.origin with
  | .queue q p => packetDone s q p
  | .graph r n => nodeDone s r n first
  | .unit _ => s

/-! ### The places a transfer reads and writes (12 R275, R276) -/

/-- Address of element `n` of a side's block `r` (R276). -/
def elemAddr (d : List Byte) (base at_ r n : Nat) : W64 :=
  let e := cExt d
  let is := [n % e.getD 0 1, n / e.getD 0 1 % e.getD 1 1, n / e.getD 0 1 / e.getD 1 1 % e.getD 2 1,
    n / e.getD 0 1 / e.getD 1 1 / e.getD 2 1]
  let o : Int := ((is.zip (cStr d at_)).map (fun x => (x.1 : Int) * x.2)).sum
  BitVec.ofNat 64 (leAt d base 8) + w64 (((cSize d * (1 <<< cShift d) : Nat) : Int) * o) + BitVec.ofNat 64 (r * cCount d * cSize d)

/-- How the escapement's reach of an element ends. -/
inductive CollReach where
  | ok (a : Nat)
  | wait
  | stop (s : State)
  | refused
  deriving DecidableEq, Repr

/-- Translates an element's address for a collective, by the I/O die's cached translations (R286; 21 R346). -/
def reachColl (s : State) (p : CollId) (va : W64) (a : Access) : CollReach :=
  if !canonical va then .refused
  else match s.host.iotlb.find? (·.covers p.ctx (vaBits va)) with
    | none => .stop (requestWalk s ioDie p.ctx va (.coll p) (a == .write))
    | some e =>
      match ioTr s p.ctx e va a with
      | .ok pa => .ok pa
      | .held => .wait
      | _ => .refused

/-- The addresses of every element of a side, or what stops them. -/
inductive SideReach where
  | ok (as : List Nat)
  | wait
  | stop (s : State)
  | refused
  deriving DecidableEq, Repr

def reachSide (s : State) (p : CollId) (a : Access) : List W64 → SideReach
  | [] => .ok []
  | va :: l => match reachColl s p va a with
    | .wait => .wait
    | .refused => .refused
    | .stop t => .stop t
    | .ok x => match reachSide s p a l with
      | .ok as => .ok (x :: as)
      | y => y

def sideVas (d : List Byte) (base at_ blocks : Nat) : List W64 :=
  (List.range blocks).flatMap (fun r => (List.range (cCount d)).map (elemAddr d base at_ r))

/-- This chip's member rank in a match. -/
def memberRank (s : State) (p : CollId) : Option Nat :=
  (groupOf s p.ctx p.group).bind (fun rs => (ownRank s rs).map (fun r => ((members p.peers).filter (· < r)).length))

/-- Whether a member rank receives data. -/
def receives (d : List Byte) (me : Nat) : Bool := cType d != 0x41 || me == 0

/-! ### What a transfer gives (12 R275, R286, R288, R289) -/

/-- One combining step on codes of the format (R286): FP32 throughout for floats, exact integers wrapped for integers. -/
def widenC (f c : Nat) : Nat := if f = fmtBf16 then c <<< 16 else c
def combine (opr f a b : Nat) : Nat :=
  if isFloat f then
    if opr = 0 then (fadd32 a b .rne).code
    else (ff32.enc .rne (if opr = 1 then (f32 a).max (f32 b) else (f32 a).min (f32 b))).code
  else
    let w := fmtBits f
    if opr = 0 then (a + b) % (1 <<< w)
    else if opr = 1 then (if sgn w a < sgn w b then b else a)
    else (if sgn w b < sgn w a then b else a)
def narrowC (f c : Nat) : Nat :=
  if f = fmtBf16 then (ffbf.enc .rne (f32 c)).code else if f = fmtFp32 && (f32 c).isNan then ff32.nan else c

/-- An element from its members' codes in combining order. -/
def reduceElem (opr f : Nat) : List Nat → Nat
  | [] => 0
  | x :: l => narrowC f (l.foldl (fun a b => combine opr f a (widenC f b)) (widenC f x))

/-- Elements of the format in one reduction slot (R288). -/
def slotElems (d : List Byte) : Nat := 256 / cSize d

/-- The reduction slots of a command (R288). -/
def slotCount (d : List Byte) : Nat :=
  if cOpr d = 3 then 1
  else
    let n := (cCount d * cSize d + 255) / 256
    if cType d = 0x44 then (members (cPeers d)).length * n else n

/-- The rows a sketch image needs by its header row (09 R221). -/
def imageNeeds (row : List Byte) : Nat := 1 + leAt row 15 1 * ((leAt row 8 2 + 63) / 64 + (leAt row 10 2 + 63) / 64)

/-- What member rank `me` receives, element codes per destination block, from every member's element codes (per block). -/
def received (d : List Byte) (me : Nat) (parts : List (List Nat)) (order : List (List Nat)) : List (List Nat) :=
  let c := cCount d
  let se := slotElems d
  let red := fun (blk first : Nat) => (List.range c).map (fun n =>
    reduceElem (cOpr d) (cFmt d) ((order.getD (first + n / se) []).map (fun r => (parts.getD r []).getD (blk * c + n) 0)))
  match cType d with
  | 0x40 => [red 0 0]
  | 0x41 => if cOpr d = 3 then (order.headD []).map (fun r =>
      let im := parts.getD r []
      let keep := 64 * imageNeeds ((im.take 64).flatMap (leBytes 4))
      im.take keep ++ List.replicate (c - keep) 0)
    else [red 0 0]
  | 0x42 => [parts.headD []]
  | 0x43 => parts
  | _ => [red me (me * ((c * cSize d + 255) / 256))]

/-- Whether a member rank's source is read. -/
def sends (d : List Byte) (me : Nat) : Bool := cType d != 0x42 || me == 0

/-- Element codes from bytes. -/
def codesOf (z : Nat) (d : List Byte) : List Nat := (List.range (d.length / z)).map (fun i => leAt d (z * i) z)

/-! ### Aborts (12 R290) -/

/-- What an aborted transfer leaves in a destination whose writes were under way: each aligned 8 bytes keep their old value or take one
that the collective wrote, by free bits; what the other members would have sent is free (R290; log entry 50). -/
def leaveParts (s : State) (e : CollEntry) : State :=
  let d := e.cmd
  match e.state, memberRank s e.id with
  | .started, some me =>
    if e.wrote || !receives d me then s
    else match reachSide s e.id .read (if sends d me then sideVas d 24 48 (srcBlocks d) else []), reachSide s e.id .write (sideVas d 32 56 (dstBlocks d)) with
      | .ok sa, .ok da =>
        if (sa ++ da).any (homeHeld s.mem) then s else
        let z := cSize d
        let g := (members (cPeers d)).length
        let n := srcBlocks d * cCount d
        let (v, s) := s.fresh
        let (f, s) := s.fresh
        let parts := (List.range g).map (fun r => if r = me then sa.map (fun a => leNat (s.peek a z)) else
          (List.range n).map (fun i => (v >>> (64 * (r * n + i))) % 1 <<< (8 * z)))
        let out := (received d me parts (List.replicate (slotCount d) (List.range g))).flatten
        (da.zip out).foldl (fun s x => if f.testBit (x.1 / 8) then putBytes s x.1 (leBytes z x.2) else s) s
      | _, _ => s
  | _, _ => s

/-- What this chip does on an ABORT of an entry: the set semaphore's error bit, an error record with generation `gen`, the
entry freed. -/
def abortEntry (s : State) (e : CollEntry) (reason : BitVec 8) (gen : Nat) : State :=
  let n := cSsem e.cmd
  let valid := n / 32768 % 2 = 1
  let s := leaveParts s e
  let s := if valid then s.modCtx e.id.ctx (fun c => { c with
      sems := kupd ⟨0, false, 0⟩ c.sems (n % 1024) (fun x => { x with err := true, why := reason }), changes := c.changes + 1 }) else s
  let s := freeEntry s e (some .collectiveAbort)
  s.errorRecord e.id.ctx (errorBytes Cause.collectiveAbort.code 9 reason.toNat e.launch e.unit e.id.ctx gen 0
    (if valid then BitVec.ofNat 64 (n % 1024) else 0))

/-- This chip's escapement sends ABORT for a match and acts on it. -/
def sendAbort (s : State) (p : CollId) (reason : BitVec 8) : State :=
  match s.entry? p with
  | some e => abortEntry (s.sendOut (.abort ⟨p, reason⟩)) e reason (s.ctx p.ctx).gen.toNat
  | none => s

/-- What this chip holds of a match as its anchor is gone with it (R282, R290). -/
def dropMatch (s : State) (p : CollId) : State :=
  { s with esc := { s.esc with notices := s.esc.notices.filter (·.1 != p), issued := s.esc.issued.filter (·.id != p) } }

/-- ABORT (R290): an ABORT of another member reaches this chip. One of a match that the chip has still to post is kept for that post. -/
def abortArrives (s : State) (m : AbortMsg) : State :=
  match s.entry? m.id with
  | some e => abortEntry s e m.reason (s.ctx m.id.ctx).gen.toNat
  | none =>
    if decide (m.id.k ≤ (s.ctx m.id.ctx).posts m.id.group m.id.peers) || s.esc.aborted.any (·.id == m.id) then s
    else { dropMatch s m.id with esc := { (dropMatch s m.id).esc with aborted := s.esc.aborted ++ [m] } }
def execAbort (m : AbortMsg) (s : State) : Out := .next (abortArrives s m)

def reasonKilled : BitVec 8 := 1
def reasonWatchdog : BitVec 8 := 2
def reasonDigest : BitVec 8 := 3
def reasonLate : BitVec 8 := 4
def reasonRefused : BitVec 8 := 5
def reasonUncorrected : BitVec 8 := 6
def reasonTrace : BitVec 8 := 7
def reasonImage : BitVec 8 := 8
def reasonDomain : BitVec 8 := 9
def reasonCancelled : BitVec 8 := 10

/-! ### Posting a command (05 R145; 12 R279) -/

/-- A checked command enters the posted-collective table, unless an ABORT of its match has already come (R290). -/
def postCommand (s : State) (ctx : Nat) (d : List Byte) (launch unit : Nat) (origin : Origin) (stage : Option Nat)
    (place : Option (BankId × Nat)) : State :=
  let g := cGroup d
  let p := cPeers d
  let k := (s.ctx ctx).posts g p + 1
  let segs := touched s ctx [cInterval d 24 48 (srcBlocks d), cInterval d 32 56 (dstBlocks d)]
  let e : CollEntry := ⟨⟨ctx, g, p, k⟩, d, launch, unit, origin, .waiting, none, s.tick, none, segs, false, stage, place, none, none⟩
  let early := s.esc.aborted.find? (·.id == e.id)
  let s := busyBy s ctx 1 segs
  let s := s.modCtx ctx (fun c => { c with matched := (g, p, k) :: c.matched.filter (fun m => !(m.1 == g && m.2.1 == p)) })
  let s := { s with esc := { s.esc with table := s.esc.table ++ [e], aborted := s.esc.aborted.filter (·.id != e.id) } }
  match early with
  | some m => abortEntry s e m.reason (s.ctx ctx).gen.toNat
  | none => s

/-- The request of a POSTC for its command is on its way. -/
def BankMem.commandAsked (m : BankMem) : Bool := m.reqs.any (·.dest == .command) || m.returns.any (·.req.dest == .command)

/-- POSTC (05 R145) reads the command as an ordinary load, which asks for it, waits for the reply (17 R303), checks it and posts it; it waits while
the table is full. -/
def execPostc (w : BitVec 3) (a : Reg) (s : State) : Out :=
  run s (fun s => do
    let va ← rd s a
    if va.toNat % 64 ≠ 0 then valTrap .misaligned va
    else
      let b := s.cur.bank
      waitIf (decide (256 ≤ s.esc.table.length))
      waitIf s.myBank.mem.commandAsked
      match s.myBank.mem.command with
      | none => withMem s va 64 .read .ordinary (fun s ps => .ok (interlocked (enqueueReq s b va ps .ordinary .command none false) false))
      | some (_, d) =>
        match groupKept s (.source (.aStream b)) s.myBank.ctxNum d with
        | some t => .ok (interlocked t false)
        | none =>
          let t := served (groupMeet s s.myBank.ctxNum d) (.source (.aStream b)) 1
          if !commandOk t t.myBank.ctxNum d then .error (.trapIn (mkTrap .accessViolation va) t)
          else
            let t := t.modMyBank (fun k => { k with mem := { k.mem with command := none } })
            let l := t.myBank.launchId
            let st := match t.launch? l with | some x => x.stage | none => none
            .ok (retire ((postCommand t t.myBank.ctxNum d l (unitWord t b) (.unit l) st (some (b, t.myBank.mem.seq))).modMyBank Bank.bumpSeq) w))

/-! ### The watchdog (12 R290) -/

/-- COLLECTIVE_WATCHDOG (R290). An entry whose last write has been performed is DONE and waits for nothing but its release (R281). The tick of the last progress moves on while a page fault holds the entry (TICK_ADVANCE). -/
def collectiveWatchdog (s : State) (p : CollId) : State :=
  match s.entry? p with
  | some e => if e.state = .started && !e.wrote && e.fault.isNone && decide (e.since + 1048576 < s.tick) then sendAbort s p reasonWatchdog else s
  | none => s
def execCollectiveWatchdog (p : CollId) (s : State) : Out := .next (collectiveWatchdog s p)

/-! ### Take-up and notices (12 R280–R282) -/

/-- COLLECTIVE_TAKE_UP (R281): the wait semaphore is satisfied by R93's test of its value; NOTICE is sent. An error bit set on it, which traps a
SEMWAIT, holds nothing back: the spec leaves it open (DESIGN CHOICE, log entry 59). -/
def collectiveTakeUp (s : State) (p : CollId) : State :=
  match s.entry? p with
  | some e =>
    let n := cWsem e.cmd
    let met := n / 32768 % 2 = 0 || semReached ((s.ctx p.ctx).sem (n % 1024)).val (BitVec.ofNat 32 (leAt e.cmd 8 4))
    match memberRank s p with
    | some r =>
      if e.state = .waiting && met then
        (s.modEntry p (fun e => { e with state := .notified })).sendOut (.notice ⟨p, digestOf e.cmd, r⟩)
      else s
    | none => s
  | none => s
def execCollectiveTakeUp (p : CollId) (s : State) : Out := .next (collectiveTakeUp s p)

/-- Whether this chip anchors a match: it is member rank 0. -/
def anchors (s : State) (p : CollId) : Bool := memberRank s p == some 0

/-- Whether this chip, as the anchor, has issued the ticket of a match, or the match is over here. -/
def hasTicket (s : State) (p : CollId) : Bool :=
  s.esc.issued.any (·.id == p) || s.esc.aborted.any (·.id == p) || ((s.entry? p).isNone && decide (p.k ≤ (s.ctx p.ctx).posts p.group p.peers))

/-- The NOTICE that an entry which has taken up its work sends; the anchor's own reaches it too (R280). -/
def ownNotice (s : State) (e : CollEntry) : Option NoticeMsg :=
  if e.state = .notified then (memberRank s e.id).map (fun r => ⟨e.id, digestOf e.cmd, r⟩) else none

/-- NOTICE (R280, R282): a member's NOTICE reaches this chip as the anchor, which holds it. With the last one, differing digests abort, and
agreeing ones get the match's one ticket, in the first tick that has issued none. It carries the count of the tickets issued before it (DESIGN
CHOICE, log entry 63). -/
def noticeArrives (s : State) (m : NoticeMsg) : State :=
  let g := (members m.id.peers).length
  if !anchors s m.id || decide (g ≤ m.rank) || hasTicket s m.id || (m.rank == 0 && (s.entry? m.id).bind (ownNotice s) != some m) then s
  else
    let held := (s.esc.notices.filter (fun n => n.1 == m.id && n.2.1 != m.rank)) ++ [(m.id, m.rank, m.digest)]
    let others := s.esc.notices.filter (fun n => n.1 != m.id)
    if held.length < g || s.esc.last = some s.tick then { s with esc := { s.esc with notices := others ++ held } }
    else
      let s := { s with esc := { s.esc with notices := others } }
      if held.any (fun n => n.2.2 != m.digest) then sendAbort s m.id reasonDigest
      else
        let t : TicketNo := ⟨s.tick, s.time.chip.toNat, s.esc.seqNo⟩
        { s with esc := { s.esc with
          seqNo := (s.esc.seqNo + 1) % 4294967296, last := some s.tick, out := s.esc.out ++ [.ticket ⟨m.id, t⟩], issued := s.esc.issued ++ [⟨m.id, t⟩] } }
def execNotice (m : NoticeMsg) (s : State) : Out := .next (noticeArrives s m)

/-- Ticket rank (R282). -/
def ticketBelow (a b : TicketNo) : Bool :=
  decide (a.tau < b.tau) || (a.tau == b.tau && (decide (a.chip < b.chip) || (a.chip == b.chip && decide (a.seqNo < b.seqNo))))

/-- TICKET (R280, R285): the entry becomes TICKETED, or is aborted where a higher ticket has started. -/
def ticketArrives (s : State) (m : TicketMsg) : State :=
  match s.entry? m.id with
  | some e =>
    if e.state ≠ .notified || (m.no.chip == s.time.chip.toNat && !s.esc.issued.contains m) then s
    else if (match s.esc.top with | some t => ticketBelow m.no t | none => false) then sendAbort s m.id reasonLate
    else s.modEntry m.id (fun e => { e with state := .ticketed, no := some m.no })
  | none => s
def execTicket (m : TicketMsg) (s : State) : Out := .next (ticketArrives s m)

/-- The latency of an escapement message over `h` hops (R272), the skew bound (R270), the effective horizon (R283). -/
def msgTicks (h : Nat) : Nat := 64 + 96 * h
def skew (s : State) : Nat := if s.time.ptp then 40 else 2
/-- The domain's largest route in hops, between whichever two of its chips (R283). -/
def domainHops (s : State) : Nat := s.time.members.foldl (fun m x => max m x.2) s.time.route
def horizon (s : State) : Nat := max s.time.horizon (msgTicks (domainHops s) + skew s)

/-- Whether the command takes part in tracing (R288). -/
def traced (d : List Byte) : Bool := cType d == 0x40 || cType d == 0x41 || cType d == 0x44

/-- TICKET_START (R284): the horizon has passed, lower tickets have started, and two of the 32 staging buffers are free: an entry that is DONE holds
none. The 16 port slots never bind before the buffers do (log entry 18). A replayed reduction that this chip anchors takes its turn of the trace, also where
it aborts later; one that aborts before takes none (DESIGN CHOICE, log entry 63). -/
def ticketStart (s : State) (p : CollId) : State :=
  match s.entry? p with
  | some e => match e.state, e.no with
    | .ticketed, some t =>
      if decide (t.tau + horizon s ≤ s.tick) &&
          !(s.esc.table.any (fun x => x.state == .ticketed && (match x.no with | some u => ticketBelow u t | none => false))) &&
          decide (2 * (s.esc.table.filter (fun x => x.state == .started && !x.wrote)).length + 2 ≤ 32) then
        let replays := traced e.cmd && cMode e.cmd == 2 && anchors s p
        let n := (s.ctx p.ctx).replays
        let s := s.modEntry p (fun e => { e with state := .started, since := s.tick, turn := if replays then some n else none })
        let s := if replays then s.modCtx p.ctx (fun c => { c with replays := n + 1 }) else s
        { s with esc := { s.esc with top := some (match s.esc.top with | some u => if ticketBelow u t then t else u | none => t) } }
      else s
    | _, _ => s
  | none => s
def execTicketStart (p : CollId) (s : State) : Out := .next (ticketStart s p)

/-! ### Traces and transfers (12 R275, R276, R286, R288, R289) -/

/-- A trace entry (R288). -/
def traceHeader (d : List Byte) : List Byte :=
  leBytes 2 (cGroup d) ++ leBytes 1 (members (cPeers d)).length ++ leBytes 1 0 ++ leBytes 4 (slotCount d) ++ leBytes 8 (cPeers d).toNat
def traceLength (d : List Byte) : Nat := 16 + (slotCount d * (members (cPeers d)).length + 15) / 16 * 16
def traceEntry (d : List Byte) (order : List (List Nat)) : List Byte :=
  let body := order.flatMap (·.map (BitVec.ofNat 8 ·))
  traceHeader d ++ body ++ List.replicate (traceLength d - 16 - body.length) 0

/-- Whether a list orders the members. -/
def isOrder (g : Nat) (o : List Nat) : Bool := o.length == g && (List.range g).all (o.contains ·)

/-- The length of a trace entry by its own header. -/
def entryLength (h : List Byte) : Nat := 16 + (leAt h 4 4 * leAt h 2 1 + 15) / 16 * 16

/-- The header of a trace entry at an offset of the region. -/
def traceHead (s : State) (ctx o : Nat) : Option (List Byte) :=
  if o + 16 ≤ (s.ctx ctx).traceLen then vaRead s ctx ((s.ctx ctx).traceVa + BitVec.ofNat 64 o) 16 else none

/-- The offset of entry `k` of a context's trace: its end where there is none. -/
def traceAt (s : State) (ctx : Nat) : Nat → Nat
  | 0 => 0
  | k + 1 => match traceHead s ctx (traceAt s ctx k) with
    | some h => traceAt s ctx k + entryLength h
    | none => (s.ctx ctx).traceLen

/-- The combining orders of the entry at an offset, where it fits the command. One whose header fits and whose slots order no members is taken as
missing, which the spec leaves open (DESIGN CHOICE, log entry 59). -/
def replayEntry (s : State) (ctx : Nat) (d : List Byte) (o : Nat) : Option (List (List Nat)) :=
  let c := s.ctx ctx
  let g := (members (cPeers d)).length
  match (traceHead s ctx o).filter (fun h => h == traceHeader d && decide (o + entryLength h ≤ c.traceLen)) with
  | none => none
  | some h => (vaRead s ctx (c.traceVa + BitVec.ofNat 64 o) (entryLength h)).bind (fun t =>
      let os := (List.range (slotCount d)).map (fun i => (List.range g).map (fun j => leAt t (16 + g * i + j) 1))
      if os.all (isOrder g) then some os else none)

/-- The combining order of each slot, with the trace as it stands after; none: the collective aborts with TRACE. Free mode and
recorded sketches combine in ascending rank; the anchor of a replay reads the entry of its turn; other members learn the order from it. -/
def orderOf (s : State) (e : CollEntry) (x : Contributions) : Option (List (List Nat)) × State :=
  let d := e.cmd
  let g := (members (cPeers d)).length
  let ns := slotCount d
  let asc := List.replicate ns (List.range g)
  let given := if x.order.length = ns && x.order.all (isOrder g) then some x.order else none
  let c := s.ctx e.id.ctx
  if cMode d = 0 || !traced d then (some asc, s)
  else if !anchors s e.id then (some (if cMode d = 1 && cOpr d = 3 then asc else given.getD asc), s)
  else if cMode d = 1 then
    let o := if cOpr d = 3 then asc else given.getD asc
    if c.traceW + traceLength d > c.traceLen then (none, s)
    else (some o, (vaWrite s e.id.ctx (c.traceVa + BitVec.ofNat 64 c.traceW) (traceEntry d o)).modCtx e.id.ctx (fun c =>
      { c with traceW := c.traceW + traceLength d }))
  else
    let o := traceAt s e.id.ctx (e.turn.getD 0)
    (replayEntry s e.id.ctx d o, vaMeet s e.id.ctx (c.traceVa + BitVec.ofNat 64 o) (min (traceLength d) (c.traceLen - o)))

/-- How a replaying anchor waits for its trace. -/
def replayKept (s : State) (e : CollEntry) : Option State :=
  let c := s.ctx e.id.ctx
  let o := traceAt s e.id.ctx (e.turn.getD 0)
  if e.turn.isSome then vaKept s (.source (.coll e.id)) e.id.ctx c.traceVa (min (o + traceLength e.cmd) c.traceLen) else none

/-- Whether a lower ticket of this context still has its trace entry to append: entries are in ticket order. -/
def traceTurn (s : State) (e : CollEntry) : Bool :=
  !(traced e.cmd && cMode e.cmd == 1 && anchors s e.id) ||
  !(s.esc.table.any (fun x => x.id.ctx == e.id.ctx && x.state == .started && !x.wrote && traced x.cmd && cMode x.cmd == cMode e.cmd &&
    anchors s x.id && (match x.no, e.no with | some u, some t => ticketBelow u t | _, _ => false)))

/-- Whether accesses of the poster that come before the POSTC are still to be performed where the collective reads or writes (11 R250, R258), also
where no wait semaphore orders them (12 R292; DESIGN CHOICE, log entry 63). -/
def CollEntry.after (e : CollEntry) (s : State) (as : List Nat) : Bool :=
  match e.place with
  | some (b, n) =>
    let k := s.bank b
    k.mem.older n (as.map (fun a => (a, cSize e.cmd))) || k.rowsBefore n (cInterval e.cmd 24 48 (srcBlocks e.cmd)) ||
      k.rowsBefore n (cInterval e.cmd 32 56 (dstBlocks e.cmd))
  | none => false

/-- The destination writes in linear-index order. An address that has been written keeps its value or takes the new one, by a
free bit (R276). -/
def scatter (s : State) (f z : Nat) (seen : List Nat) : List (Nat × Nat) → Nat → State
  | [], _ => s
  | (a, v) :: l, i =>
    let s' := if seen.contains a && f.testBit i then s else s.write a (leBytes z v)
    scatter s' f z (a :: seen) l (i + 1)

/-- The element codes of every member rank: this chip's own, and what the others have sent. -/
def partsOf (d : List Byte) (me : Nat) (mine : List Nat) (x : Contributions) : List (List Nat) :=
  (List.range (members (cPeers d)).length).map (fun r => if r = me then mine else
    match x.parts.find? (·.1 == r) with | some y => codesOf (cSize d) y.2 | none => [])

/-- Whether a contribution of another member is still missing. -/
def partsShort (d : List Byte) (me : Nat) (x : Contributions) : Bool :=
  let ps := partsOf d me [] x
  (List.range ps.length).any (fun r => r != me && sends d r && decide ((ps.getD r []).length < srcBlocks d * cCount d))

/-- The requests of a transfer (22 R371): each element read and written, and each line of the contributions, `n` bytes, that goes through the
escapement's staging buffers (log entry 9). -/
def transferRequests (sa da : List Nat) (n : Nat) : Nat := sa.length + da.length + (n + 63) / 64

/-- The data of a started collective moves, its places `sa` and `da` reached and nothing in its way: source reads at home, the destination writes
(plain, without identity). -/
def moveData (s : State) (e : CollEntry) (me : Nat) (x : Contributions) (sa da : List Nat) : State :=
  let p := e.id
  let d := e.cmd
  let z := cSize d
  let s := sa.foldl (fun s a => touchBytes s a z) s
  if sa.any (fun a => poisonedIn s a z) then sendAbort s p reasonUncorrected
  else
    let mine := sa.map (fun a => leNat (s.peek a z))
    let parts := partsOf d me mine x
    if cOpr d = 3 && receives d me && parts.any (fun im => decide (imageNeeds ((im.take 64).flatMap (leBytes 4)) > cCount d / 64)) then
      sendAbort s p reasonImage
    else match replayKept s e with
      | some t => t
      | none => match orderOf s e x with
        | (none, s) => sendAbort s p reasonTrace
        | (some o, s) =>
          let out := if receives d me then (received d me parts o).flatten else []
          let (f, s) := s.fresh
          let s := scatter s f z [] (da.zip out) 0
          let s := served (s.modEntry p (fun e => { e with wrote := true, since := s.tick, got := none })) (.source (.coll p))
            (transferRequests sa da ((parts.map (·.length)).sum * z))
          if sends d me then s.sendOut (.data p (mine.flatMap (leBytes z))) else s

/-- The transfer of a started collective on this chip, with the contributions `x` of the other members, which the entry keeps until it can
move its data. -/
def transfer (s : State) (p : CollId) (ty : Nat) (x : Contributions) : State :=
  match s.entry? p, memberRank s p with
  | some e, some me =>
    let d := e.cmd
    let x := if x = ⟨[], []⟩ then e.got.getD x else x
    if e.wrote || cType d ≠ ty then s
    else
      let s := s.modEntry p (fun e => { e with got := some x })
      if e.state ≠ .started || e.fault.isSome || !traceTurn s e || e.segs.any (segHeld s p.ctx) then s
      else if s.esc.refused.contains p then sendAbort s p reasonRefused
      else match reachSide s p .read (if sends d me then sideVas d 24 48 (srcBlocks d) else []),
          reachSide s p .write (if receives d me then sideVas d 32 56 (dstBlocks d) else []) with
        | .refused, _ => sendAbort s p reasonRefused
        | .stop t, _ => t
        | .wait, _ => s
        | _, .refused => sendAbort s p reasonRefused
        | _, .stop t => t
        | _, .wait => s
        | .ok sa, .ok da =>
          if e.after s (sa ++ da) || (receives d me && partsShort d me x) then s
          else match keptAt s (.source (.coll p)) ((sa ++ da).map (fun a => (a, cSize d))) with
            | some t => t
            | none => moveData s e me x sa da
  | _, _ => s

/-- ALLREDUCE, REDUCE, BROADCAST, ALLGATHER, REDUCESCATTER (R275, R286). -/
def execAllreduce (p : CollId) (x : Contributions) (s : State) : Out := .next (transfer s p 0x40 x)
def execReduce (p : CollId) (x : Contributions) (s : State) : Out := .next (transfer s p 0x41 x)
def execBroadcast (p : CollId) (x : Contributions) (s : State) : Out := .next (transfer s p 0x42 x)
def execAllgather (p : CollId) (x : Contributions) (s : State) : Out := .next (transfer s p 0x43 x)
def execReducescatter (p : CollId) (x : Contributions) (s : State) : Out := .next (transfer s p 0x44 x)

/-- Whether the release of a command with REL is complete: what its poster's A had stored before the POSTC is at its homes (11 R250, R251). -/
def CollEntry.released (e : CollEntry) (s : State) : Bool :=
  !(cFlags e.cmd).testBit 1 || (match e.place with | some (b, n) => s.released b n | none => true)

/-- COLLECTIVE_DONE (R287): the last write has been performed; the set semaphore receives SINC, with REL as a release, and the entry is
freed. -/
def collectiveDone (s : State) (p : CollId) : State :=
  match s.entry? p with
  | some e =>
    if e.state = .started && e.wrote && e.released s then
      freeEntry (addSsem s p.ctx (cSsem e.cmd) (leAt e.cmd 14 2)) e none
    else s
  | none => s
def execCollectiveDone (p : CollId) (s : State) : Out := .next (collectiveDone s p)

end Sys2Proof.Machine
end

