-- ==== Sys2Proof/Machine/Launching.lean ====
section
/-! DEFINITION. Launch packets and their descriptors: what Helmal reads, checks and sets up when a launch starts (20 R332–R336; 18
R306–R312; 02 R54, R55). -/

namespace Sys2Proof.Machine

/-! ### Reads of a command processor (20 R327, R331) -/

/-- How a read through the I/O die's translations ends: bytes, another step first, or an error that the reader reports. -/
inductive IoRead where
  | ok (d : List Byte)
  | stop (s : State)
  | bad
  deriving DecidableEq, Repr

/-- Reads the pieces of a range in a context for a source. -/
def ioPieces (s : State) (src : Source) (ctx : Nat) : List (W64 × Nat) → IoRead
  | [] => .ok []
  | (va, n) :: l =>
    if !canonical va then .bad
    else match s.host.iotlb.find? (·.covers ctx (vaBits va)) with
      | none => .stop (requestWalk s ioDie ctx va src false)
      | some e =>
        match ioTr s ctx e va .read with
        | .ok a =>
          match keptAt s (.source src) [(a, n)] with
          | some t => .stop t
          | none =>
          if !(armedIn s a n).isEmpty || !homeAwake s a then .stop (touchBytes s a n)
          else if poisonedIn s a n then .bad
          else match ioPieces s src ctx l with
            | .ok d => .ok (s.look a n ++ d)
            | x => x
        | .held => .stop s
        | _ => .bad

/-- The homes that such a read has reached (24 R387). -/
def ioTouch (s : State) (ctx : Nat) (va : W64) (n : Nat) : State :=
  (pieces va (n / 64 + 2) n).foldl (fun s p => match (s.host.iotlb.find? (·.covers ctx (vaBits p.1))).map (fun e => ioTr s ctx e p.1 .read) with
    | some (.ok a) => touchBytes s a p.2
    | _ => s) s

def ioRead (s : State) (src : Source) (ctx : Nat) (va : W64) (n : Nat) : IoRead :=
  ioPieces s src ctx (pieces va (n / 64 + 2) n)

/-- Continues with the bytes. -/
def IoRead.then {α : Type} (r : IoRead) (stop : State → α) (bad : α) (f : List Byte → α) : α :=
  match r with | .ok d => f d | .stop s => stop s | .bad => bad

/-! ### Descriptors -/

/-- Whether the bytes from `i` to `j` are zero. -/
def zeros (d : List Byte) (i j : Nat) : Bool := ((d.drop i).take (j + 1 - i)).all (· == 0)

/-- The reserved bytes and bits of a launch descriptor (R332), those of RND as RNDCTL has them (03 R62). -/
def descClean (d : List Byte) : Bool :=
  zeros d 26 31 && zeros d 42 47 && zeros d 58 63 && zeros d 82 83 && zeros d 91 95 && zeros d 106 111 && zeros d 122 127 &&
  bits (leAt d 84 3) 23 20 == 0 && bits (leAt d 87 1) 7 2 == 0 && bits (leAt d 88 2) 15 9 == 0 && bits (leAt d 88 2) 3 2 == 0

/-- The ranges of its fields. -/
def descFields (d : List Byte) : Bool :=
  let w := bits (leAt d 90 1) 7 2
  leAt d 0 8 % 64 == 0 && leAt d 8 4 % 4 == 0 && leAt d 8 4 ≤ 32768 && leAt d 24 2 ≤ 32 && leAt d 40 2 ≤ 8 && leAt d 56 2 ≤ 1024 &&
  (w == 0 || (10 ≤ w && w ≤ 40)) && leAt d 112 8 % 32 == 0 && 1 ≤ leAt d 120 2 && leAt d 104 2 < leAt d 120 2

/-- A unit-table entry (02 R54). -/
def unitEntryOk (d : List Byte) (textLen entry : Nat) : Bool :=
  leAt d 0 4 % 4 == 0 && leAt d 0 4 < textLen && leAt d 0 4 == entry && zeros d 20 31 &&
  (List.range 4).all (fun i => let o := leAt d (4 + 4 * i) 4; o == 0xFFFFFFFF || (o % 4 == 0 && o < textLen))

/-- A `.tile` entry against R13, R55, R56 and the granules of the launch. -/
def tileEntryOk (d : List Byte) (spad : BitVec 16) : Bool :=
  let base := leAt d 0 8
  let rows := leAt d 8 2
  let last := base + 256 * rows
  leAt d 15 1 == 0 && leAt d 13 1 < 32 && (leAt d 14 1 == 0xFF || leAt d 14 1 < 32) && base % 256 == 0 && 1 ≤ rows && rows ≤ 256 &&
  last ≤ 1048576 && fmtBits (leAt d 12 1) != 0 && 1 ≤ leAt d 10 2 && leAt d 10 2 ≤ fmtCap (leAt d 12 1) &&
  (List.range 16).all (fun g => spad.getLsbD g || last ≤ 65536 * g || 65536 * (g + 1) ≤ base)

def streamEntryOk (d : List Byte) : Bool := leAt d 48 1 < 8 && zeros d 49 63
def semEntryOk (d : List Byte) : Bool := leAt d 0 2 < 1024 && leAt d 2 2 == 0

/-- The entries of `size` bytes in a run. -/
def entries (d : List Byte) (size : Nat) : List (List Byte) := (List.range (d.length / size)).map (fun i => slice d (size * i) size)

/-- The group binding table as read (18 R306): `n` bounds the groups. None: it breaks its limits. -/
inductive GbtRead where
  | ok (gs : List Group)
  | stop (s : State)
  | refuse
  | bad
  deriving DecidableEq, Repr

/-- A rank entry (R306), where its reserved bits are zero and its core exists. -/
def rankEntry (v : Nat) : Option RankEntry :=
  if bits v 36 32 = 0 ∧ bits v 11 1 = 0 ∧ bits v 47 37 < Config.coreCount then some ⟨bits v 63 48, bits v 47 37, bits v 31 12, bits v 0 0 == 1⟩ else none

def readGbt (s : State) (src : Source) (ctx : Nat) : Nat → W64 → List Group → GbtRead
  | n, va, acc =>
    (ioRead s src ctx va 8).then .stop .bad (fun h =>
      if leAt h 2 2 = 0 then (if h.all (· == 0) then .ok acc.reverse else .refuse)
      else match n with
        | 0 => .refuse
        | n + 1 =>
          let r := leAt h 2 2
          if r > 4096 || leAt h 0 2 > 1023 || leAt h 4 4 ≠ 0 then .refuse
          else (ioRead s src ctx (va + 8) (8 * r)).then .stop .bad (fun e =>
            match (List.range r).mapM (fun (i : Nat) => rankEntry (leAt e (8 * i) 8)) with
            | some rs => readGbt s src ctx n (va + BitVec.ofNat 64 (8 + 8 * r)) (⟨leAt h 0 2, rs⟩ :: acc)
            | none => .refuse))

/-- R307: each unit bound at most once and below UNITS. -/
def gbtOk (gs : List Group) (units : Nat) : Bool :=
  let us := (gs.flatMap (·.ranks)).filter (·.bound) |>.map (·.unit)
  decide us.Nodup && us.all (· < units)

/-- The memory plan (R312): SSBASE, then a word for each slice (log entry 19). -/
def planSlices (d : List Byte) : List (Nat × BitVec 16) :=
  ((List.range Config.sliceCount).filter (fun i => bits (leAt d (8 + 8 * i) 8) 16 16 == 1)).map (fun i =>
    (i, BitVec.ofNat 16 (leAt d (8 + 8 * i) 8)))
def planClean (d : List Byte) : Bool :=
  leAt d 0 8 % 2097152 == 0 && (List.range Config.sliceCount).all (fun i => leAt d (8 + 8 * i) 8 < 131072)

/-! ### Starting a launch (R326, R332–R334) -/

/-- How starting a launch ends: started under an id, another step first, refused, or an uncorrectable read. -/
inductive LaunchStart where
  | started (s : State) (id : Nat)
  | stop (s : State)
  | refuse
  | bad
  deriving DecidableEq, Repr

/-- Cores that the core map marks usable. -/
def usableCores (s : State) : Nat := Config.coreCount - (s.cores.filter (fun c => !c.2.usable)).length

/-- What Helmal reads for a launch: from the packet and the descriptor, addresses and lengths; `gs` is the group binding table. -/
def launchReads (p d : List Byte) (gs : List Group) : List (Nat × Nat) :=
  [(leAt p 8 8, 128), (leAt p 16 8, 512), (leAt d 112 8 + 32 * leAt d 104 2, 32), (leAt d 16 8, 16 * leAt d 24 2), (leAt d 32 8, 64 * leAt d 40 2),
    (leAt d 48 8, 8 * leAt d 56 2), (leAt d 72 8, 8 + 8 * Config.sliceCount), (leAt d 64 8, 8 + (gs.map (fun g => 8 + 8 * g.ranks.length)).sum)]

/-- The launch that a packet and what it points to describe. -/
def launchOf' (ctx : Nat) (p d : List Byte) (params : List W64) (tiles streams : List (List Byte)) (gs : List Group) (plan : List Byte)
    (units : List Nat) (origin : Origin) (stage : Option Nat) (job : Nat) : Launch :=
  let w := bits (leAt d 90 1) 7 2
  { ctx := ctx, desc := BitVec.ofNat 64 (leAt p 8 8), paramVa := BitVec.ofNat 64 (leAt p 16 8), params := params, text := BitVec.ofNat 64 (leAt d 0 8), textLen := leAt d 8 4
    entry := leAt d 12 4, tiles := tiles, streams := streams, spad := BitVec.ofNat 16 (leAt d 80 2), fst := BitVec.ofNat 20 (leAt d 84 3)
    cim := BitVec.ofNat 2 (leAt d 87 1), rnd := BitVec.ofNat 64 (leAt d 88 2), stallck := leAt d 90 1 % 2 == 1
    residue := bits (leAt d 90 1) 1 1 == 1, wdog := if w = 0 then 1048576 else 1 <<< w, srctr := BitVec.ofNat 64 (leAt d 96 8)
    units := units.map (fun u => (u, .waiting)), binds := [], groups := gs, ssbase := BitVec.ofNat 64 (leAt plan 0 8), plan := planSlices plan
    barrier := [], crec := BitVec.ofNat 64 (leAt p 24 8), ssem := leAt p 32 2, sinc := leAt p 34 2, dkey := BitVec.ofNat 32 (leAt p 36 4)
    origin := origin, stage := stage, job := job, count := 0, lost := 0, first := none, killed := false, cancel := false, dropped := 0
    async := none, done := false }

/-- A slice takes the way mask its new launch's plan gives; ways that change role read as zero (R312–R314). -/
def takeSlice (s : State) (id : Nat) (x : Nat × BitVec 16) : State :=
  let y := s.slice x.1
  (zeroWays s x.1 (y.ways ^^^ x.2)).setSlice x.1 { y with ways := x.2, owner := some id }

/-- The id after `n` (R326). -/
def nextLaunchId (n : Nat) : Nat := if n ≥ 4294967295 then 1 else n + 1

/-- Requests of other chips that came before the launch find it now (19 R322). -/
def takeEarly (s : State) (id : Nat) : State :=
  let s' : State := { s with host := { s.host with early := s.host.early.filter (·.1.launch != id) } }
  (s.host.early.filter (·.1.launch == id)).foldl (fun s x => remoteBind s x.1 x.2) s'

/-- The launch starts: its id, its semaphores (04 R92), its slices, its place in its stage. -/
def beginLaunch (s : State) (l : Launch) (sems : List (List Byte)) : State × Nat :=
  let id := s.host.nextId
  let s := s.modCtx l.ctx (fun c => { c with
    sems := sems.foldl (fun m e => kset m (leAt e 0 2) ⟨BitVec.ofNat 32 (leAt e 4 4), false, 0⟩) c.sems
    changes := if sems.isEmpty then c.changes else c.changes + 1 })
  let s := l.plan.foldl (fun s x => takeSlice s id x) s
  let stages := match l.ownStage with
    | some n => kupd ⟨[], 0⟩ s.host.stages n (fun x => { x with open_ := x.open_ + 1 })
    | none => s.host.stages
  (takeEarly { s with host := { s.host with nextId := nextLaunchId id, launches := kset s.host.launches id l, stages := stages } } id, id)

/-- R336 for a nonzero DKEY, R334 for any launch: whether Helmal accepts it. -/
def launchAllowed (s : State) (l : Launch) (units : Nat) : Bool :=
  let bound := (l.groups.flatMap (·.ranks)).filter (·.bound)
  (l.dkey == 0 || ((List.range units).all (fun u => bound.any (·.unit == u)) &&
    !(s.host.launches.any (fun x => x.2.ctx == l.ctx && x.2.dkey == l.dkey && !x.2.done)))) &&
  !(l.plan.any (fun x => (s.slice x.1).owner.isSome)) &&
  decide ((bound.filter (·.chip == s.time.chip.toNat)).length ≤ 2 * usableCores s)

/-- Helmal starts the launch of a LAUNCH packet `p` in a context; `patch` are the parameter slots a graph run replaces. A slice of its
plan that still changes ways for an earlier launch holds it back (18 R314). -/
def startLaunch (s : State) (src : Source) (ctx : Nat) (p : List Byte) (patch : List (Nat × W64)) (origin : Origin)
    (stage : Option Nat) (job : Nat) : LaunchStart :=
  let rd := fun (va n : Nat) => ioRead s src ctx (BitVec.ofNat 64 va) n
  let units := leAt p 4 4
  (rd (leAt p 8 8) 128).then .stop .bad (fun d =>
  (rd (leAt p 16 8) 512).then .stop .bad (fun pr =>
    if !descClean d || !descFields d then .refuse
    else (rd (leAt d 112 8 + 32 * leAt d 104 2) 32).then .stop .bad (fun ue =>
    (rd (leAt d 16 8) (16 * leAt d 24 2)).then .stop .bad (fun td =>
    (rd (leAt d 32 8) (64 * leAt d 40 2)).then .stop .bad (fun sd =>
    (rd (leAt d 48 8) (8 * leAt d 56 2)).then .stop .bad (fun md =>
    (rd (leAt d 72 8) (8 + 8 * Config.sliceCount)).then .stop .bad (fun plan =>
      match readGbt s src ctx 1024 (BitVec.ofNat 64 (leAt d 64 8)) [] with
      | .stop t => .stop t
      | .bad => .bad
      | .refuse => .refuse
      | .ok gs =>
        let own := s.time.chip.toNat
        let gs := if leAt p 36 4 = 0 then gs.map (fun g => { g with ranks := g.ranks.map (fun r => if r.bound then { r with chip := own } else r) }) else gs
        let here := if leAt p 36 4 = 0 then List.range units else (List.range units).filter (fun u =>
          gs.any (fun g => g.ranks.any (fun r => r.bound && r.unit == u && r.chip == own)))
        let params := patch.foldl (fun l x => modAt (fun _ => x.2) l x.1) ((List.range 64).map (fun i => BitVec.ofNat 64 (leAt pr (8 * i) 8)))
        let l := launchOf' ctx p d params (entries td 16) (entries sd 64) gs plan here origin stage job
        if l.plan.any (fun x => !(s.slice x.1).changes.isEmpty) then .stop s
        else if unitEntryOk ue (leAt d 8 4) (leAt d 12 4) && (entries td 16).all (tileEntryOk · l.spad) && (entries sd 64).all streamEntryOk &&
            (entries md 8).all semEntryOk && planClean plan && gbtOk gs units && launchAllowed s l units then
          let t := (launchReads p d gs).foldl (fun s x => ioTouch s ctx (BitVec.ofNat 64 x.1) x.2) s
          let r := beginLaunch (served t (.source src) 1) l (entries md 8)
          .started r.1 r.2
        else .refuse)))))))

end Sys2Proof.Machine
end

