-- ==== Sys2Proof/Machine/Packets.lean ====
section
/-! DEFINITION. Work queues: their registers, doorbells, error state and packets (20 R326–R331); graphs (R337). -/

namespace Sys2Proof.Machine

/-! ### The error state (20 R331) -/

/-- The error record. -/
def queueRecord (s : State) (x : WorkQueue) (code ty : Nat) (rejected : W64) : List Byte :=
  leBytes 1 code ++ leBytes 1 ty ++ leBytes 6 0 ++ leBytes 8 x.rptr.toNat ++ leBytes 8 s.tick ++ leBytes 8 rejected.toNat

/-- A queue enters its error state. -/
def queueError (s : State) (q code ty : Nat) (rejected : W64) : State :=
  let x := s.queue q
  let s := vaWrite s x.ctx x.qerr (queueRecord s x code ty rejected)
  let s := { s with host := { s.host with badQueues := s.host.badQueues.filter (· != q) } }
  s.setQueue q { x with err := true, code := code, hold := none }

/-! ### Registers of a queue (20 R326, R327) -/

/-- The stage a queue opened closes on it (01 R20). -/
def closeStage (s : State) (q : Nat) : State :=
  let x := s.queue q
  match x.stage with
  | some n => ({ s with host := { s.host with stages := kupd ⟨[], 0⟩ s.host.stages n (fun y => { y with opened := y.opened.filter (· != q) }) } }).setQueue q
      { x with stage := none }
  | none => s

/-- A queue's packets that have not started are given up: no read of theirs is waited for, and its answer reaches no other packet. -/
def dropReads (s : State) (q : Nat) : State :=
  let s := forgetSources s (· == .queue q)
  let s := { s with host := { s.host with badQueues := s.host.badQueues.filter (· != q) } }
  match (s.queue q).hold with
  | some (.fault _) => s.setQueue q { s.queue q with hold := none }
  | _ => s

/-- The fields a QCFG write sets. -/
def WorkQueue.configure (x : WorkQueue) (v : W64) : WorkQueue :=
  { x with job := (v.extractLsb' 32 10).toNat, ctx := (v.extractLsb' 16 16).toNat, cp := (v.extractLsb' 8 3).toNat
           log2 := (v.extractLsb' 0 5).toNat }

def log2Ok (v : W64) : Bool := let n := (v.extractLsb' 0 5).toNat; 12 ≤ n && n ≤ 30
def queueCount : Nat := 8192

/-- QUEUE_ENABLE: a QCFG write that sets EN of a disabled queue. -/
def queueEnable (s : State) (q : Nat) (v : W64) : State :=
  let x := s.queue q
  if q ≥ queueCount || x.en || !v.getLsbD 7 || !log2Ok v then s
  else
    let y := x.configure v
    if y.base.toNat % (1 <<< y.log2) ≠ 0 || y.qerr.toNat % 32 ≠ 0 || !(s.ctx y.ctx).registered then s
    else (dropReads s q).setQueue q { y with en := true, rptr := y.wptr, err := false, code := 0, hold := none }
def execQueueEnable (q : Nat) (val : BitVec 64) (s : State) : Out := .next (queueEnable s q val)

/-- A queue is disabled: it starts no packet. -/
def disableQueue (s : State) (q : Nat) : State :=
  let s := dropReads (closeStage s q) q
  s.setQueue q { s.queue q with en := false, hold := none }

/-- QUEUE_DISABLE: a QCFG write with EN = 0 to an enabled queue. -/
def queueDisable (s : State) (q : Nat) (v : W64) : State :=
  if q ≥ queueCount || !(s.queue q).en || v.getLsbD 7 || !log2Ok v then s else disableQueue s q
def execQueueDisable (q : Nat) (val : BitVec 64) (s : State) : Out := .next (queueDisable s q val)

/-- QUEUE_CONFIGURE: a QCFG write with EN = 0 to a disabled queue. -/
def queueConfigure (s : State) (q : Nat) (v : W64) : State :=
  if q ≥ queueCount || (s.queue q).en || v.getLsbD 7 || !log2Ok v then s else s.setQueue q ((s.queue q).configure v)
def execQueueConfigure (q : Nat) (val : BitVec 64) (s : State) : Out := .next (queueConfigure s q val)

/-- QUEUE_RESET: QSTAT.RST in the error state (R331). -/
def queueReset (s : State) (q : Nat) : State :=
  let x := s.queue q
  if x.en && x.err then (dropReads s q).setQueue q { x with err := false, code := 0, rptr := x.wptr } else s
def execQueueReset (q : Nat) (s : State) : Out := .next (queueReset s q)

/-- DOORBELL: a write of QWPTR (R326, R327, R331). -/
def doorbell (s : State) (q : Nat) (w : W64) : State :=
  let x := s.queue q
  let aligned := w.toNat % 64 = 0
  if q ≥ queueCount then s
  else if !x.en then (if aligned then s.setQueue q { x with wptr := w } else s)
  else if !aligned then (if x.err then s else queueError s q 1 0 w)
  else if w.toNat < x.rptr.toNat || x.rptr.toNat + (1 <<< x.log2) < w.toNat then (if x.err then s else queueError s q 2 0 w)
  else s.setQueue q { x with wptr := w }
def execDoorbell (q : Nat) (wptr : BitVec 64) (s : State) : Out := .next (doorbell s q wptr)

/-! ### The packet at QRPTR (20 R327–R329) -/

/-- Where the packet at a ring position lies. -/
def WorkQueue.at_ (x : WorkQueue) (p : W64) : W64 := x.base + BitVec.ofNat 64 (p.toNat % (1 <<< x.log2))

def isCollective (t : Nat) : Bool := 0x40 ≤ t && t ≤ 0x44
def isStarter (t : Nat) : Bool := t == 1 || t == 2

/-- Whether a type is known (R329). -/
def knownType (t : Nat) : Bool := (1 ≤ t && t ≤ 6) || isCollective t

/-- Whether BARRIER holds for a packet (R329, R335). -/
def barrier (s : State) (x : WorkQueue) (p : List Byte) : Bool := isStarter (leAt p 0 1) && (leAt p 1 1 % 2 == 1 || (s.ctx x.ctx).det)

/-- The graph slot a packet names, and whether its previous run is still active. -/
def slotBusy (s : State) (slot : Nat) : Bool := s.host.runs.any (fun r => r.2.slot == slot && !r.2.done)

/-- Whether a packet waits before it starts; a collective one too while the table has no free entry, as a POSTC does (05 R145; DESIGN CHOICE, log entry
63). -/
def packetHolds (s : State) (x : WorkQueue) (p : List Byte) : Bool :=
  (barrier s x p && !x.active.isEmpty) || (leAt p 0 1 == 2 && slotBusy s (leAt p 2 1)) ||
  (isCollective (leAt p 0 1) && decide (256 ≤ s.esc.table.length))

/-- Whether a queue could start its next packet now. -/
def startable (s : State) (q : Nat) : Bool :=
  let x := s.queue q
  x.en && !x.err && x.hold.isNone && decide (x.rptr.toNat < x.wptr.toNat) &&
  (match vaRead s x.ctx (x.at_ x.rptr) 64 with | some p => !packetHolds s x p | none => true)

/-- Whether it is a queue's turn on its command processor: round robin from the queue after the one served last (R328). -/
def myTurn (s : State) (q : Nat) : Bool :=
  let cp := (s.queue q).cp
  let last := kget (queueCount - 1) s.host.turn cp
  let dist := fun (i : Nat) => (i + queueCount - last - 1) % queueCount
  !(s.host.queues.any (fun y => y.1 != q && y.2.cp == cp && decide (dist y.1 < dist q) && startable s y.1))

/-- Reserved bytes and bits (R331 code 4). Those of a collective command count as a failed check of R277, code 6 (DESIGN CHOICE, log entry 63). -/
def packetClean (p : List Byte) : Bool :=
  let sem := fun (i : Nat) => bits (leAt p i 2) 14 10 == 0
  match leAt p 0 1 with
  | 1 => bits (leAt p 1 1) 7 1 == 0 && zeros p 2 3 && sem 32 && zeros p 40 63
  | 2 => bits (leAt p 1 1) 7 1 == 0 && zeros p 3 3 && zeros p 6 7 && zeros p 16 63
  | 3 | 4 => zeros p 1 1 && zeros p 8 63
  | 5 => zeros p 1 1 && sem 2 && zeros p 4 7 && zeros p 16 63
  | 6 => zeros p 1 7 && bits (leAt p 8 8) 61 48 == 0 && zeros p 16 63
  | _ => true

/-- Field ranges and alignment (R331 code 5). -/
def packetFields (p : List Byte) : Bool :=
  match leAt p 0 1 with
  | 1 => 1 ≤ leAt p 4 4 && leAt p 4 4 ≤ 1048576 && leAt p 8 8 % 64 == 0 && leAt p 16 8 % 64 == 0 && leAt p 24 8 % 64 == 0
  | 2 => leAt p 4 2 ≤ 4096
  | 3 | 4 => leAt p 2 2 < 1024
  | _ => true

/-- The packet starts: QRPTR passes it, and it is active until it completes. -/
def begin (s : State) (q : Nat) : State :=
  let x := s.queue q
  let s := s.setQueue q { x with rptr := x.rptr + 64, active := x.active ++ [x.rptr.toNat / 64] }
  { s with host := { s.host with turn := kset s.host.turn x.cp q } }

/-- The index of the packet at QRPTR. -/
def WorkQueue.index (x : WorkQueue) : Nat := x.rptr.toNat / 64

/-- A packet event of queue `q` for types `ty`: the packet at QRPTR is read and checked, and `f` starts it. -/
def packet (s : State) (q : Nat) (ty : Nat → Bool) (f : State → WorkQueue → List Byte → State) : State :=
  let x := s.queue q
  if q ≥ queueCount || !x.en || x.err || x.hold.isSome || decide (x.wptr.toNat ≤ x.rptr.toNat) || !myTurn s q ||
      s.fleet.module ≠ .run then s
  else if s.host.badQueues.contains q then
    queueError s q 9 (match vaRead s x.ctx (x.at_ x.rptr) 64 with | some p => leAt p 0 1 | none => 0) 0
  else (ioRead s (.queue q) x.ctx (x.at_ x.rptr) 64).then id (queueError s q 9 0 0) (fun p =>
    let t := leAt p 0 1
    let s := served (ioTouch s x.ctx (x.at_ x.rptr) 64) (.source (.queue q)) 1
    if !knownType t then queueError s q 3 t 0
    else if !ty t then s
    else if packetHolds s x p then s
    else if !packetClean p then queueError s q 4 t 0
    else if !packetFields p then queueError s q 5 t 0
    else f s x p)

/-! ### The packets -/

/-- LAUNCH (R329, R332–R336). -/
def launchPacket (s : State) (q : Nat) : State :=
  packet s q (· == 1) (fun s x p =>
    match startLaunch s (.queue q) x.ctx p [] (.queue q x.index) x.stage x.job with
    | .stop t => t
    | .bad => queueError s q 9 1 0
    | .refuse => queueError s q 7 1 0
    | .started s id =>
      let s := begin s q
      s.setQueue q { s.queue q with lid := BitVec.ofNat 64 (x.index % 4294967296 * 4294967296 + id) })
def execLaunch (q : Nat) (s : State) : Out := .next (launchPacket s q)

/-- SEMWAIT packet (R329, R331). -/
def semwaitPacket (s : State) (q : Nat) : State :=
  packet s q (· == 3) (fun s x p =>
    let n := leAt p 2 2
    if ((s.ctx x.ctx).sem n).err then queueError s q 10 3 0
    else
      let s := begin s q
      packetDone (s.setQueue q { s.queue q with hold := some (.sem n (BitVec.ofNat 32 (leAt p 4 4))) }) q x.index)
def execSemwaitPacket (q : Nat) (s : State) : Out := .next (semwaitPacket s q)

/-- SEMWAIT_PACKET_RELEASE: the test is met and the queue goes on, or the error bit ends its wait (R329, R331). -/
def semwaitRelease (s : State) (q : Nat) : State :=
  let x := s.queue q
  match x.hold with
  | some (.sem n v) =>
    let m := (s.ctx x.ctx).sem n
    if m.err then queueError s q 10 3 0
    else if semReached m.val v then s.setQueue q { x with hold := none } else s
  | _ => s
def execSemwaitPacketRelease (q : Nat) (s : State) : Out := .next (semwaitRelease s q)

/-- SEMSIG packet (R329). -/
def semsigPacket (s : State) (q : Nat) : State :=
  packet s q (· == 4) (fun s x p =>
    packetDone (semAdd (begin s q) x.ctx (leAt p 2 2) (BitVec.ofNat 32 (leAt p 4 4))) q x.index)
def execSemsigPacket (q : Nat) (s : State) : Out := .next (semsigPacket s q)

/-- TIMED (R329, R330): closes the queue's stage, opens the one it names, holds until the tick. -/
def timedPacket (s : State) (q : Nat) : State :=
  packet s q (· == 5) (fun s x p =>
    let s := closeStage (begin s q) q
    let st := if leAt p 2 2 / 32768 = 1 then some (leAt p 2 2 % 1024) else none
    let s := match st with
      | some n => { s with host := { s.host with stages := kupd ⟨[], 0⟩ s.host.stages n (fun y => { y with opened := y.opened ++ [q] }) } }
      | none => s
    packetDone (s.setQueue q { s.queue q with stage := st, hold := some (.tick (BitVec.ofNat 64 (leAt p 8 8))) }) q x.index)
def execTimed (q : Nat) (s : State) : Out := .next (timedPacket s q)

/-- TIMED_RELEASE (R330). -/
def timedRelease (s : State) (q : Nat) : State :=
  let x := s.queue q
  match x.hold with
  | some (.tick t) => if t.toNat ≤ s.tick then s.setQueue q { x with hold := none } else s
  | _ => s
def execTimedRelease (q : Nat) (s : State) : Out := .next (timedRelease s q)

/-- Collective packet (R329, R331; 12 R279). -/
def collectivePacket (s : State) (q : Nat) : State :=
  packet s q isCollective (fun s x p =>
    match groupKept s (.source (.queue q)) x.ctx p with
    | some t => t
    | none =>
      let s := served (groupMeet s x.ctx p) (.source (.queue q)) 1
      if commandOk s x.ctx p then postCommand (begin s q) x.ctx p 0 0 (.queue q x.index) x.stage none
      else queueError s q 6 (leAt p 0 1) 0)
def execCollectivePacket (q : Nat) (s : State) : Out := .next (collectivePacket s q)

/-! ### Graphs (20 R337) -/

/-- Node `n` of an image. -/
def nodeOf (image : List Byte) (n : Nat) : List Byte := slice image (64 + 128 * n) 128

/-- Whether a node is well formed. -/
def nodeOk (image : List Byte) (n : Nat) : Bool :=
  let d := nodeOf image n
  let p := d.take 64
  let k := leAt d 64 2
  ((leAt p 0 1 == 1 && leAt p 1 1 == 0 && packetClean p && packetFields p) || isCollective (leAt p 0 1)) &&
  decide (k ≤ 15) && (List.range k).all (fun i => decide (leAt d (66 + 2 * i) 2 < n)) && zeros d 96 127

/-- Whether an image passes Helmal's check. -/
def imageOk' (image : List Byte) : Bool :=
  let n := leAt image 0 2
  1 ≤ n && n ≤ 4096 && zeros image 2 7 && zeros image 20 63 && bits (leAt image 16 2) 14 10 == 0 && (List.range n).all (nodeOk image)

/-- GUPLOAD: an upload begins; Helmal reads the image in the context that CTXNUM names (log entry 20). -/
def gupload (s : State) (v : W64) : State :=
  if s.host.upload.isSome then s
  else { s with host := { s.host with upload := some ((v.extractLsb' 0 8).toNat, v &&& ~~~255), gupstat := 1 } }
def execGupload (val : BitVec 64) (s : State) : Out := .next (gupload s val)

/-- GRAPH_UPLOAD_DONE. -/
def graphUploadDone (s : State) : State :=
  match s.host.upload with
  | none => s
  | some (slot, va) =>
    let ctx := s.host.ctxnum.toNat
    let n := 64 + 128 * (match vaRead s ctx va 64 with | some h => min (leAt h 0 2) 4096 | none => 0)
    match vaKept s .upload ctx va n with
    | some t => t
    | none =>
    let s := served (vaMeet s ctx va n) .upload 1
    let refuse := { s with host := { s.host with upload := none, gupstat := 3 } }
    match vaRead s ctx va 64 with
    | none => refuse
    | some h =>
      match (if leAt h 0 2 ≤ 4096 then vaRead s ctx va (64 + 128 * leAt h 0 2) else none) with
      | none => refuse
      | some im =>
        let held := ((s.host.graphs.filter (·.1 != slot)).map (·.2.length)).sum
        if imageOk' im && decide (held + im.length ≤ Config.schedulerBytes) then
          { s with host := { s.host with upload := none, gupstat := 2, graphs := kset s.host.graphs slot im } }
        else refuse
def execGraphUploadDone (s : State) : Out := .next (graphUploadDone s)

/-- A run of a graph begins. -/
def beginRun (s : State) (slot ctx : Nat) (image : List Byte) (patches : List (Nat × Nat × W64)) (origin : Option (Nat × Nat))
    (stage : Option Nat) (job : Nat) : State :=
  let r : GraphRun :=
    { slot := slot, ctx := ctx, image := image, patches := patches, started := [], ended := [], faults := [], refused := [], count := 0, origin := origin
      stage := stage, job := job, first := none, killed := false, cancel := false, async := none, done := false }
  let stages := match stage with
    | some n => kupd ⟨[], 0⟩ s.host.stages n (fun x => { x with open_ := x.open_ + 1 })
    | none => s.host.stages
  { s with host := { s.host with runs := kset s.host.runs s.host.nextRun r, nextRun := s.host.nextRun + 1, stages := stages } }

/-- GTRIG: runs a graph outside any queue (log entry 20: nothing while its previous run is active). -/
def gtrig (s : State) (v : W64) : State :=
  let slot := (v.extractLsb' 0 8).toNat
  let ctx := (v.extractLsb' 16 16).toNat
  match kfind s.host.graphs slot with
  | some im => if slotBusy s slot || !(s.ctx ctx).registered then s else beginRun s slot ctx im [] none none 1024
  | none => s
def execGtrig (val : BitVec 64) (s : State) : Out := .next (gtrig s val)

/-- A patch entry of 16 bytes: node, parameter slot, value; none where it is out of range (code 8). -/
def patchOf (image d : List Byte) : Option (Nat × Nat × W64) :=
  let n := leAt d 0 2
  if n < leAt image 0 2 && leAt (nodeOf image n) 0 1 == 1 && leAt d 2 1 < 64 && zeros d 3 7 then
    some (n, leAt d 2 1, BitVec.ofNat 64 (leAt d 8 8))
  else none

/-- GRAPH (R329, R337). -/
def graphPacket (s : State) (q : Nat) : State :=
  packet s q (· == 2) (fun s x p =>
    let slot := leAt p 2 1
    match kfind s.host.graphs slot with
    | none => queueError s q 7 2 0
    | some im =>
      (ioRead s (.queue q) x.ctx (BitVec.ofNat 64 (leAt p 8 8)) (16 * leAt p 4 2)).then id (queueError s q 9 2 0) (fun pd =>
        let s := served (ioTouch s x.ctx (BitVec.ofNat 64 (leAt p 8 8)) (16 * leAt p 4 2)) (.source (.queue q)) 1
        match (entries pd 16).mapM (patchOf im) with
        | none => queueError s q 8 2 0
        | some ps => beginRun (begin s q) slot x.ctx im ps (some (q, x.index)) x.stage x.job))
def execGraph (q : Nat) (s : State) : Out := .next (graphPacket s q)

/-- Whether node `n` of a run may start: its reads neither wait on a fault nor were refused. -/
def GraphRun.mayStart (r : GraphRun) (n : Nat) : Bool :=
  let d := nodeOf r.image n
  !r.done && !r.cancel && !r.killed && decide (n < r.nodes) && !r.started.contains n && !r.ended.contains n &&
  !r.faults.any (·.1 == n) && !r.refused.contains n &&
  (List.range (leAt d 64 2)).all (fun i => r.ended.contains (leAt d (66 + 2 * i) 2))

def noteStarted (s : State) (run node : Nat) : State := s.modRun run (fun r => { r with started := node :: r.started })

/-- GRAPH_NODE_START (R337): all predecessors have completed. A page fault on a node's reads holds that node alone, and a node that Helmal
refuses, or whose reads are refused, does not start (log entry 20). -/
def graphNodeStart (s : State) (run node : Nat) : State :=
  match kfind s.host.runs run with
  | none => s
  | some r =>
    if !r.mayStart node then s
    else
      let p := (nodeOf r.image node).take 64
      let x : Source := .node run node (match r.origin with | some o => o.1 | none => queueCount)
      if leAt p 0 1 = 1 then
        let patch := (r.patches.filter (·.1 == node)).map (·.2)
        match startLaunch s x r.ctx p patch (.graph run node) r.stage r.job with
        | .started s _ => noteStarted s run node
        | .stop t => t
        | _ => s
      else match groupKept s (.source x) r.ctx p with
      | some t => t
      | none =>
        let s := served (groupMeet s r.ctx p) (.source x) 1
        if commandOk s r.ctx p && decide (s.esc.table.length < 256) then
          noteStarted (postCommand s r.ctx p 0 0 (.graph run node) r.stage none) run node
        else s
def execGraphNodeStart (run node : Nat) (s : State) : Out := .next (graphNodeStart s run node)

end Sys2Proof.Machine
end

