-- ==== Sys2Proof/Machine/Cancel.lean ====
section
/-! DEFINITION. Cancel at its four levels (20 R338, R339; 01 R21). -/

namespace Sys2Proof.Machine

/-! ### Launches -/

/-- The banks placed for a launch's units, started or not. -/
def banksOf (s : State) (id : Nat) : List BankId :=
  s.cores.flatMap (fun c => [(⟨c.1, false⟩ : BankId), ⟨c.1, true⟩].filter (fun b =>
    let k := c.2.bank b.slot
    k.bindRec.valid && k.launchId == id))

/-- Units not dispatched never start: each counts as ended with this status. -/
def Launch.dropWaiting (l : Launch) (st : EndStatus) : Launch :=
  let n := (l.units.filter (·.2.unstarted)).length
  { l with count := l.count + n, units := l.units.map (fun u => if u.2.unstarted then (u.1, .ended st) else u) }

/-- A bank placed for a unit that has not started is free again. -/
def unplace (s : State) (b : BankId) : State :=
  s.modBank b (fun k => if k.phase = .free then { k with bindRec := { k.bindRec with valid := false }, faults := [], badWalks := [] } else k)

/-- A launch is cancelled, unless its last unit has ended: running units end at their next safe point, the others never start. -/
def cancelLaunch (s : State) (id : Nat) : State :=
  match s.launch? id with
  | none => s
  | some l =>
    if l.done || l.cancel || decide (l.units.length ≤ l.count) then s
    else
      let bs := banksOf s id
      let s := bs.foldl unplace s
      let s := bs.foldl (fun s b => s.modBank b (fun k => if k.phase = .running || k.phase = .preempted then { k with cancel := true } else k)) s
      s.setLaunch id { l.dropWaiting .cancelled with cancel := true }

/-! ### Graph runs, stages and jobs -/

/-- Collectives that meet a condition and are not yet DONE abort with reason CANCELLED (12 R281, R291). -/
def abortThose (s : State) (f : CollEntry → Bool) : State :=
  (s.esc.table.filter (fun e => f e && !e.wrote)).foldl (fun s e => sendAbort s e.id reasonCancelled) s

/-- Whether a launch belongs to a graph run. -/
def ofRun (run : Nat) (l : Launch) : Bool := match l.origin with | .graph r _ => r == run | _ => false

/-- Whether a collective belongs to a graph run: its node, or posted by a unit of one of its launches. -/
def collOfRun (s : State) (run : Nat) (e : CollEntry) : Bool :=
  match e.origin with
  | .graph r _ => r == run
  | .unit l => (match s.launch? l with | some x => ofRun run x | none => false)
  | .queue _ _ => false

/-- Nodes of a run that have not started count as completed. -/
def dropNodes (s : State) (run : Nat) : State :=
  match kfind s.host.runs run with
  | none => s
  | some r => ((List.range r.nodes).filter (fun n => !r.started.contains n && !r.ended.contains n)).foldl (fun s n => nodeDone s run n none) s

/-- Whether the last of a run has ended: each of its nodes is complete, or a launch whose last unit has ended, or a DONE collective (R339). -/
def runOver (s : State) (run : Nat) (r : GraphRun) : Bool :=
  (List.range r.nodes).all (fun n => r.ended.contains n ||
    s.host.launches.any (fun l => l.2.origin == .graph run n && decide (l.2.units.length ≤ l.2.count)) ||
    s.esc.table.any (fun e => e.origin == .graph run n && e.wrote))

/-- A graph run is cancelled, unless the last of it has ended. -/
def cancelRun (s : State) (run : Nat) : State :=
  match kfind s.host.runs run with
  | none => s
  | some r =>
    if r.done || runOver s run r then s
    else
      let s := { s with host := { s.host with runs := kset s.host.runs run { r with cancel := true } } }
      let s := (s.host.launches.filter (fun l => ofRun run l.2)).foldl (fun s l => cancelLaunch s l.1) s
      dropNodes (abortThose s (collOfRun s run)) run

/-- The ring position of a queue's next TIMED packet, or QWPTR; `n` bounds the packets. -/
def nextTimed (s : State) (x : WorkQueue) : Nat → W64 → W64
  | 0, p => p
  | n + 1, p =>
    if x.wptr.toNat ≤ p.toNat then x.wptr
    else match vaRead s x.ctx (x.at_ p) 64 with
      | some d => if leAt d 0 1 = 5 then p else nextTimed s x n (p + 64)
      | none => nextTimed s x n (p + 64)

/-- The level, the context and the number of a cancel word (R339). -/
def cancelLevelOf (v : W64) : Nat := (v.extractLsb' 62 2).toNat
def cancelCtx (v : W64) : Nat := (v.extractLsb' 32 16).toNat
def cancelNo (v : W64) : Nat := (v.extractLsb' 0 32).toNat

/-- Whether a word names a launch, a graph run or a collective, of the context in it (log entry 22): at the job level a collective that a
queue packet of the job posted. -/
def namesLaunch (v : W64) (id : Nat) (l : Launch) : Bool :=
  l.ctx == cancelCtx v && match cancelLevelOf v with
    | 0 => id == cancelNo v
    | 1 => false
    | 2 => l.stage == some (cancelNo v)
    | _ => l.job == cancelNo v
def namesRun (v : W64) (r : GraphRun) : Bool :=
  r.ctx == cancelCtx v && match cancelLevelOf v with
    | 0 => false
    | 1 => r.slot == cancelNo v
    | 2 => r.stage == some (cancelNo v)
    | _ => r.job == cancelNo v
def namesColl (s : State) (v : W64) (e : CollEntry) : Bool :=
  e.id.ctx == cancelCtx v && match cancelLevelOf v with
    | 0 | 1 => false
    | 2 => e.stage == some (cancelNo v)
    | _ => match e.origin with | .queue q _ => (s.queue q).job == cancelNo v | _ => false

/-- A collective of a level: one the word names, or one that a unit of a launch it names posted. -/
def collOfLevel (s : State) (v : W64) (e : CollEntry) : Bool :=
  namesColl s v e || match e.origin with
    | .unit l => (match s.launch? l with | some x => cancelLevelOf v != 0 && namesLaunch v l x | none => false)
    | _ => false

/-- The queue's packets that have not started go, up to position `p`. -/
def discardTo (s : State) (q : Nat) (p : W64) : State :=
  let s := dropReads s q
  s.setQueue q { s.queue q with rptr := p }

/-- The queues of a stage or a job drop their packets not started: up to the TIMED packet that closes the stage, or all. -/
def cancelQueues (s : State) (v : W64) : State :=
  let c := cancelCtx v
  let n := cancelNo v
  match cancelLevelOf v with
  | 0 | 1 => s
  | 2 => (s.host.queues.filter (fun q => q.2.ctx == c && q.2.stage == some n)).foldl (fun s q =>
      discardTo s q.1 (nextTimed s (s.queue q.1) 16777216 (s.queue q.1).rptr)) s
  | _ => (s.host.queues.filter (fun q => q.2.ctx == c && q.2.job == n)).foldl (fun s q => discardTo s q.1 (s.queue q.1).wptr) s

/-! ### The cancel word (R339) -/

/-- What a cancel word does: the launches, graph runs and collectives it names are cancelled, and its queues' packets not started go. A word
that names nothing running does nothing. -/
def cancelWord (s : State) (v : W64) : State :=
  let fc := collOfLevel s v
  let ls := s.host.launches.filter (fun l => namesLaunch v l.1 l.2)
  let rs := s.host.runs.filter (fun r => namesRun v r.2 && !r.2.done)
  let s := rs.foldl (fun s r => cancelRun s r.1) s
  let s := ls.foldl (fun s l => cancelLaunch s l.1) s
  cancelQueues (abortThose s fc) v

/-- A cancel of level `l`, written to CANCEL. -/
def cancelAt (s : State) (l : Nat) (v : W64) : State := if (v.extractLsb' 62 2).toNat = l then cancelWord s v else s

def execCancelLaunch (val : BitVec 64) (s : State) : Out := .next (cancelAt s 0 val)
def execCancelGraph (val : BitVec 64) (s : State) : Out := .next (cancelAt s 1 val)
def execCancelStage (val : BitVec 64) (s : State) : Out := .next (cancelAt s 2 val)
def execCancelJob (val : BitVec 64) (s : State) : Out := .next (cancelAt s 3 val)

/-- What the word of a CANCEL packet names that has not completed (R329). -/
def cancelWait (s : State) (v : W64) (pkt : Nat) : CancelWait :=
  let rs := (s.host.runs.filter (fun r => namesRun v r.2 && !r.2.done)).map (·.1)
  { pkt := pkt
    launches := (s.host.launches.filter (fun l => !l.2.done && (namesLaunch v l.1 l.2 || rs.any (ofRun · l.2)))).map (·.1)
    runs := rs
    colls := (s.esc.table.filter (fun e => collOfLevel s v e || rs.any (fun r => collOfRun s r e))).map (·.id) }

/-- Whether the cancel has taken effect. -/
def CancelWait.over (w : CancelWait) (s : State) : Bool :=
  w.launches.all (fun i => (s.launch? i).all (·.done)) && w.runs.all (fun i => (kfind s.host.runs i).all (·.done)) &&
  w.colls.all (fun i => !s.esc.table.any (·.id == i))

/-- The CANCEL packets of a queue whose cancels have taken effect complete. -/
def cancelsDone (s : State) (q : Nat) : State :=
  let x := s.queue q
  ((x.cancels.filter (·.over s)).map (·.pkt)).foldl (fun s p => packetDone s q p)
    (s.setQueue q { x with cancels := x.cancels.filter (fun w => !w.over s) })

/-- CANCEL packet (R329, R339): one that has started completes once its cancel has taken effect; the one at QRPTR starts. -/
def cancelPacket (s : State) (q : Nat) : State :=
  packet (cancelsDone s q) q (· == 6) (fun s x p =>
    let v := BitVec.ofNat 64 (leAt p 8 8)
    let w := cancelWait s v x.index
    let s := cancelWord (begin s q) v
    cancelsDone (s.setQueue q { s.queue q with cancels := (s.queue q).cancels ++ [w] }) q)
def execCancelPacket (q : Nat) (s : State) : Out := .next (cancelPacket s q)

end Sys2Proof.Machine
end

