-- ==== Sys2Proof/Machine/Contexts.lean ====
section
/-! DEFINITION. Contexts: registration, kills, fault answers, migration (21 R340, R341, R349, R355, R356, R358, R359). -/

namespace Sys2Proof.Machine

/-! ### Registration (21 R340, R341; 20 R333) -/

/-- Reserved bytes and ranges of a context descriptor. -/
def ctxDescOk (d : List Byte) : Bool :=
  zeros d 256 255 && zeros d 265 271 && zeros d 284 287 && zeros d 305 311 && zeros d 320 327 && zeros d 332 335 && zeros d 346 511 &&
  bits (leAt d 264 1) 7 2 == 0 && leAt d 256 8 % 32768 == 0 && leAt d 296 8 % 32 == 0 && 5 ≤ leAt d 304 1 && leAt d 304 1 ≤ 16 &&
  leAt d 336 8 % 32 == 0 && leAt d 344 2 ≤ 4096

/-- A context as its descriptor registers it: semaphores at 0 (04 R92), and the post counts of 12 R278 at 0 too, which the spec leaves open (DESIGN
CHOICE, log entry 63). -/
def ctxOfDesc (old : Ctx) (addr : W64) (d : List Byte) : Ctx :=
  { Ctx.reset with
    registered := true, gen := old.gen + 1, desc := addr
    keys := (List.range 16).map (fun i => (BitVec.ofNat 64 (leAt d (16 * i) 8), BitVec.ofNat 64 (leAt d (16 * i + 8) 8)))
    det := leAt d 264 1 % 2 == 1, priv := bits (leAt d 264 1) 1 1 == 1, ptroot := leAt d 256 8, eqbase := leAt d 296 8
    eqlog2 := leAt d 304 1, pbudget := leAt d 328 4, segtab := leAt d 336 8, nseg := leAt d 344 2
    traceVa := BitVec.ofNat 64 (leAt d 272 8), traceLen := leAt d 280 4, groupVa := BitVec.ofNat 64 (leAt d 288 8)
    changes := old.changes + 1 }

/-- The escapement holds nothing of a context: no NOTICE, ticket or ABORT of a match of it. -/
def Escapement.dropContext (e : Escapement) (n : Nat) : Escapement :=
  { e with notices := e.notices.filter (·.1.ctx != n), issued := e.issued.filter (·.id.ctx != n), aborted := e.aborted.filter (·.id.ctx != n) }

/-- Context `n` is registered as the descriptor at an address says; EQCOUNT of a registered descriptor is 0. -/
def registerContext (s : State) (n : Nat) (addr : W64) : State :=
  let s := touchBytes s addr.toNat 512
  let d := s.peek addr.toNat 512
  let full := 4096 ≤ (s.ctxs.filter (fun c => c.2.registered)).length && !(s.ctx n).registered
  if full || !ctxDescOk d || poisonedIn s addr.toNat 512 then s
  else { s.setCtx n (ctxOfDesc (s.ctx n) addr d) with esc := s.esc.dropContext n }.write (addr.toNat + 312) (leBytes 8 0)

/-- CONTEXT_REGISTER: a nonzero CTXDESC write; the descriptor is read once its homes serve it (22 R375, R378). -/
def contextRegister (s : State) (addr : W64) : State :=
  let n := s.host.ctxnum.toNat
  if addr = 0 || addr.toNat % 512 ≠ 0 || s.fleet.module = .off then s
  else if mustQueue s.mem addr.toNat 512 then queueOp (wakeHomes s addr.toNat 512) (.ctxdesc n addr) 3
  else registerContext s n addr
def execContextRegister (addr : BitVec 64) (s : State) : Out := .next (contextRegister s addr)

/-! ### Kills (21 R356) -/

/-- A source of a killed context. -/
def PendingFault.of (f : PendingFault) (ctx : Nat) : Bool := f.ctx == ctx

/-- Stores of abandoned work: each aligned 8 bytes keeps its old value or takes the new one, by a free bit. -/
def strayStore (s : State) (b : BankId) (e : StoreEntry) : State :=
  let (f, s) := s.fresh
  (eights (e.data.length + 1) e.pa e.data).foldl (fun s g =>
    if f.testBit (g.1 / 8) then plainWrite s (s.bank b).ctxNum e.ident g.1 g.2 else s) s
where
  /-- The pieces of a write by aligned 8 bytes. -/
  eights : Nat → Nat → List Byte → List (Nat × List Byte)
    | 0, _, _ => []
    | n + 1, pa, d => if d.isEmpty then [] else
        let k := 8 - pa % 8
        (pa, d.take k) :: eights n (pa + k) (d.drop k)

/-- The same of a write of a bank that has not reached the FIFO. -/
def strayWrite (s : State) (b : BankId) (ps : List (Nat × Nat)) (d : List Byte) : State :=
  (splitData ps d).foldl (fun s p => strayStore s b ⟨0, p.1, p.2, identOf s b, s.tick, 0, s.mem.gen, 0⟩) s

/-- An abandoned STREL or RMW. -/
def strayReq (s : State) (b : BankId) (r : MemReq) : State :=
  match r.kind with
  | .storeRel d => strayWrite s b r.pieces d
  | .rmw _ _ _ =>
    let (f, s) := s.fresh
    if f % 2 = 1 then (performReq s b r).2 else s
  | .ordinary | .home | .prefetch => s

/-- The rows that a writing data stream has accepted and not stored. -/
def strayRows (s : State) (b : BankId) (n : Nat) : State :=
  match ((s.bank b).ds n).run with
  | some r => if r.write then r.buf.foldl (fun s x => match reachRow s b n (.dstream b n) .write (rowVa r x.pos) 4 with
      | .ok ps => strayWrite s b (ps.map (fun p => (p, 64))) (rowBytes x.row)
      | .stop _ => s) s else s
  | none => s

/-- The record that a copy channel is performing: what its runs have written, and the runs that are left. -/
def strayRuns (s : State) (b : BankId) (ch : Nat) : State :=
  match ((s.bank b).chan ch).running with
  | some r =>
    let data := fun (s : State) (o : OutRun) => if o.src.isEmpty then o.data else o.src.flatMap (fun p => s.peek p.1 p.2)
    let s := r.out.foldl (fun s o => strayWrite s b o.dst (data s o)) s
    (List.range (r.xfer.runs - r.runs)).foldl (fun s i =>
      let n := r.xfer.e.headD 1
      let (sa, da) := r.xfer.run (r.runs + i)
      match reachCopy s b ch .read (pieces sa (n / 64 + 2) n), reachCopy s b ch .write (pieces da (n / 64 + 2) n) with
      | .ok sp, .ok dp =>
        let (f, s) := s.fresh
        strayWrite s b dp (sp.flatMap (fun p => if r.xfer.flags % 2 = 1 then s.peek p.1 p.2 else
          (List.range p.2).map (fun j => copyByte s (s.bank b).mem r.out r.seq f (p.1 + j))))
      | _, _ => s) s
  | none => s

/-- A unit of a killed context ends as failed, its work abandoned. -/
def killBank (s : State) (b : BankId) : State :=
  let m := (s.bank b).mem
  let s := (List.range 4).foldl (fun s c => strayRuns s b c) s
  let s := (m.dirty ++ m.sent).foldl (fun s e => strayStore s b e) s
  let s := m.reqs.foldl (fun s r => strayReq s b r) s
  let s := (List.range 8).foldl (fun s n => strayRows s b n) s
  let s := abandonBank s b
  if (s.bank b).phase = .free then unplace s b else unitEnds s b .failed

/-- The banks whose unit, or whose last unit's copies, belong to a context. -/
def banksIn (s : State) (ctx : Nat) : List BankId :=
  s.cores.flatMap (fun c => [(⟨c.1, false⟩ : BankId), ⟨c.1, true⟩].filter (fun b => (c.2.bank b.slot).ctxNum == ctx))

/-- A KILL of a context, with its reason (1 budget, 2 host): the generation rises, units fail, chains and collectives go, queues
are disabled, pending faults are dropped; one error record with cause 0x00, like every record of the kill, names the old
generation. Of a match that this chip anchors and has not posted it only drops the NOTICEs: no ABORT is sent (DESIGN CHOICE, log entry 63). -/
def killCtx (s : State) (n reason : Nat) : State :=
  let old := (s.ctx n).gen.toNat
  let s := s.modCtx n (fun c => { c with gen := c.gen + 1 })
  let s := { s with host := { s.host with
    faults := s.host.faults.filter (fun f => f.ctx != n), walks := s.host.walks.filter (fun w => w.2.ctx != n)
    launches := s.host.launches.map (fun l => if l.2.ctx = n && decide (l.2.count < l.2.units.length) then (l.1, { l.2.dropWaiting .failed with killed := true }) else l)
    runs := s.host.runs.map (fun r => if r.2.ctx = n && !r.2.done then (r.1, { r.2 with killed := true }) else r) } }
  let s := (banksIn s n).foldl killBank s
  let s := (s.esc.table.filter (fun e => e.id.ctx == n)).foldl (fun s e =>
    abortEntry (s.sendOut (.abort ⟨e.id, reasonKilled⟩)) e reasonKilled old) s
  let s := { s with esc := s.esc.dropContext n }
  let s := (s.host.runs.filter (fun r => r.2.killed && !r.2.done)).foldl (fun s r => dropNodes s r.1) s
  let s := (s.host.queues.filter (fun q => q.2.ctx == n)).foldl (fun s q => disableQueue s q.1) s
  s.errorRecord n (errorBytes 0 11 reason 0 0 n old 0 0)

/-- CTXKILL. -/
def ctxkill (s : State) (v : W64) : State :=
  let n := (v.extractLsb' 0 16).toNat
  if (s.ctx n).registered then killCtx s n 2 else s
def execCtxkill (val : BitVec 64) (s : State) : Out := .next (ctxkill s val)

/-- CONTEXT_UNREGISTER: CTXDESC := 0. -/
def contextUnregister (s : State) : State :=
  let n := s.host.ctxnum.toNat
  if (s.ctx n).registered then (killCtx s n 2).modCtx n (fun c => { c with registered := false }) else s
def execContextUnregister (s : State) : Out := .next (contextUnregister s)

/-- PREEMPT_BUDGET_EXPIRY (R355). -/
def preemptBudgetExpiry (s : State) (b : BankId) : State :=
  let k := s.bank b
  if s.spends b && k.budget = 0 then killCtx s k.ctxNum 1 else s
def execPreemptBudgetExpiry (b : BankId) (s : State) : Out := .next (preemptBudgetExpiry s b)

/-! ### Fault answers (21 R349) -/

/-- A bank whose faults have all been answered goes on: the bank is runnable again, and A continues once its older words have
completed (R347, R368; `fetch`). -/
def answered (s : State) (b : BankId) : State :=
  if (s.bank b).aStopped then s
  else
    let here := (s.core b.core).active == b.slot && (s.core b.core).switching.isNone
    s.modBank b (fun k => { k with runnable := k.runnable || k.phase != .preempted, back := k.back || !here })

/-- A source of fault `id` goes on after a retry. -/
def retrySource (s : State) (id : Nat) : Source → State
  | .aStream b | .dstream b _ | .fill b _ | .drain b _ =>
    answered (s.modBank b (fun k => { k with faults := k.faults.filter (fun f => f.id != id || f.refused) })) b
  | .dispatch b => s.modBank b (fun k => { k with faults := k.faults.filter (fun f => f.id != id || f.refused) })
  | .chan b c => s.modBank b (fun k => if (k.chan c).fault = some id then k.setChan c { k.chan c with fault := none } else k)
  | .coll p => s.modEntry p (fun e => if e.fault = some id then { e with fault := none } else e)
  | .queue q =>
    let x := s.queue q
    if x.hold = some (.fault id) then s.setQueue q { x with hold := none } else s
  | .node r _ _ => s.modRun r (fun x => { x with faults := x.faults.filter (·.2 != id) })

/-- A refused copy fault: the record whose access it was fails (05 R143): one the walk was reading takes its ID; a running one fails once what
its earlier runs have to write is at its homes (RECORD_COMPLETE). -/
def refuseChannel (s : State) (b : BankId) (c : Nat) (va : W64) : State :=
  let f : Failure := ⟨mkTrap .translationRefused va, false⟩
  let s := s.modBank b (fun k => k.setChan c { k.chan c with fault := none })
  let x := (s.bank b).chan c
  let walk := match x.heads with | h :: _ => vaBits h.pos / 65536 == vaBits va / 65536 | [] => false
  match x.running with
  | some r =>
    if walk && vaBits r.xfer.va / 65536 ≠ vaBits va / 65536 then
      failChannel (s.modBank b (fun k => k.setChan c { k.chan c with nextId := x.nextId + 1 })) b c f
    else if r.out.isEmpty then failRecord s b c r f
    else s.modBank b (fun k => k.setChan c { k.chan c with running := some { r with verdict := some false }, fail := some f })
  | none => failChannel (s.modBank b (fun k => k.setChan c { k.chan c with nextId := x.nextId + 1 })) b c f

/-! ### Answers of the host to translation (21 R345) -/

/-- A refusal without a record of its own, as R349 says for its source. -/
def refuseUnrecorded (s : State) (va : W64) : Source → State
  | .aStream b => s.modBank b (fun k => { k with faults := k.faults ++ [⟨0, va, .aStream b, true⟩] })
  | .dstream b n | .fill b n | .drain b n =>
    (streamFault s b n (mkTrap .translationRefused va)).modBank b (fun k => { k with faults := k.faults ++ [⟨0, va, .dstream b n, true⟩] })
  | .chan b c => refuseChannel s b c va
  | .coll p => { s with esc := { s.esc with refused := s.esc.refused ++ [p] } }
  | .dispatch b => s.modBank b (fun k => { k with faults := k.faults ++ [⟨0, va, .dispatch b, true⟩] })
  | .queue q => { s with host := { s.host with badQueues := s.host.badQueues ++ [q] } }
  | .node r n _ => s.modRun r (fun x => { x with refused := n :: x.refused })

/-- PRG_RESPONSE: Success repeats the walk; a failure is a refused answer, for the walk's sources. -/
def prgResponse (s : State) (iova : Nat) (ok : Bool) : State :=
  let hit := s.host.walks.filter (fun x => x.2.ats == some iova && x.2.pri)
  if ok then { s with host := { s.host with walks := s.host.walks.map (fun x =>
      if x.2.ats = some iova && x.2.pri then (x.1, { x.2 with ats := none, pri := false }) else x) } }
  else
    let s := { s with host := { s.host with walks := s.host.walks.filter (fun x => !(x.2.ats == some iova && x.2.pri)) } }
    hit.foldl (fun s x => x.2.reqs.foldl (fun s r => refuseUnrecorded s r.va r.src) s) s
def execPrgResponse (iova : Nat) (success : Bool) (s : State) : Out := .next (prgResponse s iova success)

/-- Whether the completion of an invalidation must still wait, as TLBINV would (R364). -/
def AtsInval.waits (x : AtsInval) (s : State) : Bool :=
  s.cores.any (fun c => [c.2.bank0, c.2.bank1].any (fun k => x.pages.any (·.1 == k.ctxNum) && k.oldAccess x.since)) ||
  s.host.walks.any (fun w => x.pages.contains (w.2.ctx, w.2.page) && decide (w.2.since ≤ x.since))

/-- The contexts and pages whose translations were made from an IOVA. -/
def iovaPages (s : State) (iova : Nat) : List (Nat × Nat) :=
  ((s.host.ats.filter (·.iova == iova)).map (fun a => (a.ctx, a.page)) ++
    ((s.cores.flatMap (·.2.tlb) ++ s.host.iotlb).filter (·.iova == some iova)).flatMap (fun e =>
      if e.large then (List.range 32).map (fun i => (e.ctx, 32 * e.page + i)) else [(e.ctx, e.page)])).dedup

/-- The answers for an IOVA and the translations made from them are dropped. -/
def dropIova (s : State) (iova : Nat) : State :=
  let s := keepEntries s (fun e => e.iova != some iova)
  { s with host := { s.host with ats := s.host.ats.filter (fun a => a.iova != iova) } }

/-- ATS_INVALIDATION (21 R345): the matching entries are dropped; the completion is sent once the conditions of TLBINV hold for them. -/
def atsInvalidation (s : State) (iova : Nat) : State :=
  let x : AtsInval := match s.host.invals.find? (·.iova == iova) with
    | some x => x
    | none => ⟨iova, iovaPages s iova, s.tick⟩
  let s := dropIova s iova
  let rest := s.host.invals.filter (·.iova != iova)
  if x.waits s then { s with host := { s.host with invals := rest ++ [x] } }
  else { s with host := { s.host with invals := rest, invalOut := s.host.invalOut ++ [iova] } }
def execAtsInvalidation (iova : Nat) (s : State) : Out := .next (atsInvalidation s iova)

def markRefused (s : State) (b : BankId) (id : Nat) : State :=
  s.modBank b (fun k => { k with faults := k.faults.map (fun f => if f.id = id then { f with refused := true } else f) })

/-- What a refusal does to a source of fault `id`. -/
def refuseSource (s : State) (id : Nat) (va : W64) : Source → State
  | .aStream b => answered (markRefused s b id) b
  | .dstream b n | .fill b n | .drain b n => answered (markRefused (streamFault s b n (mkTrap .translationRefused va)) b id) b
  | .dispatch b => markRefused s b id
  | .chan b c => if ((s.bank b).chan c).fault = some id then refuseChannel s b c va else s
  | .coll p => sendAbort s p reasonRefused
  | .queue q => if (s.queue q).hold = some (.fault id) then { (s.setQueue q { s.queue q with hold := none }) with
      host := { (s.setQueue q { s.queue q with hold := none }).host with badQueues := s.host.badQueues ++ [q] } } else s
  | .node r n _ => s.modRun r (fun x => if x.faults.any (·.2 == id) then
      { x with faults := x.faults.filter (·.2 != id), refused := n :: x.refused } else x)

/-- The pending fault an answer names, of the context's current generation. -/
def faultOf (s : State) (v : W64) : Option PendingFault :=
  s.host.faults.find? (fun f => f.id == (v.extractLsb' 0 32).toNat && (s.ctx f.ctx).gen == v.extractLsb' 32 16 && f.gen == v.extractLsb' 32 16)

/-- An answer to a fault: it is no longer pending, and its sources learn the verdict. -/
def answerFault (s : State) (f : PendingFault) (retry : Bool) : State :=
  let s := { s with host := { s.host with faults := s.host.faults.filter (fun g => g.id != f.id) } }
  f.srcs.foldl (fun s x => if retry then retrySource s f.id x.1 else refuseSource s f.id x.2 x.1) s

/-- FANSWER with a verdict. -/
def fanswer (s : State) (v : W64) (retry : Bool) : State :=
  if (v.extractLsb' 62 2).toNat ≠ (if retry then 1 else 2) then s
  else match faultOf s v with
    | some f => answerFault s f retry
    | none => { s with host := { s.host with lateans := s.host.lateans + 1 } }
def execFanswerRetry (val : BitVec 64) (s : State) : Out := .next (fanswer s val true)
def execFanswerRefuse (val : BitVec 64) (s : State) : Out := .next (fanswer s val false)

/-! ### Migration (21 R358, R359) -/

/-- The address of a page's level-2 entry, where both tables above it are valid. -/
def leafAddr (s : State) (ctx page : Nat) : Option Nat :=
  let e0 := pte s (s.ctx ctx).ptroot (page / 16777216)
  if e0 % 2 = 0 then none
  else
    let e1 := pte s (bits e0 51 15 * 32768) (page / 4096 % 4096)
    if e1 % 2 = 0 then none else some (bits e1 51 15 * 32768 + 8 * (page % 4096))

/-- The pages of a segment. -/
def segPages (s : State) (ctx seg : Nat) : List Nat :=
  let base := leNat (s.look (segAddr s ctx seg) 8) % 4503599627370496
  let len := leNat (s.look (segAddr s ctx seg + 8) 8)
  (List.range (len / 65536)).map (fun i => base / 65536 + i)

/-- V of a page's entry is cleared. -/
def clearValid (s : State) (ctx page : Nat) : State :=
  let s := walkMeet s ctx page
  match leafAddr s ctx page with
  | some a => s.write a (leBytes 8 (leNat (s.look a 8) / 2 * 2))
  | none => s

/-- Whether a TLB entry covers one of a context's pages. -/
def TlbEntry.maps (e : TlbEntry) (ctx : Nat) (ps : List Nat) : Bool :=
  e.ctx == ctx && ps.any (fun p => if e.large then e.page == p / 32 else e.page == p)

/-- Drops the translations of a context's pages everywhere, as TLBINV does. -/
def dropPages (s : State) (ctx : Nat) (ps : List Nat) : State :=
  let gone := (s.host.ats.filter (fun a => a.ctx == ctx && ps.contains a.page)).map (·.iova)
  let s := keepEntries s (fun e => !e.maps ctx ps)
  { s with host := { s.host with ats := s.host.ats.filter (fun a => !gone.contains a.iova) } }

/-- MIGDST: the write that starts a migration of the segment MIGSEG names; refused at once for a bad index or destination. -/
def migdst (s : State) (v : W64) : State :=
  let ctx := bits s.host.migseg.toNat 31 16
  let seg := bits s.host.migseg.toNat 11 0
  if s.host.mig.isSome then s
  else if decide ((s.ctx ctx).nseg ≤ seg) || v.toNat % 65536 ≠ 0 then { s with host := { s.host with migstat := 3 } }
  else
    let ps := segPages s ctx seg
    let s := s.write (segAddr s ctx seg + 20) [(s.look (segAddr s ctx seg + 20) 1).headD 0 ||| 1]
    let s := ps.foldl (fun s p => clearValid s ctx p) s
    let s := dropPages s ctx ps
    { s with host := { s.host with mig := some ⟨ctx, seg, v.toNat, s.tick⟩, migstat := 1 } }
def execMigdst (val : BitVec 64) (s : State) : Out := .next (migdst s val)

/-- Bytes [src, src + n) copied to dst, cell by cell; poison goes with whole lines. The read meets injected errors, the write disarms them
(21 R367) and makes mirrored lines dirty (22 R376). -/
def copyCells (s : State) (src dst n : Nat) : State :=
  let s := disarmWrite (wakeHomes (touchBytes s src n) dst n) dst n
  let inSrc := fun (a : Nat) => decide (src ≤ a) && decide (a < src + n)
  let inDst := fun (a : Nat) => decide (dst ≤ a) && decide (a < dst + n)
  let from_ := s.mem.cells.filter (fun c => inSrc c.1)
  let base := s.mem.cells.filter (fun c => !inDst c.1)
  { s with mem := { s.mem with
    cells := from_.foldl (fun m c => Cells.set m (dst + (c.1 - src)) c.2) base
    poison := (s.mem.poison.filter (fun l => !inDst (64 * l))) ++
      (s.mem.poison.filter (fun l => inSrc (64 * l))).map (fun l => (dst + (64 * l - src)) / 64)
    mirDirty := (linesOf dst n).filter (fun l => inMirror s.mem (64 * l) && !s.mem.mirDirty.contains l) ++ s.mem.mirDirty } }

/-- The frame of a page's level-2 entry. -/
def frameOf (e page : Nat) : Nat := (if bits e 4 4 = 1 then bits e 51 16 / 32 * 32 + page % 32 else bits e 51 16) * 65536

/-- The lines of a page to be moved, and of its new frame, whose home holds requests (22 R375, R378). -/
def heldLines (s : State) (ctx dst i page : Nat) : List Nat :=
  match leafAddr s ctx page with
  | none => []
  | some a =>
    let e := leNat (s.look a 8)
    if bits e 5 5 = 1 then []
    else ((List.range 1024).flatMap (fun j => [frameOf e page / 64 + j, (dst + 65536 * i) / 64 + j])).filter (fun l => homeHeld s.mem (64 * l))

/-- Page `i` of a migrating segment: its bytes move and its entry names the new frame, valid. A host page stays where it is. -/
def movePage (s : State) (ctx dst : Nat) (i page : Nat) : State :=
  let s := walkMeet s ctx page
  match leafAddr s ctx page with
  | none => s
  | some a =>
    let e := leNat (s.look a 8)
    if bits e 5 5 = 1 then s.write a (leBytes 8 (e / 2 * 2 + 1))
    else
      let new := dst + 65536 * i
      let frame := if bits e 4 4 = 1 then (new / 65536 - page % 32) else new / 65536
      let s := copyCells s (frameOf e page) new 65536
      s.write a (leBytes 8 (frame * 65536 + e % 65536 / 2 * 2 + 1))

/-- Whether accesses translated before the invalidation have all been performed (R364). -/
def settledSince (s : State) (ctx t : Nat) : Bool :=
  !(s.cores.any (fun c => (c.2.bank0.ctxNum == ctx && c.2.bank0.oldAccess t) || (c.2.bank1.ctxNum == ctx && c.2.bank1.oldAccess t)))

/-- MIGRATION_COMPLETE (R359): once BUSY is 0 the bytes are copied, the entries written, HOLD cleared, the segment's faults
answered with a retry. The management complex makes its requests in class 3 (22 R371), and waits where a line is held or another access goes first (22
R375, R378). -/
def migrationComplete (s : State) : State :=
  match s.host.mig with
  | none => s
  | some m =>
    let a := segAddr s m.ctx m.seg
    if leNat (s.look (a + 16) 4) ≠ 0 || !settledSince s m.ctx m.since then s
    else
      let ps := segPages s m.ctx m.seg
      let held := ps.zipIdx.flatMap (fun p => heldLines s m.ctx m.dst p.2 p.1) ++
        s.mem.asked.filterMap (fun x => match x.who with | .move l => if yields s (x.cycle, x.pieces) then some l else none | _ => none)
      if !held.isEmpty then held.foldl (fun s l => noteHeld s (.move l) (64 * l)) s
      else
      let s := (s.mem.asked.map (·.who)).foldl (fun s x => match x with | .move _ => served s x 1 | _ => s) s
      let s := ps.zipIdx.foldl (fun s p => movePage s m.ctx m.dst p.2 p.1) s
      let s := s.write (a + 20) [(s.look (a + 20) 1).headD 0 &&& 0xFE]
      let s := { s with host := { s.host with mig := none, migstat := 2 } }
      (s.host.faults.filter (fun f => f.ctx == m.ctx && ps.contains (vaBits f.va / 65536))).foldl (fun s f => answerFault s f true) s
def execMigrationComplete (s : State) : Out := .next (migrationComplete s)

end Sys2Proof.Machine
end

