-- ==== Sys2Proof/Machine/Hash.lean ====
section
/-! DEFINITION. SHA-512, which 24 R394 and R393 name and FIPS 180-4 defines (log entry 62): its constants are computed as that standard describes them, the
first 64 bits of the fractional parts of square and cube roots of primes. -/

namespace Sys2Proof.Machine

/-- The largest `r` of at most `b` bits, over the bits already found, with `r ^ k ≤ n`. -/
def rootBits (k n : Nat) : Nat → Nat → Nat
  | 0, r => r
  | b + 1, r => rootBits k n b (if (r + 2 ^ b) ^ k ≤ n then r + 2 ^ b else r)

/-- The primes up to 409: the first eighty. -/
def shaPrimes : List Nat := (List.range 410).filter (fun p => 2 ≤ p && (List.range p).all (fun d => d < 2 || p % d != 0))

/-- The first 64 bits of the fractional part of the `k`-th root of `p`. -/
def rootFraction (k p : Nat) : W64 := BitVec.ofNat 64 (rootBits k (p * 2 ^ (64 * k)) 70 0)

def shaStart : List W64 := (shaPrimes.take 8).map (rootFraction 2)
def shaKeys : List W64 := shaPrimes.map (rootFraction 3)

/-- The exclusive or of two rotations to the right with a third word. -/
def shaMix (x : W64) (a b : Nat) (y : W64) : W64 := x.rotateRight a ^^^ x.rotateRight b ^^^ y

/-- The word that a window of 16 leads to. -/
def shaNext (w : List W64) : W64 :=
  let p := w.getD 14 0
  let q := w.getD 1 0
  shaMix p 19 61 (p >>> 6) + w.getD 9 0 + shaMix q 1 8 (q >>> 7) + w.getD 0 0

/-- One round on the eight working words. -/
def shaRound (v : List W64) (key word : W64) : List W64 :=
  match v with
  | [a, b, c, d, e, f, g, h] =>
    let t := h + shaMix e 14 18 (e.rotateRight 41) + ((e &&& f) ^^^ (~~~e &&& g)) + key + word
    [t + shaMix a 28 34 (a.rotateRight 39) + ((a &&& b) ^^^ (a &&& c) ^^^ (b &&& c)), a, b, c, d + t, e, f, g]
  | _ => v

/-- The effect of one block of sixteen words on the hash. -/
def shaBlock (keys : List W64) (h block : List W64) : List W64 :=
  let x := keys.foldl (fun (x : List W64 × List W64) k => (shaRound x.1 k (x.2.headD 0), x.2.tail ++ [shaNext x.2])) (h, block)
  List.zipWith (· + ·) h x.1

/-- Big-endian words of 8 bytes. -/
def shaWords : Nat → List Byte → List W64
  | 0, _ => []
  | n + 1, l => BitVec.ofNat 64 ((l.take 8).foldl (fun a b => 256 * a + b.toNat) 0) :: shaWords n (l.drop 8)

/-- A message with its padding: a bit 1, zeros, its length in bits in 16 bytes. -/
def shaPadded (l : List Byte) : List Byte :=
  l ++ [0x80#8] ++ List.replicate ((239 - l.length % 128) % 128) 0#8 ++
    (List.range 16).map (fun i => BitVec.ofNat 8 (8 * l.length / 256 ^ (15 - i)))

/-- The blocks of a padded message, one after the other. -/
def shaBlocks (keys : List W64) : Nat → List W64 → List Byte → List W64
  | 0, h, _ => h
  | n + 1, h, l => shaBlocks keys n (shaBlock keys h (shaWords 16 l)) (l.drop 128)

/-- SHA-512: the hash as one number, its first word the most significant. -/
def sha512 (l : List Byte) : BitVec 512 :=
  let p := shaPadded l
  BitVec.ofNat 512 ((shaBlocks shaKeys (p.length / 128) shaStart p).foldl (fun a w => 2 ^ 64 * a + w.toNat) 0)

end Sys2Proof.Machine
end

