-- ==== Sys2Proof/Machine/Fleet.lean ====
section
/-! DEFINITION. The tick and the domain (12 R269–R272; 24 R391, R392), power (24 R384–R389), ageing (R390), firmware and attestation
(R393, R394), module reset and power. -/

namespace Sys2Proof.Machine

/-! ### The tick (12 R269–R271) -/

/-- The budgets of requested pre-emptions run down by `d` ticks, except while their bank waits on a fault answer (21 R355). -/
def Bank.spend (k : Bank) (spends : Bool) (d : Nat) : Bank :=
  if spends && !(k.faults.any (fun f => !f.refused)) then { k with budget := k.budget - d } else k

/-- Whether a core makes its strip busy (24 R387). -/
def Core.busy (c : Core) : Bool :=
  [c.bank0, c.bank1].any (fun k => k.bindRec.valid || k.chans.any (·.busy))

/-- Slices that a request of a bank is on its way to, or waits at. -/
def Bank.slices (k : Bank) (sys : MemSys) : List Nat := k.arriving.flatMap (fun x => x.2.filterMap (fun p => homeOf sys p.1))

/-- Core strips of a module (01 R8). -/
def coreStrips : Nat := 128

/-- The strips that are busy now (24 R387). A slice that rebuilds a line or moves buckets holds their requests (22 R375, R378). -/
def busyStrips (s : State) : List Nat :=
  (s.cores.filter (·.2.busy)).map (fun c => stripNo c.1) ++
  (s.cores.flatMap (fun c => (c.2.bank0.slices s.mem ++ c.2.bank1.slices s.mem).map sliceStrip)) ++
  (s.mem.slices.filter (fun x => x.2.owner.isSome || !x.2.changes.isEmpty)).map (fun x => sliceStrip x.1) ++
  ((s.mem.rebuilds.map (64 * ·) ++ s.mem.queued.map (fun (w : Waiting) => w.op.span.1)).filterMap (homeOf s.mem)).map sliceStrip ++
  (s.mem.moving.toList.map (fun x => sliceStrip x.1))

/-- How far one cycle of the reference moves the counter when firmware or hardware asks for `n` (R270): 1, or 0 or 2 while a correction
in that direction is under way. -/
def tickStep (t : TimeState) (n : Nat) : Nat :=
  if n = 0 && 0 < t.debt then 0 else if n = 2 && 0 < t.jump then 2 else 1

/-- Firmware's periods run on by `d` ticks (24 R386, R390); every 2^45 ticks every core strip is due for a re-plan. -/
def Fleet.elapse (f : Fleet) (d : Nat) : Fleet :=
  let f := { f with sinceSample := f.sinceSample + d, sinceMonitor := f.sinceMonitor + d, sincePlan := f.sincePlan + d }
  if f.sincePlan < 35184372088832 then f
  else { f with sincePlan := f.sincePlan - 35184372088832, unplanned := List.range coreStrips, planning := none }

/-- TICK_ADVANCE. The clocks that a page fault stops stand still: pre-emption budgets (21 R355) and the collective watchdog
(12 R290), which does not count a wait at HOLD either (21 R358). -/
def tickAdvance (s : State) (n : Nat) : State :=
  let d := tickStep s.time n
  let t := { s.time with tick := s.time.tick + BitVec.ofNat 64 d, debt := s.time.debt - (1 - d), jump := s.time.jump - (d - 1) }
  let f := (({ s.fleet with lastBusy := (busyStrips s).foldl (fun l k => kset l k t.tick.toNat) s.fleet.lastBusy } : Fleet)).elapse d
  { s with
    time := t
    fleet := f
    cores := s.cores.map (fun c => (c.1, { c.2 with bank0 := c.2.bank0.spend (s.spends ⟨c.1, false⟩) d, bank1 := c.2.bank1.spend (s.spends ⟨c.1, true⟩) d }))
    esc := { s.esc with table := s.esc.table.map (fun e => if e.fault.isSome || e.segs.any (segHeld s e.id.ctx) then { e with since := e.since + d } else e) } }
def execTickAdvance (n : BitVec 2) (s : State) : Out := .next (tickAdvance s n.toNat)

/-- Whether the settings of a 1588 clock are values of 24 R391. -/
def ptpLegal (p : PtpPort) : Bool :=
  p.domain < 128 && (p.oneStep || p.twoStep) && decide (-4 ≤ p.logSync) && decide (p.logSync ≤ 0) && decide (-4 ≤ p.logMinDelay) && decide (p.logMinDelay ≤ 0)

/-- DOMAIN_JOIN (R271): once, before any context runs, the chip takes its number, its counter and the domain's mode, members
and horizon, and the settings of its 1588 clock (24 R391); no route has more than 16 hops (R270). -/
def domainJoin (s : State) (chip : BitVec 16) (tick : W64) (ptp : Bool) (members : List (Nat × Nat)) (horizon route : Nat) (port : PtpPort) : State :=
  if (ptp && !ptpLegal port) || s.time.hasSet || !s.host.launches.isEmpty || !s.esc.table.isEmpty || members.any (fun m => decide (16 < m.2)) || decide (16 < route) then s
  else
    let t := { s.time with
      tick := tick, ptp := ptp, joined := true, chip := chip, horizon := horizon, route := route, hasSet := true, debt := 0, jump := 0
      members := members.foldl (fun l m => kset l m.1 m.2) [], lastSync := tick.toNat, port := if ptp then port else s.time.port }
    { s with time := t }
def execDomainJoin (chip : BitVec 16) (tick : BitVec 64) (ptp : Bool) (members : DomainMap) (horizon : Nat) (s : State) : Out :=
  .next (domainJoin s chip tick ptp members.members horizon members.route members.port)

/-- A queue bound to a peer across a break: no credit is left, so pushes block (R271). Rows that were on their way are lost, which the spec leaves
open (DESIGN CHOICE, log entry 59). -/
def Queue.cut (q : Queue) : Queue :=
  match q.binding with
  | some b => if b.bank.isNone then { q with binding := some { b with sent := 16, way := [] } } else q
  | none => q

def Bank.cut (k : Bank) : Bank := { k with queues := k.queues.map Queue.cut }

/-- DOMAIN_LEAVE (R271): correction ends, collectives with members elsewhere abort (R290), pushes to other chips block. -/
def domainLeave (s : State) : State :=
  if !s.time.joined then s
  else
    let t := { s.time with joined := false, members := [], debt := 0, jump := 0 }
    let s : State := { s with time := t, cores := s.cores.map (fun c => (c.1, { c.2 with bank0 := c.2.bank0.cut, bank1 := c.2.bank1.cut })) }
    (s.esc.table.filter (fun e => decide (1 < (members e.id.peers).length))).foldl (fun s e => sendAbort s e.id reasonDomain) s
def execDomainLeave (s : State) : Out := .next (domainLeave s)

/-- A correction by `ahead` ticks (positive: the counter is ahead) replaces the one under way. -/
def TimeState.correct (t : TimeState) (ahead : Int) : TimeState := { t with debt := ahead.toNat, jump := (-ahead).toNat }

/-- ALIGNMENT_MARKER (R270): in LINK mode a marker says by how much the counter is ahead of the domain. -/
def alignmentMarker (s : State) (ahead : Int) : State :=
  if s.time.joined && !s.time.ptp then { s with time := s.time.correct ahead } else s
def execAlignmentMarker (ahead : Int) (s : State) : Out := .next (alignmentMarker s ahead)

/-- LINK_RETRY (R272): the port's retry count rises; `late`: a class-0 flit of the port waited beyond the reserved share, and its
LATE count rises (24 R385). -/
def linkRetry (s : State) (port : Nat) (late : Bool) : State :=
  if 24 ≤ port then s
  else if late then { s with fleet := { s.fleet with plate := kupd 0 s.fleet.plate port (· + 1) } }
  else { s with fleet := { s.fleet with pretry := kupd 0 s.fleet.pretry port (· + 1) } }
def execLinkRetry (port : PortReport) (s : State) : Out := .next (linkRetry s port.port port.late)

/-- An entry of the management log. -/
def State.note (s : State) (n : MgmtNote) : State := { s with fleet := { s.fleet with mlog := s.fleet.mlog ++ [n] } }

/-- ALARM is raised: log entry and MSI-X vector 3 (24 R392). -/
def raiseAlarm (s : State) : State :=
  if s.time.alarm then s else ({ s with time := { s.time with alarm := true } }.note .ptpAlarm).msix 3

/-- PTP_SYNC (24 R392): `offset` is the counter's lead over the grandmaster in 1/256 tick. The servo slews by whole ticks; 16
intervals out of ±20 ticks raise ALARM, 16 within clear it. -/
def ptpSync (s : State) (offset : Int) : State :=
  if !(s.time.joined && s.time.ptp) then s
  else
    let out := decide (5120 < offset.natAbs)
    let t := s.time.correct (offset / 256)
    let t := { t with offset := offset, lastSync := s.tick, badSync := if out then t.badSync + 1 else 0
                      okSync := if out then 0 else t.okSync + 1 }
    let s := { s with time := t }
    if 16 ≤ t.badSync then raiseAlarm s
    else if 16 ≤ t.okSync then { s with time := { t with alarm := false } }
    else s
def execPtpSync (offset : Int) (s : State) : Out := .next (ptpSync s offset)

/-- PTP_SYNC_LOSS (24 R392): after 2 s without a sync message the counter runs free and ALARM is set. -/
def ptpSyncLoss (s : State) : State :=
  if s.time.joined && s.time.ptp && decide (s.time.lastSync + 800000000 ≤ s.tick) then
    { s with time := { s.time with alarm := true, debt := 0, jump := 0, badSync := 0, okSync := 0 } }
  else s
def execPtpSyncLoss (s : State) : Out := .next (ptpSyncLoss s)

/-! ### Power states (24 R387–R389) -/

/-- Exit latencies in ticks: of a strip in its state, of a die, of the module. -/
def stripExit : PowerState → Nat | .light => 800 | .retention => 8000 | _ => 0
def dieExit : PowerState → Nat | .retention => 80000 | _ => 0
def moduleExit : PowerState → Nat | .retention => 2000000 | _ => 0

/-- LTOL in ticks. -/
def Fleet.tolerance (f : Fleet) : Nat := f.ltol.toNat * 400

/-- The deepest state whose exit latency a tolerance in ticks allows. -/
def stripDepth (tol : Nat) : PowerState := if 8000 ≤ tol then .retention else if 800 ≤ tol then .light else .run
def dieDepth (tol : Nat) : PowerState := if 80000 ≤ tol then .retention else .run
def moduleDepth (tol : Nat) : PowerState := if 2000000 ≤ tol then .retention else .run

/-- Whether a strip has not been busy for 10 µs. -/
def stripIdle (s : State) (k : Nat) : Bool :=
  !(busyStrips s).contains k && decide (kget 0 s.fleet.lastBusy k + 4000 ≤ s.tick)

/-- Whether the module may go deep. -/
def moduleIdle (s : State) : Bool :=
  (List.range 8).all (fun d => kget .run s.fleet.dies d == .retention) && s.esc.table.isEmpty &&
  s.host.queues.all (fun q => q.2.rptr == q.2.wptr && q.2.hold.isNone) && decide (s.fleet.lastCxl + 400000 ≤ s.tick)

/-- POWER_STATE_ENTRY (R387): a part whose conditions hold enters the deepest state that LTOL allows. -/
def powerStateEntry (s : State) (p : PowerPart) : State :=
  let f := s.fleet
  if f.module = .off then s
  else match p with
    | .strip d pos =>
      let k := 24 * d + pos
      if d < 8 && pos < 24 && stripIdle s k then { s with fleet := { f with strips := kset f.strips k (stripDepth f.tolerance) } } else s
    | .die d =>
      if d < 8 && (List.range 24).all (fun i => !(busyStrips s).contains (24 * d + i)) && decide (80000 ≤ f.tolerance) then
        { s with fleet := { f with dies := kset f.dies d .retention } }
      else s
    | .module => if moduleIdle s && decide (2000000 ≤ f.tolerance) then { s with fleet := { f with module := .retention } } else s
def execPowerStateEntry (p : PowerPart) (s : State) : Out := .next (powerStateEntry s p)

/-- POWER_WAKE (R388): a wake event has brought a part, and what it stands in, to RUN. -/
def powerWake (s : State) (p : PowerPart) : State :=
  let f := s.fleet
  if f.module = .off then s
  else
    let f := { f with module := .run }
    match p with
    | .strip d pos =>
      let f := { f with dies := kset f.dies d .run, strips := kset f.strips (24 * d + pos) .run }
      { s with fleet := f }
    | .die d => { s with fleet := { f with dies := kset f.dies d .run } }
    | .module => { s with fleet := f }
def execPowerWake (p : PowerPart) (s : State) : Out := .next (powerWake s p)

/-- Every part comes to RUN. -/
def Fleet.wakeAll (f : Fleet) : Fleet := if f.module = .off then f else { f with module := .run, dies := [], strips := [] }

/-- The longest exit latency any part now has. -/
def Fleet.exitLatency (f : Fleet) : Nat :=
  max (moduleExit f.module) (max ((f.dies.map (fun d => dieExit d.2)).foldl max 0) ((f.strips.map (fun d => stripExit d.2)).foldl max 0))

/-- TIMED_PREWAKE (R388): the exit for a TIMED packet begins at its tick minus the exit latency. -/
def timedPrewake (s : State) (q : Nat) : State :=
  match (s.queue q).hold with
  | some (.tick t) => if t.toNat ≤ s.tick + s.fleet.exitLatency then { s with fleet := s.fleet.wakeAll } else s
  | _ => s
def execTimedPrewake (q : Nat) (s : State) : Out := .next (timedPrewake s q)

/-- A state no deeper than the tolerance allows stays; a deeper one becomes RUN. -/
def keepLevel (exit tol : Nat) (x : PowerState) : PowerState := if exit ≤ tol then x else if x = .off then .off else .run

/-- LTOL (R388): parts deeper than a lower tolerance allows come to RUN. -/
def ltolWrite (s : State) (v : W64) : State :=
  let f := { s.fleet with ltol := v.extractLsb' 0 32 }
  let t := f.tolerance
  let f := { f with
    module := keepLevel (moduleExit f.module) t f.module
    dies := f.dies.map (fun d => (d.1, keepLevel (dieExit d.2) t d.2))
    strips := f.strips.map (fun d => (d.1, keepLevel (stripExit d.2) t d.2)) }
  { s with fleet := f }
def execLtol (val : BitVec 64) (s : State) : Out := .next (ltolWrite s val)

/-- SPAD_BANK_RETENTION (R389): a scratchpad bank of a RUN strip unused for 65,536 core cycles enters retention. -/
def spadBankRetention (s : State) (core bank : Nat) : State :=
  let c := s.core core
  if core < Config.coreCount && coreAwake s core && decide (kget 0 c.lastUse bank + 65536 ≤ s.cycle) then
    s.setCore core { c with retained := c.retained ||| (1#16 <<< bank) }
  else s
def execSpadBankRetention (core : Nat) (bank : BitVec 4) (s : State) : Out := .next (spadBankRetention s core bank.toNat)

/-! ### The power cap (24 R385, R386) -/

def stripClock (f : Fleet) (k : Nat) : Nat := kget 1600 f.clock k

/-- The core strip of a core. -/
def coreStrip (n : Nat) : Nat := 16 * (n / 160) + n % 160 / 10

/-- Whether the clock of a core has an edge in nominal cycle `c` (00 R3, R7; 24 R386; log entry 6). -/
def clockEdge (f : Fleet) (n c : Nat) : Bool := c * stripClock f (coreStrip n) / 1600 != (c - 1) * stripClock f (coreStrip n) / 1600
def stripLimit (f : Fleet) (k : Nat) : Nat := kget 1600 f.limit k
/-- Whether every strip stands at 900 MHz. -/
def allSlow (f : Fleet) : Bool := (List.range coreStrips).all (fun k => stripClock f k == 900)

/-- POWER_SAMPLE (R386), every 400,000 ticks: `mw` is the mean module power, `maxTemp` the hottest die junction in °C, `strip` the strip firmware takes first.
Over the cap its clock falls by 25 MHz, not below 900; from the tenth sample within the raising bounds it rises again, not above
its re-planned clock. -/
def powerSample (s : State) (mw : Nat) (maxTemp : Int) (strip : Nat) : State :=
  let f := { s.fleet with modpwr := BitVec.ofNat 32 mw, sinceSample := s.fleet.sinceSample - 400000 }
  let cap := 1000 * f.pcap.toNat
  if s.fleet.sinceSample < 400000 then s
  else if cap < mw || decide (100 < maxTemp) then
    let n := if allSlow f && decide (cap < mw) then f.overCnt + 1 else 0
    { s with fleet := { f with clock := if strip < coreStrips then kset f.clock strip (max 900 (stripClock f strip - 25)) else f.clock
                               overCnt := n, cool := 0 } }
  else if 100 * mw ≤ 98 * cap && decide (maxTemp < 95) then
    let up := 9 ≤ f.cool && strip < coreStrips
    { s with fleet := { f with clock := if up then kset f.clock strip (min (stripLimit f strip) (stripClock f strip + 25)) else f.clock
                               overCnt := 0, cool := f.cool + 1 } }
  else { s with fleet := { f with overCnt := 0, cool := 0 } }
def execPowerSample (mw : Nat) (maxTemp : Int) (strip : Nat) (s : State) : Out := .next (powerSample s mw maxTemp strip)

/-- Contents of the compute dies and the HBM are gone; the tier and host memory stay. -/
def keepOutside (l : List Host.Cell) : List Host.Cell :=
  l.filter (fun c => decide (Config.hbmSize ≤ c.1) && decide (c.1 < Config.scratchBase))

/-- THERMTRIP (R386): at 115 °C, or after 100 samples over the cap with every strip at 900 MHz, the compute dies and the HBM lose power
and every context is lost; the core map keeps its marks (18 R309). Only a reset brings the module back. -/
def thermtrip (s : State) (junction : Int) : State :=
  if decide (junction < 115) && decide (s.fleet.overCnt < 100) then s
  else
    let f := { s.fleet with module := .off, mlog := s.fleet.mlog ++ [.thermtrip] }
    { s with
      agenda := [], cores := s.cores.map (fun c => (c.1, { Core.reset with usable := c.2.usable })), ctxs := [], esc := Escapement.reset, host := HostState.reset, fleet := f
      mem := { s.mem with cells := keepOutside s.mem.cells, poison := s.mem.poison.filter (fun l => decide (Config.hbmSize ≤ 64 * l) && decide (64 * l < Config.scratchBase))
                          tags := [], slices := [], rebuilds := [], mirDirty := [], moving := none, retire := [], asked := [], queued := [], past := [], shadow := [] } }
def execThermtrip (junction : Int) (s : State) : Out := .next (thermtrip s junction)

/-! ### Ageing (24 R390) -/

/-- MONITOR_READ, every 2^36 ticks: firmware reads monitors and oscillators; what it reads decides the operands of a later MARGIN_REPLAN. -/
def monitorRead (s : State) : State :=
  if s.fleet.sinceMonitor < 68719476736 then s else { s with fleet := { s.fleet with sinceMonitor := s.fleet.sinceMonitor - 68719476736 } }
def execMonitorRead (s : State) : Out := .next (monitorRead s)

/-- A re-plan that has changed a strip: AGESEQ, log entry, MSI-X vector 2. -/
def replanned (s : State) (strip : Nat) : State :=
  ({ s with fleet := { s.fleet with ageseq := s.fleet.ageseq + 1 } }.note (.ageing strip)).msix 2

/-- The module numbers of a core strip's cores. -/
def coresOfStrip (k : Nat) : List Nat := (List.range 10).map (fun j => 160 * (k / 16) + 10 * (k % 16) + j)

/-- Whether a strip's voltage stands at the part's limit. -/
def atVoltageLimit (f : Fleet) (k : Nat) : Bool := decide (Config.voltageSteps k ≤ kget 0 f.volts k)

/-- Whether the re-plan of this period is at a strip, or may come to it. -/
def Fleet.plans (f : Fleet) (strip : Nat) : Bool := f.planning == some strip || f.unplanned.contains strip

/-- A step of the re-plan of a strip whose margin has fallen: its voltage rises a step, or, at the part's limit, its clock falls a step,
or, where that stands at 900 MHz, its cores become unusable. -/
def replanStep (s : State) (strip : Nat) (a : ReplanAction) : State :=
  let f := s.fleet
  match a with
    | .raiseVoltage =>
      if atVoltageLimit f strip then s
      else replanned { s with fleet := { f with volts := kupd 0 f.volts strip (· + 1) } } strip
    | .lowerClock =>
      let m := stripLimit f strip - 25
      if !atVoltageLimit f strip || decide (m < 900) then s
      else replanned { s with fleet := { f with limit := kset f.limit strip m, clock := kset f.clock strip (min m (stripClock f strip)) } } strip
    | .markUnusable =>
      if atVoltageLimit f strip && stripLimit f strip == 900 && (coresOfStrip strip).any (fun c => (s.core c).usable) then
        replanned ((coresOfStrip strip).foldl (fun s c => s.setCore c { s.core c with usable := false }) s) strip
      else s
/-- MARGIN_REPLAN (R390): every 2^45 ticks firmware comes to each strip once and takes as many steps there as its margin needs. -/
def marginReplan (s : State) (strip : Nat) (a : ReplanAction) : State :=
  if s.fleet.plans strip then
    replanStep { s with fleet := { s.fleet with planning := some strip, unplanned := s.fleet.unplanned.filter (· != strip) } } strip a
  else s
def execMarginReplan (strip : Nat) (a : ReplanAction) (s : State) : Out := .next (marginReplan s strip a)

/-! ### Firmware, reset and power (24 R387, R393; 22 R381) -/

/-- FWSTAGE: verification of the image at an address begins. -/
def fwstage (s : State) (addr : W64) : State :=
  if s.fleet.fwstat = 1 then s else { s with fleet := { s.fleet with image := addr, fwstat := 1 } }
def execFwstage (addr : BitVec 64) (s : State) : Out := .next (fwstage s addr)

/-- Whether the boot ROM accepts an image. -/
def imageAccepted (c : FirmwareCheck) : Bool :=
  c.signatureOk && (List.range 4).any (fun i => c.keyHash == Config.keySlot i && !Config.keyRevoked i) &&
  decide (Config.fusedVersion ≤ c.version)

/-- FIRMWARE_VERIFY_DONE: the image is staged or refused; a refused one changes nothing. -/
def verifyDone (s : State) (c : FirmwareCheck) : State :=
  if s.fleet.fwstat ≠ 1 then s
  else if imageAccepted c then { s with fleet := { s.fleet with fwstat := 2, staged := some c } }
  else { s with fleet := { s.fleet with fwstat := 3 } }
def execFirmwareVerifyDone (c : FirmwareCheck) (s : State) : Out := .next (verifyDone s c)

/-- A core as a module reset leaves it: its memories and its place in the core map stay. -/
def Core.moduleReset (c : Core) : Core :=
  { Core.reset with
    usable := c.usable, spad := c.spad, spadOwner := c.spadOwner, fstOwner := c.fstOwner, cim0 := c.cim0, cim1 := c.cim1 }

/-- The memory system as a module reset leaves it: what the memories hold, the bad-page list, and what counts since power-on (log
entry 21). -/
def MemSys.moduleReset (m : MemSys) (erase : Bool) : MemSys :=
  { MemSys.reset with
    cells := m.cells, poison := m.poison, cwd := m.cwd, badPages := if erase then [] else m.badPages, bpLost := if erase then 0 else m.bpLost }

/-- MODULE_RESET (R393): a staged image takes effect; registers and contexts are as after reset; the tick, which only 12 R269–R271
set, runs on. -/
def moduleReset (s : State) : State :=
  let f := s.fleet
  let erase := match f.staged with | some c => c.eraseFlag | none => false
  { State.reset with
    cycle := s.cycle, freeCtr := s.freeCtr, time := s.time
    cores := s.cores.map (fun c => (c.1, c.2.moduleReset))
    mem := s.mem.moduleReset erase
    fleet := { Fleet.reset with
      powered := f.powered, resmis := f.resmis, clock := f.clock, volts := f.volts, limit := f.limit, lastBusy := f.lastBusy, lastCxl := f.lastCxl
      inEffect := if f.staged.isSome then f.staged else f.inEffect, images := f.images + (if f.staged.isSome then 1 else 0) } }
def execModuleReset (s : State) : Out := .next (moduleReset s)

/-- What removal of module power leaves: the bad-page list in its non-volatile store, the host's memory, the firmware. -/
def withoutPower (s : State) : State :=
  { State.reset with
    cycle := s.cycle, freeCtr := s.freeCtr
    mem := { MemSys.reset with
      cells := s.mem.cells.filter (fun c => decide (Config.hostBase ≤ c.1) && decide (c.1 < Config.scratchBase)), badPages := s.mem.badPages }
    fleet := { Fleet.reset with powered := false, inEffect := s.fleet.inEffect, images := s.fleet.images } }

/-- MODULE_POWER_OFF (R387; 22 R381). -/
def modulePowerOff (s : State) : State := withoutPower s
def execModulePowerOff (s : State) : Out := .next (modulePowerOff s)

/-- POWER_ON (12 R269): the module comes up with its tick at 0. -/
def powerOn (s : State) : State :=
  if s.fleet.powered then s
  else { withoutPower s with fleet := { (withoutPower s).fleet with powered := true }, time := TimeState.reset }
def execPowerOn (s : State) : Out := .next (powerOn s)

/-! ### CXL.mem (20 R323; 22 R379; 24 R388) -/

/-- Whether the host may reach a byte: device memory through CXL, or its own memory. -/
def hostReaches (s : State) (pa : Nat) : Bool := frameExists s pa || (decide (Config.hostBase ≤ pa) && decide (pa < Config.scratchBase))

/-- What the host's access of `n` bytes does at their homes. -/
def cxlPerform (s : State) (addr n : Nat) (data : Option (List Byte)) : State :=
  match data with
  | some d => putBytes s addr d
  | none =>
    let (d, bad, s) := homeRead s addr n
    { s with fleet := { s.fleet with cxlReads := s.fleet.cxlReads ++ [(addr, d, bad)] } }

/-- CXL_MEM_ACCESS: the host reads `len` bytes, or writes `data`, at their home: device memory, or coherent host memory that the module reaches
too (11 R248; log entry 58). A read completes with its bytes, and with poison where a line of it is poisoned (22 R379). An access of device memory wakes a deep module; it
waits where one of its lines is held. -/
def cxlMemAccess (s : State) (addr len : Nat) (data : Option (List Byte)) : State :=
  let n := match data with | some d => d.length | none => len
  if !hostReaches s addr || !hostReaches s (addr + n - 1) || s.fleet.module == .off then s
  else
    let s := if frameExists s addr then { s with fleet := { s.fleet with module := .run, lastCxl := s.tick } } else s
    if mustQueue s.mem addr n then queueOp (wakeHomes s addr n) (.cxl addr n data) 1 else cxlPerform s addr n data
def execCxlMemAccess (addr len : Nat) (data : Option (List Byte)) (s : State) : Out := .next (cxlMemAccess s addr len data)

/-! ### SPDM (24 R394) -/

def State.answerSpdm (s : State) (a : SpdmAnswer) : State := { s with fleet := { s.fleet with spdm := s.fleet.spdm ++ [a] } }

/-- GET_VERSION: SPDM 1.2. -/
def execGetVersion (s : State) : Out := .next (s.answerSpdm (.version 1 2))
/-- GET_CAPABILITIES: no key exchange, no secure session. -/
def execGetCapabilities (s : State) : Out := .next (s.answerSpdm (.capabilities false false))
/-- NEGOTIATE_ALGORITHMS: TPM_ALG_RSASSA_4096 and TPM_ALG_SHA_512. -/
def execNegotiateAlgorithms (s : State) : Out := .next (s.answerSpdm (.algorithms true true))
/-- GET_DIGESTS: SHA-512 of slot 0's chain, the hash that the algorithms offered name. -/
def execGetDigests (s : State) : Out := .next (s.answerSpdm (.digests (sha512 Config.certificateChain)))
/-- GET_CERTIFICATE: slot 0 holds the device identity chain. -/
def execGetCertificate (slot : Nat) (s : State) : Out :=
  .next (s.answerSpdm (if slot = 0 then .certificate 0 Config.certificateChain else .error))
/-- CHALLENGE: a signed answer over the nonce. -/
def execChallenge (nonce : BitVec 256) (s : State) : Out := let f := s.fresh; .next (f.2.answerSpdm (.challengeAuth nonce f.1))
/-- The value of a measurement: the firmware's follow the image in effect, the bad-page list is hashed as the bytes of its entries (log entry 62). -/
def measured (s : State) (i : Nat) : BitVec 512 :=
  match i with
  | 1 => Config.romMeasurement
  | 5 => Config.fuseMeasurement ((List.range 4).map (fun k => (Config.keySlot k, Config.keyRevoked k))) Config.fusedVersion
  | 6 => sha512 (s.mem.badPages.flatMap (fun e => leBytes 8 e.toNat))
  | _ => Config.firmwareMeasurement i s.fleet.inEffect s.fleet.images
/-- GET_MEASUREMENTS: of one index of R394. -/
def execGetMeasurements (index : Nat) (s : State) : Out :=
  .next (if 1 ≤ index ∧ index ≤ 6 then s.answerSpdm (.measurements [(index, measured s index)]) else s.answerSpdm .error)

/-! ### The register space (20 R324–R326; 21 R341; 22 R376; 24 R385, R393) -/

/-- Queue registers without behaviour of their own: QBASE and QERR, while EN = 0. -/
def queueRegister (s : State) (off : Nat) (v : W64) : State :=
  let q := (off - 0x100000) / 64
  let x := s.queue q
  if q ≥ queueCount || x.en then s
  else match (off - 0x100000) % 64 with
    | 0 => s.setQueue q { x with base := v }
    | 0x28 => s.setQueue q { x with qerr := v }
    | _ => s

/-- MIRROR j: base and tier base, multiples of 2 MiB. -/
def mirrorRegister (s : State) (off : Nat) (v : W64) : State :=
  let j := (off - 0x51000) / 32
  let x := kget ⟨0, 0, 0⟩ s.mem.mirrors j
  if v.toNat % 2097152 ≠ 0 then s
  else match (off - 0x51000) % 32 with
    | 0 => { s with mem := { s.mem with mirrors := kset s.mem.mirrors j { x with base := v } } }
    | 8 => { s with mem := { s.mem with mirrors := kset s.mem.mirrors j { x with tier := v } } }
    | _ => s

/-- DLB c takes 1 or more. -/
def dlbRegister (s : State) (c : Nat) (v : W64) : State :=
  let d : BitVec 32 := v.extractLsb' 0 32
  if d = 0 then s else { s with mem := { s.mem with dlb := s.mem.dlb.setIfInBounds c d } }

/-- FRING: log2 from 7 to 16; reserved bits read as zero. -/
def fringRegister (s : State) (v : W64) : State :=
  let n := (v.extractLsb' 0 5).toNat
  if n < 7 || 16 < n then s else { s with host := { s.host with fring := v &&& ~~~(0xFE0#64) } }

/-- PCAP: 4,000 to 8,000. -/
def pcapRegister (s : State) (v : W64) : State :=
  let n : BitVec 16 := v.extractLsb' 0 16
  if n.toNat < 4000 || 8000 < n.toNat then s else { s with fleet := { s.fleet with pcap := n } }

/-- REGISTER_WRITE: an aligned 8-byte write to a register that only stores its value (R324, R325); any other access has no
effect. -/
def registerWrite (s : State) (off : Nat) (v : W64) (size : Nat) : State :=
  if size ≠ 8 || off % 8 ≠ 0 then s
  else if off = 0x200 then { s with host := { s.host with ctxnum := v.extractLsb' 0 16 } }
  else if off = 0x220 then fringRegister s v
  else if off = 0x240 then { s with host := { s.host with migseg := v &&& 0xFFFF0FFF#64 } }
  else if 0x330 ≤ off && off < 0x350 then dlbRegister s ((off - 0x330) / 8) v
  else if off = 0x408 then pcapRegister s v
  else if 0x51000 ≤ off && off < 0x51800 then mirrorRegister s off v
  else if 0x100000 ≤ off then queueRegister s off v
  else s
def execRegisterWrite (off : Nat) (val : BitVec 64) (size : Nat) (s : State) : Out := .next (registerWrite s off val size)

/-! ### What the host reads there -/

/-- QSTAT.STATE (R326): 0 disabled, 1 running, 2 waiting on a packet, 3 error. -/
def queueState (s : State) (q : Nat) : Nat :=
  let x := s.queue q
  let waits := x.hold.isSome || (decide (x.rptr.toNat < x.wptr.toNat) &&
    (match vaRead s x.ctx (x.at_ x.rptr) 64 with | some p => packetHolds s x p | none => false))
  if !x.en then 0 else if x.err then 3 else if waits then 2 else 1

/-- QCFG and QSTAT as they read. -/
def WorkQueue.qcfg (x : WorkQueue) : W64 :=
  BitVec.ofNat 64 (4294967296 * x.job + 65536 * x.ctx + 256 * x.cp + (if x.en then 128 else 0) + x.log2)
def queueStatus (s : State) (q : Nat) : W64 := BitVec.ofNat 64 (16 * (s.queue q).code + queueState s q)

/-- A register of a queue's block. -/
def queueRead (s : State) (q off : Nat) : W64 :=
  let x := s.queue q
  match off with
  | 0x00 => x.base
  | 0x08 => x.qcfg
  | 0x10 => x.wptr
  | 0x18 => x.rptr
  | 0x20 => queueStatus s q
  | 0x28 => x.qerr
  | 0x30 => x.lid
  | _ => 0

/-- PTPOFS: ALARM and the signed offset. -/
def TimeState.ptpofs (t : TimeState) : W64 :=
  (BitVec.ofInt 32 t.offset).setWidth 64 ||| (if t.alarm then 1#64 <<< 63 else 0)

/-- PSTATE d. -/
def Fleet.pstate (f : Fleet) (d : Nat) : W64 :=
  let strip : PowerState → Nat | .light => 1 | .retention => 2 | _ => 0
  let die := if f.module ≠ .run then 4 else if kget .run f.dies d = .retention then 3 else 0
  BitVec.ofNat 64 (die * 281474976710656 + packLanes 2 ((List.range 24).map (fun i => strip (kget .run f.strips (24 * d + i)))))

/-- Registers of 21 R341 and 22 R376 that stand alone. -/
def singleRead (s : State) (off : Nat) : W64 :=
  let m := s.mem
  match off with
  | 0x110 => BitVec.ofNat 64 s.host.gupstat
  | 0x200 => s.host.ctxnum.setWidth 64
  | 0x210 => (s.ctx s.host.ctxnum.toNat).gen.setWidth 64
  | 0x220 => s.host.fring
  | 0x228 => s.host.frcount
  | 0x238 => s.host.lateans
  | 0x250 => BitVec.ofNat 64 s.host.migstat
  | 0x300 => m.faq.headD 0
  | 0x308 => m.faqLost
  | 0x310 => m.cwd
  | 0x318 => BitVec.ofNat 64 (m.gen % 65536)
  | 0x328 => m.rehash
  | 0x360 => BitVec.ofNat 64 m.badPages.length
  | 0x370 => m.bpLost
  | 0x400 => s.fleet.ltol.setWidth 64
  | 0x408 => s.fleet.pcap.setWidth 64
  | 0x410 => s.fleet.modpwr.setWidth 64
  | 0x418 => s.fleet.resmis
  | 0x420 => s.fleet.ageseq
  | 0x428 => s.time.ptpofs
  | 0x908 => BitVec.ofNat 64 s.fleet.fwstat
  | _ => 0

/-- Entry `i` of an array of registers at `off`, none where `off` does not lie in its `n` entries. -/
def arrayAt (off base n : Nat) : Option Nat := if base ≤ off ∧ off < base + 8 * n then some ((off - base) / 8) else none

/-- MIRROR j, by its bytes. -/
def mirrorRead (s : State) (i : Nat) : W64 :=
  let x := kget ⟨0, 0, 0⟩ s.mem.mirrors (i / 4)
  match i % 4 with | 0 => x.base | 1 => x.tier | 2 => x.len | _ => 0

/-- An aligned 8-byte read of BAR0; write-only and unlisted registers read as zero. FAQPOP also pops, by its own event. -/
def bar0Read (s : State) (off : Nat) : W64 :=
  let rows : List (Nat × Nat × (Nat → W64)) :=
    [(0x330, 4, fun c => (s.mem.dlb.getD c 0).setWidth 64), (0x440, 8, s.fleet.pstate),
     (0x480, 128, fun k => BitVec.ofNat 64 (stripClock s.fleet k)),
     (0x10000, 1024, kget 0 s.host.jobcnt), (0x20000, 1024, kget 0 s.host.stagecnt), (0x30000, 1024, kget 0 s.host.jobfail),
     (0x40000, 1024, kget 0 s.host.stagefail), (0x50000, 20, kget 0 s.mem.protmap), (0x51000, 256, mirrorRead s),
     (0x60000, 10256, fun r => BitVec.ofNat 64 (kget 0 s.mem.miss r)),
     (0x80000, 48, fun p => if p % 2 = 0 then kget 0 s.fleet.pretry (p / 2) else kget 0 s.fleet.plate (p / 2)),
     (0x90000, 4096, fun e => s.mem.badPages.getD e 0),
     (0x100000, 65536, fun i => queueRead s (i / 8) (8 * (i % 8)))]
  match rows.findSome? (fun r => (arrayAt off r.1 r.2.1).map r.2.2) with
  | some v => v
  | none => singleRead s off

/-- What a host read of BAR0 or BAR2 returns (R324): zero unless it is an aligned 8-byte access; the doorbell page of a queue holds its
QWPTR. -/
def barRead (s : State) (bar2 : Bool) (off size : Nat) : W64 :=
  if size ≠ 8 ∨ off % 8 ≠ 0 then 0
  else if bar2 then (if off % 4096 = 0 ∧ off / 4096 < queueCount then (s.queue (off / 4096)).wptr else 0)
  else bar0Read s off

end Sys2Proof.Machine
end

