-- ==== Sys2Proof/Machine/Issue.lean ====
section
/-! DEFINITION. What a stream that moves does first: whether it may issue (02 R30; 01 R28; 17 R296), a refusal A still has to take
(21 R349), the fetch from the unit's text (02 R33, 04 R84) and the checks of 02 R32. -/

namespace Sys2Proof.Machine

/-- Whether the word is one that pairs with a VBMAX (06 R162). -/
def isConvert (x : W32) : Bool := fld x 29 3 == 2 && (fld x 20 6 == 0x20 || fld x 20 6 == 0x22)

/-- Whether V may issue once more in the cycle of a VBMAX with W = 0: what the VBMAX reads and wakes is the pair's (06 R162, 17 R301). A word that
fails the checks of 02 R32 forms no pair and traps in its own cycle (17 R296). -/
def pairsNow (s : State) (b : BankId) (k : Bank) : Bool :=
  match k.vpair, k.wordAt k.v.pc with
  | some y, some x => y.1 == s.cycle && isConvert x && (match decodeWord ⟨.V, (s.ctxOf b).priv⟩ x with | .ok _ => true | .error _ => false)
  | _, _ => false

/-- Whether a stream of a bank may issue now: the bank is active and not being switched or reset, its unit runs (a pre-empted
one but for C), and the stream's next issue cycle has come; A does not behind a page fault (21 R347). -/
def mayIssue (s : State) (b : BankId) (e : Engine) : Bool :=
  let c := s.core b.core
  let k := c.bank b.slot
  let x := k.stream e
  decide (b.core < Config.coreCount) && c.active == b.slot && c.switching.isNone && !c.resetting &&
  (k.phase == .running || (k.phase == .preempted && e != .C)) && x.status == .running && !(e == .A && k.aStopped) &&
  (decide (x.nextIssue ≤ s.cycle) || (e == .V && pairsNow s b k))

/-- The refusal an A stream takes at its next word (21 R349). -/
def refusedFor (k : Bank) : Option BankFault :=
  k.faults.find? (fun f => f.refused && f.src.ofA)

/-- How a stream's move goes on: it is over, or a word that has passed the checks of 02 R32 issues. -/
inductive Fetched where
  | done (s : State)
  | word (i : Instr) (s : State)
  deriving DecidableEq

/-- The bank that is active on a core. -/
def State.activeBank (s : State) (core : Nat) : BankId := ⟨core, (s.core core).active⟩

/-- A of a core's active bank goes on after the answers to its faults, once its older words have completed (21 R347, R368). -/
def wakeA (s : State) (b : BankId) (e : Engine) : State :=
  let k := s.bank b
  if e = .A && k.a.status == .faulted && !k.aStopped && k.aDone then
    s.modBank b (fun k => { k with a := { k.a with status := .running, lock := false } })
  else s

/-- Fetch and check the word at the head of a stream of a core's active bank. -/
def fetch (s : State) (core : Nat) (e : Engine) : Fetched :=
  let b := s.activeBank core
  let s := wakeA s b e
  let k := s.bank b
  let pc := (k.stream e).pc
  if !mayIssue s b e then .done s
  else match (if e = .A then refusedFor k else none) with
    | some f =>
      let s := s.modBank b (fun k => { k with faults := k.faults.erase f })
      .done (takeTrap s b e (mkTrap .translationRefused f.va) pc)
    | none =>
      match k.wordAt pc with
      | none => .done (takeTrap s b e (mkTrap .accessViolation pc) pc)
      | some x =>
        match decodeWord ⟨e, (s.ctxOf b).priv⟩ x with
        | .error c => .done (takeTrap (armedAway s b e) b e (mkTrap c (x.setWidth 64)) pc)
        | .ok i => .word i { s with cur := ⟨b, e, x⟩ }

end Sys2Proof.Machine
end

