-- ==== Sys2Proof/Machine/Schedule.lean ====
section
/-! DEFINITION. What the module itself does in one core cycle when nothing is left on the agenda (log entry 1): which steps of the
table are due, in a fixed order, and which streams move. Steps that the host, firmware or another chip starts are not among
them: they come onto the agenda from outside. -/

namespace Sys2Proof.Machine

/-- A step when a condition holds. -/
def due (b : Bool) (i : Instr) : List Agendum := if b then [.event i] else []

/-- Watchdogs that a block or wait of a stream could meet. -/
def watchdogs (b : BankId) (k : Bank) (e : Engine) : List Agendum :=
  (match (k.stream e).block with
    | some y => due (y.kind == .tile) (.tileWatchdog b e) ++ due (y.kind == .queue) (.queueWatchdog b e) ++
        due (y.kind == .sem) (.semWatchdog b e)
    | none => []) ++
  due ((e == .M && k.mEng.nest.any (·.waiting.isSome)) || (e == .K && k.kEng.op.any (·.since.isSome))) (.queueWatchdog b e)

/-- The rows of a bound queue whose time has come enter the peer's queue at the end of the cycle (04 R111). -/
def rowSteps (b : BankId) (k : Bank) (cycle q : Nat) : List Agendum :=
  match (k.queue q).binding with
  | some y => (y.way.filter (fun r => decide (r.1 ≤ cycle))).map (fun _ => .event (.boundRowArrival b (BitVec.ofNat 4 q) none))
  | none => []

/-- Steps of one bound or receiving queue. -/
def queueSteps (b : BankId) (k : Bank) (q : Nat) : List Agendum :=
  let x := k.queue q
  let n := BitVec.ofNat 4 q
  (match x.binding with
    | some y => due (y.bank.isSome && y.back != 0) (.creditReturn b n)
    | none => []) ++
  (match x.req with
    | some r => match r.stage with
      | .posted => due true (.bindRequest b ⟨n, none⟩)
      | .asked (some ok) => due true (.bindAck b n ok)
      | _ => []
    | none => [])

/-- Steps of the memory side of a bank. -/
def memorySteps (b : BankId) (k : Bank) : List Agendum :=
  let m := k.mem
  due (!m.reqs.isEmpty) (.homeRequest b false) ++ due (!m.unacked.isEmpty) (.homeAck b) ++
  due (!m.sent.isEmpty) (.homeRequest b true) ++ due (!m.dirty.isEmpty) (.dirtyLineDrain b) ++
  (List.range 8).flatMap (fun n => match (k.ds n).run with
    | some r => if r.write then due true (.streamRowStore b (BitVec.ofNat 3 n)) else due true (.streamRowFetch b (BitVec.ofNat 3 n))
    | none => []) ++
  (k.moves.filter (fun x => !x.drain)).map (fun x => .event (.fillRow b (BitVec.ofNat 5 x.tile)))

/-- Whether a nest still has a row to pop, and a K operation a row to pop or push: these steps keep their engine's place in the
order of 01 R17. -/
def Nest.pops (n : Nest) : Bool :=
  match operandOf n.aSpec with
  | .tile _ => false
  | _ => decide (n.pos < n.total)
def RowPort.moves : RowPort → Bool
  | .queue _ | .dstream _ => true
  | .spad _ | .const _ => false
def KTodo.pops : KTodo → Bool
  | .take p | .give p _ => p.moves
  | .head _ _ _ a b => [a, b].any (fun x => match operandOf x.spec with | .tile _ => false | _ => true)
  | _ => false
def KOp.pops (o : KOp) : Bool := o.todo.any KTodo.pops

/-- Steps of the engines, copy channels and waits of a bank. -/
def engineSteps (s : State) (b : BankId) (k : Bank) : List Agendum :=
  due (!k.mEng.loads.isEmpty) (.bankLoadFinish b) ++ due (!k.mEng.loads.isEmpty) (.bankLoadStart b) ++
  due (!k.mEng.backs.isEmpty) (.kRunWriteback b) ++
  due (k.mEng.nest.any (fun n => !n.pops)) (.nestStep b) ++ due (k.kEng.op.any (fun o => !o.pops)) (.kOperationComplete b) ++
  (List.range 4).flatMap (fun n =>
    let c := k.chan n
    let i := BitVec.ofNat 2 n
    due c.running.isSome (.recordComplete b i) ++ due (!c.ready.isEmpty) (.recordStart b i) ++ due (!c.heads.isEmpty) (.chainWalk b i)) ++
  engines.flatMap (fun e => due (!(k.stream e).sigs.isEmpty) (.semsigIncrement b e) ++ watchdogs b k e) ++
  k.arrivals.map (fun _ => .event (.enqrArrival b)) ++ (k.gbar.toList ++ k.gkept).map (fun _ => .event (.gbarCompletion b)) ++ due k.wfi.isSome (.wfiWake b) ++
  due (s.spends b && k.budget == 0) (.preemptBudgetExpiry b)

/-- Whether anything of a bank moves. -/
def Bank.alive (k : Bank) : Bool := k.bindRec.valid || k.phase != .free || k.copying || !k.mem.sent.isEmpty || !k.mem.unacked.isEmpty

/-- The steps of a bank, but for those of `coreIssues` and `coreArrivals`. Results that are ready reach a queue in the order C, A
(with the rows of LDQ), V, M, K (01 R17). -/
def bankSteps (s : State) (b : BankId) : List Agendum :=
  let k := s.bank b
  if !k.alive then []
  else
    let ends := match k.phase with | .ending _ => true | _ => false
    let ready := fun (e : Engine) => due ((k.stream e).pend.any (fun p => decide (p.cyc ≤ s.cycle)) || (ends && e == .C)) (.readyWrite b e)
    ready .C ++ ready .A ++ (List.range k.mem.returns.length).map (fun _ => .event (.loadReturn b 0)) ++
    ready .V ++ ready .M ++ ready .K ++
    memorySteps b k ++ engineSteps s b k ++ (List.range 16).flatMap (queueSteps b k) ++
    due (k.bindRec.valid && !coreAwake s b.core) (.powerWake (.strip (b.core / 160) (corePos b.core % 24))) ++
    due (k.bindRec.valid && k.phase == .free) (.dispatch b k.launchId k.bindRec.unit.toNat)

/-- The V words of a core's banks whose rows are read in this cycle, before V's next word (17 R302). -/
def lateSteps (s : State) (n : Nat) : List Agendum :=
  [false, true].flatMap (fun slot => due ((s.bank ⟨n, slot⟩).late.any (fun l => decide (l.due ≤ s.cycle))) (.readyWrite ⟨n, slot⟩ .V))

/-- The steps of a core, of a bank switch that ends first: the watchdogs of the bank that becomes active run before its words (23 R382). And
its streams in the order fetch serves them (17 R297), V twice, for a dual issue (06 R162), with the rows
that a nest and a K operation take in their engine's place of the order of 01 R17. -/
def coreSteps (s : State) (n : Nat) : List Agendum :=
  due true (.bankSwitch n) ++ bankSteps s ⟨n, false⟩ ++ bankSteps s ⟨n, true⟩ ++ due (s.core n).resetting (.coreResetDone n)
def coreIssues (s : State) (n : Nat) : List Agendum :=
  let idle := (s.bank (s.activeBank n)).phase = .free
  let mk := fun (slot : Bool) (e : Engine) =>
    let k := s.bank ⟨n, slot⟩
    if e = .M then due (k.mEng.nest.any Nest.pops) (.nestStep ⟨n, slot⟩) else due (k.kEng.op.any KOp.pops) (.kOperationComplete ⟨n, slot⟩)
  (if idle then [] else [.issue n .C, .issue n .A]) ++ lateSteps s n ++ (if idle then [] else [.issue n .V, .issue n .V]) ++
  mk false .M ++ mk true .M ++ (if idle then [] else [.issue n .M]) ++
  mk false .K ++ mk true .K ++ (if idle then [] else [.issue n .K])

/-- What enters queues at the end of a cycle (04 R111). -/
def coreArrivals (s : State) (n : Nat) : List Agendum :=
  [false, true].flatMap (fun slot => (List.range 16).flatMap (rowSteps ⟨n, slot⟩ (s.bank ⟨n, slot⟩) s.cycle))

/-- The first free slot of the module for a launch's masks; `fuel` bounds the cores looked at. -/
def firstSlot (s : State) (l : Launch) : Nat → Nat → Option BankId
  | 0, _ => none
  | f + 1, n =>
    let c := s.core n
    if c.slotFree false && masksFree c.bank1 l then some ⟨n, false⟩
    else if c.slotFree true && masksFree c.bank0 l then some ⟨n, true⟩
    else firstSlot s l f (n + 1)

/-- Helmal's placement: the first waiting unit of a launch that may be placed, in the first free slot (20 R334). -/
def placements (s : State) (id : Nat) (l : Launch) : List Agendum :=
  match l.units.find? (fun u => u.2 == .waiting && mayPlace s id l u.1) with
  | some u => match firstSlot s l Config.coreCount 0 with
    | some b => [.event (.dispatch b id u.1)]
    | none => []
  | none => []

/-- Launches: placement and completion. -/
def launchSteps (s : State) : List Agendum :=
  s.host.launches.flatMap (fun l =>
    if l.2.done then [] else (if l.2.cancel then [] else placements s l.1 l.2) ++ due (l.2.units.length ≤ l.2.count) (.launchComplete l.1))

/-- The packet events of a queue: every kind is tried; only the one of the packet's type does anything (20 R328). -/
def packetSteps (q : Nat) (x : WorkQueue) : List Agendum :=
  due (!x.cancels.isEmpty) (.cancelPacket q) ++ match x.hold with
  | some (.sem _ _) => [.event (.semwaitPacketRelease q)]
  | some (.tick _) => [.event (.timedPrewake q), .event (.timedRelease q)]
  | some (.fault _) => []
  | none =>
    if !x.en || x.err || x.rptr == x.wptr then []
    else [.event (.launch q), .event (.graph q), .event (.semwaitPacket q), .event (.semsigPacket q), .event (.timed q), .event (.cancelPacket q),
      .event (.collectivePacket q)]

/-- The steps of graph runs. -/
def graphSteps (s : State) : List Agendum :=
  due s.host.upload.isSome .graphUploadDone ++
  s.host.runs.flatMap (fun r => if r.2.done then [] else
    ((List.range r.2.nodes).filter (fun n => r.2.mayStart n)).map (fun n => .event (.graphNodeStart r.1 n)))

/-- The transfer step of a collective's type, where this chip is its only member or has what the others send. -/
def transferStep (e : CollEntry) : List Agendum :=
  let x : Contributions := ⟨[], []⟩
  if e.state ≠ .started || e.wrote || ((members e.id.peers).length ≠ 1 && e.got.isNone) then []
  else match cType e.cmd with
    | 0x40 => [.event (.allreduce e.id x)]
    | 0x41 => [.event (.reduce e.id x)]
    | 0x42 => [.event (.broadcast e.id x)]
    | 0x43 => [.event (.allgather e.id x)]
    | _ => [.event (.reducescatter e.id x)]

/-- What the escapement does, its own messages to itself among it (12 R280). -/
def collectiveSteps (s : State) : List Agendum :=
  s.esc.table.flatMap (fun e =>
    due (e.state == .waiting) (.collectiveTakeUp e.id) ++
    (if anchors s e.id then (ownNotice s e).toList.map (fun n => .event (.notice n)) else []) ++
    (if e.state = .notified then (s.esc.issued.filter (·.id == e.id)).map (fun t => .event (.ticket t)) else []) ++
    due (e.state == .ticketed) (.ticketStart e.id) ++ transferStep e ++ due e.wrote (.collectiveDone e.id) ++
    due (e.state == .started) (.collectiveWatchdog e.id)) ++
  (s.esc.notices.filter (fun n => decide ((members n.1.peers).length ≤ (s.esc.notices.filter (·.1 == n.1)).length) && n.2.1 == 0)).map
    (fun n => .event (.notice ⟨n.1, n.2.2, n.2.1⟩))

/-- The steps of the memory system and of translation. -/
def systemSteps (s : State) : List Agendum :=
  (List.range 8).flatMap (fun d => ((List.range (s.host.walks.filter (·.1 == d)).length).reverse).map (fun n => .event (.pageWalk d n))) ++
  s.host.invals.map (fun x => .event (.atsInvalidation x.iova)) ++
  s.mem.slices.flatMap (fun x => due (!x.2.changes.isEmpty) (.splitChangeEnd x.1)) ++
  due (s.fleet.module == .retention && s.host.queues.any (fun q => q.2.en && q.2.rptr != q.2.wptr)) (.powerWake .module) ++
  due s.mem.moving.isSome .retirementWritebackDone ++ due (firstStale s s.cores).isSome .rehashReply ++
  s.mem.rebuilds.map (fun l => .event (.rebuildWriteback (64 * l))) ++ due s.host.mig.isSome .migrationComplete

/-- Scratchpad banks that have stood unused for 65,536 core cycles enter retention (24 R389). -/
def retentionSteps (s : State) (cs : List (Nat × Core)) : List Agendum :=
  cs.flatMap (fun c => ((List.range 16).filter (fun i => !c.2.retained.getLsbD i && decide (kget 0 c.2.lastUse i + 65536 ≤ s.cycle))).map
    (fun i => .event (.spadBankRetention c.1 (BitVec.ofNat 4 i))))

/-- The tick advances in every fourth nominal cycle (log entry 6), by what a correction asks for. -/
def tickSteps (s : State) : List Agendum :=
  due (s.cycle % Config.cyclesPerTick == 0) (.tickAdvance (if 0 < s.time.debt then 0 else if 0 < s.time.jump then 2 else 1))

/-- CYCLES counts the cycles in which the bank is active (04 R89; 21 R347): the one that is left until the switch ends (01
R27). -/
def Core.count (c : Core) : Core :=
  let k := c.bank c.active
  if k.phase = .free then c else c.setBank c.active { k with cycles := k.cycles + 1 }

/-- Retirements that firmware has been asked for begin once their conditions hold (22 R375). -/
def retireWaiting (s : State) : State := s.mem.retire.foldl (fun s n => slretire s (BitVec.ofNat 64 (9223372036854775808 + n))) s

/-! ### Accesses that wait at their homes (18 R314; 22 R375, R378) -/

/-- What an access does once its homes serve it. -/
def LateOp.perform (o : LateOp) (s : State) : State :=
  match o with
  | .write pa d => putBytes s pa d
  | .cxl a n d => cxlPerform s a n d
  | .scrub a r => channelRead s a r
  | .ctxdesc c d => registerContext s c d

/-- The requester and the class of such an access (22 R371, R373). -/
def LateOp.requester : LateOp → Nat × Nat
  | .cxl _ _ _ => (2562, 1)
  | .write _ _ | .scrub _ _ | .ctxdesc _ _ => (2563, 3)

/-- Whether an access that waits can be performed: its homes hold it no more, no earlier one to its bytes is left, and none that arrived before it
goes first. -/
def Waiting.free (w : Waiting) (s : State) : Bool :=
  !heldIn s.mem w.op.span.1 w.op.span.2 && !yields s (w.cycle, [w.op.span]) &&
  !((s.mem.queued.takeWhile (· != w)).any (fun x => spansMeet x.op.span w.op.span))

/-- Such an access is performed where it can be. -/
def flushOne (s : State) (w : Waiting) : State :=
  if w.free s then
    let s := w.op.perform { s with mem := { s.mem with queued := s.mem.queued.erase w } }
    noteMisses s (linesOf w.op.span.1 w.op.span.2).length w.op.requester.1 w.op.requester.2 w.limit
  else s

/-- The accesses that wait are tried in the order of their arrival. -/
def flushWaiting (s : State) : State := s.mem.queued.foldl flushOne s

/-! ### The clock of a strip (00 R3, R7; 24 R386) -/

/-- A cycle that is still to come, of a core whose clock has no edge in a nominal cycle: one later. -/
def later (now c : Nat) : Nat := if now < c then c + 1 else c
def Mark.skip (m : Mark) (now : Nat) : Mark := { m with ready := later now m.ready }
def Ask.skip (a : Ask) (now : Nat) : Ask := { a with due := later now a.due }
def StoreEntry.skip (e : StoreEntry) (now : Nat) : StoreEntry := { e with due := later now e.due }
def Accepted.skip (r : Accepted) (now : Nat) : Accepted := { r with start := later now r.start, ready := later now r.ready }

def Stream.skip (x : Stream) (now : Nat) : Stream :=
  { x with
    nextIssue := later now x.nextIssue, pend := x.pend.map (fun p => { p with cyc := later now p.cyc })
    reading := x.reading.map (fun r => (r.1, later now r.2)), wait := x.wait.map (·.skip now)
    sigs := x.sigs.map (fun g => { g with mark := g.mark.skip now }) }

def BankMem.skip (m : BankMem) (now : Nat) : BankMem :=
  { m with
    reqs := m.reqs.map (fun r => { r with due := later now r.due }), returns := m.returns.map (fun r => { r with due := later now r.due })
    dirty := m.dirty.map (·.skip now), sent := m.sent.map (·.skip now), unacked := m.unacked.map (·.skip now) }

def MEngine.skip (m : MEngine) (now : Nat) : MEngine :=
  { m with
    nest := m.nest.map (fun n => { n with nextCyc := later now n.nextCyc, waiting := n.waiting.map (fun w => (w.1 + 1, w.2)) })
    backs := m.backs.map (fun x => { x with cyc := later now x.cyc }), loads := m.loads.map (fun l => { l with finish := l.finish.map (later now) }) }

def KEngine.skip (k : KEngine) (now : Nat) : KEngine :=
  { k with op := k.op.map (fun o => { o with busy := later now o.busy, since := o.since.map (fun w => (w.1 + 1, w.2)) }) }

def Channel.skip (c : Channel) (now : Nat) : Channel :=
  { c with
    heads := c.heads.map (fun h => { h with start := later now h.start, ask := h.ask.map (·.skip now) })
    ready := c.ready.map (·.skip now), running := c.running.map (·.skip now) }

/-- Rows on the trains keep the core's time, those on the way to another chip that of the reference. -/
def Binding.skip (x : Binding) (now : Nat) : Binding :=
  if x.bank.isSome then { x with way := x.way.map (fun r => (later now r.1, r.2)) } else x

def Bank.skip (k : Bank) (now : Nat) : Bank :=
  { k with
    c := k.c.skip now, a := k.a.skip now, v := k.v.skip now, m := k.m.skip now, k := k.k.skip now
    late := k.late.map (fun l => { l with due := later now l.due }), mem := k.mem.skip now, mEng := k.mEng.skip now, kEng := k.kEng.skip now
    dstreams := k.dstreams.map (fun d => { d with run := d.run.map (fun r => { r with asked := r.asked.map (·.skip now) }) })
    chans := k.chans.map (·.skip now), arrivals := k.arrivals.map (fun a => (later now a.1, a.2))
    queues := k.queues.map (fun q => { q with binding := q.binding.map (·.skip now) }) }

/-- A nominal cycle without an edge of the core's clock: whatever the core counts in its cycles stands still. -/
def Core.skip (c : Core) (now : Nat) : Core :=
  { c with
    bank0 := c.bank0.skip now, bank1 := c.bank1.skip now, switching := c.switching.map (later now)
    replies := c.replies.map (fun r => (later now r.1, r.2)), lastUse := (List.range 16).map (fun i => (i, kget 0 c.lastUse i + 1)) }

/-- A core in the next nominal cycle, `now` the one before it. -/
def Core.clocked (c : Core) (edge : Bool) (now : Nat) : Core := if edge then c.count else c.skip now

/-- The next nominal cycle begins: what is due in it comes onto the agenda, of the cores whose clock has an edge in it. -/
def refill (s : State) : State :=
  let s := retireWaiting s
  let n := s.cycle + 1
  let s : State := { s with cycle := n, cores := s.cores.map (fun c => (c.1, c.2.clocked (clockEdge s.fleet c.1 n) s.cycle)) }
  let s := flushWaiting (s.cores.foldl (fun s c => repliesBack s c.1) s)
  let cs := s.cores.filter (fun c => clockEdge s.fleet c.1 n)
  { s with agenda :=
      tickSteps s ++ cs.flatMap (fun c => coreSteps s c.1) ++ systemSteps s ++ retentionSteps s cs ++ collectiveSteps s ++ launchSteps s ++ graphSteps s ++
      s.host.queues.flatMap (fun q => packetSteps q.1 q.2) ++ cs.flatMap (fun c => coreIssues s c.1) ++
      cs.flatMap (fun c => coreArrivals s c.1) }

end Sys2Proof.Machine
end

