-- ==== Sys2Proof/Machine/Dispatch.lean ====
section
/-! DEFINITION. The meaning of every instruction and event: one call per constructor. -/

namespace Sys2Proof.Machine

def exec (i : Instr) (s : State) : Host.Outcome State Fault Refusal :=
  match i with
  | .add w d a b => Sys2Proof.Machine.execAdd w d a b s
  | .sub w d a b => Sys2Proof.Machine.execSub w d a b s
  | .and w d a b => Sys2Proof.Machine.execAnd w d a b s
  | .or w d a b => Sys2Proof.Machine.execOr w d a b s
  | .xor w d a b => Sys2Proof.Machine.execXor w d a b s
  | .shl w d a b => Sys2Proof.Machine.execShl w d a b s
  | .shr w d a b => Sys2Proof.Machine.execShr w d a b s
  | .sra w d a b => Sys2Proof.Machine.execSra w d a b s
  | .mul w d a b => Sys2Proof.Machine.execMul w d a b s
  | .mulh w d a b => Sys2Proof.Machine.execMulh w d a b s
  | .mulhu w d a b => Sys2Proof.Machine.execMulhu w d a b s
  | .div w d a b => Sys2Proof.Machine.execDiv w d a b s
  | .divu w d a b => Sys2Proof.Machine.execDivu w d a b s
  | .rem w d a b => Sys2Proof.Machine.execRem w d a b s
  | .min w d a b => Sys2Proof.Machine.execMin w d a b s
  | .max w d a b => Sys2Proof.Machine.execMax w d a b s
  | .minu w d a b => Sys2Proof.Machine.execMinu w d a b s
  | .maxu w d a b => Sys2Proof.Machine.execMaxu w d a b s
  | .slt w d a b => Sys2Proof.Machine.execSlt w d a b s
  | .sltu w d a b => Sys2Proof.Machine.execSltu w d a b s
  | .addi w d a im => Sys2Proof.Machine.execAddi w d a im s
  | .andi w d a im => Sys2Proof.Machine.execAndi w d a im s
  | .ori w d a im => Sys2Proof.Machine.execOri w d a im s
  | .xori w d a im => Sys2Proof.Machine.execXori w d a im s
  | .shli w d a im => Sys2Proof.Machine.execShli w d a im s
  | .shri w d a im => Sys2Proof.Machine.execShri w d a im s
  | .srai w d a im => Sys2Proof.Machine.execSrai w d a im s
  | .slti w d a im => Sys2Proof.Machine.execSlti w d a im s
  | .li w d im => Sys2Proof.Machine.execLi w d im s
  | .lsh w d im => Sys2Proof.Machine.execLsh w d im s
  | .csrr w d n => Sys2Proof.Machine.execCsrr w d n s
  | .csrw w d n => Sys2Proof.Machine.execCsrw w d n s
  | .tick w d => Sys2Proof.Machine.execTick w d s
  | .tickwait w a => Sys2Proof.Machine.execTickwait w a s
  | .beq w a b o => Sys2Proof.Machine.execBeq w a b o s
  | .bne w a b o => Sys2Proof.Machine.execBne w a b o s
  | .blt w a b o => Sys2Proof.Machine.execBlt w a b o s
  | .bge w a b o => Sys2Proof.Machine.execBge w a b o s
  | .bltu w a b o => Sys2Proof.Machine.execBltu w a b o s
  | .bgeu w a b o => Sys2Proof.Machine.execBgeu w a b o s
  | .jal w d o => Sys2Proof.Machine.execJal w d o s
  | .jalr w d a im => Sys2Proof.Machine.execJalr w d a im s
  | .semwait w a n => Sys2Proof.Machine.execSemwait w a n s
  | .semsig w a n => Sys2Proof.Machine.execSemsig w a n s
  | .fence w c => Sys2Proof.Machine.execFence w c s
  | .brk w im => Sys2Proof.Machine.execBrk w im s
  | .trap w im => Sys2Proof.Machine.execTrap w im s
  | .nop w => Sys2Proof.Machine.execNop w s
  | .lcall w d o => Sys2Proof.Machine.execLcall w d o s
  | .lret w => Sys2Proof.Machine.execLret w s
  | .ltag w t sr l => Sys2Proof.Machine.execLtag w t sr l s
  | .lidx w t l => Sys2Proof.Machine.execLidx w t l s
  | .brb w t o => Sys2Proof.Machine.execBrb w t o s
  | .join w => Sys2Proof.Machine.execJoin w s
  | .forkA w d o => Sys2Proof.Machine.execForkA w d o s
  | .forkV w d o => Sys2Proof.Machine.execForkV w d o s
  | .forkM w d o => Sys2Proof.Machine.execForkM w d o s
  | .forkK w d o => Sys2Proof.Machine.execForkK w d o s
  | .rdv w sr => Sys2Proof.Machine.execRdv w sr s
  | .rdvEnd w => Sys2Proof.Machine.execRdvEnd w s
  | .rdvStream w => Sys2Proof.Machine.execRdvStream w s
  | .safept w => Sys2Proof.Machine.execSafept w s
  | .unitid w d => Sys2Proof.Machine.execUnitid w d s
  | .param w d k => Sys2Proof.Machine.execParam w d k s
  | .role w d => Sys2Proof.Machine.execRole w d s
  | .enqr w a b => Sys2Proof.Machine.execEnqr w a b s
  | .cmdpop w d => Sys2Proof.Machine.execCmdpop w d s
  | .cmdsteal w d => Sys2Proof.Machine.execCmdsteal w d s
  | .gbar w g => Sys2Proof.Machine.execGbar w g s
  | .qbind w q sr => Sys2Proof.Machine.execQbind w q sr s
  | .qdepth w q sr => Sys2Proof.Machine.execQdepth w q sr s
  | .split w a b => Sys2Proof.Machine.execSplit w a b s
  | .stdim w n a b k => Sys2Proof.Machine.execStdim w n a b k s
  | .stbase w n a => Sys2Proof.Machine.execStbase w n a s
  | .stgo w n r => Sys2Proof.Machine.execStgo w n r s
  | .strst w n => Sys2Proof.Machine.execStrst w n s
  | .tdesc w p q sr => Sys2Proof.Machine.execTdesc w p q sr s
  | .tfill w p q sr => Sys2Proof.Machine.execTfill w p q sr s
  | .tdrain w p q sr x => Sys2Proof.Machine.execTdrain w p q sr x s
  | .tfree w p => Sys2Proof.Machine.execTfree w p s
  | .tstate w p sr => Sys2Proof.Machine.execTstate w p sr s
  | .ldq w p sr => Sys2Proof.Machine.execLdq w p sr s
  | .stq w q sr => Sys2Proof.Machine.execStq w q sr s
  | .ld w d a b z => Sys2Proof.Machine.execLd w d a b z s
  | .ldu w d a b z => Sys2Proof.Machine.execLdu w d a b z s
  | .st w d a b z => Sys2Proof.Machine.execSt w d a b z s
  | .ldl w d a b z => Sys2Proof.Machine.execLdl w d a b z s
  | .ldacq w d a b c z => Sys2Proof.Machine.execLdacq w d a b c z s
  | .strel w d a b c z => Sys2Proof.Machine.execStrel w d a b c z s
  | .aadd w d a b o c x => Sys2Proof.Machine.execAadd w d a b o c x s
  | .aand w d a b o c x => Sys2Proof.Machine.execAand w d a b o c x s
  | .aor w d a b o c x => Sys2Proof.Machine.execAor w d a b o c x s
  | .axor w d a b o c x => Sys2Proof.Machine.execAxor w d a b o c x s
  | .amin w d a b o c x => Sys2Proof.Machine.execAmin w d a b o c x s
  | .amax w d a b o c x => Sys2Proof.Machine.execAmax w d a b o c x s
  | .aminu w d a b o c x => Sys2Proof.Machine.execAminu w d a b o c x s
  | .amaxu w d a b o c x => Sys2Proof.Machine.execAmaxu w d a b o c x s
  | .aswp w d a b o c x => Sys2Proof.Machine.execAswp w d a b o c x s
  | .acas w d a b o c x => Sys2Proof.Machine.execAcas w d a b o c x s
  | .cpyhd w d a n => Sys2Proof.Machine.execCpyhd w d a n s
  | .cpyst w d n => Sys2Proof.Machine.execCpyst w d n s
  | .cpywait w a n => Sys2Proof.Machine.execCpywait w a n s
  | .postc w a => Sys2Proof.Machine.execPostc w a s
  | .pref w a b => Sys2Proof.Machine.execPref w a b s
  | .vadd w p q r m => Sys2Proof.Machine.execVadd w p q r m s
  | .vsub w p q r m => Sys2Proof.Machine.execVsub w p q r m s
  | .vmul w p q r m => Sys2Proof.Machine.execVmul w p q r m s
  | .vfma w p q r m => Sys2Proof.Machine.execVfma w p q r m s
  | .vfms w p q r m => Sys2Proof.Machine.execVfms w p q r m s
  | .vmin w p q r => Sys2Proof.Machine.execVmin w p q r s
  | .vmax w p q r => Sys2Proof.Machine.execVmax w p q r s
  | .vdiv w p q r m => Sys2Proof.Machine.execVdiv w p q r m s
  | .vabs w p q => Sys2Proof.Machine.execVabs w p q s
  | .vneg w p q => Sys2Proof.Machine.execVneg w p q s
  | .vrcp w p q m => Sys2Proof.Machine.execVrcp w p q m s
  | .vrsq w p q m => Sys2Proof.Machine.execVrsq w p q m s
  | .vexp2 w p q m => Sys2Proof.Machine.execVexp2 w p q m s
  | .vlog2 w p q m => Sys2Proof.Machine.execVlog2 w p q m s
  | .vcmp w p q r c => Sys2Proof.Machine.execVcmp w p q r c s
  | .vsel w p q r => Sys2Proof.Machine.execVsel w p q r s
  | .vand w p q r => Sys2Proof.Machine.execVand w p q r s
  | .vor w p q r => Sys2Proof.Machine.execVor w p q r s
  | .vxor w p q r => Sys2Proof.Machine.execVxor w p q r s
  | .vnot w p q => Sys2Proof.Machine.execVnot w p q s
  | .vshl w p q r => Sys2Proof.Machine.execVshl w p q r s
  | .vshr w p q r => Sys2Proof.Machine.execVshr w p q r s
  | .vsra w p q r => Sys2Proof.Machine.execVsra w p q r s
  | .vadds w p q sr m => Sys2Proof.Machine.execVadds w p q sr m s
  | .vmuls w p q sr m => Sys2Proof.Machine.execVmuls w p q sr m s
  | .vqadd w p q r => Sys2Proof.Machine.execVqadd w p q r s
  | .vqsub w p q r => Sys2Proof.Machine.execVqsub w p q r s
  | .vqmul w p q r => Sys2Proof.Machine.execVqmul w p q r s
  | .vqabs w p q => Sys2Proof.Machine.execVqabs w p q s
  | .vcvt w p q m => Sys2Proof.Machine.execVcvt w p q m s
  | .vbmax w q => Sys2Proof.Machine.execVbmax w q s
  | .vbq w p q m => Sys2Proof.Machine.execVbq w p q m s
  | .vrsum w p q m => Sys2Proof.Machine.execVrsum w p q m s
  | .vrmax w p q => Sys2Proof.Machine.execVrmax w p q s
  | .vrmin w p q => Sys2Proof.Machine.execVrmin w p q s
  | .vmov w p q => Sys2Proof.Machine.execVmov w p q s
  | .vbcst w p sr => Sys2Proof.Machine.execVbcst w p sr s
  | .vperm w p q r => Sys2Proof.Machine.execVperm w p q r s
  | .vrot w p q sr => Sys2Proof.Machine.execVrot w p q sr s
  | .vrow w p sr => Sys2Proof.Machine.execVrow w p sr s
  | .vnext w p => Sys2Proof.Machine.execVnext w p s
  | .vrng w p h sr => Sys2Proof.Machine.execVrng w p h sr s
  | .mnest w l a im => Sys2Proof.Machine.execMnest w l a im s
  | .mbind w p q => Sys2Proof.Machine.execMbind w p q s
  | .mloadb w q sr k => Sys2Proof.Machine.execMloadb w q sr k s
  | .mbank w k => Sys2Proof.Machine.execMbank w k s
  | .mring w r => Sys2Proof.Machine.execMring w r s
  | .mgo w => Sys2Proof.Machine.execMgo w s
  | .mwait w => Sys2Proof.Machine.execMwait w s
  | .mma w p q => Sys2Proof.Machine.execMma w p q s
  | .mstat w d c => Sys2Proof.Machine.execMstat w d c s
  | .mclr w => Sys2Proof.Machine.execMclr w s
  | .skcfg w a b m => Sys2Proof.Machine.execSkcfg w a b m s
  | .skclr w => Sys2Proof.Machine.execSkclr w s
  | .skfold w p q sr => Sys2Proof.Machine.execSkfold w p q sr s
  | .skpanel w q r => Sys2Proof.Machine.execSkpanel w q r s
  | .skshrink w => Sys2Proof.Machine.execSkshrink w s
  | .skrank w d => Sys2Proof.Machine.execSkrank w d s
  | .sken w d => Sys2Proof.Machine.execSken w d s
  | .skenclr w => Sys2Proof.Machine.execSkenclr w s
  | .skrdu w p sr => Sys2Proof.Machine.execSkrdu w p sr s
  | .skrdv w p sr => Sys2Proof.Machine.execSkrdv w p sr s
  | .skrds w p => Sys2Proof.Machine.execSkrds w p s
  | .skrow w p sr => Sys2Proof.Machine.execSkrow w p sr s
  | .skmrg w q r => Sys2Proof.Machine.execSkmrg w q r s
  | .skscl w a => Sys2Proof.Machine.execSkscl w a s
  | .sksave w p => Sys2Proof.Machine.execSksave w p s
  | .skload w q => Sys2Proof.Machine.execSkload w q s
  | .scsrr w d n => Sys2Proof.Machine.execScsrr w d n s
  | .scsrw w d n => Sys2Proof.Machine.execScsrw w d n s
  | .tret w => Sys2Proof.Machine.execTret w s
  | .ctxbank w k => Sys2Proof.Machine.execCtxbank w k s
  | .tlbinv w a e => Sys2Proof.Machine.execTlbinv w a e s
  | .halt w => Sys2Proof.Machine.execHalt w s
  | .wfi w => Sys2Proof.Machine.execWfi w s
  | .errpop w d => Sys2Proof.Machine.execErrpop w d s
  | .eccinj w a sr => Sys2Proof.Machine.execEccinj w a sr s
  | .readyWrite b e => Sys2Proof.Machine.execReadyWrite b e s
  | .pageWalk die n => Sys2Proof.Machine.execPageWalk die n s
  | .loadReturn b n => Sys2Proof.Machine.execLoadReturn b n s
  | .streamRowFetch b n => Sys2Proof.Machine.execStreamRowFetch b n s
  | .streamRowStore b n => Sys2Proof.Machine.execStreamRowStore b n s
  | .fillRow b t => Sys2Proof.Machine.execFillRow b t s
  | .dirtyLineDrain b => Sys2Proof.Machine.execDirtyLineDrain b s
  | .homeAck b => Sys2Proof.Machine.execHomeAck b s
  | .homeRequest b write => Sys2Proof.Machine.execHomeRequest b write s
  | .semsigIncrement b e => Sys2Proof.Machine.execSemsigIncrement b e s
  | .enqrArrival b => Sys2Proof.Machine.execEnqrArrival b s
  | .boundRowArrival b q ext => Sys2Proof.Machine.execBoundRowArrival b q ext s
  | .creditReturn b q => Sys2Proof.Machine.execCreditReturn b q s
  | .bindRequest b q => Sys2Proof.Machine.execBindRequest b q s
  | .bindAck b q ok => Sys2Proof.Machine.execBindAck b q ok s
  | .gbarCompletion b => Sys2Proof.Machine.execGbarCompletion b s
  | .splitChangeEnd slice => Sys2Proof.Machine.execSplitChangeEnd slice s
  | .bankLoadStart b => Sys2Proof.Machine.execBankLoadStart b s
  | .bankLoadFinish b => Sys2Proof.Machine.execBankLoadFinish b s
  | .nestStep b => Sys2Proof.Machine.execNestStep b s
  | .kRunWriteback b => Sys2Proof.Machine.execKRunWriteback b s
  | .kOperationComplete b => Sys2Proof.Machine.execKOperationComplete b s
  | .tileWatchdog b e => Sys2Proof.Machine.execTileWatchdog b e s
  | .queueWatchdog b e => Sys2Proof.Machine.execQueueWatchdog b e s
  | .semWatchdog b e => Sys2Proof.Machine.execSemWatchdog b e s
  | .preemptBudgetExpiry b => Sys2Proof.Machine.execPreemptBudgetExpiry b s
  | .dispatch b launch unit => Sys2Proof.Machine.execDispatch b launch unit s
  | .bankSwitch core => Sys2Proof.Machine.execBankSwitch core s
  | .coreResetDone core => Sys2Proof.Machine.execCoreResetDone core s
  | .wfiWake b => Sys2Proof.Machine.execWfiWake b s
  | .chainWalk b ch => Sys2Proof.Machine.execChainWalk b ch s
  | .recordStart b ch => Sys2Proof.Machine.execRecordStart b ch s
  | .recordComplete b ch => Sys2Proof.Machine.execRecordComplete b ch s
  | .collectiveTakeUp p => Sys2Proof.Machine.execCollectiveTakeUp p s
  | .notice m => Sys2Proof.Machine.execNotice m s
  | .ticket m => Sys2Proof.Machine.execTicket m s
  | .ticketStart p => Sys2Proof.Machine.execTicketStart p s
  | .collectiveWatchdog p => Sys2Proof.Machine.execCollectiveWatchdog p s
  | .allreduce p x => Sys2Proof.Machine.execAllreduce p x s
  | .reduce p x => Sys2Proof.Machine.execReduce p x s
  | .broadcast p x => Sys2Proof.Machine.execBroadcast p x s
  | .allgather p x => Sys2Proof.Machine.execAllgather p x s
  | .reducescatter p x => Sys2Proof.Machine.execReducescatter p x s
  | .collectiveDone p => Sys2Proof.Machine.execCollectiveDone p s
  | .launch q => Sys2Proof.Machine.execLaunch q s
  | .graph q => Sys2Proof.Machine.execGraph q s
  | .semwaitPacket q => Sys2Proof.Machine.execSemwaitPacket q s
  | .semwaitPacketRelease q => Sys2Proof.Machine.execSemwaitPacketRelease q s
  | .semsigPacket q => Sys2Proof.Machine.execSemsigPacket q s
  | .timed q => Sys2Proof.Machine.execTimed q s
  | .timedRelease q => Sys2Proof.Machine.execTimedRelease q s
  | .cancelPacket q => Sys2Proof.Machine.execCancelPacket q s
  | .collectivePacket q => Sys2Proof.Machine.execCollectivePacket q s
  | .launchComplete id => Sys2Proof.Machine.execLaunchComplete id s
  | .graphNodeStart run node => Sys2Proof.Machine.execGraphNodeStart run node s
  | .rebuildWriteback addr => Sys2Proof.Machine.execRebuildWriteback addr s
  | .powerWake p => Sys2Proof.Machine.execPowerWake p s
  | .timedPrewake q => Sys2Proof.Machine.execTimedPrewake q s
  | .tickAdvance n => Sys2Proof.Machine.execTickAdvance n s
  | .atsTranslationResponse iova ans => Sys2Proof.Machine.execAtsTranslationResponse iova ans s
  | .prgResponse iova success => Sys2Proof.Machine.execPrgResponse iova success s
  | .atsInvalidation iova => Sys2Proof.Machine.execAtsInvalidation iova s
  | .preemptRequest b => Sys2Proof.Machine.execPreemptRequest b s
  | .unitResume b => Sys2Proof.Machine.execUnitResume b s
  | .controlStateError core => Sys2Proof.Machine.execControlStateError core s
  | .abort m => Sys2Proof.Machine.execAbort m s
  | .powerOn => Sys2Proof.Machine.execPowerOn s
  | .domainJoin chip tick ptp members horizon => Sys2Proof.Machine.execDomainJoin chip tick ptp members horizon s
  | .domainLeave => Sys2Proof.Machine.execDomainLeave s
  | .alignmentMarker ahead => Sys2Proof.Machine.execAlignmentMarker ahead s
  | .linkRetry port => Sys2Proof.Machine.execLinkRetry port s
  | .ptpSync offset => Sys2Proof.Machine.execPtpSync offset s
  | .ptpSyncLoss => Sys2Proof.Machine.execPtpSyncLoss s
  | .registerWrite off val size => Sys2Proof.Machine.execRegisterWrite off val size s
  | .gtrig val => Sys2Proof.Machine.execGtrig val s
  | .gupload val => Sys2Proof.Machine.execGupload val s
  | .graphUploadDone => Sys2Proof.Machine.execGraphUploadDone s
  | .cancelLaunch val => Sys2Proof.Machine.execCancelLaunch val s
  | .cancelGraph val => Sys2Proof.Machine.execCancelGraph val s
  | .cancelStage val => Sys2Proof.Machine.execCancelStage val s
  | .cancelJob val => Sys2Proof.Machine.execCancelJob val s
  | .doorbell q wptr => Sys2Proof.Machine.execDoorbell q wptr s
  | .queueEnable q val => Sys2Proof.Machine.execQueueEnable q val s
  | .queueDisable q val => Sys2Proof.Machine.execQueueDisable q val s
  | .queueConfigure q val => Sys2Proof.Machine.execQueueConfigure q val s
  | .queueReset q => Sys2Proof.Machine.execQueueReset q s
  | .contextRegister addr => Sys2Proof.Machine.execContextRegister addr s
  | .contextUnregister => Sys2Proof.Machine.execContextUnregister s
  | .ctxkill val => Sys2Proof.Machine.execCtxkill val s
  | .fanswerRetry val => Sys2Proof.Machine.execFanswerRetry val s
  | .fanswerRefuse val => Sys2Proof.Machine.execFanswerRefuse val s
  | .migdst val => Sys2Proof.Machine.execMigdst val s
  | .migrationComplete => Sys2Proof.Machine.execMigrationComplete s
  | .corerst val => Sys2Proof.Machine.execCorerst val s
  | .slretire val => Sys2Proof.Machine.execSlretire val s
  | .retirementWritebackDone => Sys2Proof.Machine.execRetirementWritebackDone s
  | .rehashReply => Sys2Proof.Machine.execRehashReply s
  | .faqpop => Sys2Proof.Machine.execFaqpop s
  | .bpretire val => Sys2Proof.Machine.execBpretire val s
  | .protmap im val => Sys2Proof.Machine.execProtmap im val s
  | .mirror j len => Sys2Proof.Machine.execMirror j len s
  | .ltol val => Sys2Proof.Machine.execLtol val s
  | .memoryRead addr o => Sys2Proof.Machine.execMemoryRead addr o s
  | .cxlMemAccess addr len data => Sys2Proof.Machine.execCxlMemAccess addr len data s
  | .powerSample mw maxTemp strip => Sys2Proof.Machine.execPowerSample mw maxTemp strip s
  | .thermtrip junction => Sys2Proof.Machine.execThermtrip junction s
  | .powerStateEntry p => Sys2Proof.Machine.execPowerStateEntry p s
  | .spadBankRetention core bank => Sys2Proof.Machine.execSpadBankRetention core bank s
  | .monitorRead => Sys2Proof.Machine.execMonitorRead s
  | .marginReplan strip a => Sys2Proof.Machine.execMarginReplan strip a s
  | .fwstage addr => Sys2Proof.Machine.execFwstage addr s
  | .moduleReset => Sys2Proof.Machine.execModuleReset s
  | .getVersion => Sys2Proof.Machine.execGetVersion s
  | .getCapabilities => Sys2Proof.Machine.execGetCapabilities s
  | .negotiateAlgorithms => Sys2Proof.Machine.execNegotiateAlgorithms s
  | .getDigests => Sys2Proof.Machine.execGetDigests s
  | .getCertificate slot => Sys2Proof.Machine.execGetCertificate slot s
  | .challenge nonce => Sys2Proof.Machine.execChallenge nonce s
  | .getMeasurements index => Sys2Proof.Machine.execGetMeasurements index s
  | .firmwareVerifyDone c => Sys2Proof.Machine.execFirmwareVerifyDone c s
  | .coreRetest core ok => Sys2Proof.Machine.execCoreRetest core ok s
  | .scrub addr o => Sys2Proof.Machine.execScrub addr o s
  | .modulePowerOff => Sys2Proof.Machine.execModulePowerOff s

end Sys2Proof.Machine
end

