-- ==== Sys2Proof/Machine/Step.lean ====
section
/-! DEFINITION. One step: what the agenda says moves next (log entry 1); and a state in which a given word is the next to issue. -/

namespace Sys2Proof.Machine

/-- One step. With nothing on the agenda the next core cycle begins; a module without power does nothing but power up. -/
def step (s : State) : Host.Outcome State Fault Refusal :=
  if s.fleet.powered then
    match s.agenda with
    | [] => .next (refill s)
    | .event i :: rest => exec i { s with agenda := rest }
    | .issue core e :: rest =>
      match fetch { s with agenda := rest } core e with
      | .done t => .next t
      | .word i t => exec i t
  else
    match s.agenda with
    | .event .powerOn :: rest => exec .powerOn { s with agenda := rest }
    | _ => .fault .poweredOff

/-- The state with a one-word text in core 0's active bank, its own stream running at it in a privileged context, and that
stream's move next: what loading a launch and dispatching its unit would come to for this word (log entry 1). -/
def State.withFetchWord (s : State) (nbits w : Nat) : State :=
  let x : W32 := BitVec.ofNat 32 (w % 2 ^ nbits)
  let e := (tableEnv x).engine
  let b := s.activeBank 0
  let s := s.setCore 0 { s.core 0 with switching := none, resetting := false }
  let s := s.modBank b (fun k =>
    let y : Stream := { k.stream e with status := .running, pc := 0, nextIssue := 0, block := none }
    { k.setStream e y with phase := .running, text := [x], textBase := 0, textLen := 4, faults := [] })
  let n := (s.bank b).ctxNum
  { s.modCtx n (fun c => { c with priv := true }) with
    agenda := [.issue 0 e], fleet := { s.fleet with powered := true } }

end Sys2Proof.Machine
end

