-- ==== Sys2Proof/Safety.lean ====
section
/-! DEFINITION. The terms in which claims about runs are made. -/

namespace Sys2Proof.Safety

open Sys2Proof.Machine

/-- Memory is in its canonical form: addresses strictly rising, nothing listed that reads as unlisted. -/
def MemoryCanonical (s : State) : Prop := Memory.wf s.mem.cells = true

/-- A step that goes on. -/
def StepsTo (s t : State) : Prop := step s = .next t

/-- A property that no step takes away. -/
def Invariant (P : State → Prop) : Prop := ∀ s t : State, P s → StepsTo s t → P t

/-- The machine stops only for want of power. -/
def StopsOnlyUnpowered (s : State) : Prop := s.fleet.powered = true → ∃ t, step s = .next t

end Sys2Proof.Safety
end

