-- ==== Sys2Proof/Certificates/Slice0/Obligations.lean ====
section
/-! DEFINITION. The statements for the provers. What they share comes first: the state a word issues in, what may differ after
it, and the arithmetic of the spec's tables in integers. -/

namespace Sys2Proof.Claims

open Sys2Proof.Machine

/-! ### What the statements share -/

/-- The state a word of the current stream issues in: the stream's results that are due have taken effect (17 R293). -/
def issueState (s : State) : State := settle s s.cur.bank s.cur.engine

/-- Nothing of the machine outside bank `b` differs, memory included. -/
def OnlyBank (b : BankId) (u t : State) : Prop :=
  t.agenda = u.agenda ∧ t.cur = u.cur ∧ t.cycle = u.cycle ∧ t.freeCtr = u.freeCtr ∧ t.ctxs = u.ctxs ∧ t.host = u.host ∧ t.mem = u.mem ∧
    t.time = u.time ∧ t.esc = u.esc ∧ t.fleet = u.fleet ∧
    ∀ n, t.core n = if n = b.core then (u.core n).setBank b.slot (t.bank b) else u.core n

/-- Of the fleet side nothing differs but which strips, dies and the module a request at a home has woken, and when (24 R387, R388). -/
def OnlyWakes (u t : State) : Prop :=
  t.fleet = { u.fleet with strips := t.fleet.strips, dies := t.fleet.dies, module := t.fleet.module, lastBusy := t.fleet.lastBusy }

/-- Of core `n` nothing differs but armed errors, which a write of their bytes disarms (21 R367). -/
def OnlyDisarms (u t : State) (n : Nat) : Prop := t.core n = { u.core n with inj := (t.core n).inj }

/-- Whether a result is on its way to a register (17 R293, R295). -/
def onWay (m : Stream) (r : Reg) : Bool := m.pend.any (fun p => p.wr.toReg r || p.wr.toIreg r)

/-- A register can be read now: nothing interlocked is on its way to it, and nothing of fixed latency unless the stall checker is
off, when the old value is read (17 R295, R299). -/
def Readable (u : State) (r : Reg) : Prop :=
  r = 0 ∨ (u.me.pend.any (fun p => p.wr.toIreg r) = false ∧ (u.cur.engine = .A → u.myBank.mem.owes r = false) ∧
    (u.me.pend.any (fun p => p.wr.toReg r) = false ∨ u.me.stallctl.getLsbD 0 = false))

/-- A register result `v` of latency `l` (17 R293, R298): register 0 discards it; a result of latency 1 with nothing on its way to
the register is in the register; any other is on its way, effective in its ready cycle or with an earlier write's. -/
def Delivered (u t : State) (d : Reg) (v : W64) (l : Nat) : Prop :=
  if d = 0 then t.me.regs = u.me.regs ∧ t.me.pend = u.me.pend
  else if l ≤ 1 ∧ onWay u.me d = false then
    t.me.pend = u.me.pend ∧ ∀ r, t.me.get r = if r = d then v else u.me.get r
  else t.me.regs = u.me.regs ∧ ∃ c, t.me.pend = u.me.pend ++ [⟨c, .reg d v, []⟩] ∧ u.cycle + l ≤ c ∧
    (onWay u.me d = false → c = u.cycle + l)

/-- The stream goes on at `pc`, `x` extra cycles after its stall count `w`; the word is counted and no block is left; nothing else
of the stream changes but registers and results on their way (02 R30, 17 R296). -/
def GoesOn (u t : State) (w : BitVec 3) (pc : W64) (x : Nat) : Prop :=
  t.me = { u.me with
    regs := t.me.regs, pend := t.me.pend, pc := pc, nextIssue := u.cycle + 1 + w.toNat + x, issued := u.me.issued + 1
    block := none, lrep := 0, wait := none, lock := false }

/-- Of the issuing bank only the issuing stream differs, and what the bank's memory side holds of results for register `d`. -/
def OnlyStream (u t : State) (d : Reg) : Prop :=
  t.myBank = { u.myBank.setStream u.cur.engine t.me with
    mem := if u.cur.engine = .A ∧ d ≠ 0 then u.myBank.mem.forget d else u.myBank.mem }

/-- A word that gives register `d` the value `v`: all that it does. Every byte of memory reads as before. -/
def RegisterWord (s t : State) (w : BitVec 3) (d : Reg) (v : W64) (l : Nat) : Prop :=
  let u := issueState s
  Delivered u t d v l ∧ GoesOn u t w (u.me.pc + 4) 0 ∧ OnlyStream u t d ∧ OnlyBank u.cur.bank u t ∧ ∀ a, t.byteAt a = s.byteAt a

/-- A register result `v` of variable latency that is ready at issue: behind an earlier result still on its way to the register it stays
interlocked until that one's cycle (17 R294, R295, R298). -/
def DeliveredInt (u t : State) (d : Reg) (v : W64) : Prop :=
  if d = 0 then t.me.regs = u.me.regs ∧ t.me.pend = u.me.pend
  else if onWay u.me d = false then t.me.pend = u.me.pend ∧ ∀ r, t.me.get r = if r = d then v else u.me.get r
  else t.me.regs = u.me.regs ∧ ∃ c, t.me.pend = u.me.pend ++ [⟨c, .ireg d v, []⟩] ∧ u.cycle + 1 ≤ c

/-- A word of C that answers `v` so, and changes nothing else. -/
def AnswerWord (s t : State) (w : BitVec 3) (d : Reg) (v : W64) : Prop :=
  let u := issueState s
  DeliveredInt u t d v ∧ GoesOn u t w (u.me.pc + 4) 0 ∧ OnlyStream u t d ∧ OnlyBank u.cur.bank u t ∧ ∀ a, t.byteAt a = s.byteAt a

/-- The number, modulo 2^64, of an integer. -/
def wrap (i : Int) : W64 := BitVec.ofInt 64 i

/-- The register forms of 04 R79, R80: constructor, effect on s_d in the integers the operands stand for, latency (17 R294). -/
def registerForms : List ((BitVec 3 → Reg → Reg → Reg → Instr) × (W64 → W64 → W64) × Nat) :=
  [(.add, fun x y => wrap (x.toInt + y.toInt), 1), (.sub, fun x y => wrap (x.toInt - y.toInt), 1),
   (.and, fun x y => x &&& y, 1), (.or, fun x y => x ||| y, 1), (.xor, fun x y => x ^^^ y, 1),
   (.shl, fun x y => BitVec.ofNat 64 (x.toNat * 2 ^ (y.toNat % 64)), 1), (.shr, fun x y => BitVec.ofNat 64 (x.toNat / 2 ^ (y.toNat % 64)), 1),
   (.sra, fun x y => wrap (x.toInt / 2 ^ (y.toNat % 64)), 1),
   (.mul, fun x y => wrap (x.toInt * y.toInt), 3), (.mulh, fun x y => wrap (x.toInt * y.toInt / 2 ^ 64), 3),
   (.mulhu, fun x y => BitVec.ofNat 64 (x.toNat * y.toNat / 2 ^ 64), 3),
   (.div, fun x y => if y = 0 then BitVec.allOnes 64 else wrap (x.toInt.tdiv y.toInt), 18),
   (.divu, fun x y => if y = 0 then BitVec.allOnes 64 else BitVec.ofNat 64 (x.toNat / y.toNat), 18),
   (.rem, fun x y => if y = 0 then x else wrap (x.toInt.tmod y.toInt), 18),
   (.min, fun x y => if x.toInt < y.toInt then x else y, 1), (.max, fun x y => if x.toInt < y.toInt then y else x, 1),
   (.minu, fun x y => if x.toNat < y.toNat then x else y, 1), (.maxu, fun x y => if x.toNat < y.toNat then y else x, 1),
   (.slt, fun x y => if x.toInt < y.toInt then 1 else 0, 1), (.sltu, fun x y => if x.toNat < y.toNat then 1 else 0, 1)]

/-- The forms with a sign-extended immediate (04 R81): ADDI, ANDI, ORI, XORI, SLTI. -/
def immediateForms : List ((BitVec 3 → Reg → Reg → BitVec 10 → Instr) × (W64 → Int → W64)) :=
  [(.addi, fun x k => wrap (x.toInt + k)), (.andi, fun x k => x &&& wrap k), (.ori, fun x k => x ||| wrap k),
   (.xori, fun x k => x ^^^ wrap k), (.slti, fun x k => if x.toInt < k then 1 else 0)]

/-- The forms with a shift amount (04 R81): SHLI, SHRI, SRAI. -/
def shiftForms : List ((BitVec 3 → Reg → Reg → BitVec 6 → Instr) × (W64 → Nat → W64)) :=
  [(.shli, fun x n => BitVec.ofNat 64 (x.toNat * 2 ^ n)), (.shri, fun x n => BitVec.ofNat 64 (x.toNat / 2 ^ n)),
   (.srai, fun x n => wrap (x.toInt / 2 ^ n))]

/-- The branches of 04 R83 and when each is taken. -/
def branches : List ((BitVec 3 → Reg → Reg → BitVec 10 → Instr) × (W64 → W64 → Bool)) :=
  [(.beq, fun x y => decide (x = y)), (.bne, fun x y => decide (x ≠ y)), (.blt, fun x y => decide (x.toInt < y.toInt)),
   (.bge, fun x y => decide (y.toInt ≤ x.toInt)), (.bltu, fun x y => decide (x.toNat < y.toNat)), (.bgeu, fun x y => decide (y.toNat ≤ x.toNat))]

/-- The place a redirecting word of this cycle takes in its core's fetch (17 R297). -/
def redirectPlace (u : State) : Nat :=
  if (u.core u.cur.bank.core).redir.1 = u.cycle then (u.core u.cur.bank.core).redir.2 + 1 else 1

/-- A word that moves the pc to `pc` and gives register `d` the value `v`: the target waits for the fetch redirect, which the core
counts; nothing else changes. -/
def JumpWord (s t : State) (w : BitVec 3) (d : Reg) (v pc : W64) : Prop :=
  let u := issueState s
  Delivered u t d v 1 ∧ GoesOn u t w pc (redirectPlace u) ∧ OnlyStream u t d ∧
    (∃ x, OnlyBank u.cur.bank (u.setCore u.cur.bank.core x) t ∧ x = { u.core u.cur.bank.core with redir := (u.cycle, redirectPlace u) }) ∧
    ∀ a, t.byteAt a = s.byteAt a

/-! ### Words that change their bank -/

/-- A stream after its word: at the next word, not before its stall count has passed, with one more issued and nothing waited for
(02 R30, 17 R296). -/
def advanced (x : Stream) (cycle : Nat) (w : BitVec 3) : Stream :=
  { x with pc := x.pc + 4, nextIssue := cycle + 1 + w.toNat, issued := x.issued + 1, block := none, lrep := 0, wait := none, lock := false }

/-- A word whose effect is to leave its bank as `k`, but that its stream goes on; nothing else of the machine changes. -/
def BankWord (s t : State) (w : BitVec 3) (k : Bank) : Prop :=
  let u := issueState s
  OnlyBank u.cur.bank u t ∧ t.myBank = k.setStream u.cur.engine (advanced (k.stream u.cur.engine) u.cycle w) ∧ ∀ a, t.byteAt a = s.byteAt a

/-- The same with a pc of its own: a pc that is not the next word's waits for the fetch redirect, which the core counts (17 R297). -/
def MovingWord (s t : State) (w : BitVec 3) (k : Bank) (pc : W64) : Prop :=
  let u := issueState s
  if pc = u.me.pc + 4 then BankWord s t w k
  else
    (∃ v, v = u.setCore u.cur.bank.core { u.core u.cur.bank.core with redir := (u.cycle, redirectPlace u) } ∧ OnlyBank u.cur.bank v t) ∧
    t.myBank = k.setStream u.cur.engine { advanced (k.stream u.cur.engine) u.cycle w with
      pc := pc, nextIssue := u.cycle + 1 + w.toNat + redirectPlace u } ∧
    ∀ a, t.byteAt a = s.byteAt a

/-- The same of a word that reads scratchpad rows in its cycle: `v` is the machine once the rows' banks have been touched. -/
def ReadingWord (s t v : State) (w : BitVec 3) (k : Bank) (pc : W64) : Prop :=
  let u := issueState s
  (if pc = u.me.pc + 4 then
    OnlyBank u.cur.bank v t ∧ t.myBank = k.setStream u.cur.engine (advanced (k.stream u.cur.engine) u.cycle w)
  else
    (∃ y, y = v.setCore u.cur.bank.core { v.core u.cur.bank.core with redir := (u.cycle, redirectPlace u) } ∧ OnlyBank u.cur.bank y t) ∧
    t.myBank = k.setStream u.cur.engine { advanced (k.stream u.cur.engine) u.cycle w with
      pc := pc, nextIssue := u.cycle + 1 + w.toNat + redirectPlace u }) ∧
  ∀ a, t.byteAt a = s.byteAt a

/-- The same once its rows have come late: its stream waits for them no more, and a redirect is one of this cycle. -/
def LateWord (s t : State) (w : BitVec 3) (k : Bank) (pc : W64) : Prop :=
  let e := (issueState s).cur.engine
  MovingWord s t w (k.setStream e { k.stream e with reading := none }) pc

/-- What a word other than V's needs to read scratchpad rows: nothing of its stream on its way to them, no nest or K operation of its own to
write them, no uncorrectable error armed (17 R295, R299; 21 R367). -/
def RowsReadable (u : State) (rows : List Nat) : Prop :=
  (∀ y ∈ u.me.pend, ∀ i ∈ rows, ∀ r, y.wr ≠ .row i r) ∧ (∀ i ∈ rows, u.myBank.ownWork u.cur.engine i = false) ∧
  ∀ j ∈ (u.core u.cur.bank.core).inj, j.hard = false

/-- The machine once rows have been read, and the extra cycles of the read: 64 where a bank of theirs slept, and the conflicts (06 R168, R169). -/
def rowsTouched (u : State) (rows : List Nat) : State := rows.foldl (fun t i => t.touchRow u.cur.bank.core i) u
def readCost (u : State) (rows : List Nat) : Nat :=
  (if ∃ i ∈ rows, (u.core u.cur.bank.core).retained.getLsbD (i % 16) = true then 64 else 0) + conflicts rows

/-- Whether a word of the stream waits for rows that come late. -/
def ReadsNow (u : State) : Prop := ∀ x, u.me.reading = some x → x.1 ≠ u.me.pc ∨ x.2 ≠ u.me.nextIssue
def ReadsLate (u : State) : Prop := u.me.reading = some (u.me.pc, u.me.nextIssue)

/-- A word that has touched the banks of its rows and reads them when its extra cycles are over (17 R302): it stays at its pc until then, and names its
tile meanwhile. -/
def Postpones (s : State) (i : Instr) (rows : List Nat) (n : Nat) : Prop :=
  let u := issueState s
  let c := u.cycle + readCost u rows
  exec i s = .next ((rowsTouched u rows).modMe (fun x => { x with
    reading := some (x.pc, c), nextIssue := c, block := none, lock := false, wait := none
    pend := x.pend ++ [⟨c + 1, .done, [n]⟩] }))

/-- A word that waits as an interlock: it stays as it is (01 R22); `lock` says whether it waits for a result of the A stream (R28). -/
def Waits (s : State) (i : Instr) : Prop :=
  ∃ a, exec i s = .next ((issueState s).modMe (fun x => { x with block := none, lock := a }))

/-- A word that blocks on `k` (01 R23): it stays as it is; the tick at which the block began is kept while it lasts. -/
def Blocks (s : State) (i : Instr) (k : BlockKind) (v : W64) : Prop :=
  let u := issueState s
  ∃ n, exec i s = .next (u.modMe (fun x => { x with lock := false, block := some ⟨k, v, n⟩ })) ∧
    (u.me.block = some ⟨k, v, n⟩ ∨ (n = u.tick ∧ ∀ m, u.me.block ≠ some ⟨k, v, m⟩))

/-- A word that traps at its own pc with TVAL `v`. -/
def Traps (s : State) (i : Instr) (c : Cause) (v : W64) : Prop :=
  let u := issueState s
  exec i s = .next (takeTrap u u.cur.bank u.cur.engine ⟨c, v, 0, 0⟩ u.me.pc)

/-- Every earlier word of the stream has completed. -/
def Quiet (u : State) : Prop := u.myBank.completed u.cur.engine = true

/-- The user control registers as CSRR reads them (04 R87). -/
def controlRegisters : List (BitVec 15 × (Bank → Stream → W64)) :=
  [(0, fun b _ => b.cycles), (1, fun _ x => x.issued), (0x10, fun _ x => x.rndctl), (0x11, fun _ x => x.numflags),
   (0x12, fun _ x => x.srctr), (0x13, fun _ x => x.stallctl)]

/-- What CSRW does with each: CYCLES and ISSUED are read only, reserved bits keep their values, NUMFLAGS bits clear where a one is
written (03 R62, 04 R86–R89). -/
def controlWrites : List (BitVec 15 × (Stream → W64 → Stream)) :=
  [(0, fun x _ => x), (1, fun x _ => x),
   (0x10, fun x v => { x with rndctl := x.rndctl ^^^ ((x.rndctl ^^^ v) &&& 0x1F3) }),
   (0x11, fun x v => { x with numflags := x.numflags &&& ~~~(v &&& 0x1F) }),
   (0x12, fun x v => { x with srctr := v }),
   (0x13, fun x v => { x with stallctl := x.stallctl ^^^ ((x.stallctl ^^^ v) &&& 1) })]

/-- Taking a trap in C's handler (21 R352): TCAUSE, TPC and TVAL latched, CPC saved, C at TVEC two cycles on, or after its stall count; a trapped stream other
than C stops where it is, and of A the command that a POSTC has asked for is not wanted any more; nothing else changes. -/
def Entered (u t : State) (b : BankId) (e : Engine) (tr : Trap) (pc : W64) : Prop :=
  let k := u.bank b
  let x := k.stream e
  let cpc := if e = .C then pc else k.c.pc
  let stopped : Stream := { x with tpc := pc, block := none, wait := none, status := .trapped }
  OnlyBank b u t ∧
  (t.bank b).tcause.toNat =
    2 ^ 63 + tr.code.toNat * 2 ^ 20 + engineNum e * 2 ^ 16 + tr.reason.toNat * 2 ^ 8 + tr.cause.code ∧
  t.bank b = { k.setStream e stopped with
    tcause := (t.bank b).tcause, tpcReg := pc, tval := tr.tval, cpc := cpc, csave := (cpc, k.c.lrep, k.c.xset), wfi := none
    mem := if e = .A then k.mem.dropCommand else k.mem
    c := { k.c with tpc := (if e = .C then pc else k.c.tpc), pc := k.tvec, status := .running, block := none, wait := none, lrep := 0
                    nextIssue := max k.c.nextIssue (u.cycle + 2) } }

/-- Where a trap is taken in the handler: a privileged context with a TVEC that is a code address, and no trap being handled. -/
def HandlerFree (u : State) (b : BankId) : Prop :=
  (u.ctxOf b).priv = true ∧ (u.bank b).tvec ≠ 0 ∧ (u.bank b).tvec.toNat % 4 = 0 ∧ (u.bank b).valid = false

/-- The unit fails for want of a handler (21 R351): no word of it issues any more, its end has status FAILED, its launch notes the first
cause, and the context's error queue gains the record. -/
def UnitFails (u t : State) (b : BankId) (e : Engine) (tr : Trap) (pc : W64) : Prop :=
  let c := u.ctxOf b
  let n := (u.bank b).ctxNum
  (t.bank b).phase = .ending .failed ∧ (∀ x, ((t.bank b).stream x).status = .halted ∨ ((t.bank b).stream x).status = .idle) ∧
  ((t.bank b).stream e).tpc = pc ∧ (∀ i, ((t.bank b).chan i).ready = [] ∧ ((t.bank b).chan i).heads = []) ∧
  (t.ctx n).eqcount = c.eqcount + 1 ∧ (∀ m, m ≠ n → t.ctx m = u.ctx m) ∧
  (∀ l, u.launchOf b = some l → t.launchOf b = some { l with first := l.first <|> some tr.cause }) ∧
  t.time = u.time ∧ OnlyWakes u t ∧ t.esc = u.esc ∧ t.cycle = u.cycle ∧ t.agenda = u.agenda ∧
  ∀ i, i ≠ b.core → OnlyDisarms u t i

/-- The tag field of a tile at a level. -/
def tagAt (k : Bank) (n l : Nat) : TileLift := (k.tile n).liftAt l

/-! ### C words -/

/-- No level is open in the issuing stream (04 R98). -/
def Unlifted (u : State) : Prop := u.me.lift = []

/-- A pre-empted unit stays in its bank, its release at SYS under way (11 R256; 21 R355); `atEnd`: it gave way at its RDV.end. -/
def gaveWay (k : Bank) (atEnd : Bool) : Bank :=
  { k with phase := .preempted, runnable := false, back := false, yielded := some (k.mem.seq, atEnd), bindRec := { k.bindRec with resume := true } }

/-- The bank after a safe point (04 R101): with a transfer incomplete nothing; else a pending cancel ends the unit, else a pending
pre-emption leaves it in its bank. -/
def atSafePoint (k : Bank) : Bank :=
  if k.copying then k
  else if k.cancel then { k.haltAll with phase := .ending .cancelled, preempt := none, yielded := none, cancel := false, gbar := none, gkept := [] }
  else if k.preempt.isSome then gaveWay k false
  else k

/-- A word that is a safe point: its stream goes on, and a bank that has become runnable is asked for (01 R28). -/
def SafePointWord (s t : State) (w : BitVec 3) : Prop :=
  let u := issueState s
  let o := u.bank ⟨u.cur.bank.core, !u.cur.bank.slot⟩
  (∃ v, v = (if o.back && o.runnable then u.setCore u.cur.bank.core { u.core u.cur.bank.core with want := true } else u) ∧
    OnlyBank u.cur.bank v t) ∧
  t.myBank = atSafePoint (u.myBank.setStream u.cur.engine (advanced u.me u.cycle w)) ∧ ∀ a, t.byteAt a = s.byteAt a

/-- The unit's arrival at group `n`'s barrier: of its last GBAR, or left by an earlier one; and what is left beside it (04 R109). -/
def arrivalOf (k : Bank) (n : Nat) : Option GbarWait := (k.gbar.toList ++ k.gkept).find? (·.group == n)
def keptBeside (k : Bank) (n : Nat) : List GbarWait :=
  if k.gbar.any (·.group == n) then k.gkept else k.gkept.filter (·.group != n) ++ k.gbar.toList

/-- Whether bank `q` has a word CMDSTEAL of the issuing unit could take (04 R108). -/
def hasReloc (u : State) (q : BankId) : Prop :=
  (u.bank q).bindRec.launch = u.myBank.bindRec.launch ∧ (u.bank q).phase ≠ .free ∧ q ≠ u.cur.bank ∧
    ∃ v ∈ (u.bank q).inbound.drop (if popsNow u q then 1 else 0), v.getLsbD 63 = true

/-- A unit's entry in one of its launch's groups. -/
def holdsRank (unit : Nat) (r : RankEntry) : Bool := r.bound && r.unit == unit

/-! ### Memory words of A -/

/-- What a memory word of A waits for (04 R109; 05 R116): no GBAR arrival of the unit pending, `n` request slots free. How many a word that names no
lines takes, and what of the bank holds slots, is log entry 64. -/
def GateOpen (u : State) (n : Nat := 1) : Prop :=
  (∀ g ∈ u.myBank.gbar.toList ++ u.myBank.gkept, g.passed = true) ∧ u.slots u.cur.bank + n ≤ 512

/-- Every line of an access translates, a request slot is free for each, and no GBAR arrival is pending (05 R116, 21 R346). -/
def Reaches (u : State) (va : W64) (n : Nat) (a : Access) (ps : List (Nat × Nat)) : Prop :=
  GateOpen u ps.length ∧
  List.Forall₂ (fun p q => u.myBank.badPage (.aStream u.cur.bank) p.1 = false ∧ q.2 = p.2 ∧
    translate u u.cur.bank.core u.myBank.ctxNum (u.launchOf u.cur.bank) p.1 a = .ok q.1) (pieces va 8 n) ps

/-- No uncorrectable error is armed in bytes that a read takes from their homes (21 R367). -/
def Unarmed (u : State) (v : View) (ps : List (Nat × Nat)) : Prop :=
  ∀ p ∈ fromHome u.myBank.mem v u.myBank.mem.seq ps, ∀ x ∈ armedIn u p.1 p.2, x.2.hard = false

/-- An ordinary read, or one at the home, meets no poisoned line, or meets one that stood poisoned (22 R379). -/
def Unpoisoned (u : State) (v : View) (ps : List (Nat × Nat)) : Prop := meetsPoison u u.myBank.mem v u.myBank.mem.seq ps = false ∧ Unarmed u v ps
def Poisoned (u : State) (v : View) (ps : List (Nat × Nat)) : Prop := meetsPoison u u.myBank.mem v u.myBank.mem.seq ps = true ∧ Unarmed u v ps

/-- The bank once a request has its place in A's order, its result to go to register `d`: results on their way to `d` are lost. -/
def requested (u : State) (d : Reg) (r : MemReq) : Bank :=
  let m := u.myBank.mem.forget d
  { u.myBank.setStream u.cur.engine { u.me with pend := u.me.pend.map (fun p => if p.wr.toReg d then { p with wr := .done } else p) } with
    mem := { m with seq := m.seq + 1, reqs := m.reqs ++ [r] } }

/-- A request as it stands when its word issues: it reaches its last home after the way there (17 R303). -/
def newReq (u : State) (kind : ReqKind) (va : W64) (ps : List (Nat × Nat)) (dest : ReqDest) (rel : Option Nat) (acq : Bool) : MemReq :=
  ⟨u.myBank.mem.seq, kind, va, ps, dest, rel, acq, u.tick, u.deadline 1, u.mem.gen, u.me.pc, u.cycle + homeTimes u.mem u.cur.bank.core ps⟩

/-- A store as the bank's own reads see it, first piece first (11 R260); of stream `row` it is a row, which a drain handed over or not, that they see
only after a wait (05 R123). -/
def ownStore (seq : Nat) (ps : List (Nat × Nat)) (data : List Byte) (row : Option (Nat × Bool) := none) : List OwnByte :=
  ((splitData ps data).map (fun p => ownBytes row p.1 seq p.2)).flatten

/-- The ten atomics (05 R136) and the operations they name. -/
def atomics : List ((BitVec 3 → Reg → Reg → Reg → BitVec 2 → BitVec 2 → BitVec 1 → Instr) × AtomicOp) :=
  [(.aadd, .add), (.aand, .and), (.aor, .or), (.axor, .xor), (.amin, .min), (.amax, .max), (.aminu, .minu), (.amaxu, .maxu),
   (.aswp, .swp), (.acas, .cas)]

/-- The loads (05 R133–R135): kind of request, sign extension, acquire. -/
def loads : List ((BitVec 3 → Reg → Reg → Reg → BitVec 2 → Instr) × ReqKind × Bool × Bool) :=
  [(.ld, .ordinary, true, false), (.ldu, .ordinary, false, false), (.ldl, .home, true, false), (fun w d a b z => .ldacq w d a b 0 z, .home, true, true),
   (fun w d a b z => .ldacq w d a b 1 z, .home, true, true), (fun w d a b z => .ldacq w d a b 2 z, .home, true, true),
   (fun w d a b z => .ldacq w d a b 3 z, .home, true, true)]

/-- Nothing armed or poisoned lies in bytes [a, a + n) (21 R367, 22 R379). -/
def CleanBytes (s : State) (a n : Nat) : Prop := armedIn s a n = [] ∧ poisonedIn s a n = false

/-- Bytes `d` stand at `a`, and every other byte is as before. -/
def Stored (s t : State) (a : Nat) (d : List Byte) : Prop :=
  ∀ i, t.byteAt i = if a ≤ i ∧ i < a + d.length then d.getD (i - a) 0 else s.byteAt i

/-- The new value of an atomic (05 R136) in `w` bits: operand `x`, comparand `e`. -/
def atomicResult (op : AtomicOp) (w old x e : Nat) : Nat :=
  let s := fun (n : Nat) => (BitVec.ofNat w n).toInt
  match op with
  | .add => (old + x) % 2 ^ w
  | .and => (BitVec.ofNat w old &&& BitVec.ofNat w x).toNat
  | .or => (BitVec.ofNat w old ||| BitVec.ofNat w x).toNat
  | .xor => (BitVec.ofNat w old ^^^ BitVec.ofNat w x).toNat
  | .min => if s old < s x then old else x
  | .max => if s old < s x then x else old
  | .minu => Nat.min old x
  | .maxu => Nat.max old x
  | .swp => x
  | .cas => if old = e then x else old

/-! ### V words -/

/-- A V word: its instruction, operands, latency (17 R294), format check, the format constant rows take, whether it rounds on these formats,
its arithmetic. -/
structure VForm where
  word   : BitVec 3 → Instr
  ops    : VOps
  lat    : Nat
  ok     : State → Bool
  cf     : State → Nat
  rounds : State → Bool
  fn     : State → VFn

def general (word : BitVec 3 → Instr) (o : VOps) (lat : Nat) (ok : VOps → State → Bool) (f : VFn) : VForm :=
  ⟨word, o, lat, ok o, fcF o, fun s => isFloat (shapeOf s o).1, fun _ => f⟩

/-- The V words but VROW and VNEXT, for operands p, q, r, register a, rounding m, condition c and key h (06 R152–R167). -/
def vectorForms (p q r : Spec) (a : Reg) (m c : BitVec 2) (h : BitVec 4) : List VForm :=
  let o3 := ops3 p q r none
  let o3m := ops3 p q r (some m)
  let o2 := ops2 p q none
  let o2m := ops2 p q (some m)
  let mx := opsMx p q none
  let mxm := opsMx p q (some m)
  let oc : BitVec 2 → VOps := fun _ => ⟨some p, true, some q, some r, none, some m, false, false⟩
  [general (.vadd · p q r m) o3m 4 okArith .add, general (.vsub · p q r m) o3m 4 okArith .sub, general (.vmul · p q r m) o3m 4 okArith .mul,
   general (.vfma · p q r m) (oc m) 6 okArith (.fma false), general (.vfms · p q r m) (oc m) 6 okArith (.fma true),
   general (.vmin · p q r) o3 4 okArith .min, general (.vmax · p q r) o3 4 okArith .max, general (.vdiv · p q r m) o3m 14 okFloat .div,
   general (.vabs · p q) o2 4 okArith .abs, general (.vneg · p q) o2 4 okArith .neg, general (.vrcp · p q m) o2m 14 okFloat .rcp,
   general (.vrsq · p q m) o2m 14 okFloat .rsq, general (.vexp2 · p q m) o2m 14 ok32 .exp2, general (.vlog2 · p q m) o2m 14 ok32 .log2,
   general (.vcmp · p q r c) o3 4 (fun o => okNum o true) (.cmp c),
   general (.vsel · p q r) ⟨some p, true, some q, some r, none, none, false, false⟩ 4 (fun o s => uniform s o true) .sel] ++
  [general (.vand · p q r) o3 4 okAny .and, general (.vor · p q r) o3 4 okAny .or,
   general (.vxor · p q r) o3 4 okAny .xor, general (.vnot · p q) o2 4 okAny .not,
   general (.vshl · p q r) o3 4 okInt .shl, general (.vshr · p q r) o3 4 okInt .shr, general (.vsra · p q r) o3 4 okInt .sra,
   general (.vadds · p q a m) ⟨some p, false, some q, none, some a, some m, false, false⟩ 4 okArith .adds,
   general (.vmuls · p q a m) ⟨some p, false, some q, none, some a, some m, false, false⟩ 4 okArith .muls,
   general (.vqadd · p q r) o3 4 okInt .qadd, general (.vqsub · p q r) o3 4 okInt .qsub,
   general (.vqmul · p q r) o3 4 okInt .qmul, general (.vqabs · p q) o2 4 okInt .qabs,
   general (.vbcst · p a) ⟨some p, false, none, none, some a, none, false, false⟩ 4 okAny .bcst, general (.vperm · p q r) o3 4 okAny .perm,
   general (.vrot · p q a) ⟨some p, false, some q, none, some a, none, false, false⟩ 4 okAny .rot] ++
  [⟨(.vcvt · p q m), mxm, 4, okCvt o2m, fc32, fun _ => true, fun _ => .cvt⟩,
   ⟨(.vbq · p q m), ⟨some p, false, some q, none, none, some m, false, true⟩, 4, okBq o2m, fc32, fun _ => true, fun _ => .bq⟩,
   ⟨(.vbmax · q), ⟨none, false, some q, none, none, none, false, false⟩, 4, okBmax ⟨none, false, some q, none, none, none, false, false⟩, fc32, fun _ => false, fun _ => .bmax⟩,
   ⟨(.vrsum · p q m), mxm, 10, okRed o2m, fc32, fun s => !isInt (sideOf s (some q)).1, fun _ => .red 0⟩,
   ⟨(.vrmax · p q), mx, 10, okRed o2, fc32, fun _ => false, fun _ => .red 1⟩,
   ⟨(.vrmin · p q), mx, 10, okRed o2, fc32, fun _ => false, fun _ => .red 2⟩,
   ⟨(.vmov · p q), o2, 4, fun _ => true, fcF o2, fun _ => false, fun s => .mov (match tileOf s q with | some t => rowLenBytes t.fmt t.len | none => 256)⟩,
   ⟨(.vrng · p h a), ⟨some p, false, none, none, some a, none, false, false⟩, 6, fun _ => true, fc32, fun _ => false,
    fun s => .rng (s.myCtx.keys.getD h.toNat (0, 0))⟩]

/-- What a repetition at index vector `idx` takes from ta, tb and td in turn: the rows, the scratchpad rows read, whom the pops
owe credits, the state after the pops. -/
structure VTaken where
  a     : Row
  b     : Row
  d     : Row
  rows  : List Nat
  owed  : List (Option Sender)
  after : State

def taken (u : State) (f : VForm) (idx : List (Nat × Nat)) : VTaken :=
  let o := f.ops
  let x := match o.ta with | some sp => takeRow u sp (f.cf u) idx | none => (0, [], u)
  let y := match o.tb with | some sp => takeRow x.2.2 sp (f.cf u) idx | none => (0, [], x.2.2)
  let z := match o.td with | some sp => (if o.rdD then takeRow y.2.2 sp (f.cf u) idx else (0, [], y.2.2)) | none => (0, [], y.2.2)
  ⟨x.1, y.1, z.1, x.2.1 ++ y.2.1 ++ z.2.1,
    [o.ta.bind (creditorOf u), o.tb.bind (creditorOf x.2.2), if o.rdD then o.td.bind (creditorOf y.2.2) else none], z.2.2⟩

/-- The machine once a repetition has taken its rows: with extra cycles to come it still owes the credits (04 R111; 06 R170). -/
def VTaken.paid (k : VTaken) (e : Nat) : State := if e = 0 then k.owed.foldl State.credit k.after else k.after

/-- The scale row that a source with block scales is read with (03 R59; 06 R160, R163). -/
def scaleOf (u : State) (f : VForm) (idx : List (Nat × Nat)) : Option Nat :=
  match f.ops.ta.map operandOf with
  | some (.tile n) => if f.ops.scA ∧ (u.myBank.tile n).scaled then scaleRow u n idx else none
  | _ => none

/-- The active repetitions among the first `n` of a widening set. -/
def activeIn (u : State) (ws : List Nat) (n : Nat) : Nat := ((List.range n).filter (fun i => activeAt u.me (indexOf u.me ws i))).length

/-- The scale register of VBQ in repetition `n`: WI − 2 where at most one element is quantised, else of the registers that as many repetitions of
VBMAX have written, the one of the same place (03 R74; 06 R171; log entry 56). -/
def scaleRegister (u : State) (ws : List Nat) (n : Nat) : Nat :=
  let k := activeIn u ws (repCount u.me ws)
  (if ws = [] ∨ k ≤ 1 then u.myBank.wi + 2 else u.myBank.wi + 3 * k + activeIn u ws n) % 4

/-- What the word's arithmetic is given in repetition `n` over widening set `ws`. -/
def inputs (u : State) (f : VForm) (ws : List Nat) (n : Nat) (idx : List (Nat × Nat)) : VIn :=
  let k := taken u f idx
  let sc := scaleOf u f idx
  { f := (shapeOf u f.ops).1, l := (shapeOf u f.ops).2, fa := (sideOf u f.ops.ta).1, la := (sideOf u f.ops.ta).2
    fd := (sideOf u f.ops.td).1, ld := (sideOf u f.ops.td).2, dt := (f.ops.td.bind (tileOf u)).isSome, ta := (f.ops.ta.bind (tileOf u)).isSome
    tb := (f.ops.tb.bind (tileOf u)).isSome, a := k.a, b := k.b, d := k.d, x := match f.ops.reg with | some r => u.me.get r | none => 0
    sca := match sc with | some i => (u.core u.cur.bank.core).row i | none => 0, scal := sc.isSome
    sc := (u.myBank.sc.getD (scaleRegister u ws n) (Vector.replicate 4 none)).toList, rnd := drawsOf u (f.ops.m.getD 0) }

/-- The repetition a V word stands at: none to count without a widening set (10 R236, R239). -/
def repetition (u : State) (ws : List Nat) : Nat := if ws = [] then 0 else (nextActive u.me ws (repCount u.me ws) u.me.lrep).getD 0

/-- The rows of td's scale tile that a repetition writes, one for each copy of td (06 R161; 10 R230, R237). -/
def scalesWritten (u : State) (f : VForm) (ws : List Nat) (idx : List (Nat × Nat)) : List Nat :=
  match f.ops.td.map operandOf with
  | some (.tile n) => if f.ops.scD then (destIndices u n ws idx).filterMap (scaleRow u n) else []
  | _ => []

/-- The rows of td that it writes. -/
def rowsWritten (u : State) (f : VForm) (ws : List Nat) (idx : List (Nat × Nat)) : List Nat :=
  match f.ops.td.map operandOf with
  | some (.tile n) => (destBases u (f.ops.td.getD 0) ws idx).map (fun b => b / 256 + (u.myBank.tile n).cursor)
  | _ => []

/-- The extra cycles of a repetition: 64 where a bank of a row that it reads or writes sleeps, and the conflicts of its reads (06 R168, R169). -/
def extraCycles (u : State) (f : VForm) (ws : List Nat) (idx : List (Nat × Nat)) : Nat :=
  let rows := (taken u f idx).rows ++ (scaleOf u f idx).toList
  (if ∃ i ∈ rows ++ rowsWritten u f ws idx ++ scalesWritten u f ws idx, (u.core u.cur.bank.core).retained.getLsbD (i % 16) = true then 64 else 0) +
    conflicts rows

/-- What a repetition changes of the machine beyond its results on their way: `a` is the machine once it has taken its rows. Its stream goes on, its bank
counts the room it will take, scale registers and late words may change, its core notes which scratchpad banks are used. -/
def VectorFrame (a t : State) (td : Option Spec) : Prop :=
  let k := a.myBank
  let d := td.map operandOf
  let c := a.cur.bank.core
  t.agenda = a.agenda ∧ t.cur = a.cur ∧ t.cycle = a.cycle ∧ t.freeCtr = a.freeCtr ∧ t.ctxs = a.ctxs ∧ t.host = a.host ∧ t.mem = a.mem ∧ t.time = a.time ∧
  t.esc = a.esc ∧ t.fleet = a.fleet ∧ (∀ n, n ≠ c → t.core n = a.core n) ∧
  t.core c = { (a.core c).setBank a.cur.bank.slot t.myBank with retained := (t.core c).retained, lastUse := (t.core c).lastUse } ∧
  t.myBank = { k.setStream a.cur.engine t.me with
    queues := t.myBank.queues, dstreams := t.myBank.dstreams, sc := t.myBank.sc, wi := t.myBank.wi, vpair := t.myBank.vpair, late := t.myBank.late } ∧
  (∀ q, t.myBank.queue q = if d = some (.queue q) then { k.queue q with reserved := (k.queue q).reserved + 1 } else k.queue q) ∧
  (∀ n, t.myBank.ds n = if d = some (.stream n) then { k.ds n with run := (k.ds n).run.map (fun r => { r with given := r.given + 1 }) } else k.ds n) ∧
  t.me = { a.me with
    pend := t.me.pend, pc := t.me.pc, nextIssue := t.me.nextIssue, issued := t.me.issued, srctr := t.me.srctr, lrep := t.me.lrep, xset := t.me.xset
    names := t.me.names, block := none, wait := t.me.wait, lock := t.me.lock }

/-- Where a V word's repetition issues: tiles ready; before the first one formats right, tags settled (`v` is the state with them) and
footprints in order (10 R244); rows to take and room to give, nothing it reads still on its way or in error, its rows of scale tiles in the bank's share
(01 R27), and no VBMAX in this cycle. -/
def VIssues (s : State) (v : State) (f : VForm) : Prop :=
  let u := issueState s
  let ws := widenSet u f.ops.reads
  let idx := indexOf v.me ws (repetition v ws)
  let rows := (taken v f idx).rows ++ (scaleOf v f idx).toList
  (∀ sp ∈ f.ops.all, ∀ n, operandOf sp = .tile n → (u.myBank.tile n).state = .ready) ∧ (∀ r, f.ops.reg = some r → Readable u r) ∧
  (if u.me.lrep = 0 then f.ok u = true ∧ (match f.ops.td with | some td => settleTags u td ws = .ok v | none => v = u) ∧
      checkTiles v (footTiles v f.ops ws) = .ok ()
    else v = u) ∧ (∀ sp ∈ f.ops.reads, canTake v sp (takes f.ops sp) = .ok ()) ∧
  (∀ td, f.ops.td = some td → canGive v td (takes f.ops td) = .ok ()) ∧
  (∀ y ∈ v.me.pend, ∀ i r, y.wr = .row i r → i ∉ rows) ∧ (∀ j ∈ (v.core v.cur.bank.core).inj, j.hard = false) ∧
  (∀ i ∈ (scaleOf v f idx).toList ++ scalesWritten v f ws idx, inShare v.myBank (256 * i) 256 = true) ∧
  (∀ y, s.myBank.vpair = some y → y.1 ≠ s.cycle)

/-! ### M and K words -/

/-- An operand that names a tile names a ready one (01 R16). -/
abbrev tileReady (u : State) (sp : Spec) : Prop := ∀ n ∈ tileNo sp, (u.myBank.tile n).state = .ready

/-- The checks of MGO and MMA on C tile `c` and A operand `pa` (07 R182): what the banks hold, formats, lengths, spans, the scale rows in the
share (01 R27); `one` for MMA. -/
def NestFits (u : State) (pc pa : Spec) (c : Nat) (tab : NestTable) (one : Bool) : Prop :=
  let ct := u.myBank.tile c
  let x := tileOf u pa
  let core := u.core u.cur.bank.core
  let ta := strideSpan tab.levels.toList (·.ast)
  let tc := strideSpan tab.levels.toList (·.cst)
  operandOf pc = .tile c ∧ ct.state = .ready ∧ isConst pa = false ∧ (∀ n, operandOf pa = .tile n → (u.myBank.tile n).state = .ready) ∧
  (∀ k ∈ tab.reach, u.myBank.hasCim k = true ∧ ∃ bf, (core.cim k).fmt = some bf ∧
    cFormat tab.ring (match x with | some t => t.fmt | none => bf) bf = some ct.fmt) ∧
  (∀ t, x = some t → t.len = fmtCap t.fmt) ∧ ct.len = (if ct.fmt = fmtB1 then 512 else 64) ∧ ct.rows % cRows ct.fmt = 0 ∧
  (if one then ∀ t, x = some t → 256 * t.cursor + aBytes t.fmt ≤ 256 * t.rows
   else (∀ t, x = some t → 0 ≤ ta.1 ∧ ta.2 < ((256 * t.rows / aBytes t.fmt : Nat) : Int)) ∧ 0 ≤ tc.1 ∧ tc.2 < ((ct.rows / cRows ct.fmt : Nat) : Int)) ∧
  (∀ t n, x = some t → scaleTiles u pa ≠ [] → t.scale = some n →
    let lo := if one then t.cursor else ta.1.toNat * aBytes t.fmt / 256
    let hi := if one then t.cursor + (aBytes t.fmt - 1) / 256 else ((ta.2.toNat + 1) * aBytes t.fmt - 1) / 256
    inShare u.myBank ((u.myBank.tile n).base + 256 * lo) (256 * (hi + 1 - lo)) = true)

/-- The base of the scale tile that a load of an unlifted tile reads (07 R177). -/
def loadScale (b : Bank) (x : Tile) : Option Nat := if x.fmt = fmtMxfp4 then x.scale.map (fun m => (b.tile m).base) else none

/-- The scratchpad rows such a load reads: the tile's, and a row of scales for 16 of an MXFP4 tile's. -/
def loadRows (b : Bank) (x : Tile) : List Nat :=
  (List.range x.rows).map (x.base / 256 + ·) ++
    (match loadScale b x with | some v => (List.range (x.rows / 16)).map (v / 256 + ·) | none => [])

/-- M is free for a nest over these banks: none running, no load of them outstanding, no failure to deliver (07 R182, R189). -/
def ArrayFree (u : State) (reach : List Bool) : Prop :=
  u.myBank.mEng.nest = none ∧ (∀ l ∈ u.myBank.mEng.loads, l.bank ∉ reach) ∧ u.myBank.mEng.fail = none

/-- K is free for a word: no operation running, none failed, the factor store intact where the word needs it, its tiles ready (09 R211). -/
def SketchFree (u : State) (keeps : Bool) (ops : List Spec) : Prop :=
  u.myBank.kEng.op = none ∧ u.myBank.recorded u.cur.engine = none ∧ (keeps = true → u.myBank.kEng.err = none) ∧
  ∀ sp ∈ ops, ∀ n, operandOf sp = .tile n → (u.myBank.tile n).state = .ready

/-- A K word has issued: its stream goes on; flags are those of an operation that was over at once; memory and the other streams stand. -/
def SketchIssued (s t : State) (w : BitVec 3) : Prop :=
  let u := issueState s
  t.me = { advanced u.me u.cycle w with numflags := t.me.numflags } ∧ t.mem = u.mem ∧ t.ctxs = u.ctxs ∧ t.host = u.host ∧ t.time = u.time ∧
    t.myBank.tiles = u.myBank.tiles ∧ t.myBank.opSeq = u.myBank.opSeq + 1 ∧ ∀ e, e ≠ u.cur.engine → t.myBank.stream e = u.myBank.stream e

/-- The running operation, `n` cycles on, leaves the pair as `w`, K free and the flags `fl` raised. -/
def EndsWith (t : State) (b : BankId) (n : Nat) (w : KPair) (fl : Nat) : Prop :=
  ∃ v, exec (.kOperationComplete b) { t with cycle := t.cycle + n } = .next v ∧ (v.bank b).kEng.op = none ∧ (v.bank b).kEng.pair = w ∧
    (v.stream b .K).numflags = (t.stream b .K).numflags ||| BitVec.ofNat 64 fl

/-- The same through a step of it at `n1` cycles, where its operands have been taken (08 R205). -/
def EndsVia (t : State) (b : BankId) (n1 n : Nat) (w : KPair) (fl : Nat) : Prop :=
  ∃ x v, exec (.kOperationComplete b) { t with cycle := t.cycle + n1 } = .next x ∧
    exec (.kOperationComplete b) { x with cycle := t.cycle + n } = .next v ∧ (v.bank b).kEng.op = none ∧ (v.bank b).kEng.pair = w ∧
    (v.stream b .K).numflags = (t.stream b .K).numflags ||| BitVec.ofNat 64 fl

/-- Until the operation ends, the pair is as it was. -/
def Running (u t : State) : Prop := t.myBank.kEng.op.isSome = true ∧ t.myBank.kEng.pair = u.myBank.kEng.pair

/-- A configured pair with its words (08 R194, R195). -/
def PairOk (w : KPair) : Prop :=
  1 ≤ w.m ∧ w.m ≤ 1024 ∧ 1 ≤ w.n ∧ w.n ≤ 1024 ∧ 1 ≤ w.l ∧ w.l ≤ 64 ∧ 1 ≤ w.p ∧ w.p ≤ 32 ∧ w.k ≤ w.l ∧ w.u.length = w.k ∧ w.v.length = w.k ∧
  (∀ c ∈ w.u, c.length = w.m ∧ ∀ x ∈ c, x < 2 ^ 32) ∧ (∀ c ∈ w.v, c.length = w.n ∧ ∀ x ∈ c, x < 2 ^ 32) ∧ w.energy < 2 ^ 64

/-- A vector of `x` elements read from a tile's rows from its cursor on, unlifted (09 R212). -/
def vectorOf (u : State) (n x : Nat) : List Nat :=
  let t := u.myBank.tile n
  vecOf t.len t.fmt x ((List.range ((x + t.len - 1) / t.len)).map (fun i => (u.core u.cur.bank.core).row (t.base / 256 + t.cursor + i)))

/-! ### S words, POSTC -/

/-- The system registers as SCSRR reads them (21 R361). -/
def systemRegisters : List (BitVec 15 × (State → W64)) :=
  [(0, fun u => u.myBank.tcause), (1, fun u => u.myBank.tpcReg), (2, fun u => u.myBank.tval), (3, fun u => u.myBank.tvec), (4, fun u => u.myBank.cpc),
   (8, fun u => BitVec.ofNat 64 (u.myBank.bindRec.ctx.toNat + 2 ^ 16 * u.myCtx.gen.toNat))]

/-- What SCSRW does with each (21 R361): only TPC, TVEC and CPC are written, and bits [1:0] of a pc
are cleared at the write (log entry 63). -/
def systemWrites : List (BitVec 15 × (Bank → W64 → Bank)) :=
  [(0, fun k _ => k), (1, fun k v => { k with tpcReg := v &&& ~~~3 }), (2, fun k _ => k), (3, fun k v => { k with tvec := v }), (4, fun k v => { k with cpc := v &&& ~~~3 }),
   (8, fun k _ => k)]

/-- The bank after a return to stream `e` with no trap held (21 R362). -/
def returned (u : State) (w : BitVec 3) (e : Engine) : Bank :=
  let k := u.myBank
  let c : Stream := { advanced u.me u.cycle w with pc := k.cpc, lrep := (if k.cpc = k.csave.1 then k.csave.2.1 else 0), xset := k.csave.2.2 }
  let x := k.stream e
  let back := { k.setStream .C c with tcause := 0 }
  if e = .C then back
  else back.setStream e { x with pc := k.tpcReg, status := .running, nextIssue := max x.nextIssue (u.cycle + 2), lrep := if k.tpcReg = x.tpc then x.lrep else 0 }

/-- A word that changes what its bank and the rest `v` of the machine hold: `k` is the bank it leaves, but that its stream goes on. -/
def WideWord (s t v : State) (w : BitVec 3) (k : Bank) : Prop :=
  let u := issueState s
  OnlyBank u.cur.bank v t ∧ t.myBank = k.setStream u.cur.engine (advanced (k.stream u.cur.engine) u.cycle w) ∧ ∀ a, t.byteAt a = s.byteAt a

/-- Nothing that TLBINV waits for: no access of a bank on its way, of its words, its streams, its chains or its records, no walk (21 R364). -/
def NothingTranslated (u : State) : Prop :=
  (∀ c ∈ u.cores, ∀ q, (c.2.bank q).mem.reqs = [] ∧ (c.2.bank q).mem.dirty = [] ∧ (c.2.bank q).mem.sent = [] ∧
    (∀ n r, ((c.2.bank q).ds n).run = some r → ∀ a ∈ r.asked, a.got.isSome = true) ∧
    (∀ n, ∀ h ∈ ((c.2.bank q).chan n).heads, h.ask = none) ∧ ∀ n r, ((c.2.bank q).chan n).running = some r → r.out = []) ∧ u.host.walks = []

/-- What the extents of TLBINV drop of a cache of translations (21 R364). -/
def dropped (u : State) (e : BitVec 2) (v : W64) (x : TlbEntry) : Prop :=
  (e = 0 ∧ x.covers u.myBank.ctxNum (vaBits v) = true) ∨ (e = 1 ∧ x.ctx = v.toNat % 2 ^ 16) ∨ (e ≠ 0 ∧ e ≠ 1)

/-- What they drop of the ATS cache (21 R364): an answer under any page of the 2 MiB that VA lies in, which one entry of the walk may cover. -/
def droppedAts (u : State) (e : BitVec 2) (v : W64) (x : AtsEntry) : Prop :=
  (e = 0 ∧ x.ctx = u.myBank.ctxNum ∧ x.page / 32 = vaBits v / 2 ^ 21) ∨ (e = 1 ∧ x.ctx = v.toNat % 2 ^ 16) ∨ (e ≠ 0 ∧ e ≠ 1)

/-! ### Steps of a bank -/

/-- The match that a context's next post of a command gets (12 R278). -/
def nextMatch (s : State) (ctx : Nat) (d : List Byte) : CollId :=
  let g := leAt d 4 2
  let p := BitVec.ofNat 64 (leAt d 16 8)
  ⟨ctx, g, p, (s.ctx ctx).posts g p + 1⟩

/-- Every bank but these stands as it was. -/
def OtherBanks (s t : State) (bs : List BankId) : Prop := ∀ p, p ∉ bs → t.bank p = s.bank p

/-- The watchdogs of a blocked stream: event, kind of block, cause (01 R24). -/
def watchdogForms : List ((BankId → Engine → Instr) × BlockKind × Cause) :=
  [(.tileWatchdog, .tile, .tileWatchdog), (.queueWatchdog, .queue, .queueWatchdog), (.semWatchdog, .sem, .semWatchdog)]

/-- The queue with its pending bind request at stage `st`. -/
def atStage (q : Queue) (r : BindReq) (st : BindStage) : Queue := { q with req := some { r with stage := st } }

/-- The changes under way of a slice with one more (04 R113): of those that units post for one boundary the highest unit's mask stands. -/
def joinedChange (cs : List SplitChange) (c : SplitChange) : List SplitChange :=
  if ∃ x ∈ cs, x.epoch = c.epoch then cs.map (fun x => if x.epoch = c.epoch ∧ x.unit ≤ c.unit then { x with mask := c.mask, unit := c.unit } else x)
  else cs ++ [c]

/-- A translation for a chain walk or copy: one line or less, at `pa`. -/
def CopyReaches (s : State) (b : BankId) (n : Nat) (a : Access) (va : W64) (len pa : Nat) : Prop :=
  pieces va (len / 64 + 2) len = [(va, len)] ∧ reachCopy s b n a [(va, len)] = .ok [(pa, len)]

/-- What a killed context comes to (21 R356): its generation is new, its queues are disabled, its units have ended, its collectives and pending
faults are gone, its launches count no unit as still to start. -/
def Killed (s t : State) (n : Nat) : Prop :=
  (t.ctx n).gen = (s.ctx n).gen + 1 ∧ (∀ q, (s.queue q).ctx = n → (t.queue q).en = false) ∧
  (∀ b, (s.bank b).ctxNum = n → (t.bank b).phase = .free) ∧ (∀ e ∈ t.esc.table, e.id.ctx ≠ n) ∧ (∀ x ∈ t.esc.notices, x.1.ctx ≠ n) ∧
  (∀ f ∈ t.host.faults, f.ctx ≠ n) ∧
  ∀ i l, s.launch? i = some l → l.ctx = n → l.done = false → l.count < l.units.length →
    ∃ l', t.launch? i = some l' ∧ l'.killed = true ∧ ∀ x ∈ l'.units, x.2.unstarted = false

/-! ### Translation, contexts, collectives -/

/-- What an ABORT leaves (12 R290): the entry is freed, the set semaphore's error bit is set with the reason, and the context's error queue gains a
record. -/
def Aborted (s t : State) (e : CollEntry) (why : BitVec 8) : Prop :=
  let n := leAt e.cmd 12 2
  t.entry? e.id = none ∧ (t.ctx e.id.ctx).eqcount = (s.ctx e.id.ctx).eqcount + 1 ∧
  (n / 32768 = 1 → ((t.ctx e.id.ctx).sem (n % 1024)).err = true ∧ ((t.ctx e.id.ctx).sem (n % 1024)).why = why)

/-- What is left of a bank's faults after the answer to fault `id`: a retry removes it, a refusal marks it (21 R346, R349). -/
def leftFaults (k : Bank) (id : Nat) (ok : Bool) : List BankFault :=
  if ok then k.faults.filter (fun f => f.id != id || f.refused) else k.faults.map (fun f => if f.id = id then { f with refused := true } else f)

/-- A bank whose faults are `fs` after an answer can run again once none that stops A is left unanswered (01 R28; 21 R347). -/
def goesOn (s : State) (b : BankId) (k : Bank) (fs : List BankFault) : Bank :=
  let here := (s.core b.core).active = b.slot ∧ (s.core b.core).switching = none
  if ∃ f ∈ fs, f.refused = false ∧ f.src.ofA = true then { k with faults := fs }
  else { k with faults := fs, runnable := k.runnable || decide (k.phase ≠ .preempted), back := k.back || decide (¬ here) }

/-- A bank whose stream `n` meets a refusal: the stream is exhausted with the fault recorded, its fills and drains are over (05 R124; 21 R349). -/
def refusedStream (k : Bank) (n : Nat) (va : W64) : Bank :=
  let d := k.ds n
  { k.setDs n { d with
      fault := some ⟨.translationRefused, va, 0, 0⟩
      run := d.run.map (fun r => { r with buf := [], asked := [], given := DataStream.positions r, next := DataStream.positions r }) } with
    moves := k.moves.filter (fun m => m.stream != n) }

/-- The least horizon of the domain (12 R271, R283): the set one, or the worst route's time with the clocks' skew. -/
def leastHorizon (s : State) : Nat :=
  max s.time.horizon (64 + 96 * s.time.members.foldl (fun h m => max h m.2) s.time.route + if s.time.ptp then 40 else 2)

/-- The transfers: event, TYPE (12 R275). -/
def transferForms : List ((CollId → Contributions → Instr) × Nat) :=
  [(.allreduce, 0x40), (.reduce, 0x41), (.broadcast, 0x42), (.allgather, 0x43), (.reducescatter, 0x44)]

/-- The element codes that member `me` of `g` receives in order, where `val r n` is element `n` of member `r` (12 R275, R286): combined over the
members in ascending rank, the root's, everybody's in turn, or the own block combined. -/
def expected (ty opr f g c me : Nat) (val : Nat → Nat → Nat) : List Nat :=
  let folded := fun (first n : Nat) => reduceElem opr f ((List.range g).map (fun r => val r (first + n)))
  if ty = 0x42 then (List.range c).map (val 0)
  else if ty = 0x43 then (List.range g).flatMap (fun r => (List.range c).map (val r))
  else if ty = 0x44 then (List.range c).map (folded (me * c))
  else (List.range c).map (folded 0)

/-- The element codes of member `r`: this chip's own from memory, another's as it sent them. -/
def codesFrom (s : State) (x : Contributions) (z me : Nat) (sa : List Nat) (r : Nat) : List Nat :=
  if r = me then sa.map (fun a => leNat (s.peek a z)) else match x.parts.find? (·.1 == r) with | some y => codesOf z y.2 | none => []

/-! ### Queues and time -/

/-- The error state a queue enters (20 R331). -/
def InError (s t : State) (q code : Nat) : Prop :=
  (t.queue q).err = true ∧ (t.queue q).code = code ∧ (t.queue q).rptr = (s.queue q).rptr ∧ (t.queue q).hold = none ∧
    ∀ p, p ≠ q → t.queue p = s.queue p

/-- The packet `p` of type `ty` stands at the head of queue `q`, whose turn it is, in order and free to start (20 R327, R328, R331). -/
def Heads (s : State) (q ty : Nat) (p : List Byte) : Prop :=
  let x := s.queue q
  q < 8192 ∧ x.en = true ∧ x.err = false ∧ x.hold = none ∧ x.rptr.toNat < x.wptr.toNat ∧ myTurn s q = true ∧ s.fleet.module = .run ∧
  q ∉ s.host.badQueues ∧ ioRead s (.queue q) x.ctx (x.at_ x.rptr) 64 = .ok p ∧ leAt p 0 1 = ty ∧ packetHolds s x p = false ∧
  packetClean p = true ∧ packetFields p = true

/-- The packet has started: QRPTR has passed it and the other queues stand (20 R327, R328). -/
def Started (s t : State) (q : Nat) : Prop :=
  (t.queue q).rptr = (s.queue q).rptr + 64 ∧ (t.queue q).err = false ∧ (t.queue q).wptr = (s.queue q).wptr

/-- It has also completed: the job counts it. -/
def StartedAndDone (s t : State) (q : Nat) : Prop :=
  Started s t q ∧ kget 0 t.host.jobcnt (s.queue q).job = kget 0 s.host.jobcnt (s.queue q).job + 1 ∧ ∀ p, p ≠ q → t.queue p = s.queue p

/-- No error is armed in L2, HBM or the tier (21 R367). -/
def Uninjected (s : State) : Prop := ∀ c ∈ s.cores, ∀ j ∈ c.2.inj, j.store < 3

/-- A launch that has been cancelled. -/
def LaunchCancelled (t : State) (i : Nat) : Prop := ∃ l, t.launch? i = some l ∧ l.cancel = true

/-- The cancel word of a level (20 R339). -/
def CancelForm (y : Nat) (form : BitVec 64 → Instr) : Prop :=
  (y = 0 ∧ form = .cancelLaunch) ∨ (y = 1 ∧ form = .cancelGraph) ∨ (y = 2 ∧ form = .cancelStage) ∨ (y = 3 ∧ form = .cancelJob)

/-- A graph run the last of which has ended: each of its nodes is complete, or its launch's last unit has ended, or its collective is DONE (20 R339). -/
def RunEnded (s : State) (j : Nat) (r : GraphRun) : Prop :=
  ∀ m, m < leAt r.image 0 2 → m ∈ r.ended ∨ (∃ l ∈ s.host.launches, l.2.origin = .graph j m ∧ l.2.units.length ≤ l.2.count) ∨
    ∃ e ∈ s.esc.table, e.origin = .graph j m ∧ e.wrote = true

/-- The graph runs that a cancel of level `y`, context `c` and number `n` reaches (20 R338, R339). -/
def RunReached (s : State) (y c n j : Nat) (r : GraphRun) : Prop :=
  kfind s.host.runs j = some r ∧ r.ctx = c ∧ r.done = false ∧ ((y = 1 ∧ r.slot = n) ∨ (y = 2 ∧ r.stage = some n) ∨ (y = 3 ∧ r.job = n)) ∧
  ¬ RunEnded s j r

/-- The launches that it reaches: those it names, and those of the runs it reaches. -/
def LaunchReached (s : State) (y c n i : Nat) (l : Launch) : Prop :=
  (l.ctx = c ∧ ((y = 0 ∧ i = n) ∨ (y = 2 ∧ l.stage = some n) ∨ (y = 3 ∧ l.job = n))) ∨ ∃ j r m, RunReached s y c n j r ∧ l.origin = .graph j m

/-- The collectives that it reaches: those of its stage or of its job's queues, those a unit of a launch it reaches has posted, nodes of the runs it
reaches. -/
def CollReached (s : State) (y c n : Nat) (e : CollEntry) : Prop :=
  (e.id.ctx = c ∧ ((y = 2 ∧ e.stage = some n) ∨ (y = 3 ∧ ∃ q p, e.origin = .queue q p ∧ (s.queue q).job = n))) ∨
  (y ≠ 0 ∧ ∃ i l, e.origin = .unit i ∧ s.launch? i = some l ∧ LaunchReached s y c n i l) ∨
  ∃ j r m, RunReached s y c n j r ∧ e.origin = .graph j m

/-! ### Memory system and fleet -/

/-- A core strip's clock and the highest a re-plan leaves it, in MHz (24 R385, R390). -/
def clockOf (s : State) (k : Nat) : Nat := kget 1600 s.fleet.clock k
def limitOf (s : State) (k : Nat) : Nat := kget 1600 s.fleet.limit k

/-- A channel has a line at `a`: of HBM, parity lines among them, or of the tier (22 R369, R370). -/
def LineThere (a : Nat) : Prop := a < Config.hbmSize ∨ (2 ^ 41 ≤ a ∧ a < 2 ^ 42)

/-- A line that a rebuild may read: not poisoned, no error armed in it (22 R378). -/
def GoodSource (s : State) (l : Nat) : Prop := armedIn s l 64 = [] ∧ l / 64 ∉ s.mem.poison

/-- After `i` the line of `a` is being rebuilt, and reported so (22 R378, R380). -/
def Rebuilds (s : State) (a : Nat) (i : Instr) : Prop :=
  ∃ t x, exec i s = .next t ∧ t.mem.rebuilds = s.mem.rebuilds ++ [a / 64] ∧ t.mem.poison = s.mem.poison ∧ t.mem.faq = s.mem.faq ++ [x] ∧
    x.toNat / 2 ^ 58 % 4 = 1 ∧ t.mem.cells = s.mem.cells

/-- A strip's re-plan has begun or goes on (24 R390). -/
def planningAt (s : State) (k : Nat) : Fleet := { s.fleet with planning := some k, unplanned := s.fleet.unplanned.filter (· != k) }

/-- Core `c` lies in core strip `k` (01 R8). -/
def coreIn (c k : Nat) : Bool := decide (c / 160 = k / 16) && decide (c % 160 / 10 = k % 16)

/-- Nothing but the fleet side has changed. -/
def OnlyFleet (s t : State) : Prop := t = { s with fleet := t.fleet }

/-- Nothing but the memory system has changed, no byte of memory among it. -/
def OnlyMemSys (s t : State) : Prop := (∃ m, m = t.mem ∧ t = { s with mem := m }) ∧ t.mem.cells = s.mem.cells

/-! ### Words that read registers -/

/-- A word that reads scalar registers, in this order: what it needs to come to read them, and whether it then issues or traps, but waits for nothing. -/
structure Reader where
  word  : Instr
  regs  : List Reg
  first : Prop := True
  sure  : Prop := False

/-- The immediate fields of a word, of each width. -/
structure Fields where
  n1 : BitVec 1
  n2 : BitVec 2
  m2 : BitVec 2
  n3 : BitVec 3
  h4 : BitVec 4
  n5 : BitVec 5
  n6 : BitVec 6
  n10 : BitVec 10
  n15 : BitVec 15

/-- Every word that reads registers but CSRW, which waits till nothing is on its way, for registers d, a, b and specifiers p, q, r (02 R42–R47). -/
def registerReaders (u : State) (w : BitVec 3) (d a b : Reg) (p q r : Spec) (i : Fields) : List Reader :=
  registerForms.map (fun f => { word := f.1 w d a b, regs := [a, b], sure := True }) ++
  branches.map (fun f => { word := f.1 w a b i.n10, regs := [a, b], sure := True }) ++
  immediateForms.map (fun f => { word := f.1 w d a i.n10, regs := [a], sure := True }) ++
  shiftForms.map (fun f => { word := f.1 w d a i.n6, regs := [a], sure := True }) ++
  [{ word := .jalr w d a i.n10, regs := [a], sure := True }, { word := .lsh w d i.n15, regs := [d], sure := True },
   { word := .tickwait w a, regs := [a] }, { word := .semwait w a i.n10, regs := [a] }, { word := .semsig w a i.n10, regs := [a], sure := True },
   { word := .lcall w d i.n15, regs := [d], sure := True }, { word := .ltag w p a i.n2, regs := [a] },
   { word := .forkA w d i.n15, regs := [d], first := Unlifted u }, { word := .forkV w d i.n15, regs := [d], first := Unlifted u },
   { word := .forkM w d i.n15, regs := [d], first := Unlifted u }, { word := .forkK w d i.n15, regs := [d], first := Unlifted u },
   { word := .enqr w a b, regs := [a, b] }, { word := .qbind w q a, regs := [a], first := Unlifted u },
   { word := .split w a b, regs := [a, b], first := Unlifted u, sure := True }] ++
  [{ word := .stdim w i.n3 a b i.n5, regs := [a, b], sure := True }, { word := .stbase w i.n3 a, regs := [a], sure := True },
   { word := .tdesc w p q a, regs := [a] }, { word := .tfill w p q a, regs := [a] }, { word := .tdrain w p q a i.n1, regs := [a] },
   { word := .st w d a b i.n2, regs := [d, a, b] }, { word := .strel w d a b i.m2 i.n2, regs := [d, a, b] },
   { word := .ldq w p a, regs := [a] }, { word := .stq w q a, regs := [a] }, { word := .cpyhd w d a i.n2, regs := [a] },
   { word := .cpywait w a i.n2, regs := [a] }, { word := .pref w a b, regs := [a, b] }, { word := .postc w a, regs := [a] }] ++
  loads.map (fun f => { word := f.1 w d a b i.n2, regs := [a, b] }) ++
  atomics.map (fun f => { word := f.1 w d a b i.n2 i.m2 i.n1, regs := [a, b] ++ if f.2 = .cas then [d] else [] }) ++
  (vectorForms p q r a i.n2 i.m2 i.h4).map (fun f =>
    { word := f.word w, regs := f.ops.reg.toList, first := (∀ sp ∈ f.ops.all, tileReady u sp) ∧ (u.me.lrep = 0 → f.ok u = true) }) ++
  [{ word := .vrow w p a, regs := [a], first := tileReady u p, sure := True }, { word := .mnest w i.n3 a i.n2, regs := [a], sure := True },
   { word := .mloadb w q a i.n1, regs := [a], first := tileReady u q }, { word := .skcfg w a b i.n1, regs := [a, b], first := SketchFree u false [] },
   { word := .skfold w p q a, regs := [a], first := SketchFree u true [p, q] ∧ vecOk u p u.myBank.kEng.pair.m = .ok () ∧
      vecOk u q u.myBank.kEng.pair.n = .ok () ∧ ∃ l, kReps u [p, q] = .ok l },
   { word := .skscl w a, regs := [a], first := SketchFree u true [] }, { word := .skrdu w p a, regs := [a], first := SketchFree u true [p] },
   { word := .skrdv w p a, regs := [a], first := SketchFree u true [p] }, { word := .skrow w p a, regs := [a], first := SketchFree u true [p] },
   { word := .scsrw w d i.n15, regs := [d], sure := True }, { word := .tlbinv w a i.n2, regs := [a], sure := True },
   { word := .eccinj w a i.n3, regs := [a], sure := True }]

/-- An interlocked result is on its way to a register: of variable latency, or a load of A (17 R295). -/
def Interlocked (u : State) (r : Reg) : Prop :=
  r ≠ 0 ∧ (u.me.pend.any (fun p => p.wr.toIreg r) = true ∨ (u.cur.engine = .A ∧ u.myBank.mem.owes r = true))

/-- A result of fixed latency is on its way to it, and the stall checker is on (17 R299). -/
def Premature (u : State) (r : Reg) : Prop :=
  r ≠ 0 ∧ u.me.pend.any (fun p => p.wr.toReg r) = true ∧ u.me.stallctl.getLsbD 0 = true

/-- The word does not issue: it stays, waiting or blocked, and nothing but its stream's account of the wait changes. -/
def Stays (s : State) (i : Instr) : Prop :=
  let u := issueState s
  Waits s i ∨ (∃ k v, Blocks s i k v) ∨ ∃ y, exec i s = .next (u.modMe (fun _ => y)) ∧ y.issued = u.me.issued ∧ y.nextIssue = u.me.nextIssue

/-! ### Decoding -/

/-- Words written out bit by bit from 02 R40–R47, one of each class and format: E, W, OP, then the body's fields. -/
def sampleWords : List (W32 × Engine × Instr) :=
  [(0b111_000_000000_00011_00001_00010_00000, .V, .add 0 3 1 2),
   (0b111_010_011000_00100_00101_1111111111, .K, .addi 2 4 5 (-1)),
   (0b111_000_100000_00111_100000000000001, .C, .li 0 7 0x4001),
   (0b111_001_101000_00001_00010_0000000110, .M, .beq 1 1 2 6),
   (0b111_000_111010_000101_000000_01001_0_10, .A, .ltag 0 5 9 2),
   (0b000_000_000001_00000_000000000010000, .C, .forkA 0 0 16),
   (0b000_011_000101_0000000000000000_0110, .C, .rdv 3 6),
   (0b000_000_000101_00000000000000000000, .M, .rdvStream 0),
   (0b001_000_000101_000010_110001_10001_000, .A, .tfill 0 2 0x31 17),
   (0b001_000_100001_00001_00010_00011_10_11_1, .A, .acas 0 1 2 3 2 3 1),
   (0b010_000_000011_000001_100000_110111_11, .V, .vfma 0 1 0x20 0x37 3),
   (0b011_000_000000_00_101_00110_00000000_10, .M, .mnest 0 5 6 2),
   (0b100_000_000010_000001_000010_00011_000, .K, .skfold 0 1 2 3),
   (0b110_000_000000_00001_000000000001000, .C, .scsrr 0 1 8)]

/-! ### The arithmetic of 03 -/

/-- Of a floating-point format: fraction bits, bias, code width, largest finite magnitude (03 R58). -/
def fracBits (f : Nat) : Nat := if f = 0 then 23 else if f = 1 then 7 else if f = 2 then 3 else if f = 3 then 2 else 1
def biasOf (f : Nat) : Nat := if f ≤ 1 then 127 else if f = 2 then 7 else if f = 3 then 15 else 1
def codeBits (f : Nat) : Nat := if f = 0 then 32 else if f = 1 then 16 else if f = 4 then 4 else 8
def largestOf (f : Nat) : Nat := if f = 0 then 0x7F7FFFFF else if f = 1 then 0x7F7F else if f = 2 then 0x7E else if f = 3 then 0x7B else 7

/-- The code of +Inf where there is one, and of the canonical NaN (03 R58, R60). -/
def infinityOf (f : Nat) : Option Nat :=
  if f = 0 then some 0x7F800000 else if f = 1 then some 0x7F80 else if f = 3 then some 0x7C else none
def canonicalNan (f : Nat) : Nat := if f = 0 then 0x7FC00000 else if f = 1 then 0x7FC0 else if f = 4 then 0 else 0x7F

/-- The magnitude of code `k` of a format counted in units of 2^−unitOf, its exponent taken as unbounded (03 R58, R65). -/
def unitOf (f : Nat) : Nat := biasOf f + fracBits f - 1
def magnitude (f k : Nat) : Nat :=
  let e := k / 2 ^ fracBits f
  let m := k % 2 ^ fracBits f
  if e = 0 then m else (2 ^ fracBits f + m) * 2 ^ (e - 1)

/-- What a code stands for; a finite value n / d. -/
inductive Num where
  | nan
  | inf (neg : Bool)
  | fin (neg : Bool) (n d : Nat)
  deriving DecidableEq, Repr

def isNegative (f c : Nat) : Bool := decide (2 ^ (codeBits f - 1) ≤ c % 2 ^ codeBits f)
def bareCode (f c : Nat) : Nat := c % 2 ^ (codeBits f - 1)
def signed (f : Nat) (neg : Bool) (k : Nat) : Nat := if neg then 2 ^ (codeBits f - 1) + k else k
def numOf (f c : Nat) : Num :=
  let k := bareCode f c
  if k ≤ largestOf f then .fin (isNegative f c) (magnitude f k) (2 ^ unitOf f)
  else if infinityOf f = some k then .inf (isNegative f c) else .nan

def Num.minus : Num → Num
  | .nan => .nan
  | .inf p => .inf (!p)
  | .fin p n d => .fin (!p) n d

/-- An exact magnitude, by how it compares with p / q: a fraction, or 1 / √(n / 2^u) counted in units of 2^−u. -/
structure Exact where
  ge : Nat → Nat → Bool
  gt : Nat → Nat → Bool
def fraction (n d : Nat) : Exact := ⟨fun p q => decide (p * d ≤ n * q), fun p q => decide (p * d < n * q)⟩
def inverseRoot (n u : Nat) : Exact :=
  ⟨fun p q => decide (p * p * n ≤ q * q * 2 ^ (3 * u)), fun p q => decide (p * p * n < q * q * 2 ^ (3 * u))⟩

/-- `k` is the place to which a mode rounds an exact magnitude among the values `v 0 < v 1 < …`; even places have even significands (03 R65, R66). -/
def Nearest (v : Nat → Nat) (m : Mode) (t : Exact) (k : Nat) : Prop :=
  match m with
  | .rtz => t.ge (v k) 1 = true ∧ t.ge (v (k + 1)) 1 = false
  | .rne => (if k % 2 = 0 then t.gt (v k + v (k + 1)) 2 = false else t.ge (v k + v (k + 1)) 2 = false) ∧
      (k = 0 ∨ if k % 2 = 0 then t.ge (v (k - 1) + v k) 2 = true else t.gt (v (k - 1) + v k) 2 = true)
  | .sr d => ∃ j f, t.ge (v j) 1 = true ∧ t.ge (v (j + 1)) 1 = false ∧ f < 65536 ∧
      t.ge (65536 * v j + f * (v (j + 1) - v j)) 65536 = true ∧ t.ge (65536 * v j + (f + 1) * (v (j + 1) - v j)) 65536 = false ∧
      k = j + (if 65536 ≤ f + d then 1 else 0)

/-- An exact result rounded once into a float format, with OVF (2) where it overflows: to ±Inf, or ±largest finite under RTZ and in a format of 8 bits
or fewer (03 R63, R65). -/
def Rounded (f : Nat) (m : Mode) (neg : Bool) (t : Exact) (r : Rnd) : Prop :=
  ∃ k, Nearest (magnitude f) m t k ∧
    r = if k ≤ largestOf f then ⟨signed f neg k, 0⟩
      else ⟨signed f neg (if m = .rtz ∨ codeBits f ≤ 8 then largestOf f else (infinityOf f).getD 0), 2⟩

/-- The same of a signed fraction; 03 gives a zero sum no sign, and none is asked for. -/
def RoundedInt (f : Nat) (m : Mode) (n : Int) (d : Nat) (r : Rnd) : Prop :=
  if n = 0 then r.fl = 0 ∧ r.code < 2 ^ codeBits f ∧ bareCode f r.code = 0 else Rounded f m (decide (n < 0)) (fraction (n.natAbs * 2 ^ unitOf f) d) r

def isNanCode (f : Nat) : Rnd := ⟨canonicalNan f, 0⟩
def invalidNan (f : Nat) : Rnd := ⟨canonicalNan f, 1⟩
def infiniteCode (f : Nat) (neg : Bool) : Rnd := ⟨signed f neg ((infinityOf f).getD 0), 0⟩
def withSign (neg : Bool) (n : Nat) : Int := if neg then -(n : Int) else n

/-- x + y, x·y, x·y + z, x ÷ y and 1 ÷ √x rounded once into format f, NaN and INV as 03 R60 and R63 and 06 R156 give them. -/
def SumOf (f : Nat) (m : Mode) (x y : Num) (r : Rnd) : Prop :=
  match x, y with
  | .nan, _ | _, .nan => r = isNanCode f
  | .inf p, .inf q => r = if p = q then infiniteCode f p else invalidNan f
  | .inf p, .fin _ _ _ | .fin _ _ _, .inf p => r = infiniteCode f p
  | .fin p a c, .fin q b d => RoundedInt f m (withSign p a * d + withSign q b * c) (c * d) r
def ProductOf (f : Nat) (m : Mode) (x y : Num) (r : Rnd) : Prop :=
  match x, y with
  | .nan, _ | _, .nan => r = isNanCode f
  | .inf p, .inf q => r = infiniteCode f (p != q)
  | .inf p, .fin q n _ | .fin q n _, .inf p => r = if n = 0 then invalidNan f else infiniteCode f (p != q)
  | .fin p a c, .fin q b d => Rounded f m (p != q) (fraction (a * b * 2 ^ unitOf f) (c * d)) r
def FusedOf (f : Nat) (m : Mode) (x y z : Num) (r : Rnd) : Prop :=
  match x, y, z with
  | .nan, _, _ | _, .nan, _ | _, _, .nan => r = isNanCode f
  | .fin p a c, .fin q b d, z => SumOf f m (.fin (p != q) (a * b) (c * d)) z r
  | .inf p, .inf q, z => SumOf f m (.inf (p != q)) z r
  | .inf p, .fin q n _, z | .fin q n _, .inf p, z => if n = 0 then r = invalidNan f else SumOf f m (.inf (p != q)) z r
def QuotientOf (f : Nat) (m : Mode) (x y : Num) (r : Rnd) : Prop :=
  match x, y with
  | .nan, _ | _, .nan => r = isNanCode f
  | .inf _, .inf _ => r = invalidNan f
  | .inf p, .fin q _ _ => r = infiniteCode f (p != q)
  | .fin p _ _, .inf q => r = ⟨signed f (p != q) 0, 0⟩
  | .fin p a c, .fin q b d =>
    if b = 0 then r = (if a = 0 then invalidNan f else infiniteCode f (p != q))
    else Rounded f m (p != q) (fraction (a * d * 2 ^ unitOf f) (c * b)) r
def InverseRootOf (f : Nat) (m : Mode) (x : Num) (r : Rnd) : Prop :=
  match x with
  | .nan => r = isNanCode f
  | .inf p => r = if p then invalidNan f else ⟨0, 0⟩
  | .fin p n _ => if n = 0 then r = infiniteCode f p else if p then r = invalidNan f else Rounded f m false (inverseRoot n (unitOf f)) r

/-- How a word rounds lane draw `j` (02 R39; 03 R66). -/
def drawnMode (d : Draws) (j : Nat) : Mode :=
  if d.kind = 2 then .rtz else if d.kind = 3 then .sr ((mix d.key (d.ctr + BitVec.ofNat 64 j)).toNat / 65536) else .rne

/-- The lanes 0 to n − 1 of width w of a V word's row are these results, its flags are theirs together, and every lane beyond is 0 (03 R57, R64). -/
def LanesAre (o : VOut) (n w : Nat) (P : Nat → Rnd → Prop) : Prop :=
  ∃ r : Nat → Rnd, (∀ i < n, laneOf o.row w i = (r i).code ∧ P i (r i)) ∧
    (∀ j, o.fl.testBit j = true ↔ ∃ i < n, (r i).fl.testBit j = true) ∧ ∀ i, n ≤ i → i * w < 2048 → laneOf o.row w i = 0

/-- The order of codes that are no NaN: −0 below +0, and with the two equal (03 R60). -/
def orderKey (f c : Nat) : Int := if isNegative f c then -1 - (bareCode f c : Int) else bareCode f c
def valueKey (f c : Nat) : Int := if isNegative f c then -(bareCode f c : Int) else bareCode f c

/-- The conditions of VCMP: eq, ne, lt, le (06 R157). -/
def Compares (c : BitVec 2) (f x y : Nat) : Prop :=
  let nan := isFloat f = true ∧ (numOf f x = .nan ∨ numOf f y = .nan)
  let a := if isFloat f then valueKey f x else intOf f x
  let b := if isFloat f then valueKey f y else intOf f y
  (c = 0 ∧ ¬ nan ∧ a = b) ∨ (c = 1 ∧ (nan ∨ a ≠ b)) ∨ (c = 2 ∧ ¬ nan ∧ a < b) ∨ (c = 3 ∧ ¬ nan ∧ a ≤ b)

/-- The FP32 operations that the algorithms of 03 R69–R72 and of K are made of, on codes, their flags apart. -/
def Add32 (m : Mode) (x y r : Nat) : Prop := ∃ fl, SumOf 0 m (numOf 0 x) (numOf 0 y) ⟨r, fl⟩
def Sub32 (x y r : Nat) : Prop := ∃ fl, SumOf 0 .rne (numOf 0 x) (numOf 0 y).minus ⟨r, fl⟩
def Mul32 (x y r : Nat) : Prop := ∃ fl, ProductOf 0 .rne (numOf 0 x) (numOf 0 y) ⟨r, fl⟩
def Div32 (x y r : Nat) : Prop := ∃ fl, QuotientOf 0 .rne (numOf 0 x) (numOf 0 y) ⟨r, fl⟩
def Fma32 (x y z r : Nat) : Prop := ∃ fl, FusedOf 0 .rne (numOf 0 x) (numOf 0 y) (numOf 0 z) ⟨r, fl⟩

/-- The FP32 code nearest a decimal n / 10^k. -/
def Decimal (n k c : Nat) : Prop := Rounded 0 .rne false (fraction (n * 2 ^ 149) (10 ^ k)) ⟨c, 0⟩

/-- Σ aᵢ xⁱ by steps p := fma32(p, x, a), the last coefficient first. -/
def Horner (x : Nat) : Nat → List Nat → Nat → Prop
  | p, [], r => r = p
  | p, a :: l, r => ∃ q, Fma32 p x a q ∧ Horner x q l r

/-- VEXP2 of a lane (03 R71). -/
def Exp2Of (m : Mode) (c : Nat) (r : Rnd) : Prop :=
  match numOf 0 c with
  | .nan => r = isNanCode 0
  | .inf p => r = if p then ⟨0, 0⟩ else infiniteCode 0 false
  | .fin p n _ =>
    let x := withSign p n
    if 128 * 2 ^ 149 ≤ x then r = ⟨if m = .rtz then 0x7F7FFFFF else 0x7F800000, 2⟩
    else if x < -(151 * 2 ^ 149) then r = ⟨0, 0⟩
    else ∃ (k : Int) (f a c1 c2 c3 c4 c5 c6 : Nat),
      (2 * (x - k * 2 ^ 149)).natAbs ≤ 2 ^ 149 ∧ ((2 * (x - k * 2 ^ 149)).natAbs = 2 ^ 149 → k % 2 = 0) ∧
      (∃ q y, numOf 0 f = .fin q y (2 ^ 149) ∧ withSign q y = x - k * 2 ^ 149) ∧
      Decimal 693147182 9 c1 ∧ Decimal 240226507 9 c2 ∧ Decimal 555041086 10 c3 ∧ Decimal 961812911 11 c4 ∧ Decimal 133335581 11 c5 ∧
      Decimal 154035304 12 c6 ∧ Horner f c6 [c5, c4, c3, c2, c1, 0x3F800000] a ∧ bareCode 0 a = a ∧ a ≤ largestOf 0 ∧
      Rounded 0 m false (fraction (magnitude 0 a * 2 ^ k.toNat) (2 ^ (-k).toNat)) r

/-- VLOG2 of a lane (03 R72). -/
def Log2Of (m : Mode) (c : Nat) (r : Rnd) : Prop :=
  match numOf 0 c with
  | .nan => r = isNanCode 0
  | .inf p => r = if p then invalidNan 0 else infiniteCode 0 false
  | .fin p n _ =>
    if n = 0 then r = infiniteCode 0 true else if p then r = invalidNan 0
    else ∃ (e e' : Int) (g g' a b t z q ec d0 d1 d2 d3 d4 y : Nat),
      0x3F800000 ≤ g ∧ g < 0x40000000 ∧ n * 2 ^ (-e).toNat = magnitude 0 g * 2 ^ e.toNat ∧
      (if 0x3FB504F3 < g then g' = g - 2 ^ 23 ∧ e' = e + 1 else g' = g ∧ e' = e) ∧
      Sub32 g' 0x3F800000 a ∧ Add32 .rne g' 0x3F800000 b ∧ Div32 a b t ∧ Mul32 t t z ∧
      Decimal 288539008 8 d0 ∧ Decimal 961796694 9 d1 ∧ Decimal 577078016 9 d2 ∧ Decimal 412198583 9 d3 ∧ Decimal 320598898 9 d4 ∧
      Horner z d4 [d3, d2, d1, d0] q ∧ (∃ w x, numOf 0 ec = .fin w x (2 ^ 149) ∧ withSign w x = e' * 2 ^ 149) ∧
      Mul32 q t y ∧ SumOf 0 m (numOf 0 ec) (numOf 0 y) r

/-- An element of a source format, with its block's scale byte where it has one (03 R59, R61). -/
def sourceNum (f c : Nat) (scale : Option Nat) : Num :=
  if isInt f then .fin (decide (intOf f c < 0)) (intOf f c).natAbs 1
  else match numOf f c, scale with
    | .fin p n d, some b => if b = 255 then .nan else .fin p (n * 2 ^ b) (d * 2 ^ 127)
    | x, some b => if b = 255 then .nan else x
    | x, none => x

/-- A number converted to a format (03 R67, R68): to an integer by the word's mode, clamped with SAT (4); NaN to 0 with INV. -/
def ConvertedTo (f : Nat) (m : Mode) (x : Num) (r : Rnd) : Prop :=
  if isInt f then
    let clamped := fun (i : Int) => let j := max (intMinOf f) (min (intMaxOf f) i)
      r = ⟨(j % 2 ^ fmtBits f).toNat, if j = i then 0 else 4⟩
    match x with
    | .nan => r = ⟨0, 1⟩
    | .inf p => r = ⟨((if p then intMinOf f else intMaxOf f) % 2 ^ fmtBits f).toNat, 4⟩
    | .fin p n d => ∃ k, Nearest id m (fraction n d) k ∧ clamped (withSign p k)
  else match x with
    | .nan => r = if f = 4 then ⟨0, 1⟩ else isNanCode f
    | .inf p => r = match infinityOf f with | some k => ⟨signed f p k, 0⟩ | none => ⟨signed f p (largestOf f), 2⟩
    | .fin p n d => Rounded f m p (fraction (n * 2 ^ unitOf f) d) r

/-- The same of an element with a block scale (03 R67): beyond the range of FP32 it counts as ±Inf, with OVF. -/
def ScaledTo (f : Nat) (m : Mode) (x : Num) (r : Rnd) : Prop :=
  match x with
  | .fin p n d => if d * 2 ^ 128 ≤ n then ∃ y, ConvertedTo f m (.inf p) y ∧ r = ⟨y.code, y.fl ||| 2⟩ else ConvertedTo f m x r
  | _ => ConvertedTo f m x r

/-- Element i of ta's row, zero at or beyond its length, and its scale (06 R160). -/
def elementOf (v : VIn) (i : Nat) : Num :=
  if i < v.la then sourceNum v.fa (laneOf v.a (fmtBits v.fa) i) (if v.scal then some (laneOf v.sca 8 (i / 32)) else none) else .fin false 0 1

/-- The tree of 03 R69 over 2^k lanes: `T j` are the lanes that 2^j of the steps have left, `F j` the flags of the last of these steps. -/
def TreeOf (op : Nat → Nat → Nat → Rnd → Prop) (k : Nat) (first : Nat → Nat) (T F : Nat → Nat → Nat) : Prop :=
  (∀ i < 2 ^ k, T k i = first i) ∧ ∀ j < k, ∀ i < 2 ^ j, op (2 ^ j + i) (T (j + 1) i) (T (j + 1) (i + 2 ^ j)) ⟨T j i, F j i⟩

/-- The sum of two lanes, the greater, the less of two (03 R60, R69). -/
def reduceOp (kind : Nat) (d : Draws) (j x y : Nat) (r : Rnd) : Prop :=
  if kind = 0 then SumOf 0 (drawnMode d j) (numOf 0 x) (numOf 0 y) r
  else r = if numOf 0 x = .nan ∨ numOf 0 y = .nan then isNanCode 0
    else ⟨if kind = 1 then (if orderKey 0 x < orderKey 0 y then y else x) else if orderKey 0 y < orderKey 0 x then y else x, 0⟩

/-- A block's entry (03 R73): 1000 stands for NAN. -/
def EntryOf (f : Nat) (c : Nat → Nat) (e : Option Int) : Prop :=
  ((∃ i < 32, largestOf f < bareCode f (c i)) → e = some 1000) ∧ ((∀ i < 32, bareCode f (c i) = 0) → e = none) ∧
  ((∀ i < 32, bareCode f (c i) ≤ largestOf f) → (∃ i < 32, bareCode f (c i) ≠ 0) → ∃ x, e = some x ∧ (∀ i < 32, magnitude f (bareCode f (c i)) * 2 ^ (-1 - x).toNat < 2 ^ (unitOf f + (x + 1).toNat)) ∧
    ∃ i < 32, 2 ^ (unitOf f + x.toNat) ≤ magnitude f (bareCode f (c i)) * 2 ^ (-x).toNat)
/-! ### Steps of a nest (03 R75, R76; 07 R175, R183) -/

/-- p and W − p of 03 R75; E2M1 is taken in halves, with q = −1. -/
def sigBits (f : Nat) : Nat := if f = 1 then 8 else if f = 2 then 4 else 3
def slackBits (f : Nat) : Nat := if f = 1 then 8 else if f = 2 then 4 else if f = 3 then 5 else 0

/-- A value times 2^k. -/
def Num.times2 (x : Num) (k : Int) : Num :=
  match x with
  | .fin p n d => .fin p (n * 2 ^ k.toNat) (d * 2 ^ (-k).toNat)
  | y => y

/-- Whether a code is finite and not zero; the exponent q of such an element ±M·2^q, M of p bits. -/
def liveCode (f c : Nat) : Bool := decide (bareCode f c ≤ largestOf f) && decide (magnitude f (bareCode f c) ≠ 0)
def elementExponent (f c : Nat) : Int := if f = 4 then -1 else (Nat.log2 (magnitude f (bareCode f c)) : Int) - unitOf f - (sigBits f - 1)

/-- Q of a block of 32 elements, and its aligned integers; a NaN or Inf element enters as 0 (03 R75; 07 R188). -/
def BlockAligned (f : Nat) (c : Nat → Nat) (q : Int) (v : Nat → Int) : Prop :=
  ((∀ i < 32, liveCode f (c i) = false) ∧ q = 0 ∨
    (∃ i < 32, liveCode f (c i) = true ∧ q = elementExponent f (c i)) ∧ ∀ i < 32, liveCode f (c i) = true → elementExponent f (c i) ≤ q) ∧
  ∀ i < 32, match (numOf f (c i)).times2 (slackBits f - q) with
    | .fin p n d => ∃ k, Nearest id .rne (fraction n d) k ∧ v i = withSign p k
    | _ => v i = 0

/-- How a block of A is poisoned: 1 by a NaN or a scale of 0xFF, 2 by an Inf alone, 0 not at all (03 R75). -/
def blockPoison (f : Nat) (c : Nat → Nat) (sc : Option Int) : Nat :=
  let has := fun (x : Num) => (List.range 32).any (fun i => decide (numOf f (c i) = x))
  if sc.isNone || has .nan then 1 else if has (.inf false) || has (.inf true) then 2 else 0

/-- What a poisoned block makes of an accumulator: the canonical NaN, with INV where no operand held a NaN. -/
def poisonedAs (a b fl : Nat) : Rnd := ⟨0x7FC00000, if a = 1 ∨ b = 1 then fl else fl ||| 1⟩

/-- The integer a bank holds for K-row k and column n, and the exponents of its K-block: Q, scale, poison (07 R177). -/
def bankInt (b : CimBank) (k n : Nat) : Int := ((kfind b.rows k).getD []).getD n 0
def bankBlock (b : CimBank) (j n : Nat) : Int × Int × Nat := (b.exps j).getD n (0, 0, 0)

/-- acc + D·2^k as 03 R75 rounds it. -/
def BlockAdds (d k : Int) (acc : Nat) (r : Rnd) : Prop :=
  ∃ p x fl, RoundedInt 0 .rne d 1 p ∧ (d = 0 → p.code = 0) ∧ ConvertedTo 0 .rne ((numOf 0 p.code).times2 k) x ∧
    SumOf 0 .rne (numOf 0 acc) (numOf 0 x.code) ⟨r.code, fl⟩ ∧ r.fl = p.fl ||| x.fl ||| fl

/-- The less or the greater of two codes (03 R60). -/
def extremeOf (less : Bool) (x y : Nat) : Nat :=
  if numOf 0 x = .nan ∨ numOf 0 y = .nan then canonicalNan 0
  else if less then (if orderKey 0 y < orderKey 0 x then y else x) else if orderKey 0 x < orderKey 0 y then y else x

/-- One element of min-plus (`less`) or max-times: A's element and the bank's, both widened, combined, and the extreme kept (07 R183). -/
def TropicalTerm (less : Bool) (x y : Num) (acc : Nat) (r : Rnd) : Prop :=
  ∃ a b z, ConvertedTo 0 .rne x a ∧ ConvertedTo 0 .rne y b ∧
    (if less then SumOf 0 .rne (numOf 0 a.code) (numOf 0 b.code) z else ProductOf 0 .rne (numOf 0 a.code) (numOf 0 b.code) z) ∧
    r = ⟨extremeOf less acc z.code, a.fl ||| b.fl ||| z.fl⟩

/-- A bank's lists have their 512 columns. -/
def BankWhole (b : CimBank) : Prop := (∀ k r, kfind b.rows k = some r → r.length = 512) ∧ ∀ j, (b.exps j).length = 512

/-- The extents of a table and the sum of a stride over loop indices (07 R183). -/
def extentOf (t : NestTable) (l : Nat) : Nat := (t.levels.getD l ⟨1, 0, 0, false⟩).ext
def strideSum (t : NestTable) (ix : Nat → Nat) (f : NestLevel → Int) : Int :=
  ((List.range 6).map (fun l => (ix l : Int) * f (t.levels.getD l ⟨1, 0, 0, false⟩))).sum

/-- The A vector whose bytes begin at byte `off` of a tile at `base`, and its block scales from the scale tile at `sc` (07 R175; 03 R59). -/
def VectorOfTile (c : Core) (f base off : Nat) (sc : Option Nat) (a : AVec) : Prop :=
  let w := fmtBits f
  a.fmt = f ∧ (∀ k < 256, a.code k = laneOf (c.row (base / 256 + (8 * off + w * k) / 2048)) w ((8 * off + w * k) % 2048 / w)) ∧
  ∀ j < 8, a.sc.getD j (some 0) = match (if f = 2 ∨ f = 3 ∨ f = 4 then sc else none) with
    | some u =>
      let v := laneOf (c.row (u / 256 + (8 * off + 32 * w * j) / 2048)) 8 ((8 * off + 32 * w * j) % 2048 / w / 32)
      if v = 255 then none else some ((v : Int) - 127)
    | none => some 0

/-- Element n of C vector `cv` of a tile at `base` (07 R176). -/
def elementOfC (c : Core) (cf base cv n : Nat) : Int :=
  let per := 512 / cRows cf
  let x := laneOf (c.row (base / 256 + cRows cf * cv + n / per)) (fmtBits cf) (n % per)
  if cf = 10 then (if x < 2 ^ 31 then (x : Int) else (x : Int) - 2 ^ 32) else x

/-- A value at write-back: INT32 clamped, or its low 32 bits (03 R76). -/
def writtenAs (cf : Nat) (isat : Bool) (v : Int) : Int :=
  if cf = 10 then (if isat then max (-(2 ^ 31)) (min (2 ^ 31 - 1) v) else (v + 2 ^ 31) % 2 ^ 32 - 2 ^ 31) else v

/-! ### K's vectors (03 R70; 09 R212, R218, R219) -/

/-- The dot product of two vectors of n elements: 256 chains of fused steps, then the tree. -/
def DotOf (n : Nat) (x y : Nat → Nat) (r : Nat) : Prop :=
  ∃ P T F : Nat → Nat → Nat, (∀ i < 256, P 0 i = 0) ∧
    (∀ b, ∀ i < 256, if 256 * b + i < n then Fma32 (x (256 * b + i)) (y (256 * b + i)) (P b i) (P (b + 1) i) else P (b + 1) i = P b i) ∧
    TreeOf (fun _ a b z => SumOf 0 .rne (numOf 0 a) (numOf 0 b) z) 8 (P ((n + 255) / 256)) T F ∧ r = T 0 0

/-- √x rounded once (03 R70). -/
def SqrtOf (x r : Nat) : Prop :=
  match numOf 0 x with
  | .nan => r = canonicalNan 0
  | .inf p => r = if p then canonicalNan 0 else 0x7F800000
  | .fin p n _ => if n = 0 then r = signed 0 p 0 else if p then r = canonicalNan 0
    else ∃ fl, Rounded 0 .rne false ⟨fun a b => decide (a * a ≤ b * b * (n * 2 ^ 149)), fun a b => decide (a * a < b * b * (n * 2 ^ 149))⟩ ⟨r, fl⟩

/-- Row i of the rows that hold a vector of x elements `v`, `len` to a row: FP32 as it is, BF16 rounded, +0 beyond the vector (09 R212). -/
def VectorRow (f len x : Nat) (v : Nat → Nat) (i : Nat) (r : Row) : Prop :=
  ∀ j < len, if len * i + j < x then (if f = 1 then ∃ y, ConvertedTo 1 .rne (numOf 0 (v (len * i + j))) y ∧ laneOf r 16 j = y.code
      else laneOf r 32 j = v (len * i + j))
    else laneOf r (fmtBits f) j = 0

/-- A K word gives a vector of x elements to an untagged tile's rows from its cursor on, or to a queue that has room for it; other rows stand. -/
def VectorGiven (u t : State) (sp : Spec) (x : Nat) (v : Nat → Nat) : Prop :=
  match operandOf sp with
  | .tile n =>
    let y := u.myBank.tile n
    let core := u.cur.bank.core
    let at_ := fun (i : Nat) => y.base / 256 + y.cursor + i
    tagsOf u.me y = [] → (∀ i < (x + y.len - 1) / y.len, VectorRow y.fmt y.len x v i ((t.core core).row (at_ i))) ∧
      ∀ k, (∀ i < (x + y.len - 1) / y.len, k ≠ at_ i) → (t.core core).row k = (u.core core).row k
  | .queue q =>
    let y := u.myBank.queue q
    y.binding = none → y.rows.length + y.reserved + (x + 63) / 64 ≤ 16 → ∃ rs, (t.myBank.queue q).rows = y.rows ++ rs ∧ rs.length = (x + 63) / 64 ∧
      ∀ i r, rs[i]? = some r → VectorRow 0 64 x v i r
  | _ => True

/-- The pair after an append of columns `us`, each times `alpha`, and `vs` (08 R197). -/
def Appended (w : KPair) (us vs : List (List Nat)) (alpha : Nat) (w' : KPair) : Prop :=
  ∃ un : List (List Nat), w' = { w with u := w.u ++ un, v := w.v ++ vs, k := w.k + us.length, canon := false } ∧ un.length = us.length ∧
    ∀ j < us.length, (un.getD j []).length = (us.getD j []).length ∧ ∀ i < (us.getD j []).length, Mul32 alpha ((us.getD j []).getD i 0) ((un.getD j []).getD i 0)

/-- The pair that a shrink gives where an element is NaN or Inf when it starts (08 R198). -/
def PoisonedPair (w : KPair) (c : Nat) : KPair :=
  { w with k := min w.l c, u := List.replicate (min w.l c) (List.replicate w.m 0x7FC00000), v := List.replicate (min w.l c) (List.replicate w.n 0x7FC00000)
           canon := true, energy := 0x7FF8000000000000 }
end Sys2Proof.Claims

open Sys2Proof Sys2Proof.Machine Sys2Proof.Claims

/-! ### Integer words (04 R78–R82) -/

/-- ADD, SUB, AND, OR, XOR, SHL, SHR, SRA, MUL, MULH, MULHU, DIV, DIVU, REM, MIN, MAX, MINU, MAXU, SLT, SLTU complete wherever
their operands can be read, with the result of 04 R79 and R80 in integers, and change nothing else. -/
def Sys2Proof.Claims.RegisterFormsCompute : Prop :=
  ∀ form ∈ registerForms, ∀ (w : BitVec 3) (d a b : Reg) (s : State),
    Readable (issueState s) a → Readable (issueState s) b →
      ∃ t, exec (form.1 w d a b) s = .next t ∧
        RegisterWord s t w d (form.2.1 ((issueState s).me.get a) ((issueState s).me.get b)) form.2.2

/-- ADDI, ANDI, ORI, XORI, SLTI, SHLI, SHRI, SRAI complete with the effect of 04 R81 and change nothing else. -/
def Sys2Proof.Claims.ImmediateFormsCompute : Prop :=
  (∀ form ∈ immediateForms, ∀ (w : BitVec 3) (d a : Reg) (i : BitVec 10) (s : State), Readable (issueState s) a →
    ∃ t, exec (form.1 w d a i) s = .next t ∧ RegisterWord s t w d (form.2 ((issueState s).me.get a) i.toInt) 1) ∧
  (∀ form ∈ shiftForms, ∀ (w : BitVec 3) (d a : Reg) (i : BitVec 6) (s : State), Readable (issueState s) a →
    ∃ t, exec (form.1 w d a i) s = .next t ∧ RegisterWord s t w d (form.2 ((issueState s).me.get a) i.toNat) 1)

/-- LI and LSH (04 R82): LI gives d the sign-extended constant, LSH shifts d left by 15 and puts the constant below. -/
def Sys2Proof.Claims.ConstantsLoad : Prop :=
  ∀ (w : BitVec 3) (d : Reg) (i : BitVec 15) (s : State),
    (∃ t, exec (.li w d i) s = .next t ∧ RegisterWord s t w d (wrap i.toInt) 1) ∧
    (Readable (issueState s) d → ∃ t, exec (.lsh w d i) s = .next t ∧
      RegisterWord s t w d (BitVec.ofNat 64 (((issueState s).me.get d).toNat * 32768 + i.toNat)) 1)

/-- Integer words: the register forms, the forms with an immediate and the constants each give their value (04 R80–R82). -/
def Obligations.IntegerFormsCompute : Prop := Claims.RegisterFormsCompute ∧ Claims.ImmediateFormsCompute ∧ Claims.ConstantsLoad

/-- A word waits as it is for the first register it reads that an interlocked result is on its way to (17 R295). With none, a register whose
fixed-latency result is on its way makes it trap with UNDERSIZED_STALL at its own pc while the stall checker is on (17 R299), in the cycle in which
it would issue: a word that waits for something else does not trap yet. -/
def Obligations.EarlyReadWaitsOrTraps : Prop :=
  ∀ (w : BitVec 3) (d a b : Reg) (p q v : Spec) (i : Fields) (s : State),
    let u := issueState s
    ∀ x ∈ registerReaders u w d a b p q v i, x.first →
      (∀ (n : Nat) (r : Reg), x.regs[n]? = some r → Interlocked u r → (∀ m < n, ∀ y, x.regs[m]? = some y → ¬ Interlocked u y) →
        exec x.word s = .next (u.modMe (fun y => { y with block := none, lock := !u.me.pend.any (fun p => p.wr.toIreg r) }))) ∧
      ((∀ r ∈ x.regs, ¬ Interlocked u r) → (∃ r ∈ x.regs, Premature u r) →
        (x.sure → Traps s x.word .undersizedStall (u.cur.word.setWidth 64)) ∧
        (Traps s x.word .undersizedStall (u.cur.word.setWidth 64) ∨ Stays s x.word))

/-! ### Branches and jumps (04 R83–R85) -/

/-- BEQ, BNE, BLT, BGE, BLTU, BGEU: taken, they go on at pc + 4 + 4·offset with the fetch redirect of 17 R297; not taken, at the
next word; they write no register. -/
def Sys2Proof.Claims.BranchesGoOn : Prop :=
  ∀ form ∈ branches, ∀ (w : BitVec 3) (a b : Reg) (o : BitVec 10) (s : State),
    Readable (issueState s) a → Readable (issueState s) b →
      ∃ t, exec (form.1 w a b o) s = .next t ∧
        (if form.2 ((issueState s).me.get a) ((issueState s).me.get b)
          then JumpWord s t w 0 0 (wrap ((issueState s).me.pc.toInt + 4 + 4 * o.toInt))
          else RegisterWord s t w 0 0 1)

/-- JAL and JALR: d takes the next word's address and the stream goes on at the target, which JALR takes from s_a before d is
written; a JALR target that is no multiple of 4 traps with MISALIGNED, d not written. -/
def Sys2Proof.Claims.JumpsLink : Prop :=
  ∀ (w : BitVec 3) (d a : Reg) (s : State),
    let u := issueState s
    (∀ o : BitVec 15, ∃ t, exec (.jal w d o) s = .next t ∧ JumpWord s t w d (u.me.pc + 4) (wrap (u.me.pc.toInt + 4 + 4 * o.toInt))) ∧
    (∀ i : BitVec 10, Readable u a →
      let target := wrap ((u.me.get a).toInt + 4 * i.toInt)
      if target.toNat % 4 = 0 then ∃ t, exec (.jalr w d a i) s = .next t ∧ JumpWord s t w d (u.me.pc + 4) target
      else exec (.jalr w d a i) s = .next (takeTrap u u.cur.bank u.cur.engine ⟨.misaligned, target, 0, 0⟩ u.me.pc))

/-- Branches go on at the target or at the next word; jumps link and go on at theirs (04 R83, R84; 02 R36). -/
def Obligations.BranchesAndJumps : Prop := Claims.BranchesGoOn ∧ Claims.JumpsLink

/-! ### Control registers, the tick, semaphores, fences, software traps (04 R86–R97; 21 R351, R352) -/

/-- CSRR, CSRW, TICK, TICKWAIT, NOP: each completes with its effect alone; CSRR and CSRW wait for the stream's earlier words, and
TICKWAIT blocks while the tick counter is below s_a. That CSRR of ISSUED reads the count before the word itself is the model's choice (log
entry 54). -/
def Obligations.ControlWordsComplete : Prop :=
  ∀ (w : BitVec 3) (d a : Reg) (s : State),
    let u := issueState s
    (∀ c ∈ controlRegisters, Quiet u → ∃ t, exec (.csrr w d c.1) s = .next t ∧ RegisterWord s t w d (c.2 u.myBank u.me) 1) ∧
    (∀ c ∈ controlWrites, Quiet u → Readable u d →
      ∃ t, exec (.csrw w d c.1) s = .next t ∧ BankWord s t w (u.myBank.setStream u.cur.engine (c.2 u.me (u.me.get d)))) ∧
    (∀ n, ¬ Quiet u → Waits s (.csrr w d n) ∧ Waits s (.csrw w d n)) ∧
    (∃ t, exec (.tick w d) s = .next t ∧ RegisterWord s t w d u.time.tick 1) ∧
    (Readable u a → if (u.me.get a).toNat ≤ u.time.tick.toNat then ∃ t, exec (.tickwait w a) s = .next t ∧ BankWord s t w u.myBank
      else Blocks s (.tickwait w a) .tick 0) ∧
    ∃ t, exec (.nop w) s = .next t ∧ BankWord s t w u.myBank

/-- SEMWAIT completes as an acquire where (value − s_a) mod 2^32 is below 2^31 and no SEMSIG of its own stream on the semaphore is still to
be performed, blocks where not, and traps with
COLLECTIVE_ABORT where the error bit is set (04 R93). -/
def Sys2Proof.Claims.SemwaitAcquiresBlocksOrTraps : Prop :=
  ∀ (w : BitVec 3) (a : Reg) (n : BitVec 10) (s : State),
    let u := issueState s
    let m := u.myCtx.sem n.toNat
    Readable u a →
      if m.err then exec (.semwait w a n) s = .next (takeTrap u u.cur.bank u.cur.engine ⟨.collectiveAbort, n.setWidth 64, 0, m.why⟩ u.me.pc)
      else if (m.val.toNat + 2 ^ 32 - (u.me.get a).toNat % 2 ^ 32) % 2 ^ 32 < 2 ^ 31 ∧ (∀ p ∈ u.me.sigs, p.sem ≠ n.toNat) then
        ∃ t, exec (.semwait w a n) s = .next t ∧ BankWord s t w { u.myBank with mem := u.myBank.mem.acquire }
      else Blocks s (.semwait w a n) .sem (n.setWidth 64)

/-- SEMSIG issues on with its addition posted and no semaphore changed (04 R94); FENCE completes once the stream's earlier words have,
in A also as a release and an acquire (R95), and waits before. -/
def Sys2Proof.Claims.SemsigPostsFenceOrders : Prop :=
  ∀ (w : BitVec 3) (a : Reg) (n : BitVec 10) (c : BitVec 2) (s : State),
    let u := issueState s
    (Readable u a → ∃ t p, exec (.semsig w a n) s = .next t ∧
      BankWord s t w (u.myBank.setStream u.cur.engine { u.me with sigs := u.me.sigs ++ [p] }) ∧
      p.sem = n.toNat ∧ p.inc.toNat = (u.me.get a).toNat % 2 ^ 32 ∧ p.mark = u.myBank.markOf [u.cur.engine]) ∧
    (Quiet u → u.cur.engine ≠ .A → ∃ t, exec (.fence w c) s = .next t ∧ BankWord s t w u.myBank) ∧
    (Quiet u → u.cur.engine = .A → u.released u.cur.bank u.myBank.mem.seq = true →
      ∃ t, exec (.fence w c) s = .next t ∧ BankWord s t w { u.myBank with mem := (u.myBank.mem.reveal (fun _ => true)).acquire }) ∧
    ((¬ Quiet u ∨ (u.cur.engine = .A ∧ u.released u.cur.bank u.myBank.mem.seq = false)) → Waits s (.fence w c))

/-- SEMWAIT, SEMSIG and FENCE, each in all its cases (04 R92–R95). -/
def Obligations.SemaphoreWordsAct : Prop := Claims.SemwaitAcquiresBlocksOrTraps ∧ Claims.SemsigPostsFenceOrders

/-- Any trap with a handler free for it enters C's handler, and one without a handler fails the unit (21 R351, R352). -/
def Sys2Proof.Claims.TrapsEnterOrFail : Prop :=
  ∀ (u : State) (b : BankId) (e : Engine) (tr : Trap) (pc : W64),
    (HandlerFree u b → Entered u (takeTrap u b e tr pc) b e tr pc) ∧
    (((u.ctxOf b).priv = false ∨ (u.bank b).tvec = 0 ∨ (u.bank b).tvec.toNat % 4 ≠ 0) → UnitFails u (takeTrap u b e tr pc) b e tr pc)

/-- BRK and TRAP: the trap PC is the next word's, the word counts as issued, its stall count is not applied (04 R96). -/
def Obligations.SoftwareTrapsEnter : Prop :=
  ∀ form ∈ ([(.brk, .break), (.trap, .softTrap)] : List ((BitVec 3 → BitVec 20 → Instr) × Cause)), ∀ (w : BitVec 3) (i : BitVec 20) (s : State),
    let u := (issueState s).modMe (fun x => { x with issued := x.issued + 1 })
    let tr : Trap := ⟨form.2, 0, i, 0⟩
    let pc := u.me.pc + 4
    ∃ t, exec (form.1 w i) s = .next t ∧
      (HandlerFree u u.cur.bank → Entered u t u.cur.bank u.cur.engine tr pc) ∧
      (((u.ctxOf u.cur.bank).priv = false ∨ (u.bank u.cur.bank).tvec = 0 ∨ (u.bank u.cur.bank).tvec.toNat % 4 ≠ 0) → UnitFails u t u.cur.bank u.cur.engine tr pc)

/-- A trap held while another is handled, and one of C's own while one is handled (21 R352): the first is delivered by TRET, the second
fails the unit. -/
def Sys2Proof.Claims.SecondTrapIsHeld : Prop :=
  ∀ (u : State) (b : BankId) (e : Engine) (tr : Trap) (pc : W64),
    (u.ctxOf b).priv = true → (u.bank b).tvec ≠ 0 → (u.bank b).tvec.toNat % 4 = 0 → (u.bank b).valid = true →
      if e = .C then ((takeTrap u b e tr pc).bank b).phase = .ending .failed
      else OnlyBank b u (takeTrap u b e tr pc) ∧
        (takeTrap u b e tr pc).bank b = { (u.bank b).setStream e { (u.bank b).stream e with tpc := pc, block := none, wait := none, status := .trapped } with
          held := (u.bank b).held ++ [⟨e, tr, pc⟩], mem := if e = .A then (u.bank b).mem.dropCommand else (u.bank b).mem }

/-- Taking a trap: in the handler, held while another is handled, or failing the unit (21 R351, R352). -/
def Obligations.TrapsAreTaken : Prop := Claims.TrapsEnterOrFail ∧ Claims.SecondTrapIsHeld

/-! ### Lift-calls (10 R228–R243) -/

/-- LCALL opens a level of s_d elements, all active, where the axis limits and the footprints allow it, and goes on at its target; it
traps with AXIS_OVERFLOW where the depth, an axis limit or a footprint is passed (10 R232). -/
def Sys2Proof.Claims.LcallOpensALevel : Prop :=
  ∀ (w : BitVec 3) (d : Reg) (o : BitVec 15) (s : State),
    let u := issueState s
    let n := (u.me.get d).toNat
    let l := u.me.lift.length
    let x : Stream := { u.me with lift := u.me.lift ++ [⟨n, u.me.pc + 4, BitVec.ofNat 256 (2 ^ n - 1)⟩] }
    let k := u.myBank.setStream u.cur.engine x
    let fits := l < 4 ∧ 0 < n ∧ n ≤ 256 ∧ n * u.me.lift.foldl (fun p v => p * v.n) 1 ≤ 4096
    Readable u d →
      (fits → (∀ i < 32, (tagAt k i l).t = true ∨ (tagAt k i l).b ≠ 0 → footprintOk k x i = true) →
        ∃ t, exec (.lcall w d o) s = .next t ∧ MovingWord s t w k (wrap (u.me.pc.toInt + 4 + 4 * o.toInt))) ∧
      (fits → (∃ i < 32, ((tagAt k i l).t = true ∨ (tagAt k i l).b ≠ 0) ∧ footprintOk k x i = false) →
        Traps s (.lcall w d o) .axisOverflow (u.cur.word.setWidth 64)) ∧
      (l ≤ 4 → ¬ fits → Traps s (.lcall w d o) .axisOverflow (u.cur.word.setWidth 64))

/-- LRET closes the innermost level and goes on at its return address once no word in flight names a tile the level's propagation
tagged, blocking before; those tiles lose that tag. With no level open, or a join entry pushed under it, it traps (10 R233). That an interrupted widened word is not in flight is
the model's choice (log entry 60). -/
def Sys2Proof.Claims.LretClosesTheLevel : Prop :=
  ∀ (w : BitVec 3) (s : State),
    let u := issueState s
    let l := u.me.lift.length - 1
    (u.me.lift = [] ∨ (∃ j ∈ u.me.join, l < j.opened) → Traps s (.lret w) .liftDepth (u.cur.word.setWidth 64)) ∧
    (u.me.lift ≠ [] → (∀ j ∈ u.me.join, j.opened ≤ l) →
      (∃ e, ∃ i ∈ u.myBank.namedBy e, i < 32 ∧ (tagAt u.myBank i l).acq = some u.cur.engine) → Blocks s (.lret w) .join 0) ∧
    ∀ v, u.me.lift.getLast? = some v → (∀ j ∈ u.me.join, j.opened ≤ l) →
      (∀ e, ∀ i ∈ u.myBank.namedBy e, i < 32 → (tagAt u.myBank i l).acq ≠ some u.cur.engine) →
      ∃ t, exec (.lret w) s = .next t ∧
        MovingWord s t w { u.myBank.setStream u.cur.engine { u.me with lift := u.me.lift.dropLast } with tiles := t.myBank.tiles } v.ret ∧
        ∀ i, t.myBank.tile i = if i < 32 ∧ (tagAt u.myBank i l).acq = some u.cur.engine then
          (u.myBank.tile i).setLift l ⟨false, (tagAt u.myBank i l).b, none⟩ else u.myBank.tile i

/-- LTAG sets the tag field of a tile at a level: stride and dormancy from s_s, or the empty field for 0; an invalid value, a null tile and a footprint
out of the unit's share trap, and a tile that is filling or draining blocks it (10 R234). -/
def Sys2Proof.Claims.LtagSetsTheField : Prop :=
  ∀ (w : BitVec 3) (p : Spec) (a : Reg) (l : BitVec 2) (n : Nat) (s : State),
    let u := issueState s
    let v := u.me.get a
    let k := u.myBank.setTile n ((u.myBank.tile n).setLift l.toNat
      (if v = 0 then ⟨false, 0, none⟩ else ⟨!v.getLsbD 24, v.toNat % 2 ^ 24, none⟩))
    let valid := v.toNat < 2 ^ 25 ∧ v.toNat % 2 ^ 24 % 256 = 0 ∧ v.toNat % 2 ^ 24 < 2 ^ 20 ∧ v.toNat ≠ 2 ^ 24
    let unused := ((u.myBank.tile n).state = .empty ∨ (u.myBank.tile n).state = .ready) ∧ u.myBank.tileBusy u.cur.engine n = false
    Readable u a → operandOf p = .tile n →
      (valid → (u.myBank.tile n).rows ≠ 0 → unused → (l.toNat < u.me.lift.length → footprintOk k u.me n = true) →
        ∃ t, exec (.ltag w p a l) s = .next t ∧ BankWord s t w k) ∧
      (valid → (u.myBank.tile n).rows ≠ 0 → unused → l.toNat < u.me.lift.length → footprintOk k u.me n = false →
        Traps s (.ltag w p a l) .axisOverflow (u.cur.word.setWidth 64)) ∧
      (valid → (u.myBank.tile n).rows ≠ 0 → ((u.myBank.tile n).state = .filling ∨ (u.myBank.tile n).state = .draining) →
        Blocks s (.ltag w p a l) .tile (p.setWidth 64)) ∧
      (valid → (u.myBank.tile n).rows ≠ 0 → ((u.myBank.tile n).state = .empty ∨ (u.myBank.tile n).state = .ready) →
        u.myBank.tileBusy u.cur.engine n = true → Waits s (.ltag w p a l)) ∧
      (¬ valid ∨ (u.myBank.tile n).rows = 0 → Traps s (.ltag w p a l) .accessViolation (u.cur.word.setWidth 64))

/-- BRB on an untagged tile, a queue, a data stream or a constant row is a branch on lane 0 of the row (10 R242). A tile's row that takes extra
cycles is read after them (17 R302). A queue or a reading
stream gives its oldest row up; one with no row, a stream that does not run and a tile that is not ready block the word; a queue bound for sending
and a writing stream trap: that an exhausted stream keeps its direction is the model's choice (log entry 54), as is the ACCESS_VIOLATION of a stream
with a recorded fault (log entry 57). -/
def Sys2Proof.Claims.BranchOnARow : Prop :=
  ∀ (w : BitVec 3) (p : Spec) (o : BitVec 14) (n : Nat) (s : State),
    let u := issueState s
    let target := wrap (u.me.pc.toInt + 4 + 4 * o.toInt)
    let pcOf := fun (r : Row) (f : Nat) => if r.toNat % 2 ^ fmtBits f = 0 then u.me.pc + 4 else target
    (operandOf p = .tile n → (u.myBank.tile n).state = .ready → tagsOf u.me (u.myBank.tile n) = [] →
      let i := (u.myBank.tile n).base / 256 + (u.myBank.tile n).cursor
      let goal := pcOf ((u.core u.cur.bank.core).row i) (u.myBank.tile n).fmt
      RowsReadable u [i] →
      (ReadsNow u → readCost u [i] = 0 → ∃ t, exec (.brb w p o) s = .next t ∧ ReadingWord s t (rowsTouched u [i]) w u.myBank goal) ∧
      (ReadsNow u → readCost u [i] ≠ 0 → Postpones s (.brb w p o) [i] n) ∧
      (ReadsLate u → ∃ t, exec (.brb w p o) s = .next t ∧ LateWord s t w u.myBank goal)) ∧
    (operandOf p = .tile n → (u.myBank.tile n).state ≠ .ready → Blocks s (.brb w p o) .tile (p.setWidth 64)) ∧
    (operandOf p = .queue n → (u.myBank.queue n).binding = none →
      match (u.myBank.queue n).rows with
      | [] => Blocks s (.brb w p o) .queue (p.setWidth 64)
      | r :: rest => ∃ t, exec (.brb w p o) s = .next t ∧ t.me.pc = pcOf r fmtFp32 ∧ (t.myBank.queue n).rows = rest ∧
          t.me.regs = u.me.regs ∧ t.me.lift = u.me.lift ∧ t.me.join = u.me.join ∧ t.me.issued = u.me.issued + 1 ∧ t.mem = u.mem) ∧
    (operandOf p = .queue n → (u.myBank.queue n).binding ≠ none → Traps s (.brb w p o) .accessViolation (u.cur.word.setWidth 64)) ∧
    (operandOf p = .stream n → (u.myBank.ds n).fault = none →
      match (u.myBank.ds n).run with
      | none => Blocks s (.brb w p o) .queue (p.setWidth 64)
      | some r =>
        if r.write then Traps s (.brb w p o) .accessViolation (u.cur.word.setWidth 64)
        else match r.buf with
          | [] => Blocks s (.brb w p o) .queue (p.setWidth 64)
          | x :: rest => ∃ t, exec (.brb w p o) s = .next t ∧
              MovingWord s t w (u.myBank.setDs n { u.myBank.ds n with run := some { r with buf := rest, given := r.given + 1 } }) (pcOf x.row fmtFp32)) ∧
    (∀ f, operandOf p = .stream n → (u.myBank.ds n).fault = some f → exec (.brb w p o) s = .next
      (takeTrap u u.cur.bank u.cur.engine ⟨.accessViolation, f.tval, 0, 0⟩ u.me.pc)) ∧
    (operandOf p = .zeroRow ∨ operandOf p = .laneRow → ∃ t, exec (.brb w p o) s = .next t ∧ MovingWord s t w u.myBank (u.me.pc + 4)) ∧
    (operandOf p = .onesRow → ∃ t, exec (.brb w p o) s = .next t ∧ MovingWord s t w u.myBank target)

/-- BRB on a tile tagged at one level splits the mask by lane 0 of every copy (10 R242): with some copy taking the branch it goes to
the target under those, else on; the rest waits on the join stack. Copies whose rows take extra cycles are read after them (17 R302). -/
def Sys2Proof.Claims.BatchedBranchSplitsTheMask : Prop :=
  ∀ (w : BitVec 3) (p : Spec) (o : BitVec 14) (n l : Nat) (c : BitVec 256) (v : LiftLevel) (s : State),
    let u := issueState s
    let x := u.myBank.tile n
    let i := fun j => (x.base + j * (x.liftAt l).b) / 256 + x.cursor
    operandOf p = .tile n → x.state = .ready → tagsOf u.me x = [l] → u.me.lift[l]? = some v →
      (u.me.join.filter (·.level == l)).length < 8 → footprintOk u.myBank u.me n = true →
      RowsReadable u ((List.range v.n).map i) →
      (∀ j < 256, c.getLsbD j = (decide (j < v.n) && ((u.core u.cur.bank.core).row (i j)).toNat % 2 ^ fmtBits x.fmt != 0)) →
      let rows := (List.range v.n).map i
      let k := u.myBank.setStream u.cur.engine { u.me with
        join := u.me.join ++ [⟨l, v.mask, u.me.pc + 4, v.mask &&& ~~~c, v.mask &&& c != 0 && v.mask &&& ~~~c != 0, u.me.lift.length⟩]
        lift := if v.mask &&& c = 0 then u.me.lift else modAt (fun y => { y with mask := v.mask &&& c }) u.me.lift l }
      let goal := if v.mask &&& c = 0 then u.me.pc + 4 else wrap (u.me.pc.toInt + 4 + 4 * o.toInt)
      (ReadsNow u → readCost u rows = 0 → ∃ t, exec (.brb w p o) s = .next t ∧ ReadingWord s t (rowsTouched u rows) w k goal) ∧
      (ReadsNow u → readCost u rows ≠ 0 → Postpones s (.brb w p o) rows n) ∧
      (ReadsLate u → ∃ t, exec (.brb w p o) s = .next t ∧ LateWord s t w k goal)

/-- JOIN runs the other side of a batched branch, then restores the mask (10 R243); with nothing to join it traps. -/
def Sys2Proof.Claims.JoinRestoresTheMask : Prop :=
  ∀ (w : BitVec 3) (s : State),
    let u := issueState s
    (u.me.join = [] → Traps s (.join w) .liftDepth (u.cur.word.setWidth 64)) ∧
    ∀ e, u.me.join.getLast? = some e →
      ∃ t, exec (.join w) s = .next t ∧
        if e.pending then
          MovingWord s t w (u.myBank.setStream u.cur.engine { u.me with
            join := u.me.join.dropLast ++ [{ e with pending := false }], lift := modAt (fun v => { v with mask := e.pmask }) u.me.lift e.level }) e.pc
        else
          BankWord s t w (u.myBank.setStream u.cur.engine { u.me with
            join := u.me.join.dropLast, lift := modAt (fun v => { v with mask := e.saved }) u.me.lift e.level })

/-- BRB on a row and under a level, and JOIN (10 R242, R243). -/
def Obligations.BatchedBranches : Prop := Claims.BranchOnARow ∧ Claims.BatchedBranchSplitsTheMask ∧ Claims.JoinRestoresTheMask

/-- LIDX: the row of the current copy of a tile is due to hold the copy's index in every lane, a dormant tag becomes the stream's, and the
word goes on to the next active copy or past its last one (10 R235), in the tags the tile had at the first (R236). -/
def Sys2Proof.Claims.LidxNumbersTheCopies : Prop :=
  ∀ (w : BitVec 3) (p : Spec) (l : BitVec 2) (n r : Nat) (ws : List Nat) (s : State),
    let u := issueState s
    let y := (u.myBank.tile n).liftAt l.toNat
    let x := if y.t then u.myBank.tile n else (u.myBank.tile n).setLift l.toNat ⟨true, y.b, some u.cur.engine⟩
    let k := if y.t then u.myBank else u.myBank.setTile n x
    let idx := indexOf u.me ws r
    (if u.me.lrep = 0 then ws = tagsOf u.me x else u.me.xset.find? (·.1 == n) = some (n, ws)) →
    operandOf p = .tile n → x.state = .ready → (y.t = true ∨ y.b ≠ 0) → l.toNat < u.me.lift.length → footprintOk k u.me n = true →
      nextActive u.me ws (repCount u.me ws) u.me.lrep = some r →
      ∃ t row c, exec (.lidx w p l) s = .next t ∧
        t.me.pend = u.me.pend ++ [⟨c, .row (copyBase x ws idx / 256 + x.cursor) row, [n]⟩] ∧ u.cycle + 3 ≤ c ∧
        (∀ i < x.len, i * fmtBits x.fmt < 2048 →
          laneOf row (fmtBits x.fmt) i = laneIndex x.fmt (((idx.find? (·.1 == l.toNat)).map (·.2)).getD 0) % 2 ^ fmtBits x.fmt) ∧
        t.me.regs = u.me.regs ∧ t.myBank.tiles = k.tiles ∧ t.mem = u.mem ∧ t.time = u.time ∧ t.host = u.host ∧
        (if (nextActive u.me ws (repCount u.me ws) (r + 1)).isSome then t.me.pc = u.me.pc ∧ t.me.lrep = r + 1 ∧ t.me.xset = [(n, ws)] ∧ t.me.issued = u.me.issued
         else t.me.pc = u.me.pc + 4 ∧ t.me.lrep = 0 ∧ t.me.issued = u.me.issued + 1)

/-- Levels open and close, a tag field is set, and the copies of a batched tile are numbered (10 R232–R235). -/
def Obligations.LiftLevelsAndTags : Prop := Claims.LcallOpensALevel ∧ Claims.LretClosesTheLevel ∧ Claims.LtagSetsTheField ∧ Claims.LidxNumbersTheCopies

/-! ### The C class (04 R98–R113) -/

/-- FORK.A, .V, .M, .K: the stream starts at the target with s_d in register 1 and zeros in the others, after the fetch redirect; C goes on;
a stream that is not idle blocks C, and an open level traps (04 R98, R99). FORK's W delays C alone (02 R30), which the model reads over 17 R297's t + 1 + W + k
as 00_scope says: the rule that is referred to governs. -/
def Obligations.ForksStartStreams : Prop :=
  ∀ form ∈ ([(.forkA, .A), (.forkV, .V), (.forkM, .M), (.forkK, .K)] : List ((BitVec 3 → Reg → BitVec 15 → Instr) × Engine)),
  ∀ (w : BitVec 3) (d : Reg) (o : BitVec 15) (s : State),
    let u := issueState s
    let x := u.myBank.stream form.2
    u.cur.engine = .C → Readable u d →
      (¬ Unlifted u → Traps s (form.1 w d o) .liftDepth (u.cur.word.setWidth 64)) ∧
      (Unlifted u → x.status ≠ .idle → Blocks s (form.1 w d o) .rdv 0) ∧
      (Unlifted u → x.status = .idle → ∃ t y, exec (form.1 w d o) s = .next t ∧
        (∃ v, v = u.setCore u.cur.bank.core { u.core u.cur.bank.core with redir := (u.cycle, redirectPlace u) } ∧ OnlyBank u.cur.bank v t) ∧
        t.myBank = (u.myBank.setStream form.2 y).setStream .C (advanced u.me u.cycle w) ∧
        (∀ r, y.get r = if r = 1 then u.me.get d else 0) ∧
        y = { x with regs := y.regs, pc := wrap (u.me.pc.toInt + 4 + 4 * o.toInt), tpc := 0, status := .running, block := none, lift := []
                     nextIssue := max x.nextIssue (u.cycle + 1 + redirectPlace u), join := [], lrep := 0, wait := none, lock := false })

/-- RDV of C and SAFEPT are safe points, at which C goes on where nothing is asked of the unit; RDV blocks while a stream it names is not idle; RDV of another stream leaves it idle once its
words have completed (04 R100, R101). -/
def Sys2Proof.Claims.RendezvousAndSafePoints : Prop :=
  ∀ (w : BitVec 3) (x : BitVec 4) (s : State),
    let u := issueState s
    let idle := fun e => (u.myBank.stream e).status = .idle
    let met := (x.getLsbD 0 = true → idle .A) ∧ (x.getLsbD 1 = true → idle .V) ∧ (x.getLsbD 2 = true → idle .M) ∧ (x.getLsbD 3 = true → idle .K)
    (Unlifted u → met → ∃ t, exec (.rdv w x) s = .next t ∧ SafePointWord s t w) ∧
    (Unlifted u → ¬ met → Blocks s (.rdv w x) .rdv 0) ∧
    (Unlifted u → ∃ t, exec (.safept w) s = .next t ∧ SafePointWord s t w) ∧
    (Unlifted u → u.myBank.cancel = false → u.myBank.preempt = none → (u.bank ⟨u.cur.bank.core, !u.cur.bank.slot⟩).back = false →
      (∃ t, exec (.safept w) s = .next t ∧ BankWord s t w u.myBank) ∧ (met → ∃ t, exec (.rdv w x) s = .next t ∧ BankWord s t w u.myBank)) ∧
    (Unlifted u → Quiet u → u.myBank.recorded u.cur.engine = none →
      ∃ t, exec (.rdvStream w) s = .next t ∧ BankWord s t w (u.myBank.setStream u.cur.engine { u.me with status := .idle })) ∧
    (Unlifted u → ¬ Quiet u → Waits s (.rdvStream w)) ∧
    (¬ Unlifted u → Traps s (.rdv w x) .liftDepth (u.cur.word.setWidth 64) ∧ Traps s (.safept w) .liftDepth (u.cur.word.setWidth 64))

/-- RDV.end with every other stream idle ends the unit COMPLETE (01 R19), a safe point before it: a pending cancel ends it CANCELLED, and a
pending pre-emption leaves it in its bank, C at the word after. It blocks while a stream is not idle, and traps under an open level. -/
def Sys2Proof.Claims.RdvEndEndsTheUnit : Prop :=
  ∀ (w : BitVec 3) (s : State),
    let u := issueState s
    let k := u.myBank.setStream u.cur.engine (advanced u.me u.cycle w)
    let ended : EndStatus → Bank := fun st =>
      { k.haltAll with phase := .ending st, preempt := none, yielded := none, cancel := false, gbar := none, gkept := [] }
    (Unlifted u → (∀ e, e ≠ .C → (u.myBank.stream e).status = .idle) →
      ∃ t, exec (.rdvEnd w) s = .next t ∧ OnlyBank u.cur.bank u t ∧ (∀ a, t.byteAt a = s.byteAt a) ∧
        (if u.myBank.copying = false ∧ u.myBank.cancel = true then t.myBank = ended .cancelled
         else if u.myBank.copying = false ∧ u.myBank.preempt.isSome = true then t.myBank = gaveWay k true
         else t.myBank = ended .complete)) ∧
    (Unlifted u → (∃ e, e ≠ .C ∧ (u.myBank.stream e).status ≠ .idle) → Blocks s (.rdvEnd w) .rdv 0) ∧
    (¬ Unlifted u → Traps s (.rdvEnd w) .liftDepth (u.cur.word.setWidth 64))

/-- The rendezvous, safe points and the unit's end (01 R19; 04 R100, R101). -/
def Obligations.StreamsMeetAndEnd : Prop := Claims.RendezvousAndSafePoints ∧ Claims.RdvEndEndsTheUnit

/-- UNITID, PARAM, QDEPTH (04 R102, R104, R112): each gives its register one value and changes nothing else. -/
def Sys2Proof.Claims.IdentityWordsAnswer : Prop :=
  ∀ (w : BitVec 3) (d : Reg) (i : BitVec 6) (p : Spec) (q : Nat) (s : State),
    let u := issueState s
    (∃ t, exec (.unitid w d) s = .next t ∧ RegisterWord s t w d
      (BitVec.ofNat 64 (u.myBank.bindRec.unit.toNat + 2 ^ 20 * u.cur.bank.core + if u.cur.bank.slot then 2 ^ 31 else 0)) 1) ∧
    (∃ t, exec (.param w d i) s = .next t ∧ RegisterWord s t w d (u.myBank.params.getD i.toNat 0) 1) ∧
    (operandOf p = .queue q → ∃ t, exec (.qdepth w p d) s = .next t ∧ RegisterWord s t w d (BitVec.ofNat 64 (match (u.myBank.queue q).binding with
      | none => (u.myBank.queue q).rows.length
      | some y => 256 + (y.sent - y.back))) 1)

/-- ROLE: 65536 times the number of the first group with a bound rank of the unit, plus that rank; all ones where it holds none (04 R103, 18
R307). -/
def Sys2Proof.Claims.RoleFindsTheUnit : Prop :=
  ∀ (w : BitVec 3) (d : Reg) (s : State),
    let u := issueState s
    let unit := u.myBank.bindRec.unit.toNat
    ((∀ g ∈ u.myGroups, ∀ r ∈ g.ranks, holdsRank unit r = false) →
      ∃ t, exec (.role w d) s = .next t ∧ RegisterWord s t w d 0xFFFFFFFF 1) ∧
    ∀ (gs gs' : List Group) (g : Group) (rs rs' : List RankEntry) (r : RankEntry),
      u.myGroups = gs ++ g :: gs' → g.ranks = rs ++ r :: rs' → (∀ h ∈ gs, ∀ y ∈ h.ranks, holdsRank unit y = false) →
      (∀ y ∈ rs, holdsRank unit y = false) → holdsRank unit r = true →
      ∃ t, exec (.role w d) s = .next t ∧ RegisterWord s t w d (BitVec.ofNat 64 (65536 * g.num + rs.length)) 1

/-- ENQR to a placed unit of the role with room sends the word on its way once its release is complete, and blocks while 16 words wait there
(04 R105, R106). That words on their way count towards the 16 is the model's choice (log entry 54). -/
def Sys2Proof.Claims.EnqrSendsAWord : Prop :=
  ∀ (w : BitVec 3) (a b : Reg) (l : Launch) (e : RankEntry) (p : BankId) (s : State),
    let u := issueState s
    let k := u.bank p
    Readable u a → Readable u b → (u.me.get a).toNat < 2 ^ 32 → u.launchOf u.cur.bank = some l →
      entryOf l.groups ((u.me.get a).setWidth 32) = some e → e.chip = u.time.chip.toNat → kfind l.units e.unit = some (.placed p) →
      k.phase = .running ∨ k.phase = .preempted →
      (16 ≤ k.inbound.length + k.arrivals.length → Blocks s (.enqr w a b) .queue (u.me.get a)) ∧
      (k.inbound.length + k.arrivals.length < 16 → u.me.wait = none → u.released u.cur.bank u.myBank.mem.seq = true →
        ∃ t c, exec (.enqr w a b) s = .next t ∧
          (t.bank p).arrivals = k.arrivals ++ [(c, u.myBank.bindRec.unit.toNat, u.me.get b)] ∧ u.cycle ≤ c ∧ (t.bank p).inbound = k.inbound ∧
          t.me = advanced u.me u.cycle w ∧ t.mem = u.mem ∧ t.ctxs = u.ctxs ∧ t.host = u.host ∧
          ∀ q, q ≠ p → q ≠ u.cur.bank → t.bank q = u.bank q)

/-- CMDPOP takes the oldest word that has arrived, as an acquire, and blocks on none; CMDSTEAL takes the first word with RELOC set in the
first bank of its core strip that has one, and answers 0 for none or in deterministic mode (04 R107, R108; 18 R316). That slot 0 of a core is looked at before slot 1 is the model's choice (log
entry 54). -/
def Sys2Proof.Claims.CommandWordsTake : Prop :=
  ∀ (w : BitVec 3) (d : Reg) (s : State),
    let u := issueState s
    u.cur.engine = .C →
      (u.myBank.inbound = [] → Blocks s (.cmdpop w d) .queue 0xFFFFFFFF) ∧
      (∀ v rest, u.myBank.inbound = v :: rest → ∃ t, exec (.cmdpop w d) s = .next t ∧ DeliveredInt u t d v ∧ GoesOn u t w (u.me.pc + 4) 0 ∧
        OnlyBank u.cur.bank u t ∧ t.myBank = { u.myBank.setStream .C t.me with inbound := rest, mem := u.myBank.mem.acquire }) ∧
      ((u.myCtx.det = true ∨ ∀ q ∈ stripBanks u.cur.bank.core, ¬ hasReloc u q) →
        ∃ t, exec (.cmdsteal w d) s = .next t ∧ AnswerWord s t w d 0) ∧
      (∀ pre p post keep xs v ys, u.myCtx.det = false → stripBanks u.cur.bank.core = pre ++ p :: post → (∀ q ∈ pre, ¬ hasReloc u q) → hasReloc u p →
        (u.bank p).inbound = keep ++ xs ++ v :: ys → keep = (if popsNow u p then (u.bank p).inbound.take 1 else []) →
        (∀ x ∈ xs, x.getLsbD 63 = false) → v.getLsbD 63 = true →
        ∃ t, exec (.cmdsteal w d) s = .next t ∧ DeliveredInt u t d v ∧ GoesOn u t w (u.me.pc + 4) 0 ∧
          t.bank p = { u.bank p with inbound := keep ++ xs ++ ys } ∧ (∀ q, q ≠ p → q ≠ u.cur.bank → t.bank q = u.bank q) ∧
          t.mem = u.mem ∧ t.ctxs = u.ctxs ∧ t.host = u.host)

/-- UNITID, PARAM, ROLE, ENQR, CMDPOP and CMDSTEAL (04 R102–R108). -/
def Obligations.ControlStreamWords : Prop := Claims.IdentityWordsAnswer ∧ Claims.RoleFindsTheUnit ∧ Claims.EnqrSendsAWord ∧ Claims.CommandWordsTake

/-- GBAR arrives once when all the unit had issued has completed and its release is done, blocks until the group's count is reached, and goes
on when it has passed; a unit without a role in the group traps (04 R109). An arrival that a watchdog's trap has left stands for its group, whatever other groups the unit
comes to; that a GBAR at another pc takes it over is the model's choice (log entry 54). -/
def Sys2Proof.Claims.GbarArrivesOnceAndPasses : Prop :=
  ∀ (w : BitVec 3) (g : BitVec 10) (l : Launch) (gr : Group) (s : State),
    let u := issueState s
    let n := g.toNat
    let mine := gr.ranks.any (holdsRank u.myBank.bindRec.unit.toNat)
    Unlifted u → u.launchOf u.cur.bank = some l → l.groups.find? (fun x => x.num == n) = some gr →
      (mine = false → Traps s (.gbar w g) .accessViolation (u.cur.word.setWidth 64)) ∧
      (mine = true → (∀ r ∈ gr.ranks, r.bound = true → r.chip = u.time.chip.toNat) →
        (∀ x, arrivalOf u.myBank n = some x → x.passed = true →
          ∃ t, exec (.gbar w g) s = .next t ∧ BankWord s t w { u.myBank with gbar := none, gkept := keptBeside u.myBank n }) ∧
        (∀ x, arrivalOf u.myBank n = some x → x.passed = false → Blocks s (.gbar w g) .sem (g.setWidth 64)) ∧
        (arrivalOf u.myBank n = none → u.me.wait = none →
          (∀ e, u.myBank.doneBefore u.cycle (u.myBank.markOf engines) e = true) → u.released u.cur.bank u.myBank.mem.seq = true →
          ∃ t x, exec (.gbar w g) s = .next t ∧ t.myBank.gbar = some x ∧ t.myBank.gkept = keptBeside u.myBank n ∧ x.group = n ∧ x.passed = false ∧
            x.target = (kget 0 u.myBank.gcount n + 1) * (gr.ranks.filter (·.bound)).length ∧
            t.launchOf u.cur.bank = some { l with barrier := kupd 0 l.barrier n (· + 1) } ∧ t.me.pc = u.me.pc ∧ t.me.issued = u.me.issued ∧
            t.mem = u.mem ∧ t.ctxs = u.ctxs))

/-- QBIND unbinds an empty queue at once or once its rows have arrived, posts a bind request with the queue's own binding left standing, and with
its answer in is bound or traps (04 R110; 18 R311); SPLIT posts a way mask for a
slice of the launch's plan (04 R113). -/
def Sys2Proof.Claims.QbindAndSplitPost : Prop :=
  ∀ (w : BitVec 3) (p : Spec) (a b : Reg) (q : Nat) (s : State),
    let u := issueState s
    let x := u.myBank.queue q
    Unlifted u → Readable u a → Readable u b →
      (operandOf p = .queue q → x.rows = [] → x.reserved = 0 →
        (u.me.get a = 0 → x.req = none →
          (x.binding = none → ∃ t, exec (.qbind w p a) s = .next t ∧ BankWord s t w u.myBank) ∧
          (∀ y, x.binding = some y → y.travelling u.cycle = false → ∃ t, exec (.qbind w p a) s = .next t ∧
            t.me = advanced u.me u.cycle w ∧ (t.myBank.queue q).binding = none) ∧
          (∀ y, x.binding = some y → y.travelling u.cycle = true → Waits s (.qbind w p a))) ∧
        (∀ e, (u.me.get a).toNat < 2 ^ 37 → (u.me.get a).getLsbD 36 = true → entryOf u.myGroups ((u.me.get a).setWidth 32) = some e →
          e.chip = u.time.chip.toNat →
          (x.req = none → ∃ t, exec (.qbind w p a) s = .next t ∧ t.me = { u.me with block := none, lock := false } ∧
            t.myBank.queue q = { x with req := some ⟨u.myBank.opSeq, u.me.get a, e.chip, e.unit, .posted⟩ }) ∧
          (∀ r, x.req = some r → r.word = u.me.get a → r.chip = e.chip → r.unit = e.unit → r.stage = .answered true → x.binding = none → ∃ t y, exec (.qbind w p a) s = .next t ∧
            BankWord s t w (u.myBank.setQueue q { x with req := none, binding := some y }) ∧
            y.id = r.id ∧ y.chip = e.chip ∧ y.peerQ = (u.me.get a).toNat / 2 ^ 32 % 16 ∧ y.sent = 0 ∧ y.back = 0 ∧ y.way = []) ∧
          (∀ r, x.req = some r → r.word = u.me.get a → r.chip = e.chip → r.unit = e.unit → r.stage = .answered false → exec (.qbind w p a) s = .next
            (takeTrap (u.modMyBank (·.setQueue q { x with req := none })) u.cur.bank u.cur.engine
              ⟨.accessViolation, u.cur.word.setWidth 64, 0, 0⟩ u.me.pc)))) ∧
      (∀ l m, u.launchOf u.cur.bank = some l → kfind l.plan (u.me.get a).toNat = some m → (u.me.get a).toNat < Config.sliceCount →
        (u.me.get b).toNat < 2 ^ 16 → ∃ t, exec (.split w a b) s = .next t ∧
          BankWord s t w { u.myBank with splits := kset u.myBank.splits (u.me.get a).toNat ((u.me.get b).setWidth 16) })

/-- GBAR, QBIND, QDEPTH and SPLIT (04 R109–R113). -/
def Obligations.BarriersAndPostedWords : Prop := Claims.GbarArrivesOnceAndPasses ∧ Claims.QbindAndSplitPost

/-! ### The A class (05 R116–R146) -/

/-- STDIM, STBASE, STRST and STGO (05 R118–R123): a dimension, the base, the end of a run, and a run from position 0 whose view is fixed; a
dimension out of range traps, an unaligned stream traps with MISALIGNED and has no run; STGO and STRST wait for rows not yet stored, whose bytes A's
loads then see; STGO waits for the request slots of a row, and for the loads, atomics and acquires before it: that it does for those that are no loads is the model's
choice (log entries 37, 58), and the slots it reserves are log entry 64. -/
def Sys2Proof.Claims.DataStreamsConfigureAndRun : Prop :=
  ∀ (w n : BitVec 3) (a b : Reg) (i : BitVec 5) (r : BitVec 1) (s : State),
    let u := issueState s
    let k := u.myBank
    let x := k.ds n.toNat
    let seen := k.revealStream n.toNat
    (Readable u a → Readable u b →
      if -2 ^ 31 ≤ (u.me.get a).toInt ∧ (u.me.get a).toInt < 2 ^ 31 ∧ (u.me.get b).toNat < 2 ^ 32 then
        ∃ t ds, exec (.stdim w n a b i) s = .next t ∧ BankWord s t w (k.setDs n.toNat { x with dims := ds }) ∧
          ∀ j, ds[j]? = if j = i.toNat ∧ j < x.dims.length then some ⟨(u.me.get b).toNat, (u.me.get a).toInt⟩ else x.dims[j]?
      else Traps s (.stdim w n a b i) .accessViolation (u.cur.word.setWidth 64)) ∧
    (Readable u a → ∃ t, exec (.stbase w n a) s = .next t ∧ BankWord s t w (k.setDs n.toNat { x with base := u.me.get a })) ∧
    (storing k n.toNat = false → ∃ t, exec (.strst w n) s = .next t ∧ BankWord s t w (seen.setDs n.toNat { x with run := none, fault := none })) ∧
    (storing k n.toNat = true → Waits s (.strst w n) ∧ Waits s (.stgo w n r)) ∧
    (storing k n.toNat = false → x.base.toNat % 64 = 0 → (∀ y ∈ x.dims, y.d % 64 = 0) →
      (GateOpen u 4 → (∀ q ∈ k.mem.reqs, q.first = false) → ∃ t, exec (.stgo w n r) s = .next t ∧ BankWord s t w { seen.setDs n.toNat { x with
        run := some ⟨x.base, x.dims, decide (r = 1), 0, [], 0, seen.mem.own, linesKept k.mem, k.mem.seq + 1, []⟩, fault := none } with
          mem := { seen.mem with seq := k.mem.seq + 1 } }) ∧
      (¬ GateOpen u 4 ∨ (∃ q ∈ k.mem.reqs, q.first = true) → Waits s (.stgo w n r))) ∧
    (storing k n.toNat = false → ¬ (x.base.toNat % 64 = 0 ∧ ∀ y ∈ x.dims, y.d % 64 = 0) →
      exec (.stgo w n r) s = .next (takeTrap (u.modMyBank (fun b => (b.revealStream n.toNat).setDs n.toNat { x with run := none, fault := none }))
        u.cur.bank u.cur.engine ⟨.misaligned, x.base, 0, 0⟩ u.me.pc))

/-- TDESC, TFREE, TSTATE (05 R126, R127, R130): a tile described by a packed word is ready with its cursor at 0, an invalid word traps; a tile
that no word uses is freed; a state is read. That TDESC does not wait for its scale tile is the model's choice (log entry 54). -/
def Sys2Proof.Claims.TileWordsDescribeAndFree : Prop :=
  ∀ (w : BitVec 3) (p q : Spec) (a : Reg) (n : Nat) (s : State),
    let u := issueState s
    let v := (u.me.get a).toNat
    let f := v / 2 ^ 32 % 2 ^ 8
    let len := v / 2 ^ 20 % 2 ^ 12
    let rows := v / 2 ^ 12 % 2 ^ 8 + 1
    let base := v % 2 ^ 12 * 256
    let valid := v < 2 ^ 40 ∧ fmtBits f ≠ 0 ∧ 1 ≤ len ∧ len * fmtBits f ≤ 2048 ∧ inShare u.myBank base (256 * rows) = true
    let x := u.myBank.tile n
    let unused := (x.state = .empty ∨ x.state = .ready) ∧ u.myBank.tileBusy u.cur.engine n = false
    operandOf p = .tile n →
      (Readable u a → valid → unused → tagsOf u.me x = [] → ∃ t, exec (.tdesc w p q a) s = .next t ∧ BankWord s t w (u.myBank.setTile n
        { Tile.null with base := base, rows := rows, len := len, fmt := f, state := .ready
                         scale := match operandOf q with | .tile m => some m | _ => none })) ∧
      (Readable u a → ¬ valid → Traps s (.tdesc w p q a) .accessViolation (u.cur.word.setWidth 64)) ∧
      (Readable u a → valid → unused → tagsOf u.me x ≠ [] → Traps s (.tdesc w p q a) .tagConflict (u.cur.word.setWidth 64)) ∧
      (unused → ∃ t, exec (.tfree w p) s = .next t ∧ BankWord s t w (u.myBank.setTile n { x with state := .empty })) ∧
      (x.state = .filling ∨ x.state = .draining → Blocks s (.tfree w p) .tile (p.setWidth 64)) ∧
      ∃ t, exec (.tstate w p a) s = .next t ∧ RegisterWord s t w a
        (match x.state with | .empty => 0 | .filling => 1 | .ready => 2 | .draining => 3) 1

/-- Data streams are configured and started, tiles are described, freed and read (05 R118–R121, R126, R127, R130). -/
def Obligations.StreamsAndTilesAreSet : Prop := Claims.DataStreamsConfigureAndRun ∧ Claims.TileWordsDescribeAndFree

/-- TFILL and TDRAIN start (05 R116, R128, R129): an unlifted tile no word uses goes to filling, a ready one to draining, with its rows to move; with no
rows they complete at once; without a request slot or behind a GBAR arrival they wait; a tile that is not ready blocks TDRAIN. -/
def Sys2Proof.Claims.FillsAndDrainsStart : Prop :=
  ∀ (w : BitVec 3) (p q : Spec) (a : Reg) (o : BitVec 1) (n m : Nat) (s : State),
    let u := issueState s
    let k := u.myBank
    let x := k.tile n
    let c := (u.me.get a).toNat
    let right := fun (wr : Bool) => (k.ds m).fault = none ∧ (∀ r, (k.ds m).run = some r → r.write = wr)
    Readable u a → operandOf p = .tile n → operandOf q = .stream m → k.tileBusy u.cur.engine n = false → x.rows ≠ 0 → tagsOf u.me x = [] → c ≤ x.rows →
      (x.state = .empty ∨ x.state = .ready → right false → ¬ GateOpen u → Waits s (.tfill w p q a)) ∧
      (x.state = .ready → right true → ¬ GateOpen u → Waits s (.tdrain w p q a o)) ∧
      (x.state = .empty ∨ x.state = .ready → right false → GateOpen u → ∃ t, exec (.tfill w p q a) s = .next t ∧
        if c = 0 then BankWord s t w (k.setTile n { x with state := .ready, cursor := 0 })
        else BankWord s t w { k.setTile n { x with state := .filling } with
          moves := k.moves ++ [⟨k.opSeq, k.mem.seq, false, n, m, c, 0, [some x.base], 0, false, false⟩], opSeq := k.opSeq + 1 }) ∧
      (x.state = .ready → right true → GateOpen u → ∃ t, exec (.tdrain w p q a o) s = .next t ∧
        if c = 0 then BankWord s t w (k.setTile n { x with state := if o = 1 then .empty else .ready })
        else BankWord s t w { k.setTile n { x with state := .draining } with
          moves := k.moves ++ [⟨k.opSeq, k.mem.seq, true, n, m, c, 0, [some x.base], 0, false, decide (o = 1)⟩], opSeq := k.opSeq + 1
          mem := { k.mem with seq := k.mem.seq + 1 } }) ∧
      (x.state ≠ .ready → Blocks s (.tdrain w p q a o) .tile (p.setWidth 64))

/-- A lifted TFILL or TDRAIN moves every copy of its tile, one slice of the stream for each (05 R131): it starts over a stream at its first
position whose fifth extent covers the copies. -/
def Sys2Proof.Claims.LiftedFillsAndDrainsStart : Prop :=
  ∀ (w : BitVec 3) (p q : Spec) (a : Reg) (o : BitVec 1) (n m : Nat) (r : StreamRun) (s : State),
    let u := issueState s
    let k := u.myBank
    let x := k.tile n
    let c := (u.me.get a).toNat
    let ws := tagsOf u.me x
    let cs := (indexVectors u.me ws).map (fun v => if activeAt u.me v then some (copyBase x ws v) else none)
    Readable u a → operandOf p = .tile n → operandOf q = .stream m → k.tileBusy u.cur.engine n = false → x.rows ≠ 0 → ws ≠ [] → c ≤ x.rows →
      (k.ds m).fault = none → (k.ds m).run = some r → r.given = 0 → c ≤ sliceSize r → repCount u.me ws ≤ fifth r → footprintOk k u.me n = true → GateOpen u →
      (x.state = .empty ∨ x.state = .ready → r.write = false → ∃ t, exec (.tfill w p q a) s = .next t ∧
        BankWord s t w { k.setTile n { x with state := .filling } with
          moves := k.moves ++ [⟨k.opSeq, k.mem.seq, false, n, m, c, 0, cs, sliceSize r, true, false⟩], opSeq := k.opSeq + 1 }) ∧
      (x.state = .ready → r.write = true → ∃ t, exec (.tdrain w p q a o) s = .next t ∧
        BankWord s t w { k.setTile n { x with state := .draining } with
          moves := k.moves ++ [⟨k.opSeq, k.mem.seq, true, n, m, c, 0, cs, sliceSize r, true, decide (o = 1)⟩], opSeq := k.opSeq + 1
          mem := { k.mem with seq := k.mem.seq + 1 } })

/-- TFILL and TDRAIN, plain and under a level of lift (05 R128, R129, R131). -/
def Obligations.FillsAndDrains : Prop := Claims.FillsAndDrainsStart ∧ Claims.LiftedFillsAndDrainsStart

/-- LD, LDU, LDL, LDACQ at an aligned address that translates: the request takes its place in A's order and the stream goes on without waiting
(05 R116, R133–R135); LDQ reserves a slot of its queue (R132). -/
def Sys2Proof.Claims.LoadsIssue : Prop :=
  (∀ form ∈ loads, ∀ (w : BitVec 3) (d a b : Reg) (z : BitVec 2) (ps : List (Nat × Nat)) (s : State),
    let u := issueState s
    let va := u.me.get a + u.me.get b
    let home := form.2.1 != .ordinary
    Readable u a → Readable u b → va.toNat % 2 ^ z.toNat = 0 → Reaches u va (2 ^ z.toNat) .read ps →
      Unpoisoned u (if home then .home else .ordinary) ps → ∃ t, exec (form.1 w d a b z) s = .next t ∧
        BankWord s t w (requested u d (newReq u form.2.1 va ps (.reg (if d = 0 then none else some d) form.2.2.1) none form.2.2.2))) ∧
  (∀ (w : BitVec 3) (p : Spec) (a : Reg) (q : Nat) (ps : List (Nat × Nat)) (s : State),
    let u := issueState s
    let k := u.myBank
    let va := u.me.get a
    Readable u a → operandOf p = .queue q → va.toNat % 64 = 0 → (k.queue q).hasRoom = true → Reaches u va 256 .read ps → Unpoisoned u .ordinary ps →
      ∃ t, exec (.ldq w p a) s = .next t ∧
        BankWord s t w { k.setQueue q { k.queue q with reserved := (k.queue q).reserved + 1 } with
          mem := { k.mem with seq := k.mem.seq + 1, reqs := k.mem.reqs ++ [newReq u .ordinary va ps (.queue q) none false] } })

/-- A load, ST or STREL off its alignment, without a free request slot, or at a forbidden address (05 R116, R133, R135; 21 R346). -/
def Sys2Proof.Claims.PlainWordsTrap (w : BitVec 3) (d a b : Reg) (c z : BitVec 2) (s : State) : Prop :=
    let u := issueState s
    let va := u.me.get a + u.me.get b
    let words := (loads.map (fun f => (Access.read, f.1 w d a b z))) ++ [(.write, .st w d a b z), (.write, .strel w d a b c z)]
    Readable u a → Readable u b → Readable u d → ∀ i ∈ words,
      (va.toNat % 2 ^ z.toNat ≠ 0 → Traps s i.2 .misaligned va) ∧
      (va.toNat % 2 ^ z.toNat = 0 → 512 ≤ u.slots u.cur.bank → Waits s i.2) ∧
      (va.toNat % 2 ^ z.toNat = 0 → GateOpen u → u.myBank.badPage (.aStream u.cur.bank) va = false →
        translate u u.cur.bank.core u.myBank.ctxNum (u.launchOf u.cur.bank) va i.1 = .forbidden → Traps s i.2 .accessViolation va)

/-- Where a load, store or atomic traps (05 R132, R133, R136; 21 R346; 22 R379): an unaligned address with MISALIGNED, one whose translation is forbidden
with ACCESS_VIOLATION, a read of a poisoned line, or of one that the read finds so, with MEM_UNCORRECTED, each with the address as TVAL; it waits for a free request slot, LDQ blocks on a
full queue and STQ on an empty one. -/
def Sys2Proof.Claims.MemoryWordsTrap : Prop :=
  ∀ (w : BitVec 3) (d a b : Reg) (c z : BitVec 2) (s : State),
    let u := issueState s
    let va := u.me.get a + u.me.get b
    Readable u a →
    (Readable u b → ∀ form ∈ loads, ∀ ps, va.toNat % 2 ^ z.toNat = 0 → Reaches u va (2 ^ z.toNat) .read ps →
      (Poisoned u (if form.2.1 != .ordinary then .home else .ordinary) ps → Traps s (form.1 w d a b z) .memUncorrected va) ∧
      (∀ p, form.2.1 = .home → ps = [p] → (∃ x ∈ armedIn u p.1 p.2, x.2.hard = true) → homeHeld u.mem p.1 = false →
        (∀ o ∈ u.myBank.mem.own, o.done = true) →
        poisonedIn (touchBytes u p.1 p.2) (p.1 / 64 * 64) 64 = true →
        exec (form.1 w d a b z) s = .next (takeTrap (touchBytes u p.1 p.2) u.cur.bank u.cur.engine ⟨.memUncorrected, va, 0, 0⟩ u.me.pc))) ∧
    (Readable u b → ∀ form ∈ atomics, ∀ (o c : BitVec 2) (x : BitVec 1), (form.2 = .cas → Readable u d) →
      ((u.me.get a).toNat % (if x = 1 then 4 else 8) ≠ 0 → Traps s (form.1 w d a b o c x) .misaligned (u.me.get a)) ∧
      (∀ ps, (u.me.get a).toNat % (if x = 1 then 4 else 8) = 0 → Reaches u (u.me.get a) (if x = 1 then 4 else 8) .write ps → Poisoned u .home ps →
        Traps s (form.1 w d a b o c x) .memUncorrected (u.me.get a))) ∧
    (∀ (p : Spec) (q : Nat), operandOf p = .queue q →
      ((u.me.get a).toNat % 64 ≠ 0 → Traps s (.ldq w p a) .misaligned (u.me.get a) ∧ Traps s (.stq w p a) .misaligned (u.me.get a)) ∧
      ((u.me.get a).toNat % 64 = 0 → (u.myBank.queue q).hasRoom = false → Blocks s (.ldq w p a) .queue (p.setWidth 64)) ∧
      ((u.me.get a).toNat % 64 = 0 → (u.myBank.queue q).binding = none → (u.myBank.queue q).rows = [] → Blocks s (.stq w p a) .queue (p.setWidth 64)) ∧
      ((u.me.get a).toNat % 64 = 0 → (u.myBank.queue q).binding ≠ none → Traps s (.stq w p a) .accessViolation (u.cur.word.setWidth 64))) ∧
    Claims.PlainWordsTrap w d a b c z s

/-- Loads issue, or the access traps (05 R132–R135, R147). -/
def Obligations.LoadsIssueOrTrap : Prop := Claims.LoadsIssue ∧ Claims.MemoryWordsTrap

/-- ST and STREL at an aligned address that translates (05 R133, R135): the bank's own reads see the bytes from then on; ST's go into the
dirty-line FIFO, STREL's wait at the home for what the bank has stored before. No byte of memory changes at issue. STQ stores the oldest
row of its queue (R132). -/
def Sys2Proof.Claims.StoresIssue : Prop :=
  (∀ (w : BitVec 3) (d a b : Reg) (c z : BitVec 2) (ps : List (Nat × Nat)) (s : State),
    let u := issueState s
    let m := u.myBank.mem
    let va := u.me.get a + u.me.get b
    let data := leBytes (2 ^ z.toNat) (u.me.get d).toNat
    let own := ownStore m.seq ps data ++ m.own
    let runs := u.myBank.dstreams.map (fun (x : DataStream) => { x with run := x.run.map (fun r =>
      if r.write = false ∧ m.seq < r.seq then { r with own := ownStore m.seq ps data ++ r.own } else r) })
    Readable u a → Readable u b → Readable u d → va.toNat % 2 ^ z.toNat = 0 → Reaches u va (2 ^ z.toNat) .write ps →
      (∃ t, exec (.st w d a b z) s = .next t ∧ BankWord s t w { u.myBank with mem := { m with
        seq := m.seq + 1, own := own
        dirty := (splitData ps data).foldl (fun l p => insertStore ⟨m.seq, p.1, p.2, identOf u u.cur.bank, u.tick, u.deadline 1, u.mem.gen, 0⟩ l) m.dirty }, dstreams := runs }) ∧
      (∃ t, exec (.strel w d a b c z) s = .next t ∧ BankWord s t w { u.myBank with mem := { m with
        seq := m.seq + 1, own := own, reqs := m.reqs ++ [newReq u (.storeRel data) va ps .nowhere (some m.seq) false] } })) ∧
  (∀ (w : BitVec 3) (p : Spec) (a : Reg) (q : Nat) (r : Row) (rest : List Row) (ps : List (Nat × Nat)) (s : State),
    let u := issueState s
    let m := u.myBank.mem
    Readable u a → operandOf p = .queue q → (u.me.get a).toNat % 64 = 0 → (u.myBank.queue q).binding = none → (u.myBank.queue q).rows = r :: rest →
      Reaches u (u.me.get a) 256 .write ps → ∃ t, exec (.stq w p a) s = .next t ∧ (t.myBank.queue q).rows = rest ∧
        t.me = advanced u.me u.cycle w ∧ t.myBank.mem.own = ownStore m.seq ps (rowBytes r) ++ m.own ∧ t.myBank.mem.seq = m.seq + 1 ∧
        t.myBank.mem.reqs = m.reqs ∧ ∀ i, t.byteAt i = s.byteAt i)

/-- The ten atomics at an aligned address that translates for a write: the request takes its place, with its release and acquire as f[4:3] say, and
the stream goes on (05 R136, R137). -/
def Sys2Proof.Claims.AtomicsIssue : Prop :=
  ∀ form ∈ atomics, ∀ (w : BitVec 3) (d a b : Reg) (o c : BitVec 2) (x : BitVec 1) (ps : List (Nat × Nat)) (s : State),
    let u := issueState s
    let n := if x = 1 then 4 else 8
    let va := u.me.get a
    Readable u a → Readable u b → (form.2 = .cas → Readable u d) → va.toNat % n = 0 → Reaches u va n .write ps → Unpoisoned u .home ps →
      ∃ t, exec (form.1 w d a b o c x) s = .next t ∧
        BankWord s t w (requested u d (newReq u (.rmw form.2 (u.me.get b) (if form.2 = .cas then u.me.get d else 0)) va ps
          (.reg (if d = 0 then none else some d) false) (if o.getLsbD 1 then some u.myBank.mem.seq else none) (o.getLsbD 0)))

/-- Stores, queue stores and atomics issue (05 R132, R133, R136, R137). -/
def Obligations.StoresAndAtomicsIssue : Prop := Claims.StoresIssue ∧ Claims.AtomicsIssue

/-- CPYHD accepts a chain head or answers 0 from a full channel, CPYST reads COMPLETE, CPYWAIT acquires or blocks, PREF asks for its line
where that translates and has no other effect (05 R140, R142, R146; 22 R371); CPYHD and PREF wait for request slots (log entry 64), and for a GBAR arrival to pass (R116; 04 R109); a failed channel traps CPYHD and CPYWAIT (R143). -/
def Obligations.CopyWordsComplete : Prop :=
  ∀ (w : BitVec 3) (d a b : Reg) (n : BitVec 2) (s : State),
    let u := issueState s
    let k := u.myBank
    let c := k.chan n.toNat
    Readable u a →
      (u.cur.engine = .A → (u.me.get a).toNat % 64 = 0 → c.fail = none → ¬ GateOpen u (if c.busy then 0 else 4) → Waits s (.cpyhd w d a n)) ∧
      (u.cur.engine = .A → (u.me.get a).toNat % 64 = 0 → c.fail = none → GateOpen u (if c.busy then 0 else 4) →
        if 8 ≤ c.heads.length then ∃ t, exec (.cpyhd w d a n) s = .next t ∧ RegisterWord s t w d 0 1
        else ∃ t, exec (.cpyhd w d a n) s = .next t ∧ Delivered u t d 1 1 ∧ GoesOn u t w (u.me.pc + 4) 0 ∧ OnlyBank u.cur.bank u t ∧
          (t.myBank.chan n.toNat).heads = c.heads ++ [⟨k.orders, k.mem.seq, u.me.get a, u.cycle, none⟩] ∧ t.myBank.orders = k.orders + 1) ∧
      ((u.me.get a).toNat % 64 ≠ 0 → Traps s (.cpyhd w d a n) .misaligned (u.me.get a)) ∧
      (∀ f, (u.me.get a).toNat % 64 = 0 → c.fail = some f → exec (.cpyhd w d a n) s = .next (takeTrap u u.cur.bank u.cur.engine
        (if f.word then { f.trap with tval := u.cur.word.setWidth 64 } else f.trap) u.me.pc)) ∧
      (∃ t, exec (.cpyst w d n) s = .next t ∧ RegisterWord s t w d (BitVec.ofNat 64 c.complete) 1) ∧
      (if (u.me.get a).toNat ≤ c.complete then ∃ t, exec (.cpywait w a n) s = .next t ∧
          BankWord s t w { k with mem := k.mem.acquire, waited := (n.toNat, c.complete, k.orders) :: k.waited }
        else match c.fail with
          | none => Blocks s (.cpywait w a n) .copy 0
          | some f => exec (.cpywait w a n) s = .next (takeTrap u u.cur.bank u.cur.engine
              (if f.word then { f.trap with tval := u.cur.word.setWidth 64 } else f.trap) u.me.pc)) ∧
      (Readable u b → GateOpen u →
        let va := u.me.get a + u.me.get b
        (∀ pa, translate u u.cur.bank.core k.ctxNum (u.launchOf u.cur.bank) va .read = .ok pa → ∃ t, exec (.pref w a b) s = .next t ∧
          BankWord s t w { k with mem := { k.mem with seq := k.mem.seq + 1, reqs := k.mem.reqs ++
            [{ newReq u .prefetch va [(pa / 64 * 64, 64)] .nowhere none false with limit := u.deadline 2 }] } }) ∧
        ((∀ pa, translate u u.cur.bank.core k.ctxNum (u.launchOf u.cur.bank) va .read ≠ .ok pa) →
          ∃ t, exec (.pref w a b) s = .next t ∧ BankWord s t w k)) ∧
      (Readable u b → ¬ GateOpen u → Waits s (.pref w a b))

/-! ### What happens at the home, and what comes back (11 R249, R259–R263; 05 R116, R136) -/

/-- HOME_REQUEST performs a bank's oldest request that has reached its home: a read at the home takes the bytes that stand there; an atomic replaces them by its result as
one step and takes the old ones; nothing else in memory changes; the answer needs the way back (11 R249; 05 R136; 17 R303). A request that a hold had kept
lets those go first that arrived before it (22 R375, R378). -/
def Sys2Proof.Claims.HomePerformsRequests : Prop :=
  ∀ (b : BankId) (r : MemReq) (rest : List MemReq) (a n : Nat) (s : State),
    let m := (s.bank b).mem
    let answered := fun (t : State) => (t.bank b).mem.reqs = rest ∧ (t.bank b).mem.returns = m.returns ++ [⟨r, s.peek a n, s.cycle + homeTimes s.mem b.core r.pieces⟩] ∧
      t.time = s.time ∧ t.host = s.host ∧ t.ctxs = s.ctxs ∧ ∀ p, p ≠ b → t.bank p = s.bank p
    Safety.MemoryCanonical s → m.reqs = r :: rest → reqReady s b r = true → r.pieces = [(a, n)] → CleanBytes s a n →
    yields s (r.due, r.pieces) = false →
      (r.kind = .home → ∃ t, exec (.homeRequest b false) s = .next t ∧ answered t ∧ ∀ i, t.byteAt i = s.byteAt i) ∧
      (∀ op x e, r.kind = .rmw op x e → (n = 4 ∨ n = 8) → ∃ t, exec (.homeRequest b false) s = .next t ∧ answered t ∧
        Stored s t a (leBytes n (atomicResult op (8 * n) (leNat (s.peek a n)) (x.toNat % 2 ^ (8 * n)) (e.toNat % 2 ^ (8 * n)))))

/-- A plain store reaches memory in three steps (11 R259, R263): the oldest leaves the core's FIFO, its bytes are written at the home, and the
acknowledgment counts for releases; each way takes its time (17 R303). That it leaves once the rows of earlier drains and streams that can still move
have entered is the model's choice (log entry 64). -/
def Sys2Proof.Claims.StoresReachTheHome : Prop :=
  ∀ (b : BankId) (e : StoreEntry) (rest : List StoreEntry) (s : State),
    let k := s.bank b
    let m := k.mem
    let way := s.cycle + homeTime s.mem b.core e.pa
    (m.dirty = e :: rest → k.going.rowsStored e.seq = true → (∀ r ∈ m.reqs, r.seq < e.seq → r.keeps e = false) →
      (∀ x, (s.bank ⟨b.core, !b.slot⟩).front = some x → e.seq ≤ x.seq) →
      exec (.dirtyLineDrain b) s = .next (s.setBank b { k with mem := { m with dirty := rest, sent := m.sent ++ [{ e with due := way }] } })) ∧
    (Safety.MemoryCanonical s → m.sent = e :: rest → e.due ≤ s.cycle → homeHeld s.mem e.pa = false → staleMap s.mem e.gen e.pa = false →
      yields s (e.due, [(e.pa, e.data.length)]) = false → e.ident = none →
      ∃ t, exec (.homeRequest b true) s = .next t ∧ Stored s t e.pa e.data ∧ (t.bank b).mem.sent = rest ∧
        (t.bank b).mem.unacked = m.unacked ++ [{ e with due := way }] ∧ (t.bank b).mem.dirty = m.dirty ∧ (t.bank b).mem.reqs = m.reqs ∧ t.ctxs = s.ctxs ∧ t.host = s.host) ∧
    (m.unacked = e :: rest → e.due ≤ s.cycle → ∃ t, exec (.homeAck b) s = .next t ∧ t.bank b = { k with mem := { m with unacked := rest } } ∧
      ∀ i, t.byteAt i = s.byteAt i)

/-- A sector of deterministic mode keeps the write of the higher writer identity of a launch's epoch, whichever comes first, and counts the one
it drops (11 R265–R267). -/
def Sys2Proof.Claims.HigherIdentityWins : Prop :=
  ∀ (b : BankId) (e : StoreEntry) (rest : List StoreEntry) (launch epoch ident : Nat) (tag : SectorTag) (s : State),
    let m := (s.bank b).mem
    let n := (s.bank b).ctxNum
    Safety.MemoryCanonical s → m.sent = e :: rest → e.due ≤ s.cycle → homeHeld s.mem e.pa = false → staleMap s.mem e.gen e.pa = false →
      yields s (e.due, [(e.pa, e.data.length)]) = false → (homeOf s.mem e.pa).isSome = true → e.ident = some (launch, epoch, ident) →
      e.data ≠ [] → e.pa % 32 + e.data.length ≤ 32 → kfind s.mem.tags (e.pa / 32) = some tag →
      ∃ t, exec (.homeRequest b true) s = .next t ∧
        if tag.launch = launch ∧ tag.epoch = epoch ∧ ident < tag.ident then
          (∀ i, t.byteAt i = s.byteAt i) ∧ (t.ctx n).overruled = (s.ctx n).overruled + 1 ∧ kfind t.mem.tags (e.pa / 32) = some tag
        else Stored s t e.pa e.data ∧ (t.ctx n).overruled = (s.ctx n).overruled ∧ kfind t.mem.tags (e.pa / 32) = some ⟨launch, epoch, ident⟩

/-- Requests are performed at their home, stores reach it, and in deterministic mode the higher identity stands (11 R249, R263, R265–R267). -/
def Obligations.HomeSerialises : Prop := Claims.HomePerformsRequests ∧ Claims.StoresReachTheHome ∧ Claims.HigherIdentityWins

/-- LOAD_RETURN, once the answer has made its way back: the register that its word named has the value, sign- or zero-extended (05 R116, R133), the row
that an LDQ asked for enters its queue, behind the rows asked for before it (R132), the command is there for its POSTC (R145); until then nothing happens
(17 R303). A load meets poison before it issues (22 R379): that what comes back carries none is the model's choice (log entries 36, 58). -/
def Obligations.LoadsReturn : Prop :=
  ∀ (b : BankId) (n : Nat) (r : MemReturn) (s : State),
    let m := (s.bank b).mem
    let left := { m with returns := delAt m.returns n }
    m.returns[n]? = some r →
      (s.cycle < r.due → exec (.loadReturn b n) s = .next s) ∧ (r.due ≤ s.cycle →
      (∀ d g, r.req.dest = .reg d g → ∃ t, exec (.loadReturn b n) s = .next t ∧
        (∀ x, (t.stream b .A).get x = if d = some x ∧ x ≠ 0 then
            (if g then (BitVec.ofNat (8 * r.data.length) (leNat r.data)).signExtend 64 else BitVec.ofNat 64 (leNat r.data))
          else (s.stream b .A).get x) ∧
        (t.bank b).mem = left ∧ (t.stream b .A).pc = (s.stream b .A).pc ∧
        (∀ e, e ≠ .A → t.stream b e = s.stream b e) ∧ ∀ i, t.byteAt i = s.byteAt i) ∧
      (∀ q, r.req.dest = .queue q → q < 16 → earlierRow m q r.req.seq = false → (((s.bank b).queue q).binding = none →
        ∃ t, exec (.loadReturn b n) s = .next t ∧ t.bank b = { (s.bank b).setQueue q { (s.bank b).queue q with
          rows := ((s.bank b).queue q).rows ++ [rowOf r.data], owed := ((s.bank b).queue q).owed ++ [none]
          reserved := ((s.bank b).queue q).reserved - 1 } with mem := left } ∧ ∀ i, t.byteAt i = s.byteAt i)) ∧
      (∀ q, r.req.dest = .queue q → earlierRow m q r.req.seq = true → exec (.loadReturn b n) s = .next s) ∧
      (r.req.dest = .command → ∃ t, exec (.loadReturn b n) s = .next t ∧
        t.bank b = { s.bank b with mem := { left with command := some (r.req.pc, r.data) } } ∧ ∀ i, t.byteAt i = s.byteAt i) ∧
      (r.req.dest = .nowhere → ∃ t, exec (.loadReturn b n) s = .next t ∧ t.bank b = { s.bank b with mem := left } ∧ ∀ i, t.byteAt i = s.byteAt i))

/-! ### The V class (06 R149–R173; 10 R236–R241) -/

/-- Every V word but VROW and VNEXT: a repetition that can issue gives its result to every copy of its destination it writes, or to the queue
or stream, after its latency, VBQ's scales to the scale row of each of them; its flags are raised with it; the stream goes on to the next active repetition or
the next word. It changes nothing else of the machine but what it takes from queues and streams, and the use of scratchpad banks. With extra cycles its rows are
those that stand when these are over (17 R302): the bank holds the word until then. VBQ's
NaN and Inf under a finite scale, and a widened VBQ's register are the model's choices (log entries 54, 56). -/
def Obligations.VectorWordsGiveTheirRow : Prop :=
  ∀ (p q r : Spec) (a : Reg) (m c : BitVec 2) (h : BitVec 4), ∀ f ∈ vectorForms p q r a m c h, ∀ (w : BitVec 3) (s v : State), VIssues s v f →
    let u := issueState s
    let ws := widenSet u f.ops.reads
    let n := repetition v ws
    let idx := indexOf v.me ws n
    let o := (f.fn v).out (inputs v f ws n idx)
    let bases := fun td => destBases v td ws idx
    let e := extraCycles v f ws idx
    let more := ws ≠ [] ∧ (nextActive v.me ws (repCount v.me ws) (n + 1)).isSome = true
    ∃ t new, exec (f.word w) s = .next t ∧ VectorFrame ((taken v f idx).paid e) t f.ops.td ∧ t.me.pend = v.me.pend ++ new ∧
      (∀ td i, f.ops.td = some td → operandOf td = .tile i → ∀ b ∈ bases td, ∃ y ∈ new,
        y.wr = .row (b / 256 + (v.myBank.tile i).cursor) o.row ∧ u.cycle + e + f.lat ≤ y.cyc) ∧
      (∀ td i, f.ops.td = some td → operandOf td = .queue i → ∃ y ∈ new, y.wr = .queue i o.row ∧ u.cycle + e + f.lat ≤ y.cyc) ∧
      (∀ td i, f.ops.td = some td → operandOf td = .stream i → ∃ y ∈ new, y.wr = .dstream i o.row ∧ u.cycle + e + f.lat ≤ y.cyc) ∧
      (∀ y ∈ new, ∀ i x, y.wr = .row i x → i ∈ rowsWritten v f ws idx ∨ (o.scale = some x ∧ i ∈ scalesWritten v f ws idx)) ∧
      (∀ x, o.scale = some x → ∀ i ∈ scalesWritten v f ws idx, ∃ y ∈ new, y.wr = .row i x) ∧
      (∀ y ∈ new, ∀ d x, y.wr ≠ .reg d x ∧ y.wr ≠ .ireg d x) ∧
      (o.fl ≠ 0 → ∃ y ∈ new, y.wr = .flags (BitVec.ofNat 64 o.fl)) ∧ (o.fl = 0 → ∀ y ∈ new, ∀ x, y.wr ≠ .flags x) ∧
      t.me.srctr = v.me.srctr + (if f.ops.m.isSome ∧ isSr v (f.ops.m.getD 0) = true ∧ f.rounds v = true then 512 else 0) ∧
      (o.ent = none → t.myBank.sc = v.myBank.sc ∧ t.myBank.wi = v.myBank.wi ∧ t.myBank.vpair = none) ∧
      (∀ es, o.ent = some es → t.myBank.wi = (v.myBank.wi + 1) % 4 ∧
        (v.myBank.wi < 4 → ∀ j, j < 4 → (t.myBank.sc.getD v.myBank.wi (Vector.replicate 4 none)).getD j none = es.getD j none) ∧
        ∀ j, j ≠ v.myBank.wi → t.myBank.sc.getD j (Vector.replicate 4 none) = v.myBank.sc.getD j (Vector.replicate 4 none)) ∧
      (e = 0 → t.myBank.late = v.myBank.late) ∧
      (e ≠ 0 → ∃ y, t.myBank.late = v.myBank.late ++ [y] ∧ y.due = u.cycle + e ∧ y.fn = f.fn v ∧ y.inp = inputs v f ws n idx ∧
        y.rows = (taken v f idx).rows ++ (scaleOf v f idx).toList ∧ y.undo.pc = u.me.pc) ∧
      (if more then t.me.pc = u.me.pc ∧ t.me.lrep = n + 1 ∧ t.me.issued = u.me.issued ∧ t.me.nextIssue = u.cycle + 1 + e
       else t.me.pc = u.me.pc + 4 ∧ t.me.lrep = 0 ∧ t.me.issued = u.me.issued + 1 ∧ t.me.nextIssue = u.cycle + 1 + w.toNat + e)

/-- A V word whose tile is not ready blocks on it; one whose formats are not allowed traps with RESERVED_OPERAND
before its first repetition (01 R16; 06 R151; 10 R244). -/
def Sys2Proof.Claims.VectorWordsBlockOrTrap : Prop :=
  ∀ (p q r : Spec) (a : Reg) (m c : BitVec 2) (h : BitVec 4), ∀ f ∈ vectorForms p q r a m c h, ∀ (w : BitVec 3) (s : State),
    let u := issueState s
    let ready := fun sp => ∀ n, operandOf sp = .tile n → (u.myBank.tile n).state = .ready
    (∀ y, s.myBank.vpair = some y → y.1 ≠ s.cycle) →
      (∀ sp n l l', f.ops.all = l ++ sp :: l' → (∀ x ∈ l, ready x) → operandOf sp = .tile n → (u.myBank.tile n).state ≠ .ready →
        Blocks s (f.word w) .tile (sp.setWidth 64)) ∧
      ((∀ sp ∈ f.ops.all, ready sp) → u.me.lrep = 0 → f.ok u = false → Traps s (f.word w) .reservedOperand (u.cur.word.setWidth 64))

/-- The integer arithmetic of V (06 R152–R159) on lane i of L: the exact result of the lanes, wrapped or saturated to the format; lanes at L and
beyond are 0. -/
def Sys2Proof.Claims.IntegerLanesAreExact : Prop :=
  ∀ (v : VIn) (i : Nat), isInt v.f = true → v.l * v.w ≤ 2048 →
    let x := intOf v.f (v.ea i)
    let y := intOf v.f (v.eb i)
    let z := intOf v.f (v.ed i)
    let lane := fun (o : VOut) => intOf v.f (laneOf o.row v.w i)
    let wrapped := fun (n : Int) => intOf v.f (n % 2 ^ v.w).toNat
    let clamped := fun (n : Int) => max (intMinOf v.f) (min (intMaxOf v.f) n)
    if i < v.l then
      lane (vAddF v) = wrapped (x + y) ∧ lane (vSubF v) = wrapped (x - y) ∧ lane (vMulF v) = wrapped (x * y) ∧ lane (vMinF v) = min x y ∧
      lane (vMaxF v) = max x y ∧ lane (vFmaF false v) = wrapped (z + x * y) ∧ lane (vFmaF true v) = wrapped (z - x * y) ∧
      lane (vNegF v) = wrapped (-x) ∧ lane (vScalarF Fv.add (· + ·) v) = wrapped (x + v.x.toInt) ∧
      lane (vSatF (· + ·) v) = clamped (x + y) ∧ lane (vSatF (· - ·) v) = clamped (x - y) ∧ lane (vSatF (· * ·) v) = clamped (x * y) ∧
      (laneOf (vCmpF 2 v).row v.w i = if x < y then 2 ^ v.w - 1 else 0) ∧
      (laneOf (vSelF v).row v.w i = if v.ed i ≠ 0 then v.ea i else v.eb i)
    else i * v.w < 2048 → laneOf (vAddF v).row v.w i = 0 ∧ laneOf (vSatF (· + ·) v).row v.w i = 0 ∧ laneOf (vCmpF 2 v).row v.w i = 0

/-- The float lanes of VADD, VSUB, VMUL, VFMA, VFMS, VDIV, VRCP, VRSQ, VADDS and VMULS: the exact result rounded once by the word's mode, each lane with
its draw (03 R58, R60, R65, R66; 06 R152, R154–R156). Of a zero sum no sign is said. -/
def Sys2Proof.Claims.FloatLanesRound : Prop :=
  ∀ (v : VIn), isFloat v.f = true → v.l * v.w ≤ 2048 →
    let f := v.f
    let m := drawnMode v.rnd
    let x := fun i => numOf f (v.ea i)
    let y := fun i => numOf f (v.eb i)
    let z := fun i => numOf f (v.ed i)
    let c := numOf 0 (v.x.toNat % 2 ^ 32)
    LanesAre (vAddF v) v.l v.w (fun i => SumOf f (m i) (x i) (y i)) ∧ LanesAre (vSubF v) v.l v.w (fun i => SumOf f (m i) (x i) (y i).minus) ∧
    LanesAre (vMulF v) v.l v.w (fun i => ProductOf f (m i) (x i) (y i)) ∧
    LanesAre (vFmaF false v) v.l v.w (fun i => FusedOf f (m i) (x i) (y i) (z i)) ∧
    LanesAre (vFmaF true v) v.l v.w (fun i => FusedOf f (m i) (x i).minus (y i) (z i)) ∧
    LanesAre (vDivF v) v.l v.w (fun i => QuotientOf f (m i) (x i) (y i)) ∧
    LanesAre (vRcpF v) v.l v.w (fun i => QuotientOf f (m i) (.fin false 1 1) (x i)) ∧
    LanesAre (vRsqF v) v.l v.w (fun i => InverseRootOf f (m i) (x i)) ∧
    LanesAre (vScalarF Fv.add (· + ·) v) v.l v.w (fun i => SumOf f (m i) (x i) c) ∧
    LanesAre (vScalarF Fv.mul (· * ·) v) v.l v.w (fun i => ProductOf f (m i) (x i) c)

/-- VEXP2 and VLOG2 are the algorithms of 03 R71 and R72; VMIN, VMAX, VABS and VNEG of floats take or turn a code, NaN the canonical one (03 R60; 06
R156). -/
def Sys2Proof.Claims.FloatLanesFollowTheirTables : Prop :=
  ∀ (v : VIn), isFloat v.f = true → v.l * v.w ≤ 2048 →
    let f := v.f
    let nan := fun c => numOf f c = .nan
    let turned := fun (c : Nat) => if isNegative f c then bareCode f c else 2 ^ (codeBits f - 1) + bareCode f c
    (f = 0 → LanesAre (vExp2F v) v.l 32 (fun i => Exp2Of (drawnMode v.rnd i) (v.ea i)) ∧
      LanesAre (vLog2F v) v.l 32 (fun i => Log2Of (drawnMode v.rnd i) (v.ea i))) ∧
    LanesAre (vMinF v) v.l v.w (fun i r => r = if nan (v.ea i) ∨ nan (v.eb i) then isNanCode f
      else ⟨if orderKey f (v.eb i) < orderKey f (v.ea i) then v.eb i else v.ea i, 0⟩) ∧
    LanesAre (vMaxF v) v.l v.w (fun i r => r = if nan (v.ea i) ∨ nan (v.eb i) then isNanCode f
      else ⟨if orderKey f (v.ea i) < orderKey f (v.eb i) then v.eb i else v.ea i, 0⟩) ∧
    LanesAre (vAbsF v) v.l v.w (fun i r => r = if nan (v.ea i) then isNanCode f else ⟨bareCode f (v.ea i), 0⟩) ∧
    LanesAre (vNegF v) v.l v.w (fun i r => r = if nan (v.ea i) then isNanCode f else ⟨turned (v.ea i), 0⟩)

/-- What V does with bits and lanes as they are, whatever they stand for: VCMP under every condition, VSEL, the shifts, VQABS and its SAT, the bitwise words,
VMOV, VBCST, VPERM, VROT and VRNG (03 R77; 06 R157–R159, R164, R165, R167). No byte beyond a row's length is written but as 0. -/
def Sys2Proof.Claims.LanesMoveBitForBit : Prop :=
  ∀ (v : VIn) (c : BitVec 2) (n : Nat) (key : W64 × W64), 0 < v.l → v.l * v.w ≤ 2048 →
    let plain := fun (o : VOut) (g : Nat → Nat) => LanesAre o v.l v.w (fun i r => r = ⟨g i, 0⟩)
    let bytes := (v.l * v.w + 7) / 8
    let bitwise := fun (o : VOut) (g : Bool → Bool → Bool) => o.fl = 0 ∧ ∀ i, o.row.getLsbD i = (decide (i < 8 * bytes) &&
      g (v.a.getLsbD i && (v.ta || decide (i < v.l * v.w))) (v.b.getLsbD i && (v.tb || decide (i < v.l * v.w))))
    let dest := if v.dt then (v.ld * fmtBits v.fd + 7) / 8 else 256
    ((isFloat v.f = true ∨ isInt v.f = true) → LanesAre (vCmpF c v) v.l v.w (fun i r =>
      (Compares c v.f (v.ea i) (v.eb i) → r = ⟨2 ^ v.w - 1, 0⟩) ∧ (¬ Compares c v.f (v.ea i) (v.eb i) → r = ⟨0, 0⟩))) ∧
    plain (vSelF v) (fun i => if v.ed i ≠ 0 then v.ea i else v.eb i) ∧
    (isInt v.f = true → plain (vShlF v) (fun i => if v.eb i < v.w then v.ea i * 2 ^ v.eb i % 2 ^ v.w else 0) ∧
      plain (vShrF v) (fun i => if v.eb i < v.w then v.ea i / 2 ^ v.eb i else 0) ∧
      plain (vSraF v) (fun i => (intOf v.f (v.ea i) / 2 ^ (v.eb i) % 2 ^ v.w).toNat) ∧
      LanesAre ((VFn.qabs).out v) v.l v.w (fun i r => let x := ((intOf v.f (v.ea i)).natAbs : Int)
        r = if x ≤ intMaxOf v.f then ⟨x.toNat, 0⟩ else ⟨(intMaxOf v.f).toNat, 4⟩)) ∧
    bitwise ((VFn.and).out v) (· && ·) ∧ bitwise ((VFn.or).out v) (· || ·) ∧ bitwise ((VFn.xor).out v) (· != ·) ∧ bitwise ((VFn.not).out v) (fun x _ => !x) ∧
    (vMovF n v).fl = 0 ∧ (∀ i, (vMovF n v).row.getLsbD i = (decide (i < 8 * dest ∧ i < 8 * n) && v.a.getLsbD i)) ∧
    plain (vBcstF v) (fun _ => v.x.toNat % 2 ^ v.w) ∧ plain (vPermF v) (fun i => v.ea (v.eb i % v.l)) ∧
    plain (vRotF v) (fun i => v.ea ((i + v.x.toNat) % v.l)) ∧
    (vRngF key v).fl = 0 ∧ ∀ i, i < 2048 → (vRngF key v).row.getLsbD i =
      (decide (i < 8 * dest) && (mix key (v.x + BitVec.ofNat 64 (i / 32))).getLsbD (i % 32))

/-- VCVT, VBMAX and VBQ (03 R59, R67, R68, R73, R74; 06 R160, R161). NaN and Inf in a block of a finite entry, which a row other than the measured one
can bring, are left to log entry 54. -/
def Sys2Proof.Claims.ConversionsFollowTheirTables : Prop :=
  ∀ (v : VIn), v.la * fmtBits v.fa ≤ 2048 → v.ld * fmtBits v.fd ≤ 2048 →
    let m := drawnMode v.rnd
    let code := fun i => if i < v.la then laneOf v.a (fmtBits v.fa) i else 0
    let emax : Int := if v.fd = 4 then 2 else if v.fd = 2 then 8 else 15
    let shift := fun (e : Int) => max (-127) (min 127 (e - emax))
    (cvtFmt v.fa = true → cvtFmt v.fd = true → (v.scal = true → isInt v.fa = false) → LanesAre (vCvtF v) v.ld (fmtBits v.fd) (fun i =>
      if v.scal then ScaledTo v.fd (m i) (elementOf v i) else ConvertedTo v.fd (m i) (elementOf v i))) ∧
    (isFloat v.fa = true → ∃ es, (vBmaxF v).ent = some es ∧ ∀ b < 4, EntryOf v.fa (fun i => code (32 * b + i)) (es.getD b none)) ∧
    (isFloat v.fa = true → (v.fd = 2 ∨ v.fd = 3 ∨ v.fd = 4) → v.ld ≤ 128 → ∃ sc, (vBqF v).scale = some sc ∧ (vBqF v).fl = 0 ∧
      (∀ b, b < 256 → laneOf sc 8 b = if 32 * b < v.ld then
        match v.sc.getD b none with | none => 0 | some e => if e = 1000 then 255 else (shift e + 127).toNat else 0) ∧
      LanesAre (vBqF v) v.ld (fmtBits v.fd) (fun i r => match v.sc.getD (i / 32) none with
        | none => r = ⟨0, 0⟩
        | some e => if e = 1000 then r = isNanCode v.fd else match numOf v.fa (code i) with
          | .fin p n d => ∃ y, Rounded v.fd (m i) p (fraction (n * 2 ^ unitOf v.fd * 2 ^ (-shift e).toNat) (d * 2 ^ (shift e).toNat)) y ∧ r = ⟨y.code, 0⟩
          | _ => True))

/-- VRSUM, VRMAX and VRMIN (03 R69; 06 R163): of integers exact and wrapped to INT64, of floats the tree over the elements widened to FP32, with
−0, −Inf or +Inf in the lanes beyond them. Every other lane of the row is 0. -/
def Sys2Proof.Claims.ReductionsFollowTheTree : Prop :=
  ∀ (v : VIn) (kind k : Nat), kind < 3 → cvtFmt v.fa = true → 0 < v.la → v.la * fmtBits v.fa ≤ 2048 → v.la ≤ 2 ^ k → (k = 0 ∨ 2 ^ (k - 1) < v.la) →
    let o := vReduceF kind v
    let ints := (List.range v.la).map (fun i => intOf v.fa (laneOf v.a (fmtBits v.fa) i))
    (isInt v.fa = true → o.fl = 0 ∧ ∃ r : Int, o.row = BitVec.ofNat 2048 (r % 2 ^ 64).toNat ∧
      (kind = 0 → r = ints.sum) ∧ (kind = 1 → r ∈ ints ∧ ∀ x ∈ ints, x ≤ r) ∧ (kind = 2 → r ∈ ints ∧ ∀ x ∈ ints, r ≤ x)) ∧
    (isInt v.fa = false → ∃ (T F : Nat → Nat → Nat) (e : Nat → Rnd), o.row = BitVec.ofNat 2048 (T 0 0) ∧
      (∀ i < v.la, if v.scal then ScaledTo 0 .rne (elementOf v i) (e i) else ConvertedTo 0 .rne (elementOf v i) (e i)) ∧
      TreeOf (reduceOp kind v.rnd) k (fun i => if i < v.la then (e i).code else if kind = 0 then 0x80000000 else if kind = 1 then 0xFF800000 else 0x7F800000) T F ∧
      ∀ b, o.fl.testBit b = true ↔ (∃ i < v.la, (e i).fl.testBit b = true) ∨ ∃ j < k, ∃ i < 2 ^ j, (F j i).testBit b = true)

/-- What V computes, lane by lane (03; 06 R152–R167): integers exact, wrapped or saturated, floats rounded once, conversions, reductions, and what moves bit for bit. -/
def Obligations.LanesAreComputed : Prop := Claims.IntegerLanesAreExact ∧ Claims.FloatLanesRound ∧ Claims.FloatLanesFollowTheirTables ∧ Claims.LanesMoveBitForBit ∧ Claims.ConversionsFollowTheirTables ∧ Claims.ReductionsFollowTheTree

/-- VROW and VNEXT move the cursor of a ready tile; VROW to a row past the tile traps (06 R166). -/
def Sys2Proof.Claims.CursorWordsMove : Prop :=
  ∀ (w : BitVec 3) (p : Spec) (a : Reg) (n : Nat) (s : State),
    let u := issueState s
    let x := u.myBank.tile n
    operandOf p = .tile n → x.state = .ready →
      (Readable u a → if (u.me.get a).toNat < x.rows then
          ∃ t, exec (.vrow w p a) s = .next t ∧ BankWord s t w (u.myBank.setTile n { x with cursor := (u.me.get a).toNat })
        else Traps s (.vrow w p a) .accessViolation (u.cur.word.setWidth 64)) ∧
      ∃ t, exec (.vnext w p) s = .next t ∧ BankWord s t w (u.myBank.setTile n { x with cursor := (x.cursor + 1) % x.rows })

/-- When a V word blocks or traps, and how it moves a cursor (06 R149, R150, R166). -/
def Obligations.VectorOperandsAndCursors : Prop := Claims.VectorWordsBlockOrTrap ∧ Claims.CursorWordsMove

/-! ### The M class (07 R174–R193) -/

/-- MNEST, MBIND, MBANK, MRING, MCLR, MSTAT, MWAIT: each writes its one item of the shadow nest, the arming or a register, MSTAT with what
the step in the array and a wait that lasts have counted so far; a value that does not
fit, a bank the unit does not have and a constant operand trap (07 R179–R181, R185, R187, R190). MBIND blocks while a tile it names is not ready
(01 R16). -/
def Sys2Proof.Claims.NestTableWords : Prop :=
  ∀ (w l : BitVec 3) (a : Reg) (c : BitVec 3) (k : BitVec 1) (r j : BitVec 2) (p q : Spec) (s : State),
    let u := issueState s
    let m := u.myBank.mEng
    let v := (u.me.get a).toInt
    let x := m.shadow.levels.getD l.toNat ⟨1, 0, 0, false⟩
    let fits := if j = 0 then 0 ≤ v ∧ v < 65536 else if j = 3 then v = 0 ∨ v = 1 else -32768 ≤ v ∧ v < 32768
    let y : NestLevel := if j = 0 then { x with ext := v.toNat } else if j = 1 then { x with ast := v } else if j = 2 then { x with cst := v }
      else { x with bst := decide (v = 1) }
    let table : NestTable → Bank := fun tab => { u.myBank with mEng := { m with shadow := tab } }
    (Readable u a → if fits then ∃ t, exec (.mnest w l a j) s = .next t ∧
        BankWord s t w (table { m.shadow with levels := m.shadow.levels.setIfInBounds l.toNat y })
      else Traps s (.mnest w l a j) .accessViolation (u.cur.word.setWidth 64)) ∧
    (if isConst q then Traps s (.mbind w p q) .reservedOperand (u.cur.word.setWidth 64)
      else if ¬ tileReady u p then Blocks s (.mbind w p q) .tile (p.setWidth 64)
      else if ¬ tileReady u q then Blocks s (.mbind w p q) .tile (q.setWidth 64)
      else ∃ t, exec (.mbind w p q) s = .next t ∧ BankWord s t w (table { m.shadow with bound := some (p, q) })) ∧
    (if u.myBank.bindRec.cim.getLsbD k.toNat then ∃ t, exec (.mbank w k) s = .next t ∧ BankWord s t w (table { m.shadow with start := decide (k = 1) })
      else Traps s (.mbank w k) .accessViolation (u.cur.word.setWidth 64)) ∧
    (∃ t, exec (.mring w r) s = .next t ∧ BankWord s t w (table { m.shadow with ring := r.toNat })) ∧
    (∃ t, exec (.mclr w) s = .next t ∧ BankWord s t w { u.myBank with mEng := { m with armed := true } }) ∧
    (∃ t i, exec (.mstat w a c) s = .next t ∧ RegisterWord s t w a (m.cnt.getD c.toNat 0 + BitVec.ofNat 64 i) 1 ∧
      (m.nest = none ∨ (c ≠ 4 ∧ c ≠ 5) → i = 0) ∧
      (∀ n cyc ch, c = 4 → m.nest = some n → n.held = some (cyc, ch) → i = min cyc (u.cycle + cyc - n.nextCyc)) ∧
      (∀ n y, c = 5 → m.nest = some n → n.waiting = some y → i = u.cycle - y.1)) ∧
    (m.nest = none → u.myBank.recorded u.cur.engine = none → ∃ t, exec (.mwait w) s = .next t ∧ BankWord s t w u.myBank) ∧
    (m.nest ≠ none → Waits s (.mwait w))

/-- MGO and MMA start a nest that fits, unlifted: it runs the shadow table (MMA one step of it) from step 0 over the tiles' copies, takes the
arming, and the stream goes on (07 R182, R186, R187). -/
def Sys2Proof.Claims.NestsStart : Prop :=
  ∀ (w : BitVec 3) (pc pa : Spec) (c : Nat) (one : Bool) (s : State),
    let u := issueState s
    let m := u.myBank.mEng
    let tab := if one then m.shadow.single else m.shadow
    let i := if one then Instr.mma w pc pa else Instr.mgo w
    u.cur.engine = .M → (one = false → m.shadow.bound = some (pc, pa)) → NestFits u pc pa c tab one → ArrayFree u tab.reach → widenSet u [pc, pa] = [] →
      (one = false → tab.steps ≠ 0) →
      ∃ t n, exec i s = .next t ∧ OnlyBank u.cur.bank u t ∧
        t.myBank = { (u.myBank.setStream .M (advanced u.me u.cycle w)) with
          mEng := { m with nest := some n, armed := false }, opSeq := u.myBank.opSeq + 1 } ∧
        n.tab = tab ∧ n.cTile = c ∧ n.aSpec = pa ∧ n.pos = 0 ∧ n.total = (if one then 1 else tab.levels.toList.foldl (fun p l => p * l.ext) 1) ∧
        n.fresh = m.armed ∧ n.banks = tab.reach ∧ n.held = none ∧ n.failed = none ∧ n.flags = 0 ∧ u.cycle + 4 ≤ n.nextCyc ∧
        n.reps.map (·.c) = [(u.myBank.tile c).base] ∧ (∀ x, tileOf u pa = some x → n.reps.map (·.a) = [x.base])

/-- The nest table and the start of a nest (07 R179–R182). -/
def Obligations.NestsAreSetAndStarted : Prop := Claims.NestTableWords ∧ Claims.NestsStart

/-- MLOADB queues a load of a tile that fits a bank of the unit (07 R177); it starts when it is the oldest, in its own cycle where no load is left, and
takes half a cycle per row, rounded up; a load whose scale rows lie outside the share traps (01 R27), and one whose rows M's own nest is still to write
waits (17 R295); at its end the bank holds the tile's format and, for the integer formats, every element (R178). -/
def Sys2Proof.Claims.BankLoadsRun : Prop :=
  (∀ (w : BitVec 3) (q : Spec) (a : Reg) (k : BitVec 1) (n : Nat) (s : State),
    let u := issueState s
    let m := u.myBank.mEng
    let x := u.myBank.tile n
    let begun := fun (l : BankLoad) => if l.finish.isSome then l else { l with finish := some (u.cycle + (l.rows + 1) / 2) }
    Readable u a → operandOf q = .tile n → x.state = .ready → widenSet u [q] = [] → loadFits u.myBank x (u.me.get a).toNat = true →
      u.myBank.bindRec.cim.getLsbD k.toNat = true → (∀ y, m.nest = some y → decide (k = 1) ∉ y.banks) →
      if ∃ v, loadScale u.myBank x = some v ∧ inShare u.myBank v (256 * (x.rows / 16)) = false then
        Traps s (.mloadb w q a k) .accessViolation (u.cur.word.setWidth 64)
      else if ∃ i ∈ loadRows u.myBank x, u.myBank.ownWork .M i = true then Waits s (.mloadb w q a k)
      else ∃ t y, exec (.mloadb w q a k) s = .next t ∧ BankWord s t w { u.myBank with
        opSeq := u.myBank.opSeq + 1, mEng := { m with loads := match m.loads with | [] => [begun y] | l :: ls => begun l :: (ls ++ [y]) } } ∧
        y.bank = decide (k = 1) ∧ y.tile = n ∧ y.fmt = x.fmt ∧ y.rows = x.rows ∧ y.first = (u.me.get a).toNat ∧ y.finish = none ∧
        y.copies = [(x.base, loadScale u.myBank x)]) ∧
  ∀ (b : BankId) (l : BankLoad) (ls : List BankLoad) (s : State),
    let m := (s.bank b).mEng
    m.loads = l :: ls →
      (l.finish = none → exec (.bankLoadStart b) s = .next (s.setBank b { s.bank b with
        mEng := { m with loads := { l with finish := some (s.cycle + (l.rows + 1) / 2) } :: ls } })) ∧
      (∀ c base sc, l.finish = some c → c ≤ s.cycle → l.copies = [(base, sc)] → (∀ j ∈ (s.core b.core).inj, j.hard = false) →
        ∃ t, exec (.bankLoadFinish b) s = .next t ∧ (t.bank b).mEng.loads = ls ∧ ((t.core b.core).cim l.bank).fmt = some l.fmt ∧
          (t.core b.core).cim (!l.bank) = (s.core b.core).cim (!l.bank) ∧ (∀ a, t.byteAt a = s.byteAt a) ∧
          (mInt l.fmt = true → l.first % 32 = 0 → l.rows / 2 % 32 = 0 → ∀ i, i < l.rows / 2 → ∀ n, n < 512 →
            ((kfind ((t.core b.core).cim l.bank).rows (l.first + i)).getD []).getD n 0 =
              intOf l.fmt (laneOf ((s.core b.core).row (base / 256 + 2 * i + n / 256)) 8 (n % 256))))

/-- A step of a nest with its A in a tile takes its place in the array for the cycles its formats take, and the last of a K-run sends its C
vector back 12 cycles after them (07 R183, R184); a write-back that is due writes its rows and no other. -/
def Sys2Proof.Claims.NestStepsAndWritebacks : Prop :=
  (∀ (b : BankId) (n : Nest) (r : NestRep) (rs : List NestRep) (f : Nat) (s : State),
    let m := (s.bank b).mEng
    m.nest = some n → n.nextCyc ≤ s.cycle → n.held = none → n.failed = none → n.pos < n.total → n.reps = r :: rs → n.aFmt = some f → n.rtrap = false →
      n.waiting = none → (∀ j ∈ (s.core b.core).inj, j.hard = false) →
      ∃ t n' back, exec (.nestStep b) s = .next t ∧ (t.bank b).mEng.nest = some n' ∧ n'.pos = n.pos + 1 ∧ n'.tab = n.tab ∧ n'.reps = n.reps ∧
        n'.nextCyc = s.cycle + stepCycles n.tab.ring f ∧ n'.held.isSome = true ∧ (t.bank b).mEng.backs = m.backs ++ back ∧
        back.map (·.cyc) = (if n.last n.pos then [s.cycle + stepCycles n.tab.ring f + 12] else []) ∧ (∀ a, t.byteAt a = s.byteAt a) ∧
        (∀ e, t.stream b e = s.stream b e) ∧ ∀ i, (t.core b.core).row i = (s.core b.core).row i) ∧
  ∀ (b : BankId) (x : WriteBack) (rest : List WriteBack) (s : State),
    let m := (s.bank b).mEng
    m.backs = x :: rest → (s.cycle < x.cyc → exec (.kRunWriteback b) s = .next s) ∧
      (x.cyc ≤ s.cycle → (x.rows.map (·.1)).Nodup → ∃ t, exec (.kRunWriteback b) s = .next t ∧ (t.bank b).mEng.backs = rest ∧
        (∀ y ∈ x.rows, (t.core b.core).row y.1 = y.2) ∧ (∀ i, i ∉ x.rows.map (·.1) → (t.core b.core).row i = (s.core b.core).row i) ∧
        ∀ a, t.byteAt a = s.byteAt a)

/-- One step of a nest in each of its columns, in the terms of 03 R75 and R76 and of 07 R183: K-blocks in ascending order over the bank's integers, with
the flags, the residue checks (R188) and the columns that the bank poisons. INV of a block that only an Inf poisons is set whatever the accumulator
holds (the model's choice, log entry 54). The steps of a table follow its levels, level 0 fastest. -/
def Sys2Proof.Claims.NestStepsCompute : Prop :=
  (∀ (ring : Nat) (a : AVec) (b : CimBank) (m : MAcc), m.acc.length = 512 → BankWhole b →
    let r := mStep ring a b m
    let bf := b.fmt.getD 0
    let sc := fun (j : Nat) => a.sc.getD j (some 0)
    let start := fun (n : Nat) => (m.acc.getD n 0).toNat
    r.acc.length = 512 ∧
    (ring = 0 → ∃ (v : Nat → Int) (q : Nat → Int),
      let d := fun (j n : Nat) => ((List.range 32).map (fun i => v (32 * j + i) * bankInt b (32 * j + i) n)).sum
      (if mFloat a.fmt then ∀ j < 8, BlockAligned a.fmt (fun i => a.code (32 * j + i)) (q j) (fun i => v (32 * j + i))
        else ∀ k < 256, v k = intOf a.fmt (a.code k)) ∧
      r.bad = m.bad + ((List.range 8).filter (fun j => decide (((List.range 32).map (fun i => v (32 * j + i) * (b.check (32 * j + i) : Int))).sum % 251 ≠
        ((List.range 512).map (d j)).sum % 251))).length ∧
      (mInt a.fmt = true → ∃ s : Nat → Nat → Int, (∀ n < 512, s n 0 = m.acc.getD n 0 ∧ r.acc.getD n 0 = s n 8) ∧
        (∀ n < 512, ∀ j < 8, s n (j + 1) = (s n j + d j n + 2 ^ 47) % 2 ^ 48 - 2 ^ 47) ∧
        r.fl = if ∃ n < 512, ∃ j < 8, s n (j + 1) ≠ s n j + d j n then m.fl ||| flagWIDE48 else m.fl) ∧
      (mFloat a.fmt = true → ∃ s : Nat → Nat → Rnd, (∀ n < 512, (s n 0).code = start n ∧ r.acc.getD n 0 = ((s n 8).code : Int)) ∧
        (∀ n < 512, ∀ j < 8,
          let x := blockPoison a.fmt (fun i => a.code (32 * j + i)) (sc j)
          let e := bankBlock b j n
          if x ≠ 0 ∨ e.2.2 ≠ 0 then s n (j + 1) = poisonedAs x e.2.2 0
          else BlockAdds (d j n) (q j + e.1 + e.2.1 + (sc j).getD 0 - slackBits a.fmt - slackBits bf) (s n j).code (s n (j + 1))) ∧
        ∀ i, r.fl.testBit i = true ↔ m.fl.testBit i = true ∨ ∃ n < 512, ∃ j < 8, (s n (j + 1)).fl.testBit i = true)) ∧
    (ring = 1 ∨ ring = 2 → ∃ s : Nat → Nat → Rnd, (∀ n < 512, (s n 0).code = start n ∧ r.acc.getD n 0 = ((s n 256).code : Int)) ∧
      (∀ n < 512, ∀ k < 256,
        let x := blockPoison a.fmt (fun i => a.code (32 * (k / 32) + i)) (sc (k / 32))
        let e := bankBlock b (k / 32) n
        if sc (k / 32) = none ∨ e.2.2 ≠ 0 then s n (k + 1) = poisonedAs x e.2.2 0
        else TropicalTerm (ring == 1) ((numOf a.fmt (a.code k)).times2 ((sc (k / 32)).getD 0))
          ((Num.fin (decide (bankInt b k n < 0)) (bankInt b k n).natAbs 1).times2 (e.1 + e.2.1 - slackBits bf)) (s n k).code (s n (k + 1))) ∧
      ∀ i, r.fl.testBit i = true ↔ m.fl.testBit i = true ∨ ∃ n < 512, ∃ k < 256, (s n (k + 1)).fl.testBit i = true) ∧
    (ring = 3 → r.fl = m.fl ∧ ∀ n < 512, r.acc.getD n 0 ≠ 0 ↔ m.acc.getD n 0 ≠ 0 ∨ ∃ k < 256, a.code k ≠ 0 ∧ bankInt b k n ≠ 0) ∧
    ∀ n < 512, n ∈ r.pois ↔ n ∈ m.pois ∨ (ring = 1 ∨ ring = 2 ∨ ring = 0 ∧ mFloat a.fmt = true) ∧ ∃ j < 8, (bankBlock b j n).2.2 ≠ 0) ∧
  ∀ (n : Nest) (ix : Nat → Nat),
    let e := extentOf n.tab
    n.one = none → (∀ l < 6, ix l < e l) →
      n.at_ (ix 0 + e 0 * (ix 1 + e 1 * (ix 2 + e 2 * (ix 3 + e 3 * (ix 4 + e 4 * ix 5))))) =
        ((strideSum n.tab ix (·.ast)).toNat * (32 * fmtBits (n.aFmt.getD 0)),
          xor n.tab.start (decide (strideSum n.tab ix (fun l => if l.bst then 1 else 0) % 2 = 1)), strideSum n.tab ix (·.cst))

/-- What a step of a nest with its A in a tile leaves: its A vector is the bytes of the tile at its place with their block scales; a K-run begins with
what an earlier one of the nest wrote, the identity where it is fresh, or the C vector; the values are those of the step (NestStepsCompute); at the end
of the K-run they go to every copy of the C vector, FP32 and `b1` as they stand, INT32 as 03 R76 says (07 R175, R176, R183, R184, R187). -/
def Sys2Proof.Claims.StepsGiveTheirValues : Prop :=
  ∀ (b : BankId) (n : Nest) (r : NestRep) (rs : List NestRep) (f : Nat) (s t : State),
    let m := (s.bank b).mEng
    let core := s.core b.core
    let cim := core.cim (n.at_ n.pos).2.1
    let cv := (n.at_ n.pos).2.2
    let cr := cRows n.cFmt
    m.nest = some n → n.nextCyc ≤ s.cycle → n.held = none → n.failed = none → n.pos < n.total → n.reps = r :: rs → n.aFmt = some f → n.rtrap = false →
      n.waiting = none → (∀ j ∈ core.inj, j.hard = false) → fmtBits f ∣ 8 * (n.at_ n.pos).1 → (n.cFmt = 0 ∨ n.cFmt = 10 ∨ n.cFmt = 12) →
      (∀ v, n.run = some v → n.first n.pos = false ∧ v.2.length = 512) → (n.run = none → n.first n.pos = true) → 0 ≤ cv →
      (∀ v ∈ n.written, v.2.length = 512) → 0 < fmtBits f →
      exec (.nestStep b) s = .next t →
      ∃ (a : AVec) (acc : List Int) (n' : Nest),
        VectorOfTile core f r.a (n.at_ n.pos).1 r.sc a ∧ acc.length = 512 ∧
        (∀ v, n.run = some v → acc = v.2) ∧
        (n.run = none → ∀ v, n.written.find? (fun x => x.1 == cv) = some v → acc = v.2) ∧
        (n.run = none → n.written.find? (fun x => x.1 == cv) = none → ∀ i < 512,
          acc.getD i 0 = if n.fresh then (if n.tab.ring = 1 then 0x7F800000 else if n.tab.ring = 2 then 0xFF800000 else 0)
            else elementOfC core n.cFmt r.c cv.toNat i) ∧
        (t.bank b).mEng.nest = some n' ∧
        let x := mStep n.tab.ring a cim ⟨acc, n.flags, 0, if n.first n.pos then [] else n.poisoned⟩
        let fin := x.acc.map (writtenAs n.cFmt n.isat)
        n'.poisoned = x.pois ∧
        if n.last n.pos = false then n'.run = some (cv, x.acc) ∧ n'.written = n.written ∧ n'.flags = x.fl ∧ (t.bank b).mEng.backs = m.backs
        else n'.run = none ∧ n'.written.find? (fun y => y.1 == cv) = some (cv, fin) ∧
          n'.flags = (if n.cFmt = 10 ∧ n.isat = true ∧ fin ≠ x.acc then x.fl ||| flagSATD else x.fl) ∧
          ∃ y, (t.bank b).mEng.backs = m.backs ++ [y] ∧
            y.rows.map (·.1) = r.dsts.flatMap (fun base => (List.range cr).map (fun i => base / 256 + cr * cv.toNat + i)) ∧
            ∀ z ∈ y.rows, ∃ base ∈ r.dsts, ∃ i < cr, z.1 = base / 256 + cr * cv.toNat + i ∧
              ∀ e < 512 / cr, laneOf z.2 (fmtBits n.cFmt) e = (fin.getD (512 / cr * i + e) 0 % 2 ^ fmtBits n.cFmt).toNat

/-- Bank loads, nest steps with the values they give, and write-backs (07 R175–R178, R183, R184; 03 R75, R76). -/
def Obligations.MatrixEngineRuns : Prop := Claims.BankLoadsRun ∧ Claims.NestStepsAndWritebacks ∧ Claims.NestStepsCompute ∧ Claims.StepsGiveTheirValues

/-! ### The K class (08 R194–R210; 09 R211–R227) -/

/-- SKCFG, SKCLR, SKENCLR, SKRANK, SKEN: each runs 4 cycles and then leaves the pair configured, cleared or with no energy; SKRANK and SKEN give
the rank and the energy to a register that readers wait for (09 R211, R213, R214). -/
def Sys2Proof.Claims.PairControlWords : Prop :=
  ∀ (w : BitVec 3) (a b : Reg) (d : BitVec 1) (s : State),
    let u := issueState s
    let k := u.myBank.kEng.pair
    let x := (u.me.get a).toNat
    let y := (u.me.get b).toNat
    let new : KPair := { KPair.reset with m := x % 2 ^ 11, n := x / 2 ^ 16 % 2 ^ 11, l := y % 2 ^ 7, p := y / 2 ^ 16 % 2 ^ 6, fd := decide (d = 1) }
    let valid := x = new.m + 2 ^ 16 * new.n ∧ y = new.l + 2 ^ 16 * new.p ∧ 1 ≤ new.m ∧ new.m ≤ 1024 ∧ 1 ≤ new.n ∧ new.n ≤ 1024 ∧ 1 ≤ new.l ∧ new.l ≤ 64 ∧
      1 ≤ new.p ∧ new.p ≤ 32 ∧ footprintOf new.m new.n new.l new.p ≤ u.myBank.fstBytes
    let held := fun (i : Instr) (r : KPair) => ∃ t, exec i s = .next t ∧ SketchIssued s t w ∧ Running u t ∧ EndsWith t u.cur.bank 4 r 0
    let gives := fun (i : Instr) (v : W64) => ∃ t, exec i s = .next t ∧ Running u t ∧ EndsWith t u.cur.bank 4 k 0 ∧ t.me.pc = u.me.pc + 4 ∧
      t.me.regs = u.me.regs ∧ (if a = 0 then t.me.pend = u.me.pend else ∃ c, t.me.pend = u.me.pend ++ [⟨c, .ireg a v, []⟩] ∧ u.cycle + 4 ≤ c)
    u.cur.engine = .K →
      (SketchFree u false [] → Readable u a → Readable u b →
        if valid then held (.skcfg w a b d) new else Traps s (.skcfg w a b d) .accessViolation (u.cur.word.setWidth 64)) ∧
      (SketchFree u false [] → held (.skclr w) { KPair.reset with m := k.m, n := k.n, l := k.l, p := k.p, fd := k.fd }) ∧
      (SketchFree u true [] → held (.skenclr w) { k with energy := 0 } ∧ gives (.skrank w a) (BitVec.ofNat 64 k.k) ∧
        gives (.sken w a) (BitVec.ofNat 64 k.energy))

/-- SKFOLD of two unlifted tiles, SKSHRINK and SKSCL: after the time of 08 R205 the pair is the fold of the one scaled pair of vectors, the shrink
of what it holds, and the pair with its V scaled (08 R197, 09 R215, R217, R220). -/
def Sys2Proof.Claims.FoldsChangeThePair : Prop :=
  ∀ (w : BitVec 3) (p q : Spec) (a : Reg) (i j : Nat) (s : State),
    let u := issueState s
    let k := u.myBank.kEng.pair
    let alpha := (u.me.get a).toNat % 2 ^ 32
    let one := foldPanel k [vectorOf u i k.m] [vectorOf u j k.n] alpha
    let scaled := (k.v.mapM (fun (c : List Nat) => c.mapM (aMul alpha))).run (0, false)
    let ends := fun (x : Instr) (n : Nat) (r : KPair × Nat) => ∃ t, exec x s = .next t ∧ SketchIssued s t w ∧ Running u t ∧ EndsWith t u.cur.bank n r.1 r.2
    u.cur.engine = .K → (∀ y ∈ (u.core u.cur.bank.core).inj, y.hard = false) →
      (SketchFree u true [p, q] → Readable u a → operandOf p = .tile i → operandOf q = .tile j → vecOk u p k.m = .ok () → vecOk u q k.n = .ok () →
        widenSet u [p, q] = [] → 1 ≤ k.m → k.m ≤ 1024 → 1 ≤ k.n → k.n ≤ 1024 → 1 ≤ k.p →
        ∃ t, exec (.skfold w p q a) s = .next t ∧ SketchIssued s t w ∧ Running u t ∧ EndsVia t u.cur.bank (appendTime k 1) (foldTime k 1) one.1 one.2) ∧
      (SketchFree u true [] → 0 < k.k → ends (.skshrink w) (foldTime k 0) (foldPanel k [] [] 0)) ∧
      (SketchFree u true [] → Readable u a → ends (.skscl w a) (k.l * ((k.n + 255) / 256) + 4) ({ k with v := scaled.1 }, scaled.2.1))

/-- What K's read-outs and folds give, in the terms of 03 R70 and 08 R197. Into an untagged tile, or an unbound queue with room, the read-outs write at
once: SKRDU and SKRDV a column, +0 beyond k; SKRDS the norms of V's columns, the squares' dot product and its root; SKROW the dot products of a row of
U with V's rows (09 R218, R219). The pair stands, and K is free after the time of 09 R224. SKPANEL folds the vectors of its tiles' row groups with
α = 1.0, SKMRG the columns of an image in panels of p with the energies added (09 R216, R223; 08 R208), SKFOLD one pair with its α: each fold
appends while they fit, and an element that is NaN or Inf as a shrink starts poisons the pair (08 R197, R198). -/
def Sys2Proof.Claims.SketchValuesAreGiven : Prop :=
  (∀ (w : BitVec 3) (p : Spec) (a : Reg) (s : State),
    let u := issueState s
    let k := u.myBank.kEng.pair
    let i := (u.me.get a).toNat
    let fits := fun (x : Nat) => vecOk u p x = .ok () ∧ checkFootprints u [p] = .ok () ∧
      ((∃ n, operandOf p = .tile n ∧ tagsOf u.me (u.myBank.tile n) = [] ∧ 1 ≤ (u.myBank.tile n).len ∧ (u.myBank.tile n).len ≤ fmtCap (u.myBank.tile n).fmt) ∨
        ∃ n, operandOf p = .queue n ∧ (u.myBank.queue n).binding = none ∧ (u.myBank.queue n).rows.length + (u.myBank.queue n).reserved + (x + 63) / 64 ≤ 16)
    let gives := fun (y : Instr) (x cycles : Nat) (v : Nat → Nat) => ∃ t fl, exec y s = .next t ∧ SketchIssued s t w ∧ Running u t ∧ VectorGiven u t p x v ∧
      EndsWith t u.cur.bank cycles k fl
    u.cur.engine = .K → SketchFree u true [p] → PairOk k → (∀ y ∈ (u.core u.cur.bank.core).inj, y.hard = false) →
      (Readable u a → i < 64 → fits k.m → gives (.skrdu w p a) k.m ((k.m + 255) / 256 + 8) (fun e => if i < k.k then (k.u.getD i []).getD e 0 else 0)) ∧
      (Readable u a → i < 64 → fits k.n → gives (.skrdv w p a) k.n ((k.n + 255) / 256 + 8) (fun e => if i < k.k then (k.v.getD i []).getD e 0 else 0)) ∧
      (fits 64 → ∃ v, gives (.skrds w p) 64 (k.l * ((k.n + 255) / 256) + 8) v ∧
        ∀ e < 64, if e < k.k then ∃ d, DotOf k.n (fun j => (k.v.getD e []).getD j 0) (fun j => (k.v.getD e []).getD j 0) d ∧ SqrtOf d (v e) else v e = 0) ∧
      (Readable u a → i < k.m → fits k.n → ∃ v, gives (.skrow w p a) k.n (k.l * ((k.n + 255) / 256) + 8) v ∧
        ∀ e < k.n, if k.k = 0 then v e = 0 else DotOf k.k (fun j => (k.u.getD j []).getD i 0) (fun j => (k.v.getD j []).getD e 0) (v e))) ∧
  (∀ (w : KPair) (us vs : List (List Nat)) (alpha : Nat), PairOk w → us.length = vs.length → alpha < 2 ^ 32 → (∀ c ∈ us, ∀ x ∈ c, x < 2 ^ 32) →
    let r := (foldPanel w us vs alpha).1
    let scaled := ∃ un : List (List Nat), un.length = us.length ∧ (∀ j < us.length, (un.getD j []).length = (us.getD j []).length ∧
      ∀ i < (us.getD j []).length, Mul32 alpha ((us.getD j []).getD i 0) ((un.getD j []).getD i 0)) ∧
      ∃ c ∈ w.u ++ un ++ w.v ++ vs, ∃ x ∈ c, ∀ q n d, numOf 0 x ≠ .fin q n d
    (1 ≤ us.length → w.k + us.length ≤ w.l → Appended w us vs alpha r) ∧ (us = [] → w.k = 0 → r = w) ∧
      (w.l < w.k + us.length ∨ us = [] ∧ w.k ≠ 0 → r.k = min w.l (w.k + us.length) ∧ r.canon = true ∧ r.m = w.m ∧ r.n = w.n ∧ r.l = w.l ∧ r.p = w.p ∧
        r.fd = w.fd ∧ r.u.length = r.k ∧ r.v.length = r.k ∧ (∀ c ∈ r.u, c.length = w.m) ∧ (∀ c ∈ r.v, c.length = w.n) ∧
        (scaled → r = PoisonedPair w (w.k + us.length)))) ∧
  ∀ (w : BitVec 3) (p q : Spec) (i j : Nat) (s : State),
    let u := issueState s
    let k := u.myBank.kEng.pair
    let x := u.myBank.tile i
    let y := u.myBank.tile j
    let ra := (k.m + x.len - 1) / x.len
    let rb := (k.n + y.len - 1) / y.len
    let n := x.rows / ra
    let rows := fun (z : Tile) (at_ c : Nat) => (List.range c).map (fun e => (u.core u.cur.bank.core).row (z.base / 256 + at_ + e))
    let us := (List.range n).map (fun e => vecOf x.len x.fmt k.m (rows x (e * ra) ra))
    let vs := (List.range n).map (fun e => vecOf y.len y.fmt k.n (rows y (e * rb) rb))
    u.cur.engine = .K → SketchFree u true [p, q] → PairOk k → (∀ z ∈ (u.core u.cur.bank.core).inj, z.hard = false) → operandOf p = .tile i → operandOf q = .tile j →
      widenSet u [p, q] = [] →
      (isFloat x.fmt = true → isFloat y.fmt = true → 1 ≤ n → n ≤ k.p → y.rows / rb = n →
        ∃ t, exec (.skpanel w p q) s = .next t ∧ SketchIssued s t w ∧ Running u t ∧
          EndsVia t u.cur.bank (appendTime k n) (foldTime k n) (foldPanel k us vs 0x3F800000).1 (foldPanel k us vs 0x3F800000).2) ∧
      ∀ h : KPair, let head := (u.core u.cur.bank.core).row (x.base / 256 + x.cursor)
        let ru := (k.m + 63) / 64
        let rv := (k.n + 63) / 64
        let us' := (List.range h.k).map (fun c => vecOf 64 0 k.m (rows x (x.cursor + 1 + c * ru) ru))
        let vs' := (List.range h.k).map (fun c => vecOf 64 0 k.n (if i = j then rows x (x.cursor + 1 + h.k * ru + c * rv) rv else rows y (y.cursor + c * rv) rv))
        let e := fadd64 k.energy h.energy
        let ends := fun (n1 n : Nat) (r : KPair × Nat) => ∃ t, exec (.skmrg w p q) s = .next t ∧ SketchIssued s t w ∧ Running u t ∧
          EndsVia t u.cur.bank n1 n r.1 (e.fl ||| r.2)
        readHeader head = some h → h.m = k.m → h.n = k.n → x.fmt = 0 → x.len = 64 → y.fmt = 0 → y.len = 64 → y.cursor ≤ y.rows →
          x.cursor + 1 + h.k * ru + (if i = j then h.k * rv else 0) ≤ x.rows → (i ≠ j → y.cursor + h.k * rv ≤ y.rows) →
          (h.k = 0 → ends 0 4 ({ k with energy := e.code }, 0)) ∧
          (1 ≤ h.k → h.k ≤ k.p → ends (appendTime k h.k) (foldTime k h.k) (foldPanel { k with energy := e.code } us' vs' 0x3F800000))

/-- What the folds and the read-outs of K give (08 R197, R198, R205, R208; 09 R215–R220, R223, R224; 03 R70). -/
def Obligations.FoldsAndReadouts : Prop := Claims.FoldsChangeThePair ∧ Claims.SketchValuesAreGiven

/-- SKFOLD, SKPANEL, SKRDU, SKRDV, SKRDS, SKROW, SKSAVE, SKLOAD, SKMRG issue wherever K is free and their checks pass, whatever their operands, and
their streams go on (09 R211, R215–R225); while words of the factor store are lost the others trap with the offset of the error (08 R207). -/
def Obligations.SketchWordsIssue : Prop :=
  ∀ (w : BitVec 3) (p q : Spec) (a : Reg) (s : State),
    let u := issueState s
    let k := u.myBank.kEng.pair
    let issues := fun (i : Instr) => ∃ t, exec i s = .next t ∧ SketchIssued s t w
    let lifts := fun (ops : List Spec) => ¬ (widenSet u ops).isEmpty = true → checkFootprints u ops = .ok ()
    let reps := fun (ops : List Spec) => (indexVectors u.me (widenSet u ops)).filter (activeAt u.me)
    let src := fun (sp : Spec) (i : List (Nat × Nat)) => srcAt u sp i (cursorOf u sp)
    u.cur.engine = .K →
      (SketchFree u true [p, q] → Readable u a → vecOk u p k.m = .ok () → vecOk u q k.n = .ok () → lifts [p, q] → issues (.skfold w p q a)) ∧
      (∀ x y, SketchFree u true [p, q] → tileOf u p = some x → tileOf u q = some y → isFloat x.fmt = true → isFloat y.fmt = true →
        0 < x.rows / ((k.m + x.len - 1) / x.len) → x.rows / ((k.m + x.len - 1) / x.len) ≤ k.p →
        y.rows / ((k.n + y.len - 1) / y.len) = x.rows / ((k.m + x.len - 1) / x.len) → lifts [p, q] → issues (.skpanel w p q)) ∧
      (SketchFree u true [p] → checkFootprints u [p] = .ok () →
        (Readable u a → (u.me.get a).toNat < 64 → PairOk k → (vecOk u p k.m = .ok () → issues (.skrdu w p a)) ∧
          (vecOk u p k.n = .ok () → issues (.skrdv w p a))) ∧
        (PairOk k → vecOk u p 64 = .ok () → issues (.skrds w p)) ∧
        (Readable u a → (u.me.get a).toNat < k.m → PairOk k → vecOk u p k.n = .ok () → issues (.skrow w p a)) ∧
        (imageOk u p (imageRows k).length = .ok () → issues (.sksave w p))) ∧
      (∀ r, SketchFree u false [p] → lifts [p] → peekHeader u p ((reps [p]).headD []) = .ok r →
        (∀ x ∈ headers u p (reps [p]) r, (afterHeader u.myBank k false false false (src p x.1) (src p x.1) x.2).isSome = true) → issues (.skload w p)) ∧
      (∀ r, SketchFree u true [p, q] → lifts [p, q] → peekHeader u p ((reps [p, q]).headD []) = .ok r → imageOk u q 0 = .ok () →
        (∀ x ∈ headers u p (reps [p, q]) r, (afterHeader u.myBank k true (p == q) true (src p x.1) (src q x.1) x.2).isSome = true) →
        issues (.skmrg w p q)) ∧
      (∀ n, u.myBank.kEng.op = none → u.myBank.recorded u.cur.engine = none → u.myBank.kEng.err = some n →
        ∀ i ∈ ([.skshrink w, .skenclr w, .skrank w a, .sken w a, .skscl w a, .skfold w p q a, .skrds w p, .sksave w p] : List Instr),
          Traps s i .sramUncorrected (BitVec.ofNat 64 n))

/-- The image of a pair gives the pair back (09 R221). -/
def Sys2Proof.Claims.ImagesRestoreThePair : Prop := ∀ w : KPair, PairOk w → pairOfImage (imageRows w) = some w

/-- K words that set, clear, save and restore the factor pair (08 R194; 09 R213, R214, R221–R223). -/
def Obligations.PairWordsAndImages : Prop := Claims.PairControlWords ∧ Claims.ImagesRestoreThePair

/-! ### The S class (21 R360–R367) and POSTC (05 R145) -/

/-- SCSRR, SCSRW, ERRPOP, HALT, WFI (21 R361, R365, R366): each with its effect alone; ERRPOP gives the oldest fault address or 0. -/
def Sys2Proof.Claims.SystemWordsComplete : Prop :=
  ∀ (w : BitVec 3) (d : Reg) (s : State),
    let u := issueState s
    let k := u.myBank
    (∀ c ∈ systemRegisters, ∃ t, exec (.scsrr w d c.1) s = .next t ∧ RegisterWord s t w d (c.2 u) 1) ∧
    (Readable u d → ∀ c ∈ systemWrites, ∃ t, exec (.scsrw w d c.1) s = .next t ∧ BankWord s t w (c.2 k (u.me.get d))) ∧
    (∃ t v, exec (.errpop w d) s = .next t ∧ v = { u with mem := { u.mem with faq := u.mem.faq.tail } } ∧ DeliveredInt u t d (u.mem.faq.headD 0) ∧
      GoesOn u t w (u.me.pc + 4) 0 ∧ OnlyStream u t d ∧ OnlyBank u.cur.bank v t ∧ ∀ a, t.byteAt a = s.byteAt a) ∧
    (∃ t, exec (.halt w) s = .next t ∧ OnlyBank u.cur.bank u t ∧ t.myBank =
      { (k.setStream u.cur.engine (advanced u.me u.cycle w)).haltAll with phase := .ending .complete, preempt := none, yielded := none, cancel := false, gbar := none, gkept := [] }) ∧
    (k.wfi = none → ∃ t, exec (.wfi w) s = .next t ∧ OnlyBank u.cur.bank u t ∧
      t.myBank = { k.setStream u.cur.engine { u.me with block := none } with wfi := some ⟨u.myCtx.changes, u.mem.faqCount, u.tick, false⟩ }) ∧
    ∀ x, k.wfi = some x → if x.woken then ∃ t, exec (.wfi w) s = .next t ∧ BankWord s t w { k with wfi := none } else Waits s (.wfi w)

/-- TRET with a trap being handled (21 R362): TCAUSE is cleared, the trapped stream goes on at TPC and C at CPC; a held trap is handled next,
or fails the unit where the handler is gone. Without one it traps. -/
def Obligations.TrapReturnResumes : Prop :=
  ∀ (w : BitVec 3) (e : Engine) (s : State),
    let u := issueState s
    let k := u.myBank
    u.cur.engine = .C →
      (k.tcause.getLsbD 63 = false → Traps s (.tret w) .accessViolation (u.cur.word.setWidth 64)) ∧
      (k.tcause.getLsbD 63 = true → k.tcause.toNat / 2 ^ 16 % 8 = engineNum e →
        (k.held = [] → ∃ t, exec (.tret w) s = .next t ∧ OnlyBank u.cur.bank u t ∧ t.myBank = returned u w e) ∧
        (∀ h rest, k.held = h :: rest → ((u.ctxOf u.cur.bank).priv = false ∨ k.tvec = 0 ∨ k.tvec.toNat % 4 ≠ 0) →
          ∃ t, exec (.tret w) s = .next t ∧ t.myBank.phase = .ending .failed) ∧
        (∀ h rest, k.held = h :: rest → h.engine ≠ .C → (u.ctxOf u.cur.bank).priv = true → k.tvec ≠ 0 → k.tvec.toNat % 4 = 0 → ∃ t, exec (.tret w) s = .next t ∧ OnlyBank u.cur.bank u t ∧ t.myBank.held = rest ∧
          t.myBank.tpcReg = h.tpc ∧ t.myBank.tval = h.trap.tval ∧ t.myBank.tcause.getLsbD 63 = true ∧ t.myBank.cpc = k.cpc ∧
          (t.myBank.stream h.engine).status = .trapped ∧ t.myBank.c.pc = k.tvec ∧
          (e ≠ .C → e ≠ h.engine → (t.myBank.stream e).pc = k.tpcReg ∧ (t.myBank.stream e).status = .running)))

/-- CTXBANK (21 R363): a safe point; where it names the other bank, that one can run and nothing else is pending, the unit gives way, still
runnable. That it acts on a cancel or a pre-emption pending instead of switching is the model's choice (log entry 39). -/
def Sys2Proof.Claims.ContextBankGivesWay : Prop :=
  ∀ (w : BitVec 3) (i : BitVec 1) (s : State),
    let u := issueState s
    let k := u.myBank
    let other : BankId := ⟨u.cur.bank.core, decide (i = 1)⟩
    let can := ((u.bank other).runnable = true ∧ ((u.bank other).phase = .running ∨ (u.bank other).phase = .preempted)) ∨
      ((∃ x, (u.bank other).phase = .ending x) ∧ ∀ f ∈ (u.bank other).faults, f.refused = true)
    let gives := k.copying = false ∧ k.cancel = false ∧ k.preempt = none ∧ other.slot ≠ (u.core u.cur.bank.core).active ∧ can
    (¬ gives → ∃ t, exec (.ctxbank w i) s = .next t ∧ SafePointWord s t w) ∧
    (gives → ∃ t, exec (.ctxbank w i) s = .next t ∧ OnlyBank u.cur.bank u t ∧ t.myBank = { k.setStream u.cur.engine (advanced u.me u.cycle w) with
      phase := .preempted, runnable := true, back := true, yielded := some (k.mem.seq, false), bindRec := { k.bindRec with resume := true } })

/-- S words in a privileged context (21 R361, R363, R365, R366). -/
def Obligations.SystemWordsAct : Prop := Claims.SystemWordsComplete ∧ Claims.ContextBankGivesWay

/-- TLBINV drops what its extent covers from every cache of translations and goes on once nothing translated before is outstanding (21 R364); ECCINJ
arms one injection in a store in place of an earlier one, and a fault bit above bit 0 traps (R367). That TLBINV drops where it is first tried, and that ECCINJ
translates by the tables as they stand, without a TLB entry or a page fault, are the model's choices (log entry 14); so is how an offset in the bank's
share names a byte of its store (log entry 13). -/
def Obligations.InvalidateAndInject : Prop :=
  ∀ (w : BitVec 3) (a : Reg) (e : BitVec 2) (i : BitVec 3) (s : State),
    let u := issueState s
    let k := u.myBank
    let v := u.me.get a
    let c := u.cur.bank.core
    Readable u a →
      (u.me.wait = none → NothingTranslated u → ∃ t, exec (.tlbinv w a e) s = .next t ∧ t.me = advanced u.me u.cycle w ∧ t.mem = u.mem ∧ t.ctxs = u.ctxs ∧
        (∀ n x, x ∈ (t.core n).tlb ↔ x ∈ (u.core n).tlb ∧ ¬ dropped u e v x) ∧ (∀ x, x ∈ t.host.iotlb ↔ x ∈ u.host.iotlb ∧ ¬ dropped u e v x) ∧
        ∀ x, x ∈ t.host.ats ↔ x ∈ u.host.ats ∧ ∀ y ∈ u.host.ats, y.iova = x.iova → ¬ droppedAts u e v y) ∧
      (∀ m, u.me.wait = some m → NothingTranslated u → ∃ t, exec (.tlbinv w a e) s = .next t ∧ BankWord s t w k) ∧
      (v.toNat / 2 % 4 ≠ 0 → Traps s (.eccinj w a i) .misaligned v) ∧
      (v.toNat / 2 % 4 = 0 →
        let armed := fun n t => ∃ x, x = u.setCore c { u.core c with inj := ⟨i.toNat, n, v.getLsbD 0⟩ :: (u.core c).inj.filter (fun j => j.store != i.toNat) } ∧
          WideWord s t x w k
        (∀ n, i.toNat ≤ 2 → shareByte k i.toNat (v.toNat % 2 ^ 52 / 8 * 8) = some n → ∃ t, exec (.eccinj w a i) s = .next t ∧ armed n t) ∧
        (i.toNat ≤ 2 → shareByte k i.toNat (v.toNat % 2 ^ 52 / 8 * 8) = none →
          Traps s (.eccinj w a i) .accessViolation (u.cur.word.setWidth 64)) ∧
        (∀ n, 3 ≤ i.toNat → readAddress u u.cur.bank (v &&& ~~~7) = some n → ∃ t, exec (.eccinj w a i) s = .next t ∧ armed n t) ∧
        (3 ≤ i.toNat → readAddress u u.cur.bank (v &&& ~~~7) = none → Traps s (.eccinj w a i) .accessViolation (v &&& ~~~7)))

/-- POSTC of a valid command in 64 bytes of memory posts it as the next match of its group and members, waiting, in the name of its launch; an
invalid one traps with ACCESS_VIOLATION, an address off a line with MISALIGNED; it waits while the table is full (05 R145; 12 R277–R279). An ABORT of the
match that has come before ends it at once, with its error bit (R290). That it first asks for its command as an ordinary load does, and waits for the reply
and for the lines of its group's table, are the model's choices (log entries 35, 58). -/
def Obligations.CollectiveWordPosts : Prop :=
  ∀ (w : BitVec 3) (a : Reg) (pa : Nat) (s : State),
    let u := issueState s
    let k := u.myBank
    let va := u.me.get a
    let n := k.ctxNum
    Readable u a →
      (va.toNat % 64 ≠ 0 → Traps s (.postc w a) .misaligned va) ∧
      (va.toNat % 64 = 0 → (256 ≤ u.esc.table.length ∨ (∃ r, (r ∈ k.mem.reqs ∨ ∃ y ∈ k.mem.returns, r = y.req) ∧ r.dest = .command)) →
        Waits s (.postc w a)) ∧
      (va.toNat % 64 = 0 → u.esc.table.length < 256 → k.mem.command = none → (∀ r, (r ∈ k.mem.reqs ∨ ∃ y ∈ k.mem.returns, r = y.req) → r.dest ≠ .command) →
        Reaches u va 64 .read [(pa, 64)] → Unpoisoned u .ordinary [(pa, 64)] →
        exec (.postc w a) s = .next ((u.setBank u.cur.bank { k with mem := { k.mem with
          seq := k.mem.seq + 1, reqs := k.mem.reqs ++ [newReq u .ordinary va [(pa, 64)] .command none false] } }).modMe
            (fun x => { x with block := none, lock := false }))) ∧
      ∀ q d, va.toNat % 64 = 0 → u.esc.table.length < 256 → (∀ r, (r ∈ k.mem.reqs ∨ ∃ y ∈ k.mem.returns, r = y.req) → r.dest ≠ .command) →
        k.mem.command = some (q, d) → groupKept u (.source (.aStream u.cur.bank)) n d = none → (∀ y ∈ u.mem.asked, y.who ≠ .source (.aStream u.cur.bank)) →
        (∀ y ∈ u.cores, ∀ j ∈ y.2.inj, j.store < 3) →
        let p := nextMatch u n d
        (commandOk u n d = false → u.cur.engine = .A → HandlerFree u u.cur.bank → ∃ t, exec (.postc w a) s = .next t ∧ t.esc = u.esc ∧
          t.myBank.tpcReg = u.me.pc ∧ t.myBank.tval = va ∧ t.myBank.tcause.toNat % 2 ^ 16 = Cause.accessViolation.code ∧ t.me.status = .trapped ∧
          t.myBank.c.pc = u.myBank.tvec ∧ ∀ i, t.byteAt i = s.byteAt i) ∧
        (commandOk u n d = true → (u.ctx n).nseg = 0 → (∀ m ∈ u.esc.aborted, m.id ≠ p) →
          ∃ t e, exec (.postc w a) s = .next t ∧ t.esc = { u.esc with table := u.esc.table ++ [e] } ∧ e.id = p ∧ e.cmd = d ∧
          e.launch = k.launchId ∧ e.origin = .unit k.launchId ∧ e.state = .waiting ∧ e.no = none ∧ e.wrote = false ∧ e.turn = none ∧ e.got = none ∧
          e.place = some (u.cur.bank, k.mem.seq) ∧ e.since = u.tick ∧ t.me = advanced u.me u.cycle w ∧ t.myBank.mem.seq = k.mem.seq + 1 ∧
          t.myBank.mem.command = none ∧ (∀ i, t.byteAt i = s.byteAt i) ∧ t.host = u.host ∧ t.time = u.time) ∧
        ∀ m, commandOk u n d = true → (u.ctx n).nseg = 0 → m ∈ u.esc.aborted → m.id = p → (∀ y ∈ u.esc.aborted, y.id = p → y = m) →
          ∃ t e, exec (.postc w a) s = .next t ∧ e.id = p ∧ e.cmd = d ∧ Aborted u t e m.reason ∧ t.esc.aborted = u.esc.aborted.filter (·.id != p) ∧
          t.me = advanced u.me u.cycle w

/-! ### Steps of banks and units -/

/-- READY_WRITE (17 R293; 01 R19): what is due of a stream's results takes effect and what is not stays; a unit that is ending, has nothing left
in flight and whose release at SYS is complete ends: its launch counts it, its bank is free, the sector tags of its launch go that no unit of lower
identity and no copy of one is left to meet (log entry 61), and its copy channels go on. That it ends in a READY_WRITE, and that a fill or drain which can move
no further row does not hold its end, are the model's choices (log entry 25). With nothing due in V, a word of V whose extra cycles are over reads its rows as
they stand, and its results in flight are those (17 R302). -/
def Obligations.ResultsTakeEffectAndUnitsEnd : Prop :=
  ∀ (b : BankId) (e : Engine) (s : State),
    let k := s.bank b
    let x := s.stream b e
    let id := k.bindRec.launch.toNat
    (k.phase = .running → (e = .V → (∃ p ∈ x.pend, p.cyc ≤ s.cycle) ∨ ∀ l ∈ k.late, s.cycle < l.due) → ∃ t, exec (.readyWrite b e) s = .next t ∧ (t.stream b e).pend = x.pend.filter (fun p => decide (s.cycle < p.cyc)) ∧
      t.mem = s.mem ∧ t.time = s.time ∧ t.host = s.host ∧ (t.stream b e).pc = x.pc ∧
      (∀ r, (∀ p ∈ x.pend, p.cyc ≤ s.cycle → p.wr.toReg r = false ∧ p.wr.toIreg r = false) → (t.stream b e).get r = x.get r) ∧
      ∀ ps c d v l, x.pend = ps ++ [⟨c, .reg d v, l⟩] → c ≤ s.cycle → d ≠ 0 → (t.stream b e).get d = v) ∧
    (∀ l, k.phase = .running → e = .V → (∀ p ∈ x.pend, s.cycle < p.cyc) → k.late = [l] → l.due ≤ s.cycle → l.undo.reg = none →
      (∀ j ∈ (s.core b.core).inj, j.hard = false) →
      ∃ t, exec (.readyWrite b e) s = .next t ∧ (t.bank b).late = [] ∧ (∀ i, (t.core b.core).row i = (s.core b.core).row i) ∧ t.mem = s.mem ∧
        t.stream b .V = { x with pend := (x.pend.take (x.pend.length - l.results) ++
          l.patch (l.fn.out (l.inputs (s.core b.core))) (x.pend.drop (x.pend.length - l.results))) }) ∧
    (∀ st, k.phase = .ending st → x.pend = [] → k.late = [] → k.mayEnd st = true → s.released b k.mem.seq = true → k.mEng.fail = none → k.kEng.fail = none →
      ∃ t, exec (.readyWrite b e) s = .next t ∧ (t.bank b).phase = .free ∧ (t.bank b).bindRec.valid = false ∧ (t.bank b).inbound = [] ∧
        (t.bank b).chans = k.chans ∧
        (∀ y, y ∈ t.mem.tags ↔ y ∈ s.mem.tags ∧ (y.2.launch = id →
          ∃ l, t.launch? id = some l ∧ ∃ u ∈ l.units, u.1 < y.2.ident ∧ ((∀ z, u.2 ≠ .ended z) ∨ ∃ c ∈ s.cores, ∃ q, (c.2.bank q).copying = true ∧
            (c.2.bank q).launchId = id ∧ (c.2.bank q).bindRec.unit.toNat = u.1))) ∧
        ∀ l, s.launch? id = some l → t.launch? id = some { l with
          count := l.count + 1, lost := l.lost + (if st = .lost then 1 else 0), units := kset l.units k.bindRec.unit.toNat (.ended st) })

/-- SEMSIG_INCREMENT: the oldest posted addition is made once the words before it and its release have completed (04 R94); no other semaphore
changes, nor memory. -/
def Sys2Proof.Claims.SignalsAdd : Prop :=
  ∀ (b : BankId) (e : Engine) (g : PostedSig) (rest : List PostedSig) (s : State),
    let k := s.bank b
    let n := k.ctxNum
    (s.stream b e).sigs = g :: rest →
      (k.doneBefore s.cycle g.mark e = false → exec (.semsigIncrement b e) s = .next s) ∧
      (k.doneBefore s.cycle g.mark e = true → s.released b (g.rel.getD k.mem.seq) = true →
        ∃ t, exec (.semsigIncrement b e) s = .next t ∧ (t.stream b e).sigs = rest ∧ (∀ m, m ≠ n → t.ctx m = s.ctx m) ∧
          (∀ i, ((t.ctx n).sem i) = if i = g.sem then { (s.ctx n).sem i with val := ((s.ctx n).sem i).val + g.inc } else (s.ctx n).sem i) ∧
          ∀ a, t.byteAt a = s.byteAt a)

/-- TILE_WATCHDOG, QUEUE_WATCHDOG, SEM_WATCHDOG: a block of its kind older than the bank's interval traps in the blocked stream with its TVAL; a
younger one goes on (01 R24). A blocked MGO or MMA has taken the arming (07 R187). -/
def Sys2Proof.Claims.WatchdogsTrap : Prop :=
  ∀ form ∈ watchdogForms, ∀ (b : BankId) (e : Engine) (y : Block) (s : State),
    let k := s.bank b
    let x := s.stream b e
    x.block = some y → y.kind = form.2.1 → x.status = .running → (s.core b.core).active = b.slot →
      (y.since + k.wdog < s.tick → exec (form.1 b e) s = .next (takeTrap (armedAway s b e) b e ⟨form.2.2, y.tval, 0, 0⟩ x.pc)) ∧
      (e ≠ .M ∨ k.wordAt k.m.pc = none → armedAway s b e = s) ∧
      (s.tick ≤ y.since + k.wdog → e ≠ .M → e ≠ .K → exec (form.1 b e) s = .next s)

/-- ENQR_ARRIVAL delivers the earliest word that is due, of one cycle the lowest sender's, and wakes WFI; WFI_WAKE wakes it on a change of the
context, a fault address or the interval (04 R106; 18 R311; 21 R365). -/
def Sys2Proof.Claims.ArrivalsAndWakes : Prop :=
  ∀ (b : BankId) (x : Nat × Nat × W64) (s : State),
    let k := s.bank b
    (x ∈ k.arrivals → (∀ y ∈ k.arrivals, y = x ∨ x.1 < y.1 ∨ (x.1 = y.1 ∧ x.2.1 < y.2.1)) → x.1 ≤ s.cycle →
      exec (.enqrArrival b) s = .next (s.setBank b { k with
        arrivals := k.arrivals.erase x, inbound := k.inbound ++ [x.2.2], wfi := k.wfi.map (fun w => { w with woken := true }) })) ∧
    ∀ w, k.wfi = some w →
      if w.changes < (s.ctxOf b).changes ∨ w.faq < s.mem.faqCount ∨ w.since + k.wdog < s.tick
      then exec (.wfiWake b) s = .next (s.setBank b { k with wfi := some { w with woken := true } })
      else exec (.wfiWake b) s = .next s

/-- Signals add, watchdogs trap, arrivals and wakes end waits (01 R24; 04 R94, R106; 21 R365). -/
def Obligations.WaitsEndOrTrap : Prop := Claims.SignalsAdd ∧ Claims.WatchdogsTrap ∧ Claims.ArrivalsAndWakes

/-- Bound queues between two banks (04 R110, R111; 18 R311): a request is accepted by a free queue and by the sender's own peer, and refused by one that
another sender has; its answer reaches the sender, a row that has crossed enters the peer's queue in order and no sooner, and a pop there gives
one credit back. That a queue which its own unit's rows have filled takes the row beyond 16 (log entry 54), and that the sender's own peer accepts it anew
(log entry 55), are the model's choices. -/
def Obligations.BoundQueuesCarryRows : Prop :=
  ∀ (b p : BankId) (q : BitVec 4) (s : State),
    let x := (s.bank b).queue q.toNat
    p ≠ b →
      (∀ r l, x.req = some r → r.stage = .posted → r.chip = s.time.chip.toNat → s.launchOf b = some l → kfind l.units r.unit = some (.placed p) →
        (s.bank p).phase ≠ .free →
        let i := r.word.toNat / 2 ^ 32 % 16
        let z := (s.bank p).queue i
        ∃ t, exec (.bindRequest b ⟨q, none⟩) s = .next t ∧ OtherBanks s t [b, p] ∧
          (z.sender = none ∨ (∃ j, z.sender = some ⟨some b, q.toNat, j⟩) → (t.bank b).queue q.toNat = atStage x r (.asked (some true)) ∧
            (t.bank p).queue i = { z with sender := some ⟨some b, q.toNat, r.id⟩ }) ∧
          (∀ y, z.sender = some y → ¬ (y.bank = some b ∧ y.q = q.toNat) →
            (t.bank b).queue q.toNat = atStage x r (.asked (some false)) ∧ t.bank p = s.bank p)) ∧
      (∀ r ok w, x.req = some r → r.stage = .asked (some ok) →
        exec (.bindAck b q w) s = .next (s.setBank b ((s.bank b).setQueue q.toNat (atStage x r (.answered ok))))) ∧
      (∀ y c r limit rest, x.binding = some y → y.way = (c, r, limit) :: rest → y.bank = some p → y.peerQ < 16 →
        let z := (s.bank p).queue y.peerQ
        (s.cycle < c → exec (.boundRowArrival b q none) s = .next s) ∧
        ∀ j, c ≤ s.cycle → z.sender = some ⟨some b, q.toNat, j⟩ → ∃ t, exec (.boundRowArrival b q none) s = .next t ∧ OtherBanks s t [b, p] ∧
          (t.bank b).queue q.toNat = { x with binding := some { y with way := rest } } ∧
          (t.bank p).queue y.peerQ = { z with rows := z.rows ++ [r], owed := z.owed ++ [some ⟨some b, q.toNat, y.id⟩] } ∧ t.mem = s.mem) ∧
      (∀ y, x.binding = some y → y.bank = some p → y.way.length < y.sent → 0 < y.back →
        exec (.creditReturn b q) s =
          .next (s.setBank b ((s.bank b).setQueue q.toNat { x with binding := some { y with sent := y.sent - 1, back := y.back - 1 } })))

/-- GBAR_COMPLETION: at its count the barrier of a unit that has arrived passes as an acquire, a new phase begins, completed records leave the checker, and
the masks that the unit has posted start to change their slices, of one boundary the highest unit's; below the count nothing happens (04 R109, R113; 18 R314,
R319). An arrival that a watchdog has interrupted is completed like another, after the unit's last (log entry 54). SPLIT_CHANGE_END: a mask change that has run its
time stands, and the ways that changed read as zero (04 R113, 18 R314). -/
def Sys2Proof.Claims.BarriersPassAndSplitsEnd : Prop :=
  (∀ (b : BankId) (g : GbarWait) (l : Launch) (s : State),
    let k := s.bank b
    let full := fun (x : GbarWait) => x.passed = false ∧ x.target ≤ kget 0 l.barrier x.group
    let n := kget 0 k.gcount g.group + 1
    let passed := fun (x : GbarWait) => if x.group = g.group then { x with passed := true } else x
    s.launchOf b = some l →
      ((∀ x ∈ k.gbar.toList ++ k.gkept, ¬ full x) → exec (.gbarCompletion b) s = .next s) ∧
      ∀ xs ys, k.gbar.toList ++ k.gkept = xs ++ g :: ys → (∀ x ∈ xs, ¬ full x) → full g → (k.splits.map (·.1)).Nodup →
        ∃ t, exec (.gbarCompletion b) s = .next t ∧ OtherBanks s t [b] ∧ t.mem = { s.mem with slices := t.mem.slices } ∧
          t.bank b = { k with
            mem := k.mem.acquire, gbar := k.gbar.map passed, gkept := k.gkept.map passed, gcount := kset k.gcount g.group n
            epoch := k.epoch + 1, check := k.check.filter (fun x => x.state != some true), splits := [] } ∧
          ∀ i, t.slice i = match kfind k.splits i with
            | none => s.slice i
            | some m => { s.slice i with changes := joinedChange (s.slice i).changes ⟨m, s.cycle + 4096, k.bindRec.unit.toNat, 1 + g.group + 1024 * n⟩ }) ∧
  ∀ (n : Nat) (c : SplitChange) (cs : List SplitChange) (s : State),
    let x := s.slice n
    let changed := fun (a : Nat) => Config.scratchBase ≤ a ∧ (a - Config.scratchBase) / 2 ^ 20 = n ∧
      (x.ways ^^^ c.mask).getLsbD ((a - Config.scratchBase) / 2 ^ 16 % 16) = true
    x.changes = c :: cs →
      (s.cycle < c.until_ → exec (.splitChangeEnd n) s = .next s) ∧
      (c.until_ ≤ s.cycle → Safety.MemoryCanonical s → ∃ t, exec (.splitChangeEnd n) s = .next t ∧
        t.slice n = { x with ways := c.mask, changes := cs } ∧ (∀ m, m ≠ n → t.slice m = s.slice m) ∧
        ∀ a, (changed a → t.byteAt a = 0) ∧ (¬ changed a → t.byteAt a = s.byteAt a))

/-- DISPATCH of a unit whose bank is chosen (20 R334; 01 R19; 03 R64; 04 R87): with every bound unit placed and its text read it starts, C at the entry, every other stream
idle, the registers 0, its parameters, keys and rounding as its launch gives them, and granules of the scratchpad that another context
used are cleared. That the bank keeps stores past the FIFO which a reset of the core has left on their way is the model's choice (log entry 58). -/
def Sys2Proof.Claims.DispatchStartsTheUnit : Prop :=
  ∀ (b : BankId) (id u : Nat) (l : Launch) (ws : List W32) (s : State),
    let k := s.bank b
    let c := s.core b.core
    s.launch? id = some l → l.done = false → l.cancel = false → kfind l.units u = some (.bound b) → b.core < Config.coreCount → k.phase = .free →
      k.faults = [] → k.badWalks = [] → boundWaiting s l = 0 → coreAwake s b.core = true → readText s b l.ctx l.text 513 l.textLen [] = .ok ws → l.tiles = [] → l.streams = [] →
      ∃ t, exec (.dispatch b id u) s = .next t ∧
        let n := t.bank b
        n.phase = .running ∧ n.runnable = true ∧ n.text = ws ∧ n.textBase = l.text ∧ n.params = l.params ∧ n.wdog = l.wdog ∧
        n.bindRec = ⟨BitVec.ofNat 32 id, BitVec.ofNat 20 u, l.desc, 0, BitVec.ofNat 16 l.ctx, l.spad, l.fst, l.cim, true, false⟩ ∧
        n.c.pc = l.text + BitVec.ofNat 64 l.entry ∧ n.c.status = .running ∧ n.c.nextIssue = s.cycle + 1 ∧
        (∀ e, e ≠ .C → (n.stream e).status = .idle) ∧ (∀ e r, (n.stream e).get r = 0) ∧
        (∀ e, (n.stream e).rndctl = l.rnd &&& 0x1F3 ∧ (n.stream e).srctr = l.srctr ∧ (n.stream e).stallctl = if l.stallck then 1 else 0) ∧
        n.tiles = Bank.reset.tiles ∧ ((∀ y ∈ l.binds, y.1.unit ≠ u) → n.queues = Bank.reset.queues) ∧
        n.mem = { BankMem.reset with seq := k.mem.seq, snap := k.mem.seq, sent := k.mem.sent, unacked := k.mem.unacked } ∧ n.kEng = KEngine.reset ∧ n.tcause = 0 ∧ n.tvec = 0 ∧
        t.bank ⟨b.core, !b.slot⟩ = s.bank ⟨b.core, !b.slot⟩ ∧ (∀ i, i ≠ b.core → t.core i = s.core i) ∧
        (∀ i, i < 4096 → l.spad.getLsbD (i / 256) = true → kfind c.spadOwner (i / 256) ≠ some (BitVec.ofNat 16 l.ctx) → (t.core b.core).row i = 0) ∧
        ((∀ g, g < 16 → l.spad.getLsbD g = true → kfind c.spadOwner g = some (BitVec.ofNat 16 l.ctx)) → ∀ i, (t.core b.core).row i = c.row i) ∧
        t.launch? id = some { l with units := kset l.units u (.placed b), binds := l.binds.filter (fun y => y.1.unit != u) } ∧ ∀ a, t.byteAt a = s.byteAt a

/-- A unit is dispatched into its bank; group barriers pass and way changes end (01 R19; 04 R109, R113; 18 R314). -/
def Obligations.UnitsStartAndPassBarriers : Prop := Claims.BarriersPassAndSplitsEnd ∧ Claims.DispatchStartsTheUnit

/-- BANK_SWITCH takes 32 cycles from where R28 calls for it, the bank at rest, to the other bank's turn (01 R28): a unit that had given way resumes as
an acquire, or ends where it had come to its end (11 R256; 21 R355); a bank whose unit is ending has its turn too (23 R382). The bank that is left asks anew
for what its streams have not read, and behind a page fault waits for the answer (21 R347). -/
def Sys2Proof.Claims.BankSwitchTakesItsTime : Prop :=
  ∀ (n : Nat) (s : State),
    let c := s.core n
    let k := c.bank c.active
    let o := c.bank (!c.active)
    let stopped := ∃ f ∈ k.faults, f.refused = false ∧ f.src.ofA = true
    let ends := ∃ x, o.phase = .ending x
    let answered := ∀ f ∈ o.faults, f.refused = true
    let ready := (o.runnable = true ∧ o.phase = .running) ∨ (o.runnable = true ∧ o.phase = .preempted ∧ answered) ∨ (ends ∧ answered)
    let wanted := k.phase = .free ∨ k.phase = .preempted ∨ stopped ∨ ((o.back = true ∨ ends) ∧ (c.want = true ∨ ∃ e, (k.stream e).block.isSome = true))
    let m : BankMem := { o.mem with seq := max o.mem.seq k.mem.seq }
    let other := fun (t : State) => (t.core n).bank (!c.active)
    let resumed : Bank := { o with back := false, phase := .running, preempt := none, yielded := none
                                   bindRec := { o.bindRec with resume := false }, mem := m.acquire }
    let left : Bank := { k with dstreams := k.dstreams.map (fun d => { d with
      run := d.run.map (fun r => { r with asked := r.asked.takeWhile (·.got.isSome) }) }) }
    (∀ x, c.switching = some x → s.cycle < x → exec (.bankSwitch n) s = .next s) ∧
    (∀ x, c.switching = some x → x ≤ s.cycle → ∃ t, exec (.bankSwitch n) s = .next t ∧ (t.core n).active = !c.active ∧ (t.core n).switching = none ∧
      (stopped → k.phase ≠ .preempted → (t.core n).bank c.active = { left with runnable := false }) ∧
      ((¬ stopped ∨ k.phase = .preempted) → (t.core n).bank c.active = left) ∧
      (o.phase ≠ .preempted → other t = { o with back := false, mem := m }) ∧
      (o.phase = .preempted → (∀ y, o.yielded = some y → y.2 = false) → other t = resumed) ∧
      (∀ y, o.phase = .preempted → o.yielded = some y → y.2 = true →
        other t = { resumed.haltAll with phase := .ending .complete, cancel := false, gbar := none, gkept := [] }) ∧
      ∀ m, m ≠ n → t.core m = s.core m) ∧
    (c.switching = none → ready → wanted → s.rests ⟨n, c.active⟩ = true →
      exec (.bankSwitch n) s = .next (s.setCore n { c with switching := some (s.cycle + 32) })) ∧
    (c.switching = none → (¬ ready ∨ ¬ wanted ∨ s.rests ⟨n, c.active⟩ = false) → exec (.bankSwitch n) s = .next s)

/-- PREEMPT_REQUEST starts the budget of the context, UNIT_RESUME sets a unit that gave way running where its bank is active (21 R355). CORERST and
CONTROL_STATE_ERROR stop a core, CORE_RESET_DONE loses its unit, one only placed too, and frees its banks, CORE_RETEST makes it usable again (21 R357). That stores past the FIFO stay on their way
(log entry 58) and that the core's stores keep their contents (log entry 32) are the model's choices. -/
def Sys2Proof.Claims.PreemptionAndCoreReset : Prop :=
  ∀ (b : BankId) (n : Nat) (v : BitVec 64) (s : State),
    let k := s.bank b
    let c := s.core n
    let budget := (s.ctxOf b).pbudget
    let stopped := fun i => s.setCore i { s.core i with resetting := true, usable := false }
    (k.phase = .running → k.preempt = none → exec (.preemptRequest b) s =
      .next (s.setBank b { k with preempt := some s.tick, budget := if budget = 0 then 400000 else budget })) ∧
    (k.phase = .preempted → (∀ y, k.yielded = some y → y.2 = false) → (s.core b.core).active = b.slot → (s.core b.core).switching = none →
      exec (.unitResume b) s = .next (s.setBank b { k with
        phase := .running, runnable := true, back := false, preempt := none, yielded := none, bindRec := { k.bindRec with resume := false }
        mem := ({ k.mem with seq := max k.mem.seq ((s.core b.core).bank (!b.slot)).mem.seq } : BankMem).acquire })) ∧
    (∀ y, k.phase = .preempted → k.yielded = some y → y.2 = true → (s.core b.core).active = b.slot → (s.core b.core).switching = none →
      ∃ t, exec (.unitResume b) s = .next t ∧ (t.bank b).phase = .ending .complete) ∧
    (k.phase = .preempted → (s.core b.core).active ≠ b.slot → exec (.unitResume b) s = .next (s.setBank b { k with runnable := true, back := true })) ∧
    (v.toNat % 2 ^ 11 < Config.coreCount → exec (.corerst v) s = .next (stopped (v.toNat % 2 ^ 11))) ∧
    (n < Config.coreCount → exec (.controlStateError n) s = .next (stopped n)) ∧
    (c.resetting = true → c.bank0.phase ≠ .free ∨ c.bank0.bindRec.valid = true → c.bank1.phase = .free → c.bank1.bindRec.valid = false →
      ∃ t, exec (.coreResetDone n) s = .next t ∧ (t.core n).usable = false ∧ (t.core n).resetting = false ∧ (t.core n).bank0.phase = .free ∧
        (t.core n).bank0.bindRec.valid = false ∧ (t.core n).tlb = [] ∧ (t.core n).bank0.queues = Bank.reset.queues ∧
        (t.core n).bank0.mem = { BankMem.reset with seq := c.bank0.mem.seq, sent := c.bank0.mem.sent, unacked := c.bank0.mem.unacked } ∧
        ∀ l, s.launch? c.bank0.launchId = some l → t.launch? c.bank0.launchId = some { l with
          count := l.count + 1, lost := l.lost + 1, units := kset l.units c.bank0.bindRec.unit.toNat (.ended .lost) }) ∧
    (n < Config.coreCount → c.resetting = false → exec (.coreRetest n true) s = .next (s.setCore n { c with usable := true })) ∧
    exec (.coreRetest n false) s = .next s

/-- Bank switches, pre-emption, kills and core resets (01 R27, R28; 21 R355–R357). -/
def Obligations.BanksSwitchAndReset : Prop := Claims.BankSwitchTakesItsTime ∧ Claims.PreemptionAndCoreReset

/-! ### Rows of streams and copy records -/

/-- STREAM_ROW_FETCH asks for the four lines of the next position, of up to four ahead, reads them once the request is at their homes and delivers the row when
it is back (05 R122, R123; 17 R303), STREAM_ROW_STORE sends the oldest row of the buffer to the FIFO (R122), FILL_ROW moves one row into its tile, which is ready
when the last is there (R128), the older fill of a stream first (R122). Which slots a row takes is the model's choice (log entry 64). -/
def Obligations.StreamRowsMove : Prop :=
  ∀ (b : BankId) (n : BitVec 3) (r : StreamRun) (ps : List Nat) (s : State),
    let k := s.bank b
    let i := n.toNat
    let x := k.ds i
    let full := fun (j : Nat) => 3 ≤ j ∨ DataStream.positions r ≤ r.next + 1
    x.run = some r → x.fault = none → k.streamHeld i = false → s.rowsMove b = true →
      (let p := r.next + r.asked.length
       r.write = false → (∀ a ∈ r.asked, a.got = none ∧ s.cycle < a.due) → r.buf.length + r.asked.length < 4 → p < DataStream.positions r →
        reachRow s b i (.dstream b i) .read (rowVa r p) 4 = .ok ps → (r.asked ≠ [] → s.slots b + 4 ≤ 512) →
        ∃ t, exec (.streamRowFetch b n) s = .next t ∧ ((t.bank b).ds i).run = some { r with asked := r.asked ++
          [⟨s.cycle + homeTimes s.mem b.core (ps.map (fun a => (a, 64))), s.tick, s.deadline 1, s.mem.gen, ps, none⟩] } ∧ ∀ a, t.byteAt a = s.byteAt a) ∧
      (∀ a, r.write = false → r.asked = [a] → a.got = none → a.due ≤ s.cycle → full r.buf.length → (∀ l ∈ a.lines, l % 64 = 0 ∧ homeHeld s.mem l = false ∧
          staleMap s.mem a.gen l = false ∧ CleanBytes s l 64) → yields s (a.due, a.lines.map (fun l => (l, 64))) = false →
        k.rowsBefore r.seq (some ((rowVa r r.next).toNat, (rowVa r r.next).toNat + 255)) = false → r.own = [] → r.lines = [] →
        (∀ x ∈ s.mem.shadow, x.bank = b → x.stream = i → x.run ≠ r.seq) → k.mem.own = [] → k.mem.lines = [] → k.mem.badLines = [] → ∃ t r', exec (.streamRowFetch b n) s = .next t ∧ ((t.bank b).ds i).run = some r' ∧
          r'.asked = [{ a with got := some (rowOf (a.lines.map (fun l => s.peek l 64)).flatten)
                               due := s.cycle + homeTimes s.mem b.core (a.lines.map (fun l => (l, 64))) }] ∧
          r'.buf = r.buf ∧ r'.next = r.next ∧ r'.given = r.given ∧ ∀ a, t.byteAt a = s.byteAt a) ∧
      (∀ a row, r.write = false → r.asked = [a] → a.got = some row → a.due ≤ s.cycle → full r.buf.length → ∃ t, exec (.streamRowFetch b n) s = .next t ∧
        ((t.bank b).ds i).run = some { r with asked := [], next := r.next + 1, buf := r.buf ++ [⟨r.next, row, 0, false⟩] } ∧ ∀ a, t.byteAt a = s.byteAt a) ∧
      (∀ y rest, r.write = true → k.moves = [] → r.buf = y :: rest →
        reachRow s b i (y.source b i) .write (rowVa r y.pos) 4 = .ok ps → s.slots b + (if k.rowsAhead i y.seq = true then 4 else 0) ≤ 512 →
        ∃ t, exec (.streamRowStore b n) s = .next t ∧ ((t.bank b).ds i).run = some { r with buf := rest } ∧
          (t.bank b).mem.own = ownStore y.seq (ps.map (fun a => (a, 64))) (rowBytes y.row) (some (i, y.drain)) ++ k.mem.own ∧
          (t.bank b).mem.dirty.length = k.mem.dirty.length + ps.length ∧ ∀ a, t.byteAt a = s.byteAt a) ∧
      (∀ m y, k.moves = [m, y] → m.drain = false → y.drain = false → m.stream = i → y.stream = i → y.tile < 32 → m.tile ≠ y.tile →
        exec (.fillRow b (BitVec.ofNat 5 y.tile)) s = .next s) ∧
      ∀ m base y rest, r.write = false → k.moves = [m] → m.drain = false → m.tile < 32 → m.stream = i → m.lifted = false → m.copies = [some base] → r.buf = y :: rest →
        m.row < m.rows → ∃ t, exec (.fillRow b (BitVec.ofNat 5 m.tile)) s = .next t ∧
          (∀ j, (t.core b.core).row j = if j = base / 256 + m.row then y.row else (s.core b.core).row j) ∧
          ((t.bank b).ds i).run = some { r with buf := rest, given := r.given + 1 } ∧
          (if m.row + 1 < m.rows then (t.bank b).moves = [{ m with row := m.row + 1 }] ∧ (t.bank b).tile m.tile = k.tile m.tile
           else (t.bank b).moves = [] ∧ (t.bank b).tile m.tile = { k.tile m.tile with state := .ready, cursor := 0 }) ∧
          ∀ a, t.byteAt a = s.byteAt a

/-- CHAIN_WALK asks for the next record of a chain and, when the request is at its home and A's words before the CPYHD let it (11 R250, R258), accepts a
valid one under the channel's next ID and goes on to the next of its chain, ends at a record the unit does not own, and
puts the channel in error at an invalid one (05 R140, R143; 17 R303); in deterministic mode the records whose turn it
is are then checked (18 R317, R319), which the model does whenever a record is accepted or a chain ends (log entry 51). RECORD_START starts the oldest accepted (R139), in deterministic mode once it has passed and its predecessors have
completed. -/
def Sys2Proof.Claims.ChainsAreWalked : Prop :=
  ∀ (b : BankId) (i : BitVec 2) (h : Chain) (hs : List Chain) (pa : Nat) (s : State),
    let k := s.bank b
    let n := i.toNat
    let c := k.chan n
    let d := s.peek pa 64
    let r := readRecord h.pos d
    let seen := fun (k : Bank) => if (s.ctx (s.bank b).ctxNum).det then checkAll ((k.chans.toList.map (fun c => c.ready.length)).sum) k else k
    let back := s.cycle + homeTimes s.mem b.core [(pa, 64)]
    let rest := hs.map (fun y => { y with start := max y.start back })
    (c.heads = h :: hs → c.fail = none → c.fault = none → h.start ≤ s.cycle → h.ask = none → CopyReaches s b n .write h.pos 64 pa →
      pieces h.pos 2 64 = [(h.pos, 64)] → exec (.chainWalk b i) s = .next (s.setBank b (k.setChan n { c with
        heads := { h with ask := some ⟨back, s.tick, s.deadline 2, s.mem.gen, [pa], none⟩ } :: hs }))) ∧
    (∀ a, c.heads = h :: hs → c.fail = none → c.fault = none → h.start ≤ s.cycle → h.ask = some a → a.due ≤ s.cycle →
      (s.ctx k.ctxNum).nseg = 0 → CopyReaches s b n .write h.pos 64 pa → CleanBytes s pa 64 → (∀ l ∈ a.lines, staleMap s.mem a.gen l = false) →
      pieces h.pos 2 64 = [(h.pos, 64)] → k.mem.older h.seq [(pa, 64)] = false → k.rowsBefore h.seq (some (h.pos.toNat, h.pos.toNat + 63)) = false →
      keptAt s (.source (.chan b n)) [(pa, 64)] = none →
      (leAt d 0 8 % 2 = 0 → ∃ t, exec (.chainWalk b i) s = .next t ∧ t.bank b = seen (k.setChan n { c with heads := rest }) ∧
        (t.core b.core).replies = (s.core b.core).replies ++ [(back, 1, a.limit)]) ∧
      (leAt d 0 8 % 2 = 1 → recordOk d = true → ∃ t, exec (.chainWalk b i) s = .next t ∧ t.bank b = seen (k.setChan n { c with
        nextId := c.nextId + 1, ready := c.ready ++ [⟨c.nextId, h.order, h.seq, r, [], 0, [], none, back, 0, 0, 0⟩]
        heads := if r.next = 0 then rest else { h with pos := r.next, start := back, ask := none } :: hs })) ∧
      (leAt d 0 8 % 2 = 1 → recordOk d = false → k.phase ≠ .free → ∃ t, exec (.chainWalk b i) s = .next t ∧ t.bank b = seen { k.setChan n { c with
        nextId := c.nextId + 1, heads := [], fail := some ⟨⟨.accessViolation, 0, 0, 0⟩, true⟩ } with
        badWalks := k.badWalks.filter (fun y => y.2 != .chan b n) })) ∧
    ∀ x rest, c.running = none → c.ready = x :: rest → c.fault = none → x.segs = [] → x.start ≤ s.cycle →
      ((s.ctx k.ctxNum).det = false ∨
        (x.verdict = some true ∧ ∀ y ∈ earlier k n x, x.xfer.preds.contains y.seqNo = true → y.state = some true) →
        exec (.recordStart b i) s = .next (s.setBank b (k.setChan n { c with
          ready := rest, running := some { x with start := s.cycle, limit := s.deadline 2, gen := s.mem.gen } }))) ∧
      ((s.ctx k.ctxNum).det = true → x.verdict = none → exec (.recordStart b i) s = .next s)

/-- RECORD_COMPLETE of a record of one run: the source is read when the request is at its homes (17 R303), with ACQ at the homes when it is written (11 R257,
R259), its bytes stand at the destination when they have come there, and then its OWN bit is cleared, COMPLETE is its ID, and its semaphore, where it names one,
rises by 1; nothing else of memory changes (05 R139, R142). What each request carries stands with it: its deadline and the count of the slice map (22 R371,
R375). -/
def Sys2Proof.Claims.RecordsCopy : Prop :=
  ∀ (b : BankId) (i : BitVec 2) (r : Accepted) (n src dst rec0 : Nat) (s : State),
    let k := s.bank b
    let c := k.chan i.toNat
    let x := r.xfer
    let there := fun (a : Nat) => homeTimes s.mem b.core [(a, n)]
    let running := fun (t : State) => ((t.bank b).chan i.toNat).running
    let free := fun (ps : List (Nat × Nat)) => keptAt s (.record b i.toNat) ps = none
    let now := fun (gen a : Nat) => staleMap s.mem gen a = false
    Safety.MemoryCanonical s → c.running = some r → c.fault = none → c.fail = none → r.segs = [] → x.e = [n, 1, 1, 1] → x.flags ≤ 1 → (s.ctx k.ctxNum).det = false →
      k.mem.reqs = [] → k.mem.dirty = [] → k.mem.sent = [] → CopyReaches s b i.toNat .write x.va 64 rec0 → pieces x.va 2 64 = [(x.va, 64)] →
      (r.runs = 0 → r.out = [] → k.rowsBefore r.seq x.dstInt = false → k.rowsBefore r.seq x.srcInt = false →
        CopyReaches s b i.toNat .read x.src n src → CopyReaches s b i.toNat .write x.dst n dst → r.start + there src ≤ s.cycle → 0 < there dst →
        let going := fun (q : List (Nat × Nat)) (d : List Byte) => some { r with
          runs := 1, out := [⟨x.src, q, [(dst, n)], d, s.tick, s.deadline 2, s.mem.gen⟩], ready := max r.ready (s.cycle + there src + there dst) }
        (x.flags = 0 → k.mem.own = [] → k.mem.lines = [] → k.mem.copied = [] → CleanBytes s src n → now r.gen src → free [(src, n)] →
          ∃ t, exec (.recordComplete b i) s = .next t ∧ running t = going [] (s.peek src n) ∧
            (t.core b.core).replies = (s.core b.core).replies ++ [(s.cycle + there src, 1, r.limit)] ∧ ∀ a, t.byteAt a = s.byteAt a) ∧
        (x.flags = 1 → ∃ t, exec (.recordComplete b i) s = .next t ∧ running t = going [(src, n)] [] ∧ ∀ a, t.byteAt a = s.byteAt a)) ∧
      (∀ o d, r.runs = 1 → r.out = [o] → o.dst = [(dst, n)] → (o.src = [] ∧ o.data = d ∨ o.src = [(src, n)] ∧ CleanBytes s src n ∧ now o.gen src ∧ d = s.peek src n) →
        d.length = n → r.ready ≤ s.cycle → now o.gen dst → free (o.src ++ [(dst, n)]) → ∃ t, exec (.recordComplete b i) s = .next t ∧
          running t = some { r with out := [], ready := s.cycle + homeTime s.mem b.core rec0, limit := s.deadline 2, gen := s.mem.gen } ∧ Stored s t dst d) ∧
      (r.runs = 1 → r.out = [] → r.ready ≤ s.cycle → now r.gen rec0 → free [(rec0, 8)] →
        ∃ t, exec (.recordComplete b i) s = .next t ∧ (∀ a, t.byteAt a = if a = rec0 then s.byteAt a &&& 0xFE else s.byteAt a) ∧
          running t = none ∧ ((t.bank b).chan i.toNat).complete = r.id ∧
          ∀ j, j < 1024 → (t.ctx k.ctxNum).sem j = if j = x.sem then { (s.ctx k.ctxNum).sem j with val := ((s.ctx k.ctxNum).sem j).val + 1 }
            else (s.ctx k.ctxNum).sem j)

/-- Chains are walked and records are copied (05 R138–R142). -/
def Obligations.CopiesRun : Prop := Claims.ChainsAreWalked ∧ Claims.RecordsCopy

/-! ### Translation, contexts, collectives -/

/-- PAGE_WALK ends as its entries say (21 R342–R345): a translation for every core that waits, a fault with its record and interrupt, a forbidden
page, an answer the host gave before, or a request to it. -/
def Sys2Proof.Claims.WalksEnd : Prop :=
  ∀ (die n : Nat) (w : Walk) (s : State),
    (s.host.walks.filter (fun x => x.1 == die))[n]? = some (die, w) → w.ats = none →
      (∀ a ∈ walkReads s w.ctx w.page, homeHeld s.mem a = false ∧ CleanBytes s a 8) →
      let gone := fun (t : State) => (die, w) ∉ t.host.walks
      (∀ e, walkTable s w.ctx w.page = .entry e → ∃ t, exec (.pageWalk die n) s = .next t ∧ gone t ∧
        (∀ r ∈ w.reqs, ∀ b, r.src.bank = some b → e ∈ (t.core b.core).tlb) ∧ (∀ r ∈ w.reqs, r.src.bank = none → e ∈ t.host.iotlb) ∧
        ∀ a, t.byteAt a = s.byteAt a) ∧
      (walkTable s w.ctx w.page = .fault → w.reqs ≠ [] → ∃ t f, exec (.pageWalk die n) s = .next t ∧ gone t ∧ t.host.frcount = s.host.frcount + 1 ∧
        t.host.faults = s.host.faults ++ [f] ∧ f.id = s.host.nextFault ∧ f.ctx = w.ctx ∧ f.gen = (s.ctx w.ctx).gen ∧
        f.va = BitVec.ofNat 64 (w.page * 65536) ∧ f.srcs.map (·.1) = w.reqs.map (·.src) ∧ t.fleet.msix = s.fleet.msix ++ [0] ∧
        ∀ r ∈ w.reqs, ∀ b, r.src = .aStream b → (s.stream b .A).status = .running → (t.stream b .A).status = .faulted) ∧
      (walkTable s w.ctx w.page = .forbidden → ∃ t, exec (.pageWalk die n) s = .next t ∧ gone t ∧ t.host.faults = s.host.faults) ∧
      (∀ h e, walkTable s w.ctx w.page = .host h e → (∀ x ∈ s.host.ats, x.iova ≠ h) → ∃ t, exec (.pageWalk die n) s = .next t ∧
        (die, { w with ats := some h }) ∈ t.host.walks ∧ t.host.faults = s.host.faults) ∧
      ∀ h e x, walkTable s w.ctx w.page = .host h e → s.host.ats.find? (fun x => x.iova == h) = some x →
        ∃ t, exec (.pageWalk die n) s = .next t ∧ gone t ∧ ∀ r ∈ w.reqs, ∀ b, r.src.bank = some b → { e with frame := x.frame } ∈ (t.core b.core).tlb

/-- The host's answers (21 R345): a translation is cached and its walks go on, none becomes a request for the page, whose success lets the walks go on
and whose failure ends them; an invalidation drops the answer and every translation made from it, and completes once nothing translated is
outstanding. -/
def Sys2Proof.Claims.HostTranslates : Prop :=
  ∀ (iova h : Nat) (s : State),
    let asked := fun (x : Nat × Walk) => x.2.ats = some iova
    ((∃ x ∈ s.host.walks, asked x ∧ x.2.pri = false) →
      (∃ t, exec (.atsTranslationResponse iova (some h)) s = .next t ∧ (∀ x ∈ t.host.walks, ¬ asked x) ∧
        ∀ x ∈ s.host.walks, asked x → ⟨x.2.ctx, x.2.page, iova, h⟩ ∈ t.host.ats ∧ (x.1, { x.2 with ats := none }) ∈ t.host.walks) ∧
      ∃ t, exec (.atsTranslationResponse iova none) s = .next t ∧ ∀ x ∈ t.host.walks, asked x → x.2.pri = true) ∧
    (∃ t, exec (.prgResponse iova true) s = .next t ∧ (∀ x ∈ t.host.walks, asked x → x.2.pri = false) ∧
      t.host.walks.length = s.host.walks.length) ∧
    (∃ t, exec (.prgResponse iova false) s = .next t ∧ ∀ x, x ∈ t.host.walks ↔ x ∈ s.host.walks ∧ ¬ (asked x ∧ x.2.pri = true)) ∧
    ∃ t, exec (.atsInvalidation iova) s = .next t ∧ (NothingTranslated s → t.host.invalOut = s.host.invalOut ++ [iova]) ∧
      (∀ a, a ∈ t.host.ats ↔ a ∈ s.host.ats ∧ a.iova ≠ iova) ∧
      (∀ n x, x ∈ (t.core n).tlb ↔ x ∈ (s.core n).tlb ∧ x.iova ≠ some iova) ∧ ∀ x, x ∈ t.host.iotlb ↔ x ∈ s.host.iotlb ∧ x.iova ≠ some iova

/-- Walks end, on the module and at the host (21 R342–R346). -/
def Obligations.TranslationsEnd : Prop := Claims.WalksEnd ∧ Claims.HostTranslates

/-- FANSWER (21 R349): an answer to a pending fault ends it, for each kind of source as the table of R349 says. A bank whose faults have all been answered
can run again, at the pc where A stands (R347), on a refusal to trap there; a refused stream is exhausted with the fault recorded, a channel is in error, a
collective aborts with REFUSED, a queue and a node of a graph run learn of it; of a coalesced group every source goes on. An answer to no pending fault is
counted, and one with another verdict does nothing. -/
def Obligations.FaultsAreAnswered : Prop :=
  ∀ (v : BitVec 64) (ok : Bool) (s : State),
    let ev := if ok then Instr.fanswerRetry v else Instr.fanswerRefuse v
    (v.toNat / 2 ^ 62 ≠ (if ok then 1 else 2) → exec ev s = .next s) ∧
    (v.toNat / 2 ^ 62 = (if ok then 1 else 2) →
      ((∀ f ∈ s.host.faults, f.id ≠ v.toNat % 2 ^ 32 ∨ (s.ctx f.ctx).gen.toNat ≠ v.toNat / 2 ^ 32 % 2 ^ 16) →
        exec ev s = .next { s with host := { s.host with lateans := s.host.lateans + 1 } }) ∧
      ∀ f, faultOf s v = some f → ∃ t, exec ev s = .next t ∧ (∀ g ∈ t.host.faults, g.id ≠ f.id) ∧
        (ok = true → (∀ x ∈ f.srcs, x.1.ofA = true) → ∀ x ∈ f.srcs, ∀ b, x.1.bank = some b → (t.bank b).faults = leftFaults (s.bank b) f.id true) ∧
        ∀ x va, f.srcs = [(x, va)] →
          (∀ b, x = .aStream b → OtherBanks s t [b] ∧ t.mem = s.mem ∧ t.bank b = goesOn s b (s.bank b) (leftFaults (s.bank b) f.id ok)) ∧
          (∀ b n, n < 8 → (x = .dstream b n ∨ x = .fill b n ∨ x = .drain b n) → OtherBanks s t [b] ∧ t.mem = s.mem ∧ t.bank b =
            goesOn s b (if ok then s.bank b else refusedStream (s.bank b) n va) (leftFaults (s.bank b) f.id ok)) ∧
          (∀ b c, c < 4 → x = .chan b c → ((s.bank b).chan c).fault = some f.id → OtherBanks s t [b] ∧
            let y := (s.bank b).chan c
            (ok = true → (t.bank b).chan c = { y with fault := none }) ∧
            (ok = false → (y.running = none ∨ ∃ r, y.running = some r ∧ r.out = [] ∧ y.heads = []) → ((t.bank b).chan c).fault = none ∧
              ((t.bank b).chan c).heads = [] ∧ ((t.bank b).chan c).running = none ∧
              ((t.bank b).chan c).fail = some ⟨⟨.translationRefused, va, 0, 0⟩, false⟩ ∧
              (y.running = none → ((t.bank b).chan c).nextId = y.nextId + 1) ∧ (y.running ≠ none → ((t.bank b).chan c).ready = []))) ∧
          (∀ b, x = .dispatch b → OtherBanks s t [b] ∧ t.mem = s.mem ∧ t.bank b = { s.bank b with faults := leftFaults (s.bank b) f.id ok }) ∧
          (∀ p e l, x = .coll p → s.entry? p = some e → e.origin = .unit l →
            (ok = true → e.fault = some f.id → t.entry? p = some { e with fault := none }) ∧
            (ok = false → Aborted s t e 5 ∧ OutMsg.abort ⟨p, 5⟩ ∈ t.esc.out)) ∧
          (∀ q, x = .queue q → (s.queue q).hold = some (.fault f.id) → t.queue q = { s.queue q with hold := none } ∧
            t.host.badQueues = s.host.badQueues ++ (if ok then [] else [q])) ∧
          ∀ r n q g, x = .node r n q → kfind s.host.runs r = some g → kfind t.host.runs r = some { g with
            faults := g.faults.filter (·.2 != f.id)
            refused := if ok = false ∧ (∃ y ∈ g.faults, y.2 = f.id) then n :: g.refused else g.refused })

/-- CONTEXT_REGISTER takes a valid descriptor with a new generation, semaphores at 0 and EQCOUNT 0; CONTEXT_UNREGISTER, CTXKILL and
PREEMPT_BUDGET_EXPIRY kill a context (21 R340, R341, R355, R356; 04 R92). That a descriptor waits where a home holds it (log entry 58), and that the post counts
of 12 R278 start anew with nothing of an older context of the number left in the escapement (log entry 63), are the model's choices. -/
def Sys2Proof.Claims.ContextsComeAndGo : Prop :=
  ∀ (v : BitVec 64) (b : BankId) (s : State),
    let n := s.host.ctxnum.toNat
    let d := s.peek v.toNat 512
    (v.toNat % 512 ≠ 0 → exec (.contextRegister v) s = .next s) ∧
    (Safety.MemoryCanonical s → v ≠ 0 → v.toNat % 512 = 0 → ctxDescOk d = true → (s.ctxs.filter (fun c => c.2.registered)).length < 4096 →
      s.fleet.module ≠ .off → CleanBytes s v.toNat 512 → mustQueue s.mem v.toNat 512 = false → ∃ t, exec (.contextRegister v) s = .next t ∧
        let c := t.ctx n
        c.registered = true ∧ c.gen = (s.ctx n).gen + 1 ∧ c.det = decide (leAt d 264 1 % 2 = 1) ∧ c.priv = decide (leAt d 264 1 / 2 % 2 = 1) ∧
        c.ptroot = leAt d 256 8 ∧ c.eqbase = leAt d 296 8 ∧ c.eqlog2 = leAt d 304 1 ∧ c.eqcount = 0 ∧ c.segtab = leAt d 336 8 ∧
        c.nseg = leAt d 344 2 ∧ (∀ i, c.sem i = ⟨0, false, 0⟩) ∧ (∀ g p, c.posts g p = 0) ∧ (∀ m, m ≠ n → t.ctx m = s.ctx m) ∧
        (∀ x ∈ t.esc.notices, x.1.ctx ≠ n) ∧ (∀ x ∈ t.esc.issued, x.id.ctx ≠ n) ∧ (∀ x ∈ t.esc.aborted, x.id.ctx ≠ n) ∧ t.esc.table = s.esc.table ∧
        Stored s t (v.toNat + 312) (List.replicate 8 0)) ∧
    (v ≠ 0 → v.toNat % 512 = 0 → s.fleet.module ≠ .off → mustQueue s.mem v.toNat 512 = true → ∃ t, exec (.contextRegister v) s = .next t ∧
      t.mem = { s.mem with queued := s.mem.queued ++ [⟨.ctxdesc n v, s.cycle, s.deadline 3⟩] } ∧ OnlyWakes s t ∧ t.ctxs = s.ctxs) ∧
    ((s.ctx n).registered = true → ∃ t, exec .contextUnregister s = .next t ∧ Killed s t n ∧ (t.ctx n).registered = false) ∧
    ((s.ctx (v.toNat % 2 ^ 16)).registered = true → ∃ t, exec (.ctxkill v) s = .next t ∧ Killed s t (v.toNat % 2 ^ 16)) ∧
    ((s.ctx (v.toNat % 2 ^ 16)).registered = false → exec (.ctxkill v) s = .next s) ∧
    ((s.bank b).preempt.isSome = true → ((s.bank b).phase = .preempted → s.rests b = false) → (s.bank b).budget = 0 →
       ∃ t, exec (.preemptBudgetExpiry b) s = .next t ∧ Killed s t (s.bank b).ctxNum)

/-- MIGDST starts a migration, every cached translation of the segment dropped, or is refused at once; MIGRATION_COMPLETE ends it once the segment is not
busy and what was translated before has been performed, and waits while it is (21 R358, R359). -/
def Sys2Proof.Claims.MigrationsRun : Prop :=
  ∀ (v : BitVec 64) (m : Migration) (s : State),
    let n := s.host.migseg.toNat / 2 ^ 16 % 2 ^ 16
    let g := s.host.migseg.toNat % 2 ^ 12
    let ps := segPages s n g
    (s.host.mig = none → (v.toNat % 65536 ≠ 0 ∨ (s.ctx n).nseg ≤ g) → exec (.migdst v) s = .next { s with host := { s.host with migstat := 3 } }) ∧
    (s.host.mig = none → v.toNat % 65536 = 0 → g < (s.ctx n).nseg → ∃ t, exec (.migdst v) s = .next t ∧
      t.host.mig = some ⟨n, g, v.toNat, s.tick⟩ ∧ t.host.migstat = 1 ∧
      (∀ i, ∀ e ∈ (t.core i).tlb, e ∈ (s.core i).tlb ∧ e.maps n ps = false) ∧ ∀ e ∈ t.host.iotlb, e.maps n ps = false) ∧
    (s.host.mig = some m →
      (leNat (s.look (segAddr s m.ctx m.seg + 16) 4) ≠ 0 → exec .migrationComplete s = .next s) ∧
      (settledSince s m.ctx m.since = false → exec .migrationComplete s = .next s) ∧
      (leNat (s.look (segAddr s m.ctx m.seg + 16) 4) = 0 → settledSince s m.ctx m.since = true →
          (∀ p ∈ (segPages s m.ctx m.seg).zipIdx, heldLines s m.ctx m.dst p.2 p.1 = []) →
          (∀ x ∈ s.mem.asked, ∀ l, x.who = .move l → yields s (x.cycle, x.pieces) = false) →
        ∃ t, exec .migrationComplete s = .next t ∧ t.host.mig = none ∧ t.host.migstat = 2 ∧
          ∀ f ∈ t.host.faults, f.ctx = m.ctx → vaBits f.va / 65536 ∉ segPages s m.ctx m.seg))

/-- Contexts are registered and destroyed, and segments migrate (21 R340, R356, R359). -/
def Obligations.ContextsAndMigrations : Prop := Claims.ContextsComeAndGo ∧ Claims.MigrationsRun

/-- COLLECTIVE_TAKE_UP sends NOTICE when the wait semaphore allows it; the anchor holds NOTICEs until all have come and then issues one ticket with a
number of its own; TICKET is taken; TICKET_START starts it in ticket order when the horizon has passed and two staging buffers are free (12 R280–R285), a replayed
reduction in its anchor's turn of the trace (R288). That the 16 port slots of R284 are left out, since they never bind first (log entry 18), that an error bit of the
wait semaphore holds nothing back (log entry 59), and that a ticket carries the count of those issued before it (log entry 63) are the model's choices. -/
def Sys2Proof.Claims.CollectivesAreOrdered : Prop :=
  ∀ (e : CollEntry) (d : Digest) (r : Nat) (no : TicketNo) (s : State),
    let p := e.id
    let w := leAt e.cmd 6 2
    let met := w < 32768 ∨ ((((s.ctx p.ctx).sem (w % 1024)).val.toNat + 2 ^ 32 - leAt e.cmd 8 4) % 2 ^ 32 < 2 ^ 31)
    let g := (members p.peers).length
    let held := (s.esc.notices.filter (fun n => n.1 == p && n.2.1 != r)) ++ [(p, r, d)]
    let others := s.esc.notices.filter (fun n => n.1 != p)
    let start := no.tau + leastHorizon s
    (s.entry? p = some e → e.state = .waiting → memberRank s p = some r →
      (met → ∃ t, exec (.collectiveTakeUp p) s = .next t ∧ t.entry? p = some { e with state := .notified } ∧
        t.esc.out = s.esc.out ++ [.notice ⟨p, digestOf e.cmd, r⟩] ∧ t.mem = s.mem) ∧
      (¬ met → exec (.collectiveTakeUp p) s = .next s)) ∧
    (memberRank s p = some 0 → r < g → (r ≠ 0 ∨ (s.entry? p = some e ∧ e.state = .notified ∧ digestOf e.cmd = d)) →
      (hasTicket s p = true → exec (.notice ⟨p, d, r⟩) s = .next s) ∧
      (hasTicket s p = false →
        ((held.length < g ∨ s.esc.last = some s.tick) → exec (.notice ⟨p, d, r⟩) s = .next { s with esc := { s.esc with notices := others ++ held } }) ∧
        (g ≤ held.length → s.esc.last ≠ some s.tick →
          ((∀ n ∈ held, n.2.2 = d) → exec (.notice ⟨p, d, r⟩) s = .next { s with esc := { s.esc with
            notices := others, seqNo := (s.esc.seqNo + 1) % 4294967296, last := some s.tick
            out := s.esc.out ++ [.ticket ⟨p, ⟨s.tick, s.time.chip.toNat, s.esc.seqNo⟩⟩]
            issued := s.esc.issued ++ [⟨p, ⟨s.tick, s.time.chip.toNat, s.esc.seqNo⟩⟩] } }) ∧
          ((∃ n ∈ held, n.2.2 ≠ d) → s.entry? p = some e → ∃ t, exec (.notice ⟨p, d, r⟩) s = .next t ∧ Aborted s t e 3)))) ∧
    (s.entry? p = some e → e.state = .notified → no.chip ≠ s.time.chip.toNat →
      ((∀ u, s.esc.top = some u → ticketBelow no u = false) → ∃ t, exec (.ticket ⟨p, no⟩) s = .next t ∧
        t.entry? p = some { e with state := .ticketed, no := some no } ∧ t.mem = s.mem) ∧
      (∀ u, s.esc.top = some u → ticketBelow no u = true → ∃ t, exec (.ticket ⟨p, no⟩) s = .next t ∧ Aborted s t e 4)) ∧
    (s.entry? p = some e → e.state = .ticketed → e.no = some no →
      let below := ∃ x ∈ s.esc.table, x.state = .ticketed ∧ ∃ u, x.no = some u ∧ ticketBelow u no = true
      let room := 2 * (s.esc.table.filter (fun x => x.state == .started && !x.wrote)).length + 2 ≤ 32
      let replays := traced e.cmd = true ∧ bits (leAt e.cmd 2 2) 5 4 = 2 ∧ memberRank s p = some 0
      (start ≤ s.tick → ¬ below → room → ∃ t, exec (.ticketStart p) s = .next t ∧
        t.entry? p = some { e with
          state := .started, since := s.tick, turn := if replays then some (s.ctx p.ctx).replays else none } ∧
        (t.ctx p.ctx).replays = (s.ctx p.ctx).replays + (if replays then 1 else 0) ∧ t.esc.out = s.esc.out ∧ t.mem = s.mem) ∧
      ((s.tick < start ∨ below ∨ ¬ room) → exec (.ticketStart p) s = .next s))

/-- ALLREDUCE, REDUCE, BROADCAST, ALLGATHER, REDUCESCATTER in free mode: with every contribution there and the poster's earlier accesses performed (11 R258), each element of the destination takes its value
and nothing else of memory changes, also where the entry has kept what the others sent; a member that receives nothing only sends (12 R275, R276, R286). -/
def Obligations.TransfersMoveElements : Prop :=
  ∀ form ∈ transferForms, ∀ (e : CollEntry) (x : Contributions) (me : Nat) (sa da : List Nat) (s : State),
    let p := e.id
    let d := e.cmd
    let z := fmtBits (leAt d 1 1 % 16) / 8
    let opr := leAt d 1 1 / 16
    let g := (members p.peers).length
    let c := leAt d 40 2 * leAt d 42 2 * leAt d 44 2 * leAt d 46 2
    let gets := form.2 ≠ 0x41 ∨ me = 0
    let gives := form.2 ≠ 0x42 ∨ me = 0
    let x' := if x = ⟨[], []⟩ then e.got.getD x else x
    let out := expected form.2 opr (leAt d 1 1 % 16) g c me (fun r n => (codesFrom s x' z me sa r).getD n 0)
    Safety.MemoryCanonical s → s.entry? p = some e → memberRank s p = some me → me < g → leAt d 16 8 = p.peers.toNat → leAt d 0 1 = form.2 →
      cKindOk d = true → opr ≠ 3 → bits (leAt d 2 2) 5 4 = 0 → e.state = .started → e.wrote = false → e.fault = none → e.segs = [] →
      e.turn = none → p ∉ s.esc.refused → e.after s (sa ++ da) = false → (∀ a ∈ da, mustQueue s.mem a z = false) →
      keptAt s (.source (.coll p)) ((sa ++ da).map (fun a => (a, z))) = none → (if gives then reachSide s p .read (sideVas d 24 48 (srcBlocks d)) = .ok sa else sa = []) →
      (if gets then reachSide s p .write (sideVas d 32 56 (dstBlocks d)) = .ok da else da = []) → (∀ a ∈ sa, CleanBytes s a z) →
      da.Pairwise (fun a b => a + z ≤ b ∨ b + z ≤ a) →
      (gets → ∀ r, r < g → (form.2 ≠ 0x42 ∨ r = 0) → r ≠ me → (codesFrom s x' z me sa r).length = srcBlocks d * c) →
      ∃ t, exec (form.1 p x) s = .next t ∧ t.entry? p = some { e with wrote := true, since := s.tick, got := none } ∧
        (∀ i, i < da.length → t.peek (da.getD i 0) z = leBytes z (out.getD i 0)) ∧
        (∀ a, (∀ y ∈ da, a < y ∨ y + z ≤ a) → t.byteAt a = s.byteAt a) ∧
        (gives → t.esc.out = s.esc.out ++ [.data p (sa.flatMap (fun a => leBytes z (leNat (s.peek a z))))]) ∧ t.ctxs = s.ctxs

/-- COLLECTIVE_DONE, with REL once the poster's earlier stores have completed, adds SINC to the set semaphore and frees the entry; COLLECTIVE_WATCHDOG aborts one
that has not moved for 2^20 ticks and is not DONE (R281), and an ABORT ends it with its reason (12 R287, R290). One that comes before this chip has posted the match
is kept for that post, and what this chip holds of the match as its anchor goes; one of a match that is over does nothing. -/
def Sys2Proof.Claims.CollectivesEnd : Prop :=
  ∀ (e : CollEntry) (why : BitVec 8) (l : Nat) (s : State),
    let p := e.id
    let n := leAt e.cmd 12 2
    let posted := (s.ctx p.ctx).posts p.group p.peers
    (s.entry? p = none → (p.k ≤ posted ∨ ∃ m ∈ s.esc.aborted, m.id = p) → exec (.abort ⟨p, why⟩) s = .next s) ∧
    (s.entry? p = none → posted < p.k → (∀ m ∈ s.esc.aborted, m.id ≠ p) → exec (.abort ⟨p, why⟩) s = .next { s with esc := { s.esc with
      notices := s.esc.notices.filter (·.1 != p), issued := s.esc.issued.filter (·.id != p), aborted := s.esc.aborted ++ [⟨p, why⟩] } }) ∧
    (s.entry? p = some e → e.origin = .unit l →
      let covered := leAt e.cmd 2 2 / 2 % 2 = 0 ∨ ∀ b n, e.place = some (b, n) → s.released b n = true
      (e.state = .started → e.wrote = true → ¬ covered → exec (.collectiveDone p) s = .next s) ∧
      (e.state = .started → e.wrote = true → covered → ∃ t, exec (.collectiveDone p) s = .next t ∧ t.entry? p = none ∧
        (n / 32768 = 1 → ((t.ctx p.ctx).sem (n % 1024)).val = ((s.ctx p.ctx).sem (n % 1024)).val + BitVec.ofNat 32 (leAt e.cmd 14 2)) ∧
        (n / 32768 = 0 → ∀ i, (t.ctx p.ctx).sem i = (s.ctx p.ctx).sem i)) ∧
      (e.state = .started → e.wrote = false → e.fault = none → e.since + 2 ^ 20 < s.tick → ∃ t, exec (.collectiveWatchdog p) s = .next t ∧ Aborted s t e 2) ∧
      ((s.tick ≤ e.since + 2 ^ 20 ∨ e.wrote = true) → exec (.collectiveWatchdog p) s = .next s) ∧
      ∃ t, exec (.abort ⟨p, why⟩) s = .next t ∧ Aborted s t e why)

/-- Collectives are noticed, ticketed, started and ended in ticket order (12 R279–R290). -/
def Obligations.CollectivesRunInOrder : Prop := Claims.CollectivesAreOrdered ∧ Claims.CollectivesEnd

/-! ### Time (12 R269–R272; 24 R391, R392) -/

/-- TICK_ADVANCE moves the counter by 1, or by 0 or 2 while a correction asks for it; pre-emption budgets run down with it but for banks that wait on a
fault answer or whose pre-empted unit has come to rest (12 R270; 21 R355). Firmware's periods run with it, and every 2^45 ticks each core strip is due
for a re-plan (24 R386, R390). -/
def Sys2Proof.Claims.TheTickAdvances : Prop :=
  ∀ (n : BitVec 2) (b : BankId) (s : State),
    let d := if n = 0 ∧ 0 < s.time.debt then 0 else if n = 2 ∧ 0 < s.time.jump then 2 else 1
    ∃ t, exec (.tickAdvance n) s = .next t ∧ t.time.tick = s.time.tick + BitVec.ofNat 64 d ∧
      (t.bank b).budget = (if (s.bank b).preempt.isSome = true ∧ ((s.bank b).phase = .preempted → s.rests b = false) ∧
        (∀ f ∈ (s.bank b).faults, f.refused = true) then (s.bank b).budget - d else (s.bank b).budget) ∧
      (d = 0 → t.time.debt = s.time.debt - 1) ∧ (d = 2 → t.time.jump = s.time.jump - 1) ∧ (∀ e, t.stream b e = s.stream b e) ∧
      t.fleet.sinceSample = s.fleet.sinceSample + d ∧ t.fleet.sinceMonitor = s.fleet.sinceMonitor + d ∧
      (s.fleet.sincePlan + d < 2 ^ 45 → t.fleet.sincePlan = s.fleet.sincePlan + d ∧ t.fleet.unplanned = s.fleet.unplanned) ∧
      (2 ^ 45 ≤ s.fleet.sincePlan + d → t.fleet.sincePlan = s.fleet.sincePlan + d - 2 ^ 45 ∧ t.fleet.unplanned = List.range 128) ∧
      ∀ a, t.byteAt a = s.byteAt a

/-- Joining a domain, where in PTP mode the settings of the clock are values of 24 R391, and leaving it, corrections of the counter, retries and PTP (12 R270–R272; 24 R392). -/
def Sys2Proof.Claims.TheDomainKeepsTime : Prop :=
  ∀ (chip : BitVec 16) (v : BitVec 64) (ptp late : Bool) (ms : List (Nat × Nat)) (h route port : Nat) (o : Int) (y : PtpPort) (s : State),
    let x := s.time
    let legal := y.domain < 128 ∧ (y.oneStep = true ∨ y.twoStep = true) ∧ -4 ≤ y.logSync ∧ y.logSync ≤ 0 ∧ -4 ≤ y.logMinDelay ∧ y.logMinDelay ≤ 0
    let slewed := fun (y : TimeState) (d : Int) => y.debt = d.toNat ∧ y.jump = (-d).toNat
    (x.hasSet = false → s.host.launches = [] → s.esc.table = [] → (∀ m ∈ ms, m.2 ≤ 16) → route ≤ 16 → (ptp = true → legal) →
      ∃ t, exec (.domainJoin chip v ptp ⟨ms, route, y⟩ h) s = .next t ∧ t.time.route = route ∧ t.time.port = (if ptp then y else x.port) ∧
      t.time.tick = v ∧ t.time.joined = true ∧ t.time.chip = chip ∧ t.time.ptp = ptp ∧ t.time.horizon = h ∧ t.time.hasSet = true ∧ t.mem = s.mem) ∧
    (x.hasSet = true ∨ (ptp = true ∧ ¬ legal) → exec (.domainJoin chip v ptp ⟨ms, route, y⟩ h) s = .next s) ∧
    (x.joined = true → ∃ t, exec .domainLeave s = .next t ∧ t.time.joined = false ∧ t.time.tick = x.tick ∧ slewed t.time 0 ∧
      ∀ e ∈ t.esc.table, (members e.id.peers).length ≤ 1) ∧
    (x.joined = true → x.ptp = false → ∃ t, exec (.alignmentMarker o) s = .next t ∧ slewed t.time o ∧ t.time.tick = x.tick ∧ t.mem = s.mem) ∧
    (port < 24 → ∃ t, exec (.linkRetry ⟨port, late⟩) s = .next t ∧ t.time = x ∧ ∀ i,
      kget 0 t.fleet.pretry i = kget 0 s.fleet.pretry i + (if i = port ∧ late = false then 1 else 0) ∧
      kget 0 t.fleet.plate i = kget 0 s.fleet.plate i + (if i = port ∧ late = true then 1 else 0)) ∧
    (x.joined = true → x.ptp = true →
      (∃ t, exec (.ptpSync o) s = .next t ∧ slewed t.time (o / 256) ∧ t.time.offset = o ∧ t.time.lastSync = s.tick ∧ t.time.tick = x.tick ∧
        (x.alarm = false → x.badSync = 15 → 5120 < o.natAbs → t.time.alarm = true ∧ t.fleet.msix = s.fleet.msix ++ [3]) ∧
        (x.alarm = true → x.okSync = 15 → o.natAbs ≤ 5120 → t.time.alarm = false)) ∧
      (x.lastSync + 800000000 ≤ s.tick → ∃ t, exec .ptpSyncLoss s = .next t ∧ t.time.alarm = true ∧ slewed t.time 0 ∧ t.time.tick = x.tick))

/-- The tick, the joining of a domain and its correction (12 R269–R271; 24 R391, R392). -/
def Obligations.TicksAndTheDomain : Prop := Claims.TheTickAdvances ∧ Claims.TheDomainKeepsTime

/-! ### Work queues and packets (20 R326–R339) -/

/-- A queue is configured, enabled, disabled, reset and rung (20 R326, R327, R331): enabling sets QRPTR to QWPTR, a doorbell off a packet or out of range
puts it in the error state. That enabling clears ERR and CODE, and that enabling and disabling clear a hold, are the model's choices (log entry 29). -/
def Sys2Proof.Claims.QueuesAreSetAndRung : Prop :=
  ∀ (q : Nat) (v : BitVec 64) (s : State),
    let x := s.queue q
    let n := v.toNat % 32
    let log := 12 ≤ n ∧ n ≤ 30
    let y : WorkQueue := { x with job := v.toNat / 2 ^ 32 % 2 ^ 10, ctx := v.toNat / 2 ^ 16 % 2 ^ 16, cp := v.toNat / 2 ^ 8 % 2 ^ 3, log2 := n }
    let on := v.toNat / 2 ^ 7 % 2 = 1
    let others := fun (t : State) => q ∉ t.host.badQueues ∧ (∀ p, p ≠ q → t.queue p = s.queue p) ∧ t.mem = s.mem
    q < 8192 →
      (x.en = false → on → log → x.base.toNat % 2 ^ n = 0 → x.qerr.toNat % 32 = 0 → (s.ctx y.ctx).registered = true →
        ∃ t, exec (.queueEnable q v) s = .next t ∧ t.queue q = { y with en := true, rptr := x.wptr, err := false, code := 0, hold := none } ∧ others t) ∧
      (x.en = true → ¬ on → log → ∃ t, exec (.queueDisable q v) s = .next t ∧ (t.queue q).en = false ∧ (t.queue q).hold = none ∧
        (t.queue q).rptr = x.rptr ∧ others t) ∧
      (x.en = false → ¬ on → log → exec (.queueConfigure q v) s = .next (s.setQueue q y)) ∧
      (x.en = true → x.err = true → ∃ t, exec (.queueReset q) s = .next t ∧ t.queue q = { x with err := false, code := 0, rptr := x.wptr } ∧ others t) ∧
      (v.toNat % 64 = 0 → (x.en = false ∨ (x.rptr.toNat ≤ v.toNat ∧ v.toNat ≤ x.rptr.toNat + 2 ^ x.log2)) →
        exec (.doorbell q v) s = .next (s.setQueue q { x with wptr := v })) ∧
      (x.en = true → x.err = false → v.toNat % 64 ≠ 0 → ∃ t, exec (.doorbell q v) s = .next t ∧ InError s t q 1) ∧
      (x.en = true → x.err = false → v.toNat % 64 = 0 → (v.toNat < x.rptr.toNat ∨ x.rptr.toNat + 2 ^ x.log2 < v.toNat) →
        ∃ t, exec (.doorbell q v) s = .next t ∧ InError s t q 2)

/-- SEMWAIT, SEMSIG and TIMED packets and the ends of their waits, CANCEL packets, and collective packets, which post the next match of their group and members
(20 R329–R331, R339; 12 R278, R279). That a CANCEL packet completes once what it names has, and that it reaches only what belongs to the context in its word, are
the model's choices (log entry 22). -/
def Sys2Proof.Claims.PacketsRun : Prop :=
  ∀ (q : Nat) (p : List Byte) (s : State),
    let x := s.queue q
    let c := s.ctx x.ctx
    let n := leAt p 2 2
    let v := BitVec.ofNat 32 (leAt p 4 4)
    (Heads s q 3 p →
      ((c.sem n).err = true → ∃ t, exec (.semwaitPacket q) s = .next t ∧ InError s t q 10) ∧
      ((c.sem n).err = false → ∃ t, exec (.semwaitPacket q) s = .next t ∧ StartedAndDone s t q ∧ (t.queue q).hold = some (.sem n v))) ∧
    (∀ m w, x.hold = some (.sem m w) →
      ((c.sem m).err = true → ∃ t, exec (.semwaitPacketRelease q) s = .next t ∧ InError s t q 10) ∧
      ((c.sem m).err = false → exec (.semwaitPacketRelease q) s = .next
        (if ((c.sem m).val.toNat + 2 ^ 32 - w.toNat) % 2 ^ 32 < 2 ^ 31 then s.setQueue q { x with hold := none } else s))) ∧
    (Heads s q 4 p → ∃ t, exec (.semsigPacket q) s = .next t ∧ StartedAndDone s t q ∧
      ∀ i, (t.ctx x.ctx).sem i = if i = n then { c.sem i with val := (c.sem i).val + v } else c.sem i) ∧
    (Heads s q 5 p → ∃ t, exec (.timed q) s = .next t ∧ StartedAndDone s t q ∧ (t.queue q).hold = some (.tick (BitVec.ofNat 64 (leAt p 8 8))) ∧
      (t.queue q).stage = if n / 2 ^ 15 = 1 then some (n % 1024) else none) ∧
    (∀ w, x.hold = some (.tick w) → exec (.timedRelease q) s = .next (if w.toNat ≤ s.tick then s.setQueue q { x with hold := none } else s)) ∧
    (∀ l, Heads s q 6 p → x.cancels = [] → leAt p 8 8 / 2 ^ 32 = x.ctx → x.ctx < 2 ^ 16 →
      (s.launch? (leAt p 8 4) = some l → l.ctx = x.ctx → l.done = false →
        ∃ t w, exec (.cancelPacket q) s = .next t ∧ Started s t q ∧ (t.queue q).cancels = [w] ∧ w.pkt = x.rptr.toNat / 64 ∧ leAt p 8 4 ∈ w.launches ∧
          x.rptr.toNat / 64 ∈ (t.queue q).active ∧ (l.count < l.units.length → LaunchCancelled t (leAt p 8 4))) ∧
      ((∀ y ∈ s.host.launches, y.1 ≠ leAt p 8 4 ∨ y.2.ctx ≠ x.ctx ∨ y.2.done = true) →
        ∃ t, exec (.cancelPacket q) s = .next t ∧ StartedAndDone s t q ∧ (t.queue q).cancels = [])) ∧
    (0x40 ≤ leAt p 0 1 → leAt p 0 1 ≤ 0x44 → Heads s q (leAt p 0 1) p → groupKept s (.source (.queue q)) x.ctx p = none → Uninjected s →
      (commandOk s x.ctx p = false → ∃ t, exec (.collectivePacket q) s = .next t ∧ InError s t q 6) ∧
      (commandOk s x.ctx p = true → (∀ m ∈ s.esc.aborted, m.id ≠ nextMatch s x.ctx p) →
        ∃ t e, exec (.collectivePacket q) s = .next t ∧ Started s t q ∧ t.esc.table = s.esc.table ++ [e] ∧
        e.cmd = p ∧ e.id = nextMatch s x.ctx p ∧ e.state = .waiting ∧ e.origin = .queue q (x.rptr.toNat / 64) ∧ e.stage = x.stage ∧ e.place = none ∧ e.turn = none))

/-- Work queues are set, rung and run, each packet to its effect (20 R326–R331). -/
def Obligations.QueuesRunPackets : Prop := Claims.QueuesAreSetAndRung ∧ Claims.PacketsRun

/-- LAUNCH packets (20 R329, R331–R336): one that Helmal starts becomes the launch of the next ID, whose number stands in QLID; a refused one is error 7,
an unreadable one 9. LAUNCH_COMPLETE writes the record once and raises the semaphore (R333). That the descriptor and the parameters are read when the
packet starts (log entry 26), and which STATUS stands where two apply and that lost units count (log entry 17), are the model's choices. -/
def Obligations.LaunchesStartAndComplete : Prop :=
  (∀ (q : Nat) (p : List Byte) (s : State),
    let x := s.queue q
    let r := startLaunch s (.queue q) x.ctx p [] (.queue q (x.rptr.toNat / 64)) x.stage x.job
    Heads s q 1 p →
      (∀ u i, r = .started u i → i = s.host.nextId ∧ ∃ t l, exec (.launch q) s = .next t ∧ Started s t q ∧ t.launch? i = some l ∧
        l.ctx = x.ctx ∧ l.desc = BitVec.ofNat 64 (leAt p 8 8) ∧ l.crec = BitVec.ofNat 64 (leAt p 24 8) ∧ l.ssem = leAt p 32 2 ∧
        l.sinc = leAt p 34 2 ∧ l.dkey = BitVec.ofNat 32 (leAt p 36 4) ∧ l.count = 0 ∧ l.done = false ∧ l.stage = x.stage ∧
        t.host.nextId = (if i ≥ 2 ^ 32 - 1 then 1 else i + 1) ∧ (t.queue q).lid.toNat % 2 ^ 32 = i % 2 ^ 32) ∧
      (r = .refuse → ∃ t, exec (.launch q) s = .next t ∧ InError s t q 7) ∧
      (r = .bad → ∃ t, exec (.launch q) s = .next t ∧ InError s t q 9)) ∧
  ∀ (id q pk pa : Nat) (l : Launch) (s : State),
    let st := if l.killed then 3 else if l.cancel then 2 else if l.first.isSome then 3 else 1
    let cause := if l.killed then 0 else match l.first with | some c => c.code | none => 0
    Safety.MemoryCanonical s → s.launch? id = some l → l.done = false → l.units.length ≤ l.count → l.crec.toNat % 64 = 0 →
      ioAddr s l.ctx l.crec .write = some pa → mustQueue s.mem pa 64 = false → Uninjected s → l.async = none → l.origin = .queue q pk →
      ∃ t, exec (.launchComplete id) s = .next t ∧ t.launch? id = some { l with done := true, binds := [] } ∧
        Stored s t pa (leBytes 1 st ++ leBytes 1 cause ++ leBytes 2 0 ++ leBytes 4 id ++ leBytes 4 l.count ++ leBytes 4 l.lost ++ leBytes 8 l.dropped ++
          leBytes 8 s.tick ++ List.replicate 32 0) ∧
        (l.ssem / 2 ^ 15 % 2 = 1 → ((t.ctx l.ctx).sem (l.ssem % 1024)).val = ((s.ctx l.ctx).sem (l.ssem % 1024)).val + BitVec.ofNat 32 l.sinc) ∧
        (pk ∈ (s.queue q).active → kget 0 t.host.jobcnt (s.queue q).job = kget 0 s.host.jobcnt (s.queue q).job + 1)

/-- Graphs (20 R337): an upload that reads and passes the check is kept, one that does not is refused; GRAPH and GTRIG begin a run of the image as it is,
and a node whose predecessors have completed starts: the launch of a LAUNCH node, with the parameters that the run's patches put in, or the match of a
collective one. A node that Helmal refuses does not start (log entry 20). That an upload reads its image in the context which CTXNUM names when it ends is the model's choice
(log entry 20). -/
def Obligations.GraphsRun : Prop :=
  ∀ (q : Nat) (p im : List Byte) (v : BitVec 64) (s : State),
    let x := s.queue q
    let slot := v.toNat % 2 ^ 8
    let begun := fun (t : State) (r : GraphRun) => kfind t.host.runs s.host.nextRun = some r ∧ t.host.nextRun = s.host.nextRun + 1 ∧ r.image = im ∧
      r.started = [] ∧ r.ended = [] ∧ r.faults = [] ∧ r.refused = [] ∧ r.count = 0 ∧ r.done = false
    (s.host.upload = none → exec (.gupload v) s = .next { s with host := { s.host with upload := some (slot, v &&& ~~~255), gupstat := 1 } }) ∧
    (∀ va, s.host.upload = some (slot, va) →
      let n := s.host.ctxnum.toNat
      let held := ((s.host.graphs.filter (·.1 != slot)).map (·.2.length)).sum
      ∀ h, vaRead s n va 64 = some h → leAt h 0 2 ≤ 4096 → vaRead s n va (64 + 128 * leAt h 0 2) = some im →
        vaKept s .upload n va (64 + 128 * leAt h 0 2) = none → Uninjected s →
        ∃ t, exec .graphUploadDone s = .next t ∧ t.host.upload = none ∧
          if imageOk' im = true ∧ held + im.length ≤ Config.schedulerBytes then t.host.gupstat = 2 ∧ kfind t.host.graphs slot = some im
          else t.host.gupstat = 3 ∧ t.host.graphs = s.host.graphs) ∧
    (kfind s.host.graphs slot = some im → slotBusy s slot = false → (s.ctx (v.toNat / 2 ^ 16 % 2 ^ 16)).registered = true →
      ∃ t r, exec (.gtrig v) s = .next t ∧ begun t r ∧ r.ctx = v.toNat / 2 ^ 16 % 2 ^ 16 ∧ r.slot = slot ∧ r.origin = none) ∧
    (Heads s q 2 p → kfind s.host.graphs (leAt p 2 1) = some im → leAt p 4 2 = 0 →
      ∃ t r, exec (.graph q) s = .next t ∧ begun t r ∧ r.ctx = x.ctx ∧ r.slot = leAt p 2 1 ∧ r.origin = some (q, x.rptr.toNat / 64) ∧ Started s t q) ∧
    (Heads s q 2 p → kfind s.host.graphs (leAt p 2 1) = none → ∃ t, exec (.graph q) s = .next t ∧ InError s t q 7) ∧
    ∀ run node r, kfind s.host.runs run = some r →
      let d := (nodeOf r.image node).take 64
      let src : Source := .node run node (match r.origin with | some o => o.1 | none => 8192)
      let ps := r.patches.filter (fun y => y.1 == node)
      let begin := startLaunch s src r.ctx d (ps.map (·.2)) (.graph run node) r.stage r.job
      (r.mayStart node = false → exec (.graphNodeStart run node) s = .next s) ∧
      (∀ u i, r.mayStart node = true → leAt d 0 1 = 1 → begin = .started u i → i = s.host.nextId ∧
        ∃ t r' l, exec (.graphNodeStart run node) s = .next t ∧ kfind t.host.runs run = some r' ∧ r'.started = node :: r.started ∧ t.launch? i = some l ∧
          l.origin = .graph run node ∧ l.ctx = r.ctx ∧ l.desc = BitVec.ofNat 64 (leAt d 8 8) ∧ l.crec = BitVec.ofNat 64 (leAt d 24 8) ∧ l.ssem = leAt d 32 2 ∧
          l.sinc = leAt d 34 2 ∧ l.stage = r.stage ∧ l.job = r.job ∧ l.count = 0 ∧ l.done = false ∧
          (∀ qs j v, ps = qs ++ [(node, j, v)] → j < 64 → l.params.getD j 0 = v) ∧ t.host.nextId = if i ≥ 2 ^ 32 - 1 then 1 else i + 1) ∧
      (r.mayStart node = true → leAt d 0 1 = 1 → (begin = .refuse ∨ begin = .bad) → exec (.graphNodeStart run node) s = .next s) ∧
      (r.mayStart node = true → leAt d 0 1 ≠ 1 → commandOk s r.ctx d = true → s.esc.table.length < 256 → groupKept s (.source src) r.ctx d = none → Uninjected s →
        (∀ m ∈ s.esc.aborted, m.id ≠ nextMatch s r.ctx d) → ∃ t r' e, exec (.graphNodeStart run node) s = .next t ∧ kfind t.host.runs run = some r' ∧
          r'.started = node :: r.started ∧ t.esc.table = s.esc.table ++ [e] ∧ e.origin = .graph run node ∧ e.cmd = d ∧ e.id = nextMatch s r.ctx d)

/-- CANCEL of a launch, graph, stage or job (20 R338, R339; 01 R21; 12 R291): every launch it reaches is cancelled, its running units at their next safe
points, the others never start; every graph run it reaches is cancelled and starts no node more; every collective posted in it that is not DONE aborts
with CANCELLED; a job's queues have nothing left to start, a stage's go on at its closing TIMED packet. A launch whose last unit has ended stands, and so does
a run whose last node has, and at another level the word does nothing. -/
def Obligations.CancelReachesItsLevel : Prop :=
  ∀ (y : Nat) (form : BitVec 64 → Instr) (v : BitVec 64) (s : State), CancelForm y form →
    let n := v.toNat % 2 ^ 32
    let c := v.toNat / 2 ^ 32 % 2 ^ 16
    (v.toNat / 2 ^ 62 ≠ y → exec (form v) s = .next s) ∧
    (v.toNat / 2 ^ 62 = y → ∃ t, exec (form v) s = .next t ∧
      (∀ i l, s.launch? i = some l → l.done = false → l.count < l.units.length → LaunchReached s y c n i l →
        ∃ l', t.launch? i = some l' ∧ l'.cancel = true ∧ (l.cancel = false → (∀ u ∈ l'.units, u.2.unstarted = false) ∧
          ∀ b, (s.bank b).bindRec.valid = true → (s.bank b).launchId = i → ((s.bank b).phase = .running ∨ (s.bank b).phase = .preempted) →
            (t.bank b).cancel = true)) ∧
      (∀ j r, RunReached s y c n j r → ∃ r', kfind t.host.runs j = some r' ∧ r'.cancel = true ∧ ∀ m, r'.mayStart m = false) ∧
      (∀ e, s.entry? e.id = some e → e.wrote = false → CollReached s y c n e → t.entry? e.id = none ∧ OutMsg.abort ⟨e.id, 10⟩ ∈ t.esc.out ∧
        let i := leAt e.cmd 12 2
        (i / 32768 = 1 → ((t.ctx e.id.ctx).sem (i % 1024)).err = true ∧ ((t.ctx e.id.ctx).sem (i % 1024)).why = 10)) ∧
      (∀ i l, s.launch? i = some l → l.units.length ≤ l.count → t.launch? i = some l) ∧
      (∀ j r, kfind s.host.runs j = some r → RunEnded s j r → ∃ r', kfind t.host.runs j = some r' ∧ r'.cancel = r.cancel) ∧
      (y = 3 → ∀ q, (s.queue q).ctx = c → (s.queue q).job = n → (t.queue q).rptr = (s.queue q).wptr) ∧
      (y = 2 → s.host.launches = [] → s.host.runs = [] → s.esc.table = [] → ∀ q, (s.queue q).ctx = c → (s.queue q).stage = some n →
        let x := s.queue q
        let pos := fun (k : Nat) => x.rptr + BitVec.ofNat 64 (64 * k)
        let timed := fun (k : Nat) => ∃ d, vaRead s c (x.at_ (pos k)) 64 = some d ∧ leAt d 0 1 = 5
        ∀ k, k < 2 ^ 24 → (∀ j, j < k → (pos j).toNat < x.wptr.toNat ∧ ¬ timed j) →
          (x.wptr.toNat ≤ (pos k).toNat → (t.queue q).rptr = x.wptr) ∧
          ((pos k).toNat < x.wptr.toNat → timed k → (t.queue q).rptr = pos k)))

/-! ### The memory system (22 R369–R381) and CXL.mem (20 R323) -/

/-- Reads at a channel of a line, of data or of parity, that nothing holds (22 R377–R380): a clean one changes nothing; a fourth corrected event of a page
makes a fault-address entry, the first of a page starts its count; an uncorrectable line is rebuilt where its parity group or its clean tier copy answers, else
poisoned. SCRUB is such a read; that it waits where a home holds its line is the model's choice (log entry 58). A rebuild's end lets requests go on. -/
def Sys2Proof.Claims.ChannelReadsReport : Prop :=
  ∀ (a : Nat) (p m : Bool) (s : State),
    (LineThere a → rebuildHeld s.mem a = false → mustQueue s.mem (a / 64 * 64) 64 = false →
      ∀ ev ∈ ([Instr.memoryRead a, Instr.scrub a] : List (EccOutcome → Instr)),
      exec (ev .clean) s = .next s ∧
      (∀ n, s.mem.events.find? (fun e => e.1 == a / 65536) = some (a / 65536, n) → n ≠ 3 →
        ∃ t, exec (ev .corrected) s = .next t ∧ OnlyMemSys s t ∧ t.mem.events.head? = some (a / 65536, n + 1) ∧ t.mem.faq = s.mem.faq) ∧
      ((∀ e ∈ s.mem.events, e.1 ≠ a / 65536) →
        ∃ t, exec (ev .corrected) s = .next t ∧ OnlyMemSys s t ∧ t.mem.events.head? = some (a / 65536, 1) ∧ t.mem.faq = s.mem.faq) ∧
      (s.mem.events.find? (fun e => e.1 == a / 65536) = some (a / 65536, 3) → s.mem.faq.length < 256 →
        ∃ t x, exec (ev .corrected) s = .next t ∧ t.mem.faq = s.mem.faq ++ [x] ∧ t.fleet.msix = s.fleet.msix ++ [1] ∧ x.toNat % 2 ^ 52 = a / 64 * 64 % 2 ^ 52 ∧
          x.toNat / 2 ^ 58 % 4 = 0 ∧ x.toNat / 2 ^ 60 = (if a < 2 ^ 41 then 4 else 5)) ∧
      (s.mem.faq.length < 256 → isProtected s.mem a = true → (∀ l ∈ groupLines (parityGroup a), l ≠ a / 64 * 64 → GoodSource s l) →
        Rebuilds s a (ev (.uncorrectable true m))) ∧
      (s.mem.faq.length < 256 → a < 2 ^ 41 → (isProtected s.mem a = false ∨ p = false) → mirrorClean s.mem a = true → (∀ l, tierCopy s.mem a = some l → GoodSource s l) →
        Rebuilds s a (ev (.uncorrectable p true))) ∧
      (s.mem.faq.length < 256 → (a < 2 ^ 41 → (isProtected s.mem a = false ∨ p = false) ∧ (mirrorClean s.mem a = false ∨ m = false)) →
        ∃ t x, exec (ev (.uncorrectable p m)) s = .next t ∧ a / 64 ∈ t.mem.poison ∧ t.mem.rebuilds = s.mem.rebuilds ∧ t.mem.faq = s.mem.faq ++ [x] ∧
          x.toNat / 2 ^ 58 % 4 = 2 ∧ t.mem.cells = s.mem.cells)) ∧
    (LineThere a → ∀ o, (rebuildHeld s.mem a = true → exec (.memoryRead a o) s = .next s) ∧
      (mustQueue s.mem (a / 64 * 64) 64 = true → ∃ t, exec (.scrub a o) s = .next t ∧ OnlyWakes s t ∧
        t.mem = { s.mem with queued := s.mem.queued ++ [⟨.scrub a o, s.cycle, s.deadline 3⟩] })) ∧
    (a / 64 ∉ s.mem.rebuilds → exec (.rebuildWriteback a) s = .next s) ∧
    (a / 64 ∈ s.mem.rebuilds → ∃ t, exec (.rebuildWriteback a) s = .next t ∧ OnlyMemSys s t ∧
      ∀ l, l ∈ t.mem.rebuilds ↔ l ∈ s.mem.rebuilds ∧ l ≠ a / 64)

/-- The registers of 22 R376 and a slice's retirement (R375): FAQPOP, BPRETIRE, PROTMAP, MIRROR; SLRETIRE moves the slice's buckets to another slice under a
new count, or its request stands until the slice may go, and the write-back, which takes with it the sector tags of those buckets, and the resent requests end the
move. That MIRROR does nothing for a length which is no multiple of 2 MiB is the model's choice (log entry 43). -/
def Sys2Proof.Claims.MemoryRegistersAct : Prop :=
  ∀ (v : BitVec 64) (i : Nat) (s : State),
    let n := v.toNat % 2 ^ 11
    (∃ t, exec .faqpop s = .next t ∧ OnlyMemSys s t ∧ t.mem.faq = s.mem.faq.tail) ∧
    (∃ t, exec (.bpretire v) s = .next t ∧ OnlyMemSys s t ∧ ∀ j, t.mem.badPages.getD j 0 =
      if j = v.toNat % 2 ^ 12 ∧ j < s.mem.badPages.length then s.mem.badPages.getD j 0 ||| 2 ^ 57 else s.mem.badPages.getD j 0) ∧
    (i < 20 → ∃ t, exec (.protmap i v) s = .next t ∧ OnlyMemSys s t ∧ ∀ j, j < 64 → (kget 0 t.mem.protmap i).getLsbD j =
      (if mapsGib s (64 * i + j) then (kget 0 s.mem.protmap i).getLsbD j else v.getLsbD j)) ∧
    (v.toNat % 2 ^ 21 ≠ 0 → exec (.mirror i v) s = .next s) ∧
    (i < 64 → v.toNat % 2 ^ 21 = 0 → ∃ t, exec (.mirror i v) s = .next t ∧ OnlyMemSys s t ∧
      (let y := kget ⟨0, 0, 0⟩ s.mem.mirrors i
       kget ⟨0, 0, 0⟩ t.mem.mirrors i = { y with len := v } ∧
       ∀ l, l ∈ t.mem.mirDirty ↔ l ∈ s.mem.mirDirty ∧ ¬ (y.base.toNat ≤ 64 * l ∧ 64 * l < y.base.toNat + v.toNat))) ∧
    (v.getLsbD 63 = true → mayRetire s n = true → ∃ t, exec (.slretire v) s = .next t ∧ OnlyMemSys s t ∧ (t.slice n).retired = true ∧
      t.mem.gen = s.mem.gen + 1 ∧ (∃ bs, t.mem.moving = some (n, bs) ∧ ∀ b, b ∈ bs ↔ b < 16384 ∧ kget (b % 1280) s.mem.smap b = n) ∧
      ∀ b, b < 16384 → kget (b % 1280) s.mem.smap b = n → kget 0 t.mem.moved b = s.mem.gen + 1) ∧
    ((v.getLsbD 63 = false ∨ 1280 ≤ n ∨ (s.slice n).retired = true) → exec (.slretire v) s = .next s) ∧
    (v.getLsbD 63 = true → n < 1280 → (s.slice n).retired = false → mayRetire s n = false → exec (.slretire v) s = .next
      { s with mem := { s.mem with retire := if n ∈ s.mem.retire then s.mem.retire else s.mem.retire ++ [n] } }) ∧
    (∀ x, s.mem.moving = some x → ∃ t, exec .retirementWritebackDone s = .next t ∧ t.mem.moving = none ∧ t.mem.cells = s.mem.cells ∧
      t.cores = s.cores ∧ ∀ y, y ∈ t.mem.tags ↔ y ∈ s.mem.tags ∧ ¬ (isDevice (32 * y.1) = true ∧ bucketOf (32 * y.1) ∈ x.2)) ∧
    (∀ b k, firstStale s s.cores = some (b, k) → ∃ t, exec .rehashReply s = .next t ∧ t.mem.rehash = s.mem.rehash + 1 ∧ t.bank b = k ∧
      ∀ p, p ≠ b → t.bank p = s.bank p)

/-- Errors at the channels and the registers that answer them (22 R375–R380). -/
def Obligations.MemoryErrorsAndRegisters : Prop := Claims.ChannelReadsReport ∧ Claims.MemoryRegistersAct

/-- CXL_MEM_ACCESS writes or reads device memory at its home (20 R323), a read with its bytes and their poison (22 R379). That it stands for the host's access to
its own memory too, and that one which its home holds is kept and waits, are the model's choices (log entry 58). A register write stores its value or, off its form, does nothing, and a register reads as what it holds or, off its form, as 0 (20 R324–R326). -/
def Obligations.HostAccessesAct : Prop :=
  ∀ (a n : Nat) (d : List Byte) (v : BitVec 64) (s : State),
    (Safety.MemoryCanonical s → d ≠ [] → frameExists s a = true → frameExists s (a + d.length - 1) = true → mustQueue s.mem a d.length = false →
      s.fleet.module ≠ .off →
      ∃ t, exec (.cxlMemAccess a 0 (some d)) s = .next t ∧ Stored s t a d ∧ t.fleet.module = .run ∧ t.fleet.lastCxl = s.tick) ∧
    (Safety.MemoryCanonical s → d ≠ [] → Config.hostBase ≤ a → a + d.length ≤ Config.scratchBase → mustQueue s.mem a d.length = false → s.fleet.module ≠ .off →
      ∃ t, exec (.cxlMemAccess a 0 (some d)) s = .next t ∧ Stored s t a d) ∧
    (frameExists s a = true → frameExists s (a + n - 1) = true → mustQueue s.mem a n = false → s.fleet.module ≠ .off → armedIn s a n = [] →
      ∃ t, exec (.cxlMemAccess a n none) s = .next t ∧ t.mem = s.mem ∧ t.fleet.lastCxl = s.tick ∧
        t.fleet.cxlReads = s.fleet.cxlReads ++ [(a, s.peek a n, poisonedIn s a n)]) ∧
    (frameExists s a = true → s.fleet.module ≠ .off → ∀ x k, (x = none ∧ k = n ∨ x = some d ∧ k = d.length) → frameExists s (a + k - 1) = true →
      mustQueue s.mem a k = true → ∃ t, exec (.cxlMemAccess a n x) s = .next t ∧
        t.mem = { s.mem with queued := s.mem.queued ++ [⟨.cxl a k x, s.cycle, s.deadline 1⟩] } ∧ t.fleet.cxlReads = s.fleet.cxlReads) ∧
    exec (.registerWrite 0x200 v 8) s = .next { s with host := { s.host with ctxnum := v.setWidth 16 } } ∧
    (∀ q, q < 8192 → (s.queue q).en = false →
      exec (.registerWrite (0x100000 + 64 * q) v 8) s = .next (s.setQueue q { s.queue q with base := v }) ∧
      exec (.registerWrite (0x100000 + 64 * q + 0x28) v 8) s = .next (s.setQueue q { s.queue q with qerr := v })) ∧
    (∀ q, q < 8192 → (s.queue q).en = true → exec (.registerWrite (0x100000 + 64 * q) v 8) s = .next s) ∧
    ((v.toNat % 2 ^ 16 < 4000 ∨ 8000 < v.toNat % 2 ^ 16) → exec (.registerWrite 0x408 v 8) s = .next s) ∧
    (4000 ≤ v.toNat % 2 ^ 16 → v.toNat % 2 ^ 16 ≤ 8000 → exec (.registerWrite 0x408 v 8) s = .next { s with fleet := { s.fleet with pcap := v.setWidth 16 } }) ∧
    (∀ off size bar, size ≠ 8 ∨ off % 8 ≠ 0 → exec (.registerWrite off v size) s = .next s ∧ barRead s bar off size = 0) ∧
    ∀ q, q < 8192 →
      let x := s.queue q
      let reads := fun (o : Nat) => barRead s false (0x100000 + 64 * q + o) 8
      let state := (reads 0x20).toNat % 4
      barRead s true (4096 * q) 8 = x.wptr ∧ reads 0 = x.base ∧ reads 0x10 = x.wptr ∧ reads 0x18 = x.rptr ∧ reads 0x28 = x.qerr ∧ reads 0x30 = x.lid ∧
        (x.en = false → state = 0) ∧ (x.en = true → x.err = true → state = 3) ∧ (x.en = true → x.err = false → x.hold ≠ none → state = 2)

/-! ### The fleet side (24 R384–R394) -/

/-- The power cap and ageing (24 R385, R386, R390): at the sample of a 400,000-tick period, over the cap a strip loses 25 MHz, not below 900; under the bound it
regains them from the tenth sample on, not above its limit; a strip to which the re-plan comes has its voltage raised up to the part's limit, then its clock
lowered, then its cores given up, each counted in AGESEQ; at 115 °C, or after 100 samples over the cap, the module trips: its contexts are lost and its HBM,
the core map stands. That lost bytes read as 0 with their poison and queues gone is log entry 3, that the tier's bytes stay log entry 21, that a strip starts at
1,600 MHz log entry 4: the model's choices. -/
def Sys2Proof.Claims.PowerIsCapped : Prop :=
  ∀ (mw k : Nat) (temp : Int) (s : State),
    let cap := 1000 * s.fleet.pcap.toNat
    k < 128 →
      (s.fleet.sinceSample < 400000 → exec (.powerSample mw temp k) s = .next s) ∧
      (400000 ≤ s.fleet.sinceSample → (cap < mw ∨ 100 < temp) → ∃ t, exec (.powerSample mw temp k) s = .next t ∧ OnlyFleet s t ∧
        clockOf t k = max 900 (clockOf s k - 25) ∧ (∀ j, j ≠ k → clockOf t j = clockOf s j) ∧ t.fleet.cool = 0 ∧ t.fleet.modpwr.toNat = mw % 2 ^ 32 ∧
        t.fleet.sinceSample = s.fleet.sinceSample - 400000) ∧
      (400000 ≤ s.fleet.sinceSample → 100 * mw ≤ 98 * cap → temp < 95 → ∃ t, exec (.powerSample mw temp k) s = .next t ∧ OnlyFleet s t ∧
        t.fleet.cool = s.fleet.cool + 1 ∧ clockOf t k = (if 9 ≤ s.fleet.cool then min (limitOf s k) (clockOf s k + 25) else clockOf s k) ∧
        (∀ j, j ≠ k → clockOf t j = clockOf s j) ∧ t.fleet.sinceSample = s.fleet.sinceSample - 400000) ∧
      (temp < 115 → s.fleet.overCnt < 100 → exec (.thermtrip temp) s = .next s) ∧
      (115 ≤ temp ∨ 100 ≤ s.fleet.overCnt → ∃ t, exec (.thermtrip temp) s = .next t ∧ t.fleet.module = .off ∧ t.ctxs = [] ∧ t.host.queues = [] ∧
        (∀ i, t.core i = { Core.reset with usable := (s.core i).usable }) ∧ (∀ l, l < Config.hbmSize / 64 → l ∉ t.mem.poison) ∧
        (Safety.MemoryCanonical s → ∀ a, t.byteAt a = if Config.hbmSize ≤ a ∧ a < Config.scratchBase then s.byteAt a else 0)) ∧
      (s.fleet.plans k = false → ∀ x, exec (.marginReplan k x) s = .next s) ∧
      (s.fleet.plans k = true →
        (∃ t, exec (.marginReplan k .raiseVoltage) s = .next t ∧ OnlyFleet s t ∧
          if kget 0 s.fleet.volts k < Config.voltageSteps k then
            t.fleet.ageseq = s.fleet.ageseq + 1 ∧ kget 0 t.fleet.volts k = kget 0 s.fleet.volts k + 1 ∧ t.fleet.msix = s.fleet.msix ++ [2]
          else t.fleet = planningAt s k) ∧
        (925 ≤ limitOf s k → Config.voltageSteps k ≤ kget 0 s.fleet.volts k → ∃ t, exec (.marginReplan k .lowerClock) s = .next t ∧ OnlyFleet s t ∧
          limitOf t k = limitOf s k - 25 ∧ clockOf t k = min (limitOf s k - 25) (clockOf s k) ∧ t.fleet.ageseq = s.fleet.ageseq + 1) ∧
        (limitOf s k = 900 → Config.voltageSteps k ≤ kget 0 s.fleet.volts k → ∃ t, exec (.marginReplan k .markUnusable) s = .next t ∧
          (∀ c, c < 1280 → (t.core c).usable = ((s.core c).usable && !coreIn c k)) ∧
          ((∃ c, c < 1280 ∧ (s.core c).usable = true ∧ coreIn c k = true) → t.fleet.ageseq = s.fleet.ageseq + 1) ∧
          ((∀ c, c < 1280 → coreIn c k = true → (s.core c).usable = false) → t.fleet = planningAt s k))) ∧
      (s.fleet.sinceMonitor < 2 ^ 36 → exec .monitorRead s = .next s) ∧
      (2 ^ 36 ≤ s.fleet.sinceMonitor → exec .monitorRead s = .next { s with fleet := { s.fleet with sinceMonitor := s.fleet.sinceMonitor - 2 ^ 36 } })

/-- Power states (24 R387–R389): an idle strip, die or module enters the deepest state that LTOL allows, comes to RUN on a wake, before a TIMED packet's tick
and when LTOL no longer allows its depth; an unused scratchpad bank is retained. -/
def Sys2Proof.Claims.PowerStatesFollowUse : Prop :=
  ∀ (d pos q n : Nat) (i : BitVec 4) (v : BitVec 64) (s : State),
    let k := 24 * d + pos
    let tol := s.fleet.ltol.toNat * 400
    s.fleet.module ≠ .off →
      (d < 8 → pos < 24 → stripIdle s k = true → ∃ t, exec (.powerStateEntry (.strip d pos)) s = .next t ∧ OnlyFleet s t ∧
        kget .run t.fleet.strips k = if 8000 ≤ tol then .retention else if 800 ≤ tol then .light else .run) ∧
      (d < 8 → (∀ j, j < 24 → 24 * d + j ∉ busyStrips s) → 80000 ≤ tol → ∃ t, exec (.powerStateEntry (.die d)) s = .next t ∧ OnlyFleet s t ∧
        kget .run t.fleet.dies d = .retention) ∧
      (moduleIdle s = true → 2000000 ≤ tol → ∃ t, exec (.powerStateEntry .module) s = .next t ∧ OnlyFleet s t ∧ t.fleet.module = .retention) ∧
      (∃ t, exec (.powerWake (.strip d pos)) s = .next t ∧ OnlyFleet s t ∧ t.fleet.module = .run ∧ kget .run t.fleet.dies d = .run ∧
        kget .run t.fleet.strips k = .run) ∧
      (∀ w, (s.queue q).hold = some (.tick w) → w.toNat ≤ s.tick + s.fleet.exitLatency → ∃ t, exec (.timedPrewake q) s = .next t ∧ OnlyFleet s t ∧
        t.fleet.module = .run ∧ ∀ j, kget .run t.fleet.strips j = .run ∧ kget .run t.fleet.dies j = .run) ∧
      (∃ t, exec (.ltol v) s = .next t ∧ OnlyFleet s t ∧ t.fleet.ltol.toNat = v.toNat % 2 ^ 32 ∧ ∀ j, kget .run s.fleet.strips j = .retention →
        kget .run t.fleet.strips j = if 8000 ≤ v.toNat % 2 ^ 32 * 400 then .retention else .run) ∧
      (n < Config.coreCount → coreAwake s n = true → kget 0 (s.core n).lastUse i.toNat + 65536 ≤ s.cycle → ∃ t, exec (.spadBankRetention n i) s = .next t ∧
        (∀ j, j < 16 → (t.core n).retained.getLsbD j = ((s.core n).retained.getLsbD j || decide (j = i.toNat))) ∧
        ∀ j, (t.core n).row j = (s.core n).row j)

/-- The cap, and the power states that follow use (24 R386–R389). -/
def Obligations.PowerIsManaged : Prop := Claims.PowerIsCapped ∧ Claims.PowerStatesFollowUse

/-- Firmware and resets (24 R387, R393; 22 R381; 12 R269): an image is verified, staged, and takes effect at MODULE_RESET, after which registers and contexts
are as after reset while memory, the tick and the usable marks stand; power off loses all but the host's memory, the bad-page list and the firmware, and
power on starts the tick at 0. What a module reset keeps besides the tick, and that power off keeps the host's memory (log entry 21), and that lost bytes read as 0 (log entry 3), are the
model's choices. -/
def Sys2Proof.Claims.ResetsAndFirmware : Prop :=
  ∀ (v : BitVec 64) (c : FirmwareCheck) (s : State),
    let ok := c.signatureOk = true ∧ (∃ i, i < 4 ∧ c.keyHash = Config.keySlot i ∧ Config.keyRevoked i = false) ∧ Config.fusedVersion ≤ c.version
    (s.fleet.fwstat ≠ 1 → exec (.fwstage v) s = .next { s with fleet := { s.fleet with image := v, fwstat := 1 } }) ∧
    (s.fleet.fwstat = 1 → ∃ f, exec (.firmwareVerifyDone c) s = .next { s with fleet := f } ∧ (ok → f = { s.fleet with fwstat := 2, staged := some c }) ∧
      (¬ ok → f = { s.fleet with fwstat := 3 })) ∧
    (∃ t, exec .moduleReset s = .next t ∧ t.mem.cells = s.mem.cells ∧ t.time = s.time ∧ t.ctxs = [] ∧ t.host = HostState.reset ∧ t.esc = Escapement.reset ∧
      (∀ b, t.bank b = Bank.reset) ∧ (∀ i, (t.core i).usable = (s.core i).usable) ∧
      t.fleet.inEffect = (match s.fleet.staged with | some x => some x | none => s.fleet.inEffect) ∧
      t.fleet.images = s.fleet.images + (if s.fleet.staged.isSome then 1 else 0) ∧
      t.mem.badPages = (match s.fleet.staged with | some x => if x.eraseFlag then [] else s.mem.badPages | none => s.mem.badPages)) ∧
    (Safety.MemoryCanonical s → ∃ t, exec .modulePowerOff s = .next t ∧ t.fleet.powered = false ∧ t.cores = [] ∧ t.mem.badPages = s.mem.badPages ∧
      t.fleet.inEffect = s.fleet.inEffect ∧
      ∀ a, t.byteAt a = if Config.hostBase ≤ a ∧ a < Config.scratchBase then s.byteAt a else 0) ∧
    (s.fleet.powered = false → ∃ t, exec .powerOn s = .next t ∧ t.fleet.powered = true ∧ t.time.tick = 0 ∧ t.cores = [] ∧ t.ctxs = [])

/-- Each SPDM request gets one answer (24 R394): version 1.2, no key exchange or session, RSASSA 4096 and SHA-512, slot 0's one chain and its SHA-512, a
signature over the nonce, and the measurement of one index: the boot ROM's, the firmware's by the image in effect, the fuses', the bad-page list's hash (in
what bytes it is hashed is log entry 62, the model's). Nothing else but the model's count of free values changes. That a slot other than 0 is answered with an error is log entry 42. -/
def Sys2Proof.Claims.AttestationAnswers : Prop :=
  ∀ (nonce : BitVec 256) (i : Nat) (s : State),
    let answers := fun (ev : Instr) (a : SpdmAnswer → Prop) => ∃ t x, exec ev s = .next t ∧ a x ∧ t.fleet = { s.fleet with spdm := s.fleet.spdm ++ [x] } ∧
      t.mem = s.mem ∧ t.cores = s.cores ∧ t.ctxs = s.ctxs ∧ t.host = s.host
    answers .getVersion (· = .version 1 2) ∧ answers .getCapabilities (· = .capabilities false false) ∧
    answers .negotiateAlgorithms (· = .algorithms true true) ∧ answers .getDigests (· = .digests (sha512 Config.certificateChain)) ∧
    answers (.getCertificate 0) (· = .certificate 0 Config.certificateChain) ∧ (i ≠ 0 → answers (.getCertificate i) (· = .error)) ∧
    answers (.challenge nonce) (fun x => ∃ d, x = .challengeAuth nonce d) ∧
    answers (.getMeasurements 1) (· = .measurements [(1, Config.romMeasurement)]) ∧
    (2 ≤ i → i ≤ 4 → answers (.getMeasurements i) (· = .measurements [(i, Config.firmwareMeasurement i s.fleet.inEffect s.fleet.images)])) ∧
    answers (.getMeasurements 5) (· = .measurements
      [(5, Config.fuseMeasurement ((List.range 4).map (fun k => (Config.keySlot k, Config.keyRevoked k))) Config.fusedVersion)]) ∧
    answers (.getMeasurements 6) (· = .measurements [(6, sha512 (s.mem.badPages.flatMap (fun e => leBytes 8 e.toNat)))])

/-- Module reset, power, firmware and attestation (24 R386, R393, R394). -/
def Obligations.ModuleResetsAndAttests : Prop := Claims.ResetsAndFirmware ∧ Claims.AttestationAnswers

/-! ### Steps, decoding, reset and what every step keeps -/

/-- A STEP RUNS THE DECODED WORD (02 R32): a stream that moves issues the word its unit's text holds at its pc, decoded in the
stream and the mode of its context. A word that fails a check traps in its own stream at its own pc with the word as TVAL, an MGO or MMA taking the arming
with it (07 R187); a pc with no word of the text raises ACCESS_VIOLATION (02 R33 gives the text; the model's choice of cause, log entry 23); a refusal
A still has to take is its next trap (21 R349); a stream that may not issue does nothing; A that waits for fault answers goes on once they are there and its
older words complete (21 R347, R368). With a step of the table that has no encoding
next, exec runs it; with nothing next, the next core cycle begins (the agenda is the model's own: log entry 1). -/
def Obligations.StepRunsDecodedWord : Prop :=
  ∀ (s : State) (core : Nat) (e : Engine) (rest : List Agendum),
    s.fleet.powered = true →
    let b : BankId := ⟨core, (s.core core).active⟩
    let v : State := { s with agenda := rest }
    let u := if e = .A ∧ (s.bank b).a.status = .faulted ∧ (s.bank b).aStopped = false ∧ (s.bank b).aDone = true then
      v.modBank b (fun k => { k with a := { k.a with status := .running, lock := false } }) else v
    let k := u.bank b
    let pc := (k.stream e).pc
    let taken : State → W32 → State := fun t x =>
      if e = .M ∧ fld x 29 3 = 3 ∧ (fld x 20 6 = 5 ∨ fld x 20 6 = 7) then t.modBank b (fun k => { k with mEng := { k.mEng with armed := false } }) else t
    (s.agenda = .issue core e :: rest → mayIssue u b e = false → step s = .next u) ∧
    (s.agenda = .issue core e :: rest → mayIssue u b e = true →
      (∀ f, e = .A → refusedFor k = some f → step s = .next
        (takeTrap (u.modBank b (fun k => { k with faults := k.faults.erase f })) b e ⟨.translationRefused, f.va, 0, 0⟩ pc)) ∧
      (e ≠ .A ∨ refusedFor k = none →
        (k.wordAt pc = none → step s = .next (takeTrap u b e ⟨.accessViolation, pc, 0, 0⟩ pc)) ∧
        ∀ x, k.wordAt pc = some x →
          (∀ c, decodeWord ⟨e, (s.ctxOf b).priv⟩ x = .error c → step s = .next (takeTrap (taken u x) b e ⟨c, x.setWidth 64, 0, 0⟩ pc)) ∧
          ∀ i, decodeWord ⟨e, (s.ctxOf b).priv⟩ x = .ok i → step s = exec i { u with cur := ⟨b, e, x⟩ })) ∧
    (∀ ev, s.agenda = .event ev :: rest → step s = exec ev v) ∧
    (s.agenda = [] → step s = .next (refill s))

/-- The module goes on from every state in which it has power, whatever moves next: no word and no step of the table stops it. Without
power nothing but powering up moves it (24 R386, R387; the fault is the model's: log entry 21). -/
def Obligations.OnlyWantOfPowerStops : Prop :=
  (∀ s : State, Safety.StopsOnlyUnpowered s) ∧
  (∀ s : State, s.fleet.powered = false → (∀ rest, s.agenda ≠ .event .powerOn :: rest) → step s = .fault .poweredOff) ∧
  ∀ s : State, s.fleet.powered = false → ∀ rest, s.agenda = .event .powerOn :: rest → ∃ t, step s = .next t ∧ t.fleet.powered = true

/-- A sanity statement: the sample words decode to what the encodings of 02 R40–R47 say, and words that fail checks 1 to 7 of R32 are
refused with the first cause that applies. -/
def Obligations.SampleWordsDecode : Prop :=
  (∀ p ∈ Claims.sampleWords, decodeWord ⟨p.2.1, true⟩ p.1 = .ok p.2.2) ∧
  decodeWord ⟨.C, true⟩ 0xA0000000 = .error .illegalWord ∧
  decodeWord ⟨.V, true⟩ 0x20500000 = .error .foreignWord ∧
  decodeWord ⟨.A, true⟩ 0xC0500000 = .error .foreignWord ∧
  decodeWord ⟨.C, false⟩ 0xC0500000 = .error .privilege ∧
  decodeWord ⟨.C, true⟩ 0xE0E00000 = .error .illegalWord ∧
  decodeWord ⟨.C, true⟩ 0xE0000001 = .error .illegalWord ∧
  decodeWord ⟨.V, true⟩ 0x400000F0 = .error .reservedOperand ∧
  decodeWord ⟨.V, true⟩ 0x40F00000 = .error .illegalWord ∧
  decodeWord ⟨.V, true⟩ 0x400E0000 = .error .reservedOperand

/-- What the spec says stands after reset: no handler (21 R361), the zero register; LTOL 0 and PCAP 8,000 (24 R385); the deadline registers (22
R371); the horizon (12 R283); the first launch's id 1 (20 R326); the tick 0 (12 R269). Memory lists nothing; that a byte not listed reads as 0 (log entry 3), and
that a register for which the spec gives no reset value holds 0 (log entry 4), are the model's choices. -/
def Obligations.ResetValues : Prop :=
  let s := State.reset
  (∀ b : BankId, (s.bank b).tvec = 0 ∧ (s.bank b).phase = .free ∧ (∀ e, ((s.bank b).stream e).status = .idle ∧ ∀ r, ((s.bank b).stream e).get r = 0)) ∧
  s.fleet.ltol = 0 ∧ s.fleet.pcap = 8000 ∧ s.fleet.module = .run ∧ s.mem.dlb.toList = [400, 2000, 20000, 400000] ∧ s.time.horizon = 4096 ∧
  s.host.nextId = 1 ∧ (∀ q, (s.queue q).en = false ∧ (s.queue q).err = false) ∧ (∀ n, (s.ctx n).registered = false) ∧
  s.tick = 0 ∧ (∀ a, s.byteAt a = 0) ∧ Safety.MemoryCanonical s

/-- ENCODE THEN DECODE: the word of every well-formed instruction decodes to it, every operand at every value, in the stream
of its class; a word of the common class so decodes in every stream and mode (02 R31, R40–R47). -/
def Obligations.EncodedWordsDecode : Prop :=
  ∀ (i : Instr) (x : W32), i.wf = true → encode i = some x →
    (∃ e, decodeWord ⟨e, true⟩ x = .ok i) ∧ (fld x 29 3 = 7 → ∀ env, decodeWord env x = .ok i)

/-- DECODE THEN ENCODE: what any stream decodes is well formed, and its encoding is the word decoded: no two words of a class mean the same, and
no reserved bit is dropped (02 R32, R40–R47). -/
def Obligations.DecodedWordsEncode : Prop :=
  ∀ (env : DecodeEnv) (x : W32) (i : Instr), decodeWord env x = .ok i → i.wf = true ∧ encode i = some x

/-- Every step keeps memory canonical (the form is the model's: log entry 3), so that memories that read the same are the same. -/
def Obligations.MemoryStaysCanonical : Prop :=
  Safety.Invariant Safety.MemoryCanonical ∧
  ∀ l m : List Host.Cell, Memory.wf l = true → Memory.wf m = true → (∀ a, Cells.get l a = Cells.get m a) → l = m
end

