-- ==== Sys2Proof/Laws/State.lean ====
section
/-! SUPPORT. The small lemmas of keyed lists, of State and of its banks and streams: what an update leaves of each field, and
what is read after it. -/

namespace Sys2Proof.Machine

/-! ### Keyed lists -/

theorem kfind_kset_same {α : Type} (l : List (Nat × α)) (k : Nat) (x : α) : kfind (kset l k x) k = some x := by
  induction l with
  | nil => simp [kset, kfind]
  | cons p l ih =>
    obtain ⟨j, y⟩ := p
    simp only [kset]
    split
    · simp [kfind]
    · split
      · simp [kfind]
      · simp [kfind, *]

theorem kfind_kset_ne {α : Type} (l : List (Nat × α)) {k k' : Nat} (x : α) (h : k' ≠ k) : kfind (kset l k x) k' = kfind l k' := by
  induction l with
  | nil => simp [kset, kfind, h.symm]
  | cons p l ih =>
    obtain ⟨j, y⟩ := p
    simp only [kset]
    split
    · subst_vars; simp [kfind, h.symm]
    · split
      · simp only [kfind, h.symm, if_false]
        split
        · have h1 : j ≠ k' := by omega
          have h2 : k' < j := by omega
          simp [h1, h2]
        · rfl
      · simp only [kfind, ih]

theorem kget_kset {α : Type} (d : α) (l : List (Nat × α)) (k k' : Nat) (x : α) :
    kget d (kset l k x) k' = if k' = k then x else kget d l k' := by
  unfold kget
  split
  · subst_vars; simp [kfind_kset_same]
  · next h => rw [kfind_kset_ne l x h]

@[simp] theorem kget_kset_same {α : Type} (d : α) (l : List (Nat × α)) (k : Nat) (x : α) : kget d (kset l k x) k = x := by
  simp [kget_kset]

/-! ### Fields of State after an update -/

@[simp] theorem State.setCore_agenda (s : State) (n : Nat) (c : Core) : (s.setCore n c).agenda = s.agenda := rfl
@[simp] theorem State.setCore_cur (s : State) (n : Nat) (c : Core) : (s.setCore n c).cur = s.cur := rfl
@[simp] theorem State.setCore_cycle (s : State) (n : Nat) (c : Core) : (s.setCore n c).cycle = s.cycle := rfl
@[simp] theorem State.setCore_freeCtr (s : State) (n : Nat) (c : Core) : (s.setCore n c).freeCtr = s.freeCtr := rfl
@[simp] theorem State.setCore_ctxs (s : State) (n : Nat) (c : Core) : (s.setCore n c).ctxs = s.ctxs := rfl
@[simp] theorem State.setCore_host (s : State) (n : Nat) (c : Core) : (s.setCore n c).host = s.host := rfl
@[simp] theorem State.setCore_mem (s : State) (n : Nat) (c : Core) : (s.setCore n c).mem = s.mem := rfl
@[simp] theorem State.setCore_time (s : State) (n : Nat) (c : Core) : (s.setCore n c).time = s.time := rfl
@[simp] theorem State.setCore_esc (s : State) (n : Nat) (c : Core) : (s.setCore n c).esc = s.esc := rfl
@[simp] theorem State.setCore_fleet (s : State) (n : Nat) (c : Core) : (s.setCore n c).fleet = s.fleet := rfl

@[simp] theorem State.setBank_agenda (s : State) (b : BankId) (x : Bank) : (s.setBank b x).agenda = s.agenda := rfl
@[simp] theorem State.setBank_cur (s : State) (b : BankId) (x : Bank) : (s.setBank b x).cur = s.cur := rfl
@[simp] theorem State.setBank_cycle (s : State) (b : BankId) (x : Bank) : (s.setBank b x).cycle = s.cycle := rfl
@[simp] theorem State.setBank_freeCtr (s : State) (b : BankId) (x : Bank) : (s.setBank b x).freeCtr = s.freeCtr := rfl
@[simp] theorem State.setBank_ctxs (s : State) (b : BankId) (x : Bank) : (s.setBank b x).ctxs = s.ctxs := rfl
@[simp] theorem State.setBank_host (s : State) (b : BankId) (x : Bank) : (s.setBank b x).host = s.host := rfl
@[simp] theorem State.setBank_mem (s : State) (b : BankId) (x : Bank) : (s.setBank b x).mem = s.mem := rfl
@[simp] theorem State.setBank_time (s : State) (b : BankId) (x : Bank) : (s.setBank b x).time = s.time := rfl
@[simp] theorem State.setBank_esc (s : State) (b : BankId) (x : Bank) : (s.setBank b x).esc = s.esc := rfl
@[simp] theorem State.setBank_fleet (s : State) (b : BankId) (x : Bank) : (s.setBank b x).fleet = s.fleet := rfl

@[simp] theorem State.modBank_agenda (s : State) (b : BankId) (f : Bank → Bank) : (s.modBank b f).agenda = s.agenda := rfl
@[simp] theorem State.modBank_cur (s : State) (b : BankId) (f : Bank → Bank) : (s.modBank b f).cur = s.cur := rfl
@[simp] theorem State.modBank_cycle (s : State) (b : BankId) (f : Bank → Bank) : (s.modBank b f).cycle = s.cycle := rfl
@[simp] theorem State.modBank_freeCtr (s : State) (b : BankId) (f : Bank → Bank) : (s.modBank b f).freeCtr = s.freeCtr := rfl
@[simp] theorem State.modBank_ctxs (s : State) (b : BankId) (f : Bank → Bank) : (s.modBank b f).ctxs = s.ctxs := rfl
@[simp] theorem State.modBank_host (s : State) (b : BankId) (f : Bank → Bank) : (s.modBank b f).host = s.host := rfl
@[simp] theorem State.modBank_mem (s : State) (b : BankId) (f : Bank → Bank) : (s.modBank b f).mem = s.mem := rfl
@[simp] theorem State.modBank_time (s : State) (b : BankId) (f : Bank → Bank) : (s.modBank b f).time = s.time := rfl
@[simp] theorem State.modBank_esc (s : State) (b : BankId) (f : Bank → Bank) : (s.modBank b f).esc = s.esc := rfl
@[simp] theorem State.modBank_fleet (s : State) (b : BankId) (f : Bank → Bank) : (s.modBank b f).fleet = s.fleet := rfl

@[simp] theorem State.setStream_agenda (s : State) (b : BankId) (e : Engine) (x : Stream) : (s.setStream b e x).agenda = s.agenda := rfl
@[simp] theorem State.setStream_cur (s : State) (b : BankId) (e : Engine) (x : Stream) : (s.setStream b e x).cur = s.cur := rfl
@[simp] theorem State.setStream_cycle (s : State) (b : BankId) (e : Engine) (x : Stream) : (s.setStream b e x).cycle = s.cycle := rfl
@[simp] theorem State.setStream_freeCtr (s : State) (b : BankId) (e : Engine) (x : Stream) : (s.setStream b e x).freeCtr = s.freeCtr := rfl
@[simp] theorem State.setStream_ctxs (s : State) (b : BankId) (e : Engine) (x : Stream) : (s.setStream b e x).ctxs = s.ctxs := rfl
@[simp] theorem State.setStream_host (s : State) (b : BankId) (e : Engine) (x : Stream) : (s.setStream b e x).host = s.host := rfl
@[simp] theorem State.setStream_mem (s : State) (b : BankId) (e : Engine) (x : Stream) : (s.setStream b e x).mem = s.mem := rfl
@[simp] theorem State.setStream_time (s : State) (b : BankId) (e : Engine) (x : Stream) : (s.setStream b e x).time = s.time := rfl
@[simp] theorem State.setStream_esc (s : State) (b : BankId) (e : Engine) (x : Stream) : (s.setStream b e x).esc = s.esc := rfl
@[simp] theorem State.setStream_fleet (s : State) (b : BankId) (e : Engine) (x : Stream) : (s.setStream b e x).fleet = s.fleet := rfl

@[simp] theorem State.modStream_agenda (s : State) (b : BankId) (e : Engine) (f : Stream → Stream) : (s.modStream b e f).agenda = s.agenda := rfl
@[simp] theorem State.modStream_cur (s : State) (b : BankId) (e : Engine) (f : Stream → Stream) : (s.modStream b e f).cur = s.cur := rfl
@[simp] theorem State.modStream_cycle (s : State) (b : BankId) (e : Engine) (f : Stream → Stream) : (s.modStream b e f).cycle = s.cycle := rfl
@[simp] theorem State.modStream_freeCtr (s : State) (b : BankId) (e : Engine) (f : Stream → Stream) : (s.modStream b e f).freeCtr = s.freeCtr := rfl
@[simp] theorem State.modStream_ctxs (s : State) (b : BankId) (e : Engine) (f : Stream → Stream) : (s.modStream b e f).ctxs = s.ctxs := rfl
@[simp] theorem State.modStream_host (s : State) (b : BankId) (e : Engine) (f : Stream → Stream) : (s.modStream b e f).host = s.host := rfl
@[simp] theorem State.modStream_mem (s : State) (b : BankId) (e : Engine) (f : Stream → Stream) : (s.modStream b e f).mem = s.mem := rfl
@[simp] theorem State.modStream_time (s : State) (b : BankId) (e : Engine) (f : Stream → Stream) : (s.modStream b e f).time = s.time := rfl
@[simp] theorem State.modStream_esc (s : State) (b : BankId) (e : Engine) (f : Stream → Stream) : (s.modStream b e f).esc = s.esc := rfl
@[simp] theorem State.modStream_fleet (s : State) (b : BankId) (e : Engine) (f : Stream → Stream) : (s.modStream b e f).fleet = s.fleet := rfl

@[simp] theorem State.modMyBank_agenda (s : State) (f : Bank → Bank) : (s.modMyBank f).agenda = s.agenda := rfl
@[simp] theorem State.modMyBank_cur (s : State) (f : Bank → Bank) : (s.modMyBank f).cur = s.cur := rfl
@[simp] theorem State.modMyBank_cycle (s : State) (f : Bank → Bank) : (s.modMyBank f).cycle = s.cycle := rfl
@[simp] theorem State.modMyBank_freeCtr (s : State) (f : Bank → Bank) : (s.modMyBank f).freeCtr = s.freeCtr := rfl
@[simp] theorem State.modMyBank_ctxs (s : State) (f : Bank → Bank) : (s.modMyBank f).ctxs = s.ctxs := rfl
@[simp] theorem State.modMyBank_host (s : State) (f : Bank → Bank) : (s.modMyBank f).host = s.host := rfl
@[simp] theorem State.modMyBank_mem (s : State) (f : Bank → Bank) : (s.modMyBank f).mem = s.mem := rfl
@[simp] theorem State.modMyBank_time (s : State) (f : Bank → Bank) : (s.modMyBank f).time = s.time := rfl
@[simp] theorem State.modMyBank_esc (s : State) (f : Bank → Bank) : (s.modMyBank f).esc = s.esc := rfl
@[simp] theorem State.modMyBank_fleet (s : State) (f : Bank → Bank) : (s.modMyBank f).fleet = s.fleet := rfl

@[simp] theorem State.modMe_agenda (s : State) (f : Stream → Stream) : (s.modMe f).agenda = s.agenda := rfl
@[simp] theorem State.modMe_cur (s : State) (f : Stream → Stream) : (s.modMe f).cur = s.cur := rfl
@[simp] theorem State.modMe_cycle (s : State) (f : Stream → Stream) : (s.modMe f).cycle = s.cycle := rfl
@[simp] theorem State.modMe_freeCtr (s : State) (f : Stream → Stream) : (s.modMe f).freeCtr = s.freeCtr := rfl
@[simp] theorem State.modMe_ctxs (s : State) (f : Stream → Stream) : (s.modMe f).ctxs = s.ctxs := rfl
@[simp] theorem State.modMe_host (s : State) (f : Stream → Stream) : (s.modMe f).host = s.host := rfl
@[simp] theorem State.modMe_mem (s : State) (f : Stream → Stream) : (s.modMe f).mem = s.mem := rfl
@[simp] theorem State.modMe_time (s : State) (f : Stream → Stream) : (s.modMe f).time = s.time := rfl
@[simp] theorem State.modMe_esc (s : State) (f : Stream → Stream) : (s.modMe f).esc = s.esc := rfl
@[simp] theorem State.modMe_fleet (s : State) (f : Stream → Stream) : (s.modMe f).fleet = s.fleet := rfl

@[simp] theorem State.setCtx_agenda (s : State) (n : Nat) (c : Ctx) : (s.setCtx n c).agenda = s.agenda := rfl
@[simp] theorem State.setCtx_cur (s : State) (n : Nat) (c : Ctx) : (s.setCtx n c).cur = s.cur := rfl
@[simp] theorem State.setCtx_cycle (s : State) (n : Nat) (c : Ctx) : (s.setCtx n c).cycle = s.cycle := rfl
@[simp] theorem State.setCtx_freeCtr (s : State) (n : Nat) (c : Ctx) : (s.setCtx n c).freeCtr = s.freeCtr := rfl
@[simp] theorem State.setCtx_cores (s : State) (n : Nat) (c : Ctx) : (s.setCtx n c).cores = s.cores := rfl
@[simp] theorem State.setCtx_host (s : State) (n : Nat) (c : Ctx) : (s.setCtx n c).host = s.host := rfl
@[simp] theorem State.setCtx_mem (s : State) (n : Nat) (c : Ctx) : (s.setCtx n c).mem = s.mem := rfl
@[simp] theorem State.setCtx_time (s : State) (n : Nat) (c : Ctx) : (s.setCtx n c).time = s.time := rfl
@[simp] theorem State.setCtx_esc (s : State) (n : Nat) (c : Ctx) : (s.setCtx n c).esc = s.esc := rfl
@[simp] theorem State.setCtx_fleet (s : State) (n : Nat) (c : Ctx) : (s.setCtx n c).fleet = s.fleet := rfl

@[simp] theorem State.modCtx_agenda (s : State) (n : Nat) (f : Ctx → Ctx) : (s.modCtx n f).agenda = s.agenda := rfl
@[simp] theorem State.modCtx_cur (s : State) (n : Nat) (f : Ctx → Ctx) : (s.modCtx n f).cur = s.cur := rfl
@[simp] theorem State.modCtx_cycle (s : State) (n : Nat) (f : Ctx → Ctx) : (s.modCtx n f).cycle = s.cycle := rfl
@[simp] theorem State.modCtx_freeCtr (s : State) (n : Nat) (f : Ctx → Ctx) : (s.modCtx n f).freeCtr = s.freeCtr := rfl
@[simp] theorem State.modCtx_cores (s : State) (n : Nat) (f : Ctx → Ctx) : (s.modCtx n f).cores = s.cores := rfl
@[simp] theorem State.modCtx_host (s : State) (n : Nat) (f : Ctx → Ctx) : (s.modCtx n f).host = s.host := rfl
@[simp] theorem State.modCtx_mem (s : State) (n : Nat) (f : Ctx → Ctx) : (s.modCtx n f).mem = s.mem := rfl
@[simp] theorem State.modCtx_time (s : State) (n : Nat) (f : Ctx → Ctx) : (s.modCtx n f).time = s.time := rfl
@[simp] theorem State.modCtx_esc (s : State) (n : Nat) (f : Ctx → Ctx) : (s.modCtx n f).esc = s.esc := rfl
@[simp] theorem State.modCtx_fleet (s : State) (n : Nat) (f : Ctx → Ctx) : (s.modCtx n f).fleet = s.fleet := rfl

@[simp] theorem State.setLaunch_agenda (s : State) (id : Nat) (l : Launch) : (s.setLaunch id l).agenda = s.agenda := rfl
@[simp] theorem State.setLaunch_cur (s : State) (id : Nat) (l : Launch) : (s.setLaunch id l).cur = s.cur := rfl
@[simp] theorem State.setLaunch_cycle (s : State) (id : Nat) (l : Launch) : (s.setLaunch id l).cycle = s.cycle := rfl
@[simp] theorem State.setLaunch_freeCtr (s : State) (id : Nat) (l : Launch) : (s.setLaunch id l).freeCtr = s.freeCtr := rfl
@[simp] theorem State.setLaunch_cores (s : State) (id : Nat) (l : Launch) : (s.setLaunch id l).cores = s.cores := rfl
@[simp] theorem State.setLaunch_ctxs (s : State) (id : Nat) (l : Launch) : (s.setLaunch id l).ctxs = s.ctxs := rfl
@[simp] theorem State.setLaunch_mem (s : State) (id : Nat) (l : Launch) : (s.setLaunch id l).mem = s.mem := rfl
@[simp] theorem State.setLaunch_time (s : State) (id : Nat) (l : Launch) : (s.setLaunch id l).time = s.time := rfl
@[simp] theorem State.setLaunch_esc (s : State) (id : Nat) (l : Launch) : (s.setLaunch id l).esc = s.esc := rfl
@[simp] theorem State.setLaunch_fleet (s : State) (id : Nat) (l : Launch) : (s.setLaunch id l).fleet = s.fleet := rfl

@[simp] theorem State.modRun_agenda (s : State) (r : Nat) (f : GraphRun → GraphRun) : (s.modRun r f).agenda = s.agenda := rfl
@[simp] theorem State.modRun_cur (s : State) (r : Nat) (f : GraphRun → GraphRun) : (s.modRun r f).cur = s.cur := rfl
@[simp] theorem State.modRun_cycle (s : State) (r : Nat) (f : GraphRun → GraphRun) : (s.modRun r f).cycle = s.cycle := rfl
@[simp] theorem State.modRun_freeCtr (s : State) (r : Nat) (f : GraphRun → GraphRun) : (s.modRun r f).freeCtr = s.freeCtr := rfl
@[simp] theorem State.modRun_cores (s : State) (r : Nat) (f : GraphRun → GraphRun) : (s.modRun r f).cores = s.cores := rfl
@[simp] theorem State.modRun_ctxs (s : State) (r : Nat) (f : GraphRun → GraphRun) : (s.modRun r f).ctxs = s.ctxs := rfl
@[simp] theorem State.modRun_mem (s : State) (r : Nat) (f : GraphRun → GraphRun) : (s.modRun r f).mem = s.mem := rfl
@[simp] theorem State.modRun_time (s : State) (r : Nat) (f : GraphRun → GraphRun) : (s.modRun r f).time = s.time := rfl
@[simp] theorem State.modRun_esc (s : State) (r : Nat) (f : GraphRun → GraphRun) : (s.modRun r f).esc = s.esc := rfl
@[simp] theorem State.modRun_fleet (s : State) (r : Nat) (f : GraphRun → GraphRun) : (s.modRun r f).fleet = s.fleet := rfl

@[simp] theorem State.poke_agenda (s : State) (a : Nat) (bs : List Byte) : (s.poke a bs).agenda = s.agenda := rfl
@[simp] theorem State.poke_cur (s : State) (a : Nat) (bs : List Byte) : (s.poke a bs).cur = s.cur := rfl
@[simp] theorem State.poke_cycle (s : State) (a : Nat) (bs : List Byte) : (s.poke a bs).cycle = s.cycle := rfl
@[simp] theorem State.poke_freeCtr (s : State) (a : Nat) (bs : List Byte) : (s.poke a bs).freeCtr = s.freeCtr := rfl
@[simp] theorem State.poke_cores (s : State) (a : Nat) (bs : List Byte) : (s.poke a bs).cores = s.cores := rfl
@[simp] theorem State.poke_ctxs (s : State) (a : Nat) (bs : List Byte) : (s.poke a bs).ctxs = s.ctxs := rfl
@[simp] theorem State.poke_host (s : State) (a : Nat) (bs : List Byte) : (s.poke a bs).host = s.host := rfl
@[simp] theorem State.poke_time (s : State) (a : Nat) (bs : List Byte) : (s.poke a bs).time = s.time := rfl
@[simp] theorem State.poke_esc (s : State) (a : Nat) (bs : List Byte) : (s.poke a bs).esc = s.esc := rfl
@[simp] theorem State.poke_fleet (s : State) (a : Nat) (bs : List Byte) : (s.poke a bs).fleet = s.fleet := rfl

@[simp] theorem State.modLaunch_agenda (s : State) (id : Nat) (f : Launch → Launch) : (s.modLaunch id f).agenda = s.agenda := by
  unfold State.modLaunch; split <;> rfl
@[simp] theorem State.modLaunch_cur (s : State) (id : Nat) (f : Launch → Launch) : (s.modLaunch id f).cur = s.cur := by
  unfold State.modLaunch; split <;> rfl
@[simp] theorem State.modLaunch_cycle (s : State) (id : Nat) (f : Launch → Launch) : (s.modLaunch id f).cycle = s.cycle := by
  unfold State.modLaunch; split <;> rfl
@[simp] theorem State.modLaunch_freeCtr (s : State) (id : Nat) (f : Launch → Launch) : (s.modLaunch id f).freeCtr = s.freeCtr := by
  unfold State.modLaunch; split <;> rfl
@[simp] theorem State.modLaunch_cores (s : State) (id : Nat) (f : Launch → Launch) : (s.modLaunch id f).cores = s.cores := by
  unfold State.modLaunch; split <;> rfl
@[simp] theorem State.modLaunch_ctxs (s : State) (id : Nat) (f : Launch → Launch) : (s.modLaunch id f).ctxs = s.ctxs := by
  unfold State.modLaunch; split <;> rfl
@[simp] theorem State.modLaunch_mem (s : State) (id : Nat) (f : Launch → Launch) : (s.modLaunch id f).mem = s.mem := by
  unfold State.modLaunch; split <;> rfl
@[simp] theorem State.modLaunch_time (s : State) (id : Nat) (f : Launch → Launch) : (s.modLaunch id f).time = s.time := by
  unfold State.modLaunch; split <;> rfl
@[simp] theorem State.modLaunch_esc (s : State) (id : Nat) (f : Launch → Launch) : (s.modLaunch id f).esc = s.esc := by
  unfold State.modLaunch; split <;> rfl
@[simp] theorem State.modLaunch_fleet (s : State) (id : Nat) (f : Launch → Launch) : (s.modLaunch id f).fleet = s.fleet := by
  unfold State.modLaunch; split <;> rfl

/-! ### Reading back -/

@[simp] theorem State.core_setCore (s : State) (n m : Nat) (c : Core) : (s.setCore n c).core m = if m = n then c else s.core m :=
  kget_kset _ _ _ _ _

@[simp] theorem Core.bank_setBank (c : Core) (x y : Bool) (b : Bank) : (c.setBank x b).bank y = if y = x then b else c.bank y := by
  cases x <;> cases y <;> rfl

@[simp] theorem Core.setBank_setBank (c : Core) (x : Bool) (a b : Bank) : (c.setBank x a).setBank x b = c.setBank x b := by
  cases x <;> rfl

@[simp] theorem Core.setBank_bank (c : Core) (x : Bool) : c.setBank x (c.bank x) = c := by cases x <;> rfl

theorem State.core_setBank (s : State) (b : BankId) (x : Bank) (n : Nat) :
    (s.setBank b x).core n = if n = b.core then (s.core b.core).setBank b.slot x else s.core n :=
  State.core_setCore _ _ _ _

@[simp] theorem State.bank_setBank_same (s : State) (b : BankId) (x : Bank) : (s.setBank b x).bank b = x := by
  simp [State.bank, State.core_setBank]

theorem State.bank_setBank_ne (s : State) {b b' : BankId} (x : Bank) (h : b' ≠ b) : (s.setBank b x).bank b' = s.bank b' := by
  obtain ⟨n, y⟩ := b
  obtain ⟨n', y'⟩ := b'
  simp only [State.bank, State.core_setBank]
  split
  · subst_vars
    have : y' ≠ y := fun e => h (by rw [e])
    simp [this]
  · rfl

@[simp] theorem State.bank_modBank_same (s : State) (b : BankId) (f : Bank → Bank) : (s.modBank b f).bank b = f (s.bank b) := by
  simp [State.modBank]

theorem State.bank_modBank_ne (s : State) {b b' : BankId} (f : Bank → Bank) (h : b' ≠ b) : (s.modBank b f).bank b' = s.bank b' :=
  State.bank_setBank_ne _ _ h

@[simp] theorem Bank.stream_setStream_same (b : Bank) (e : Engine) (x : Stream) : (b.setStream e x).stream e = x := by cases e <;> rfl

theorem Bank.stream_setStream_ne (b : Bank) {e e' : Engine} (x : Stream) (h : e' ≠ e) : (b.setStream e x).stream e' = b.stream e' := by
  cases e <;> cases e' <;> first | rfl | exact absurd rfl h

@[simp] theorem Bank.setStream_setStream (b : Bank) (e : Engine) (x y : Stream) : (b.setStream e x).setStream e y = b.setStream e y := by
  cases e <;> rfl

@[simp] theorem Bank.setStream_stream (b : Bank) (e : Engine) : b.setStream e (b.stream e) = b := by cases e <;> rfl

@[simp] theorem State.stream_setStream_same (s : State) (b : BankId) (e : Engine) (x : Stream) : (s.setStream b e x).stream b e = x := by
  simp [State.stream, State.setStream]

@[simp] theorem State.stream_modStream_same (s : State) (b : BankId) (e : Engine) (f : Stream → Stream) :
    (s.modStream b e f).stream b e = f (s.stream b e) := by
  simp [State.modStream]

@[simp] theorem State.me_modMe (s : State) (f : Stream → Stream) : (s.modMe f).me = f s.me := by
  simp [State.me, State.modMe]

@[simp] theorem State.myBank_modMyBank (s : State) (f : Bank → Bank) : (s.modMyBank f).myBank = f s.myBank := by
  simp [State.myBank, State.modMyBank]

theorem State.me_eq (s : State) : s.me = s.myBank.stream s.cur.engine := rfl

@[simp] theorem State.myBank_modMe (s : State) (f : Stream → Stream) : (s.modMe f).myBank = s.myBank.setStream s.cur.engine (f s.me) := by
  simp [State.myBank, State.modMe, State.modStream, State.setStream]; rfl

@[simp] theorem State.me_modMyBank (s : State) (f : Bank → Bank) : (s.modMyBank f).me = (f s.myBank).stream s.cur.engine := by
  simp [State.me_eq]

theorem State.core_modBank (s : State) (b : BankId) (f : Bank → Bank) (n : Nat) :
    (s.modBank b f).core n = if n = b.core then (s.core b.core).setBank b.slot (f (s.bank b)) else s.core n :=
  State.core_setBank _ _ _ _

theorem State.core_modMe (s : State) (f : Stream → Stream) (n : Nat) :
    (s.modMe f).core n =
      if n = s.cur.bank.core then (s.core n).setBank s.cur.bank.slot (s.myBank.setStream s.cur.engine (f s.me)) else s.core n := by
  rw [State.modMe, State.modStream, State.setStream, State.core_modBank]
  split
  · subst_vars; rfl
  · rfl

@[simp] theorem State.ctx_setCtx (s : State) (n m : Nat) (c : Ctx) : (s.setCtx n c).ctx m = if m = n then c else s.ctx m :=
  kget_kset _ _ _ _ _

theorem State.ctx_modCtx (s : State) (n m : Nat) (f : Ctx → Ctx) : (s.modCtx n f).ctx m = if m = n then f (s.ctx n) else s.ctx m :=
  State.ctx_setCtx _ _ _ _

@[simp] theorem State.core_poke (s : State) (a n : Nat) (bs : List Byte) : (s.poke a bs).core n = s.core n := rfl
@[simp] theorem State.bank_poke (s : State) (a : Nat) (b : BankId) (bs : List Byte) : (s.poke a bs).bank b = s.bank b := rfl
@[simp] theorem State.ctx_poke (s : State) (a n : Nat) (bs : List Byte) : (s.poke a bs).ctx n = s.ctx n := rfl
@[simp] theorem State.core_setCtx (s : State) (m n : Nat) (c : Ctx) : (s.setCtx m c).core n = s.core n := rfl
@[simp] theorem State.bank_setCtx (s : State) (m : Nat) (b : BankId) (c : Ctx) : (s.setCtx m c).bank b = s.bank b := rfl
@[simp] theorem State.ctx_setCore (s : State) (m n : Nat) (c : Core) : (s.setCore m c).ctx n = s.ctx n := rfl
@[simp] theorem State.ctx_setBank (s : State) (b : BankId) (n : Nat) (x : Bank) : (s.setBank b x).ctx n = s.ctx n := rfl
@[simp] theorem State.ctx_modBank (s : State) (b : BankId) (n : Nat) (f : Bank → Bank) : (s.modBank b f).ctx n = s.ctx n := rfl
@[simp] theorem State.byteAt_setCore (s : State) (n a : Nat) (c : Core) : (s.setCore n c).byteAt a = s.byteAt a := rfl
@[simp] theorem State.byteAt_modBank (s : State) (b : BankId) (a : Nat) (f : Bank → Bank) : (s.modBank b f).byteAt a = s.byteAt a := rfl
@[simp] theorem State.byteAt_modMe (s : State) (a : Nat) (f : Stream → Stream) : (s.modMe f).byteAt a = s.byteAt a := rfl

/-! ### Registers of a stream: register 0 reads as zero and discards writes (02 R29) -/

@[simp] theorem Stream.get_zero (x : Stream) : x.get 0#5 = 0#64 := rfl
@[simp] theorem Stream.put_zero (x : Stream) (v : W64) : x.put 0#5 v = x := rfl

theorem Stream.get_put (x : Stream) (d r : Reg) (v : W64) : (x.put d v).get r = if r = d ∧ d ≠ 0 then v else x.get r := by
  unfold Stream.put
  split
  · simp_all
  · next hd =>
    unfold Stream.get
    split
    · subst_vars
      simp only [BitVec.ofNat_eq_ofNat]
      split
      · next h => exact absurd h.1.symm hd
      · rfl
    · split
      · next h => obtain ⟨rfl, _⟩ := h; simp
      · next h =>
        have hne : d.toNat ≠ r.toNat := fun e => h ⟨(BitVec.eq_of_toNat_eq e).symm, hd⟩
        simp [Vector.getElem_set_ne, hne]

@[simp] theorem Stream.put_pc (x : Stream) (d : Reg) (v : W64) : (x.put d v).pc = x.pc := by unfold Stream.put; split <;> rfl
@[simp] theorem Stream.put_tpc (x : Stream) (d : Reg) (v : W64) : (x.put d v).tpc = x.tpc := by unfold Stream.put; split <;> rfl
@[simp] theorem Stream.put_status (x : Stream) (d : Reg) (v : W64) : (x.put d v).status = x.status := by unfold Stream.put; split <;> rfl
@[simp] theorem Stream.put_block (x : Stream) (d : Reg) (v : W64) : (x.put d v).block = x.block := by unfold Stream.put; split <;> rfl
@[simp] theorem Stream.put_nextIssue (x : Stream) (d : Reg) (v : W64) : (x.put d v).nextIssue = x.nextIssue := by unfold Stream.put; split <;> rfl
@[simp] theorem Stream.put_pend (x : Stream) (d : Reg) (v : W64) : (x.put d v).pend = x.pend := by unfold Stream.put; split <;> rfl
@[simp] theorem Stream.put_rndctl (x : Stream) (d : Reg) (v : W64) : (x.put d v).rndctl = x.rndctl := by unfold Stream.put; split <;> rfl
@[simp] theorem Stream.put_numflags (x : Stream) (d : Reg) (v : W64) : (x.put d v).numflags = x.numflags := by unfold Stream.put; split <;> rfl
@[simp] theorem Stream.put_srctr (x : Stream) (d : Reg) (v : W64) : (x.put d v).srctr = x.srctr := by unfold Stream.put; split <;> rfl
@[simp] theorem Stream.put_stallctl (x : Stream) (d : Reg) (v : W64) : (x.put d v).stallctl = x.stallctl := by unfold Stream.put; split <;> rfl
@[simp] theorem Stream.put_issued (x : Stream) (d : Reg) (v : W64) : (x.put d v).issued = x.issued := by unfold Stream.put; split <;> rfl
@[simp] theorem Stream.put_lift (x : Stream) (d : Reg) (v : W64) : (x.put d v).lift = x.lift := by unfold Stream.put; split <;> rfl
@[simp] theorem Stream.put_join (x : Stream) (d : Reg) (v : W64) : (x.put d v).join = x.join := by unfold Stream.put; split <;> rfl
@[simp] theorem Stream.put_lrep (x : Stream) (d : Reg) (v : W64) : (x.put d v).lrep = x.lrep := by unfold Stream.put; split <;> rfl
@[simp] theorem Stream.put_wait (x : Stream) (d : Reg) (v : W64) : (x.put d v).wait = x.wait := by unfold Stream.put; split <;> rfl
@[simp] theorem Stream.put_lock (x : Stream) (d : Reg) (v : W64) : (x.put d v).lock = x.lock := by unfold Stream.put; split <;> rfl
@[simp] theorem Stream.put_sigs (x : Stream) (d : Reg) (v : W64) : (x.put d v).sigs = x.sigs := by unfold Stream.put; split <;> rfl
@[simp] theorem Stream.put_names (x : Stream) (d : Reg) (v : W64) : (x.put d v).names = x.names := by unfold Stream.put; split <;> rfl

/-! ### Fields of a bank after a stream is replaced -/

@[simp] theorem Bank.setStream_bindRec (b : Bank) (e : Engine) (x : Stream) : (b.setStream e x).bindRec = b.bindRec := by cases e <;> rfl
@[simp] theorem Bank.setStream_phase (b : Bank) (e : Engine) (x : Stream) : (b.setStream e x).phase = b.phase := by cases e <;> rfl
@[simp] theorem Bank.setStream_runnable (b : Bank) (e : Engine) (x : Stream) : (b.setStream e x).runnable = b.runnable := by cases e <;> rfl
@[simp] theorem Bank.setStream_back (b : Bank) (e : Engine) (x : Stream) : (b.setStream e x).back = b.back := by cases e <;> rfl
@[simp] theorem Bank.setStream_faults (b : Bank) (e : Engine) (x : Stream) : (b.setStream e x).faults = b.faults := by cases e <;> rfl
@[simp] theorem Bank.setStream_preempt (b : Bank) (e : Engine) (x : Stream) : (b.setStream e x).preempt = b.preempt := by cases e <;> rfl
@[simp] theorem Bank.setStream_budget (b : Bank) (e : Engine) (x : Stream) : (b.setStream e x).budget = b.budget := by cases e <;> rfl
@[simp] theorem Bank.setStream_cancel (b : Bank) (e : Engine) (x : Stream) : (b.setStream e x).cancel = b.cancel := by cases e <;> rfl
@[simp] theorem Bank.setStream_text (b : Bank) (e : Engine) (x : Stream) : (b.setStream e x).text = b.text := by cases e <;> rfl
@[simp] theorem Bank.setStream_textBase (b : Bank) (e : Engine) (x : Stream) : (b.setStream e x).textBase = b.textBase := by cases e <;> rfl
@[simp] theorem Bank.setStream_textLen (b : Bank) (e : Engine) (x : Stream) : (b.setStream e x).textLen = b.textLen := by cases e <;> rfl
@[simp] theorem Bank.setStream_params (b : Bank) (e : Engine) (x : Stream) : (b.setStream e x).params = b.params := by cases e <;> rfl
@[simp] theorem Bank.setStream_wdog (b : Bank) (e : Engine) (x : Stream) : (b.setStream e x).wdog = b.wdog := by cases e <;> rfl
@[simp] theorem Bank.setStream_residue (b : Bank) (e : Engine) (x : Stream) : (b.setStream e x).residue = b.residue := by cases e <;> rfl
@[simp] theorem Bank.setStream_tcause (b : Bank) (e : Engine) (x : Stream) : (b.setStream e x).tcause = b.tcause := by cases e <;> rfl
@[simp] theorem Bank.setStream_tpcReg (b : Bank) (e : Engine) (x : Stream) : (b.setStream e x).tpcReg = b.tpcReg := by cases e <;> rfl
@[simp] theorem Bank.setStream_tval (b : Bank) (e : Engine) (x : Stream) : (b.setStream e x).tval = b.tval := by cases e <;> rfl
@[simp] theorem Bank.setStream_tvec (b : Bank) (e : Engine) (x : Stream) : (b.setStream e x).tvec = b.tvec := by cases e <;> rfl
@[simp] theorem Bank.setStream_cpc (b : Bank) (e : Engine) (x : Stream) : (b.setStream e x).cpc = b.cpc := by cases e <;> rfl
@[simp] theorem Bank.setStream_held (b : Bank) (e : Engine) (x : Stream) : (b.setStream e x).held = b.held := by cases e <;> rfl
@[simp] theorem Bank.setStream_cycles (b : Bank) (e : Engine) (x : Stream) : (b.setStream e x).cycles = b.cycles := by cases e <;> rfl
@[simp] theorem Bank.setStream_tiles (b : Bank) (e : Engine) (x : Stream) : (b.setStream e x).tiles = b.tiles := by cases e <;> rfl
@[simp] theorem Bank.setStream_queues (b : Bank) (e : Engine) (x : Stream) : (b.setStream e x).queues = b.queues := by cases e <;> rfl
@[simp] theorem Bank.setStream_dstreams (b : Bank) (e : Engine) (x : Stream) : (b.setStream e x).dstreams = b.dstreams := by cases e <;> rfl
@[simp] theorem Bank.setStream_moves (b : Bank) (e : Engine) (x : Stream) : (b.setStream e x).moves = b.moves := by cases e <;> rfl
@[simp] theorem Bank.setStream_sc (b : Bank) (e : Engine) (x : Stream) : (b.setStream e x).sc = b.sc := by cases e <;> rfl
@[simp] theorem Bank.setStream_wi (b : Bank) (e : Engine) (x : Stream) : (b.setStream e x).wi = b.wi := by cases e <;> rfl
@[simp] theorem Bank.setStream_vpair (b : Bank) (e : Engine) (x : Stream) : (b.setStream e x).vpair = b.vpair := by cases e <;> rfl
@[simp] theorem Bank.setStream_mem (b : Bank) (e : Engine) (x : Stream) : (b.setStream e x).mem = b.mem := by cases e <;> rfl
@[simp] theorem Bank.setStream_mEng (b : Bank) (e : Engine) (x : Stream) : (b.setStream e x).mEng = b.mEng := by cases e <;> rfl
@[simp] theorem Bank.setStream_kEng (b : Bank) (e : Engine) (x : Stream) : (b.setStream e x).kEng = b.kEng := by cases e <;> rfl
@[simp] theorem Bank.setStream_chans (b : Bank) (e : Engine) (x : Stream) : (b.setStream e x).chans = b.chans := by cases e <;> rfl
@[simp] theorem Bank.setStream_check (b : Bank) (e : Engine) (x : Stream) : (b.setStream e x).check = b.check := by cases e <;> rfl
@[simp] theorem Bank.setStream_waited (b : Bank) (e : Engine) (x : Stream) : (b.setStream e x).waited = b.waited := by cases e <;> rfl
@[simp] theorem Bank.setStream_orders (b : Bank) (e : Engine) (x : Stream) : (b.setStream e x).orders = b.orders := by cases e <;> rfl
@[simp] theorem Bank.setStream_opSeq (b : Bank) (e : Engine) (x : Stream) : (b.setStream e x).opSeq = b.opSeq := by cases e <;> rfl
@[simp] theorem Bank.setStream_inbound (b : Bank) (e : Engine) (x : Stream) : (b.setStream e x).inbound = b.inbound := by cases e <;> rfl
@[simp] theorem Bank.setStream_arrivals (b : Bank) (e : Engine) (x : Stream) : (b.setStream e x).arrivals = b.arrivals := by cases e <;> rfl
@[simp] theorem Bank.setStream_gbar (b : Bank) (e : Engine) (x : Stream) : (b.setStream e x).gbar = b.gbar := by cases e <;> rfl
@[simp] theorem Bank.setStream_gcount (b : Bank) (e : Engine) (x : Stream) : (b.setStream e x).gcount = b.gcount := by cases e <;> rfl
@[simp] theorem Bank.setStream_splits (b : Bank) (e : Engine) (x : Stream) : (b.setStream e x).splits = b.splits := by cases e <;> rfl
@[simp] theorem Bank.setStream_epoch (b : Bank) (e : Engine) (x : Stream) : (b.setStream e x).epoch = b.epoch := by cases e <;> rfl
@[simp] theorem Bank.setStream_wfi (b : Bank) (e : Engine) (x : Stream) : (b.setStream e x).wfi = b.wfi := by cases e <;> rfl
@[simp] theorem Bank.setStream_csave (b : Bank) (e : Engine) (x : Stream) : (b.setStream e x).csave = b.csave := by cases e <;> rfl
@[simp] theorem Bank.setStream_badWalks (b : Bank) (e : Engine) (x : Stream) : (b.setStream e x).badWalks = b.badWalks := by cases e <;> rfl
@[simp] theorem Bank.setStream_yielded (b : Bank) (e : Engine) (x : Stream) : (b.setStream e x).yielded = b.yielded := by cases e <;> rfl

end Sys2Proof.Machine
end

