-- ==== Sys2Proof/Laws/Issue.lean ====
section
/-! SUPPORT. What the shared operations of issue can do: results taking effect, a register result, retiring a word. -/

namespace Sys2Proof.Machine

/-! ### Results that take effect touch banks, scratchpads and taps only -/

@[simp] theorem State.inject_agenda (s : State) (a b t : Nat) : (s.inject a b t).2.agenda = s.agenda := rfl
@[simp] theorem State.inject_cur (s : State) (a b t : Nat) : (s.inject a b t).2.cur = s.cur := rfl
@[simp] theorem State.inject_cycle (s : State) (a b t : Nat) : (s.inject a b t).2.cycle = s.cycle := rfl
@[simp] theorem State.inject_freeCtr (s : State) (a b t : Nat) : (s.inject a b t).2.freeCtr = s.freeCtr := rfl
@[simp] theorem State.inject_ctxs (s : State) (a b t : Nat) : (s.inject a b t).2.ctxs = s.ctxs := rfl
@[simp] theorem State.inject_host (s : State) (a b t : Nat) : (s.inject a b t).2.host = s.host := rfl
@[simp] theorem State.inject_mem (s : State) (a b t : Nat) : (s.inject a b t).2.mem = s.mem := rfl
@[simp] theorem State.inject_time (s : State) (a b t : Nat) : (s.inject a b t).2.time = s.time := rfl
@[simp] theorem State.inject_esc (s : State) (a b t : Nat) : (s.inject a b t).2.esc = s.esc := rfl
@[simp] theorem State.inject_fleet (s : State) (a b t : Nat) : (s.inject a b t).2.fleet = s.fleet := rfl
@[simp] theorem State.pushRow_agenda (s : State) (b : BankId) (q : Nat) (r : Row) : (s.pushRow b q r).agenda = s.agenda := by
  simp only [State.pushRow]
  split
  · split <;> rfl
  · rfl
@[simp] theorem State.pushRow_cur (s : State) (b : BankId) (q : Nat) (r : Row) : (s.pushRow b q r).cur = s.cur := by
  simp only [State.pushRow]
  split
  · split <;> rfl
  · rfl
@[simp] theorem State.pushRow_cycle (s : State) (b : BankId) (q : Nat) (r : Row) : (s.pushRow b q r).cycle = s.cycle := by
  simp only [State.pushRow]
  split
  · split <;> rfl
  · rfl
@[simp] theorem State.pushRow_freeCtr (s : State) (b : BankId) (q : Nat) (r : Row) : (s.pushRow b q r).freeCtr = s.freeCtr := by
  simp only [State.pushRow]
  split
  · split <;> rfl
  · rfl
@[simp] theorem State.pushRow_ctxs (s : State) (b : BankId) (q : Nat) (r : Row) : (s.pushRow b q r).ctxs = s.ctxs := by
  simp only [State.pushRow]
  split
  · split <;> rfl
  · rfl
@[simp] theorem State.pushRow_host (s : State) (b : BankId) (q : Nat) (r : Row) : (s.pushRow b q r).host = s.host := by
  simp only [State.pushRow]
  split
  · split <;> rfl
  · rfl
@[simp] theorem State.pushRow_mem (s : State) (b : BankId) (q : Nat) (r : Row) : (s.pushRow b q r).mem = s.mem := by
  simp only [State.pushRow]
  split
  · split <;> rfl
  · rfl
@[simp] theorem State.pushRow_time (s : State) (b : BankId) (q : Nat) (r : Row) : (s.pushRow b q r).time = s.time := by
  simp only [State.pushRow]
  split
  · split <;> rfl
  · rfl
@[simp] theorem State.pushRow_esc (s : State) (b : BankId) (q : Nat) (r : Row) : (s.pushRow b q r).esc = s.esc := by
  simp only [State.pushRow]
  split
  · split <;> rfl
  · rfl
@[simp] theorem State.pushRow_fleet (s : State) (b : BankId) (q : Nat) (r : Row) : (s.pushRow b q r).fleet = s.fleet := by
  simp only [State.pushRow]
  split
  · split <;> rfl
  · rfl
@[simp] theorem State.putRow_agenda (s : State) (n i : Nat) (r : Row) : (s.putRow n i r).agenda = s.agenda := rfl
@[simp] theorem State.putRow_cur (s : State) (n i : Nat) (r : Row) : (s.putRow n i r).cur = s.cur := rfl
@[simp] theorem State.putRow_cycle (s : State) (n i : Nat) (r : Row) : (s.putRow n i r).cycle = s.cycle := rfl
@[simp] theorem State.putRow_freeCtr (s : State) (n i : Nat) (r : Row) : (s.putRow n i r).freeCtr = s.freeCtr := rfl
@[simp] theorem State.putRow_ctxs (s : State) (n i : Nat) (r : Row) : (s.putRow n i r).ctxs = s.ctxs := rfl
@[simp] theorem State.putRow_host (s : State) (n i : Nat) (r : Row) : (s.putRow n i r).host = s.host := rfl
@[simp] theorem State.putRow_mem (s : State) (n i : Nat) (r : Row) : (s.putRow n i r).mem = s.mem := rfl
@[simp] theorem State.putRow_time (s : State) (n i : Nat) (r : Row) : (s.putRow n i r).time = s.time := rfl
@[simp] theorem State.putRow_esc (s : State) (n i : Nat) (r : Row) : (s.putRow n i r).esc = s.esc := rfl
@[simp] theorem State.putRow_fleet (s : State) (n i : Nat) (r : Row) : (s.putRow n i r).fleet = s.fleet := rfl
@[simp] theorem PendWrite.apply_agenda (w : PendWrite) (s : State) (b : BankId) (e : Engine) : (w.apply s b e).agenda = s.agenda := by
  cases w <;> first | rfl | simp [PendWrite.apply]
@[simp] theorem PendWrite.apply_cur (w : PendWrite) (s : State) (b : BankId) (e : Engine) : (w.apply s b e).cur = s.cur := by
  cases w <;> first | rfl | simp [PendWrite.apply]
@[simp] theorem PendWrite.apply_cycle (w : PendWrite) (s : State) (b : BankId) (e : Engine) : (w.apply s b e).cycle = s.cycle := by
  cases w <;> first | rfl | simp [PendWrite.apply]
@[simp] theorem PendWrite.apply_freeCtr (w : PendWrite) (s : State) (b : BankId) (e : Engine) : (w.apply s b e).freeCtr = s.freeCtr := by
  cases w <;> first | rfl | simp [PendWrite.apply]
@[simp] theorem PendWrite.apply_ctxs (w : PendWrite) (s : State) (b : BankId) (e : Engine) : (w.apply s b e).ctxs = s.ctxs := by
  cases w <;> first | rfl | simp [PendWrite.apply]
@[simp] theorem PendWrite.apply_host (w : PendWrite) (s : State) (b : BankId) (e : Engine) : (w.apply s b e).host = s.host := by
  cases w <;> first | rfl | simp [PendWrite.apply]
@[simp] theorem PendWrite.apply_mem (w : PendWrite) (s : State) (b : BankId) (e : Engine) : (w.apply s b e).mem = s.mem := by
  cases w <;> first | rfl | simp [PendWrite.apply]
@[simp] theorem PendWrite.apply_time (w : PendWrite) (s : State) (b : BankId) (e : Engine) : (w.apply s b e).time = s.time := by
  cases w <;> first | rfl | simp [PendWrite.apply]
@[simp] theorem PendWrite.apply_esc (w : PendWrite) (s : State) (b : BankId) (e : Engine) : (w.apply s b e).esc = s.esc := by
  cases w <;> first | rfl | simp [PendWrite.apply]
@[simp] theorem PendWrite.apply_fleet (w : PendWrite) (s : State) (b : BankId) (e : Engine) : (w.apply s b e).fleet = s.fleet := by
  cases w <;> first | rfl | simp [PendWrite.apply]
theorem foldl_apply_agenda (ps : List Pend) (s : State) (b : BankId) (e : Engine) :
    (ps.foldl (fun s p => p.wr.apply s b e) s).agenda = s.agenda := by
  induction ps generalizing s with
  | nil => rfl
  | cons p ps ih => simp [ih]

@[simp] theorem settle_agenda (s : State) (b : BankId) (e : Engine) : (settle s b e).agenda = s.agenda := by
  simp only [settle]
  split
  · rfl
  · simp [foldl_apply_agenda]
theorem foldl_apply_cur (ps : List Pend) (s : State) (b : BankId) (e : Engine) :
    (ps.foldl (fun s p => p.wr.apply s b e) s).cur = s.cur := by
  induction ps generalizing s with
  | nil => rfl
  | cons p ps ih => simp [ih]

@[simp] theorem settle_cur (s : State) (b : BankId) (e : Engine) : (settle s b e).cur = s.cur := by
  simp only [settle]
  split
  · rfl
  · simp [foldl_apply_cur]
theorem foldl_apply_cycle (ps : List Pend) (s : State) (b : BankId) (e : Engine) :
    (ps.foldl (fun s p => p.wr.apply s b e) s).cycle = s.cycle := by
  induction ps generalizing s with
  | nil => rfl
  | cons p ps ih => simp [ih]

@[simp] theorem settle_cycle (s : State) (b : BankId) (e : Engine) : (settle s b e).cycle = s.cycle := by
  simp only [settle]
  split
  · rfl
  · simp [foldl_apply_cycle]
theorem foldl_apply_freeCtr (ps : List Pend) (s : State) (b : BankId) (e : Engine) :
    (ps.foldl (fun s p => p.wr.apply s b e) s).freeCtr = s.freeCtr := by
  induction ps generalizing s with
  | nil => rfl
  | cons p ps ih => simp [ih]

@[simp] theorem settle_freeCtr (s : State) (b : BankId) (e : Engine) : (settle s b e).freeCtr = s.freeCtr := by
  simp only [settle]
  split
  · rfl
  · simp [foldl_apply_freeCtr]
theorem foldl_apply_ctxs (ps : List Pend) (s : State) (b : BankId) (e : Engine) :
    (ps.foldl (fun s p => p.wr.apply s b e) s).ctxs = s.ctxs := by
  induction ps generalizing s with
  | nil => rfl
  | cons p ps ih => simp [ih]

@[simp] theorem settle_ctxs (s : State) (b : BankId) (e : Engine) : (settle s b e).ctxs = s.ctxs := by
  simp only [settle]
  split
  · rfl
  · simp [foldl_apply_ctxs]
theorem foldl_apply_host (ps : List Pend) (s : State) (b : BankId) (e : Engine) :
    (ps.foldl (fun s p => p.wr.apply s b e) s).host = s.host := by
  induction ps generalizing s with
  | nil => rfl
  | cons p ps ih => simp [ih]

@[simp] theorem settle_host (s : State) (b : BankId) (e : Engine) : (settle s b e).host = s.host := by
  simp only [settle]
  split
  · rfl
  · simp [foldl_apply_host]
theorem foldl_apply_mem (ps : List Pend) (s : State) (b : BankId) (e : Engine) :
    (ps.foldl (fun s p => p.wr.apply s b e) s).mem = s.mem := by
  induction ps generalizing s with
  | nil => rfl
  | cons p ps ih => simp [ih]

@[simp] theorem settle_mem (s : State) (b : BankId) (e : Engine) : (settle s b e).mem = s.mem := by
  simp only [settle]
  split
  · rfl
  · simp [foldl_apply_mem]
theorem foldl_apply_time (ps : List Pend) (s : State) (b : BankId) (e : Engine) :
    (ps.foldl (fun s p => p.wr.apply s b e) s).time = s.time := by
  induction ps generalizing s with
  | nil => rfl
  | cons p ps ih => simp [ih]

@[simp] theorem settle_time (s : State) (b : BankId) (e : Engine) : (settle s b e).time = s.time := by
  simp only [settle]
  split
  · rfl
  · simp [foldl_apply_time]
theorem foldl_apply_esc (ps : List Pend) (s : State) (b : BankId) (e : Engine) :
    (ps.foldl (fun s p => p.wr.apply s b e) s).esc = s.esc := by
  induction ps generalizing s with
  | nil => rfl
  | cons p ps ih => simp [ih]

@[simp] theorem settle_esc (s : State) (b : BankId) (e : Engine) : (settle s b e).esc = s.esc := by
  simp only [settle]
  split
  · rfl
  · simp [foldl_apply_esc]
theorem foldl_apply_fleet (ps : List Pend) (s : State) (b : BankId) (e : Engine) :
    (ps.foldl (fun s p => p.wr.apply s b e) s).fleet = s.fleet := by
  induction ps generalizing s with
  | nil => rfl
  | cons p ps ih => simp [ih]

@[simp] theorem settle_fleet (s : State) (b : BankId) (e : Engine) : (settle s b e).fleet = s.fleet := by
  simp only [settle]
  split
  · rfl
  · simp [foldl_apply_fleet]

@[simp] theorem settle_byteAt (s : State) (b : BankId) (e : Engine) (a : Nat) : (settle s b e).byteAt a = s.byteAt a := by
  simp [State.byteAt]

/-- A stream with nothing due issues in the state as it stands. -/
theorem settle_of_none_due {s : State} {b : BankId} {e : Engine} (h : ∀ p ∈ (s.stream b e).pend, s.cycle < p.cyc) : settle s b e = s := by
  have : (splitDue s.cycle (s.stream b e).pend).1 = [] := by
    simp only [splitDue, List.partition_eq_filter_filter]
    exact List.filter_eq_nil_iff.mpr (fun p hp => by simpa using h p hp)
  simp [settle, this]

/-! ### How a meaning ends -/

theorem outcomeOf_ok {s : State} {f : State → Res State} {t : State} (h : f s = .ok t) : outcomeOf s f = .ok t := by
  simp [outcomeOf, h]

theorem outcomeOf_error {s : State} {f : State → Res State} {e : Stop} (h : f s = .error e)
    (he : ∀ tr, e = .trap tr → tr.cause ≠ .undersizedStall) : outcomeOf s f = .error e := by
  unfold outcomeOf
  rw [h]
  cases e with
  | trap tr => simp [he tr rfl]
  | _ => rfl

/-- The stall checker's trap: the word would issue without the checker. -/
theorem outcomeOf_stall {s : State} {f : State → Res State} {tr : Trap} (h : f s = .error (.trap tr)) (hw : stillWaits s f = none) :
    outcomeOf s f = .error (.trap tr) := by
  simp [outcomeOf, h, hw]

theorem run_ok {s : State} {f : State → Res State} {t : State} (h : f (settle s s.cur.bank s.cur.engine) = .ok t) : run s f = .next t := by
  simp [run, outcomeOf_ok h, conclude]

theorem run_block {s : State} {f : State → Res State} {k : BlockKind} {v : W64}
    (h : f (settle s s.cur.bank s.cur.engine) = .error (.block k v)) :
    run s f = .next (noteBlock (settle s s.cur.bank s.cur.engine) k v) := by
  simp [run, outcomeOf_error h (by simp), conclude]

theorem run_interlock {s : State} {f : State → Res State} {onA : Bool}
    (h : f (settle s s.cur.bank s.cur.engine) = .error (.interlock onA)) :
    run s f = .next (interlocked (settle s s.cur.bank s.cur.engine) onA) := by
  simp [run, outcomeOf_error h (by simp), conclude]

theorem run_trap {s : State} {f : State → Res State} {tr : Trap} (h : f (settle s s.cur.bank s.cur.engine) = .error (.trap tr))
    (hc : tr.cause ≠ .undersizedStall ∨ stillWaits (settle s s.cur.bank s.cur.engine) f = none) :
    run s f = .next (takeTrap (settle s s.cur.bank s.cur.engine) s.cur.bank s.cur.engine tr (settle s s.cur.bank s.cur.engine).me.pc) := by
  have ho : outcomeOf (settle s s.cur.bank s.cur.engine) f = .error (.trap tr) := by
    rcases hc with hc | hc
    · exact outcomeOf_error h (fun t ht => by cases ht; exact hc)
    · exact outcomeOf_stall h hc
  simp [run, ho, conclude]

@[simp] theorem Except.bind_ok' {α β : Type} (a : α) (f : α → Res β) : (Except.ok a >>= f) = f a := rfl
@[simp] theorem Except.bind_error' {α β : Type} (e : Stop) (f : α → Res β) : ((Except.error e : Res α) >>= f) = .error e := rfl

/-! ### A register result (17 R293, R298) -/

/-- Whether a write to a register is on its way in a stream. -/
def Stream.onWay (x : Stream) (r : Reg) : Bool := x.pend.any (fun p => p.wr.toReg r || p.wr.toIreg r)

/-- The state a register result is given in: a load's later result for the register is no longer wanted. -/
def wanted (s : State) (r : Reg) : State :=
  if s.cur.engine = .A then s.modMyBank (fun b => { b with mem := b.mem.forget r }) else s

@[simp] theorem wanted_me (s : State) (r : Reg) : (wanted s r).me = s.me := by
  unfold wanted; split
  · rw [State.me_modMyBank, State.me_eq]; cases s.cur.engine <;> rfl
  · rfl

theorem wrReg_zero (s : State) (v : W64) (l : Nat) : wrReg s 0 v l = s := by simp [wrReg]

theorem wrReg_at_once {s : State} {r : Reg} {v : W64} {l : Nat} (hr : r ≠ 0) (hl : l ≤ 1) (hp : s.me.onWay r = false) :
    wrReg s r v l = (wanted s r).modMe (·.put r v) := by
  have hp' : ((wanted s r).me.pend.any fun p => p.wr.toReg r || p.wr.toIreg r) = false := by rw [wanted_me]; exact hp
  unfold wrReg
  simp only [hr, if_false]
  unfold wanted at hp' ⊢
  simp [hl, hp']

theorem wrReg_later {s : State} {r : Reg} {v : W64} {l : Nat} (hr : r ≠ 0) (h : 1 < l ∨ s.me.onWay r = true) :
    wrReg s r v l = (wanted s r).modMe (fun x => { x with pend := x.pend ++
      [⟨effective x.pend (fun w => w.toReg r || w.toIreg r) (s.cycle + l), .reg r v, []⟩] }) := by
  have hp' : ((wanted s r).me.pend.any fun p => p.wr.toReg r || p.wr.toIreg r) = s.me.onWay r := by rw [wanted_me]; rfl
  have hc : (wanted s r).cycle = s.cycle := by unfold wanted; split <;> rfl
  have hb : (decide (l ≤ 1) && !s.me.onWay r) = false := by
    rcases h with h | h
    · have : ¬ l ≤ 1 := by omega
      simp [this]
    · simp [h]
  unfold wrReg
  simp only [hr, if_false]
  unfold wanted at hp' hc ⊢
  rw [hp', hb]
  simp [hc]

theorem effective_le (ps : List Pend) (f : PendWrite → Bool) (c : Nat) : c ≤ effective ps f c := by
  unfold effective
  induction ps generalizing c with
  | nil => exact Nat.le_refl c
  | cons p ps ih =>
    simp only [List.foldl_cons]
    refine Nat.le_trans ?_ (ih _)
    split
    · exact Nat.le_max_left _ _
    · exact Nat.le_refl _

theorem effective_of_none {ps : List Pend} {f : PendWrite → Bool} {c : Nat} (h : ps.any (fun p => f p.wr) = false) : effective ps f c = c := by
  unfold effective
  induction ps generalizing c with
  | nil => rfl
  | cons p ps ih =>
    simp only [List.any_cons, Bool.or_eq_false_iff] at h
    simp only [List.foldl_cons, h.1]
    exact ih h.2

/-- Reading a register that nothing is on its way to. -/
theorem rd_ok {s : State} {r : Reg} (h : r = 0 ∨ (s.me.onWay r = false ∧ (s.cur.engine = .A → s.myBank.mem.owes r = false))) :
    rd s r = .ok (s.me.get r) := by
  unfold rd
  rcases h with h | ⟨h1, h2⟩
  · subst h; rfl
  · split
    · next h => subst h; rfl
    · have ha : s.me.pend.any (·.wr.toIreg r) = false := by
        simp only [Stream.onWay, List.any_eq_false, Bool.or_eq_true, not_or] at h1 ⊢
        exact fun p hp => (h1 p hp).2
      have hb : s.me.pend.any (·.wr.toReg r) = false := by
        simp only [Stream.onWay, List.any_eq_false, Bool.or_eq_true, not_or] at h1 ⊢
        exact fun p hp => (h1 p hp).1
      have hc : (s.cur.engine == Engine.A && s.myBank.mem.owes r) = false := by
        by_cases he : s.cur.engine = .A
        · simp [h2 he]
        · simp [he]
      simp [ha, hb, hc]

end Sys2Proof.Machine
end

