-- ==== Sys2Proof/Laws/Memory.lean ====
section
/-! SUPPORT. The canonical form of memory and the operations that keep it; what a byte reads as after a write. -/

namespace Sys2Proof.Machine

/-! ### The canonical form -/

/-- Every address of a canonical list from `lo` on is above `lo`. -/
theorem Cells.lt_of_wfFrom {lo : Nat} {k : Nat} {v : Byte} {l : List Host.Cell} (h : Cells.wfFrom (some lo) ((k, v) :: l) = true) :
    lo < k := by
  simp [Cells.wfFrom] at h; exact h.1.1

theorem Cells.wfFrom_weaken {lo lo' : Option Nat} {l : List Host.Cell} (h : Cells.wfFrom lo l = true)
    (hle : ∀ j, lo' = some j → ∃ i, lo = some i ∧ j ≤ i) : Cells.wfFrom lo' l = true := by
  cases l with
  | nil => rfl
  | cons p l =>
    obtain ⟨k, v⟩ := p
    simp only [Cells.wfFrom, Bool.and_eq_true] at h ⊢
    refine ⟨⟨?_, h.1.2⟩, h.2⟩
    cases lo' with
    | none => rfl
    | some j =>
      obtain ⟨i, rfl, hji⟩ := hle j rfl
      have := h.1.1
      simp only [decide_eq_true_eq] at this ⊢
      omega

theorem Cells.wf_of_wfFrom {lo : Option Nat} {l : List Host.Cell} (h : Cells.wfFrom lo l = true) : Memory.wf l = true :=
  Cells.wfFrom_weaken h (by simp)

theorem Cells.wfFrom_tail {k j : Nat} {l : List Host.Cell} (h : Cells.wfFrom (some k) l = true) (hj : j ≤ k) :
    Cells.wfFrom (some j) l = true :=
  Cells.wfFrom_weaken h (by intro i hi; cases hi; exact ⟨k, rfl, hj⟩)

/-- An address at or below the bound of a canonical list is not listed. -/
theorem Cells.get_below {lo a : Nat} {l : List Host.Cell} (h : Cells.wfFrom (some lo) l = true) (ha : a ≤ lo) :
    Cells.get l a = unlisted := by
  cases l with
  | nil => rfl
  | cons p l =>
    obtain ⟨k, v⟩ := p
    have := Cells.lt_of_wfFrom h
    have h1 : k ≠ a := by omega
    have h2 : a < k := by omega
    simp [Cells.get, h1, h2]

theorem Cells.wfFrom_set {lo : Option Nat} {l : List Host.Cell} (h : Cells.wfFrom lo l = true) (a : Nat) (b : Byte)
    (ha : ∀ j, lo = some j → j < a) : Cells.wfFrom lo (Cells.set l a b) = true := by
  induction l generalizing lo with
  | nil =>
    simp only [Cells.set]
    split
    · rfl
    · next hb => cases lo <;> simp_all [Cells.wfFrom]
  | cons p l ih =>
    obtain ⟨k, v⟩ := p
    simp only [Cells.wfFrom, Bool.and_eq_true] at h
    simp only [Cells.set]
    split
    · subst_vars
      split
      · exact Cells.wfFrom_weaken h.2 (by intro j hj; subst hj; exact ⟨_, rfl, Nat.le_of_lt (ha j rfl)⟩)
      · next hb => simp only [Cells.wfFrom, Bool.and_eq_true]; exact ⟨⟨h.1.1, by simpa using hb⟩, h.2⟩
    · split
      · next hlt =>
        split
        · simp only [Cells.wfFrom, Bool.and_eq_true]; exact h
        · next hb =>
          simp only [Cells.wfFrom, Bool.and_eq_true]
          refine ⟨⟨?_, by simpa using hb⟩, ⟨by simpa using hlt, h.1.2⟩, h.2⟩
          cases lo with
          | none => rfl
          | some j => simpa using ha j rfl
      · next hne hlt =>
        simp only [Cells.wfFrom, Bool.and_eq_true]
        exact ⟨h.1, ih h.2 (by intro j hj; cases hj; omega)⟩

/-- A write of one byte keeps the canonical form. -/
theorem Cells.wf_set {l : List Host.Cell} (h : Memory.wf l = true) (a : Nat) (b : Byte) : Memory.wf (Cells.set l a b) = true :=
  Cells.wfFrom_set h a b (by simp)

/-- A write of any number of bytes keeps it. -/
theorem Cells.wf_write {l : List Host.Cell} (h : Memory.wf l = true) (a : Nat) (bs : List Byte) : Memory.wf (Cells.write l a bs) = true := by
  induction bs generalizing l a with
  | nil => exact h
  | cons b bs ih => exact ih (Cells.wf_set h a b) _

theorem Cells.wfFrom_filter {lo : Option Nat} {l : List Host.Cell} (h : Cells.wfFrom lo l = true) (p : Host.Cell → Bool) :
    Cells.wfFrom lo (l.filter p) = true := by
  induction l generalizing lo with
  | nil => rfl
  | cons c l ih =>
    obtain ⟨k, v⟩ := c
    have h' := h
    simp only [Cells.wfFrom, Bool.and_eq_true] at h
    simp only [List.filter_cons]
    split
    · simp only [Cells.wfFrom, Bool.and_eq_true]; exact ⟨h.1, ih h.2⟩
    · refine Cells.wfFrom_weaken (ih h.2) ?_
      intro j hj; subst hj
      exact ⟨k, rfl, Nat.le_of_lt (Cells.lt_of_wfFrom h')⟩

/-- Keeping some of the cells keeps it. -/
theorem Cells.wf_filter {l : List Host.Cell} (h : Memory.wf l = true) (p : Host.Cell → Bool) : Memory.wf (l.filter p) = true :=
  Cells.wfFrom_filter h p

theorem Cells.wf_foldl_set {α : Type} {l : List Host.Cell} (h : Memory.wf l = true) (f : α → Nat) (g : α → Byte) (xs : List α) :
    Memory.wf (xs.foldl (fun m c => Cells.set m (f c) (g c)) l) = true := by
  induction xs generalizing l with
  | nil => exact h
  | cons x xs ih => exact ih (Cells.wf_set h _ _)

/-! ### Reading after a write -/

theorem Cells.get_set_aux {lo : Option Nat} {l : List Host.Cell} (h : Cells.wfFrom lo l = true) (a x : Nat) (b : Byte) :
    Cells.get (Cells.set l a b) x = if x = a then b else Cells.get l x := by
  induction l generalizing lo with
  | nil =>
    simp only [Cells.set]
    split
    · subst_vars; simp [Cells.get]
    · simp only [Cells.get]
      by_cases hx : x = a
      · simp [hx]
      · simp [hx, Ne.symm hx]
  | cons p l ih =>
    obtain ⟨k, v⟩ := p
    simp only [Cells.wfFrom, Bool.and_eq_true] at h
    simp only [Cells.set]
    split
    · next hk =>
      subst hk
      split
      · next hb =>
        subst hb
        by_cases hx : x = k
        · subst hx; simpa using Cells.get_below h.2 (Nat.le_refl _)
        · simp only [hx, if_false, Cells.get, Ne.symm hx]
          split
          · next hlt => exact Cells.get_below h.2 (Nat.le_of_lt hlt)
          · rfl
      · by_cases hx : x = k
        · simp [hx, Cells.get]
        · simp [hx, Ne.symm hx, Cells.get]
    · next hk =>
      split
      · next hlt =>
        split
        · next hb =>
          subst hb
          by_cases hx : x = a
          · subst hx; simp [Cells.get, hk, hlt]
          · simp [hx]
        · by_cases hx : x = a
          · simp [hx, Cells.get]
          · have hax := Ne.symm hx
            simp only [Cells.get, hax, if_false, hx]
            split
            · next hxa =>
              have h1 : k ≠ x := by omega
              have h2 : x < k := by omega
              simp [h1, h2]
            · rfl
      · next hlt =>
        simp only [Cells.get]
        by_cases hx : x = a
        · subst hx
          have h1 : ¬ x < k := by omega
          simp only [hk, h1, if_false]
          simpa using ih h.2
        · simp only [hx, if_false]
          split
          · rfl
          · split
            · rfl
            · simpa [hx] using ih h.2

/-- A byte after a write of one byte. -/
theorem Cells.get_set {l : List Host.Cell} (h : Memory.wf l = true) (a x : Nat) (b : Byte) :
    Cells.get (Cells.set l a b) x = if x = a then b else Cells.get l x :=
  Cells.get_set_aux h a x b

/-- A byte outside the written ones reads as before. -/
theorem Cells.get_write_outside {l : List Host.Cell} (h : Memory.wf l = true) (a : Nat) (bs : List Byte) (x : Nat)
    (hx : x < a ∨ a + bs.length ≤ x) : Cells.get (Cells.write l a bs) x = Cells.get l x := by
  induction bs generalizing l a with
  | nil => rfl
  | cons b bs ih =>
    simp only [Cells.write]
    simp only [List.length_cons] at hx
    rw [ih (Cells.wf_set h a b) _ (by omega), Cells.get_set h]
    have : x ≠ a := by omega
    simp [this]

/-- The bytes just written read back. -/
theorem Cells.read_write {l : List Host.Cell} (h : Memory.wf l = true) (a : Nat) (bs : List Byte) :
    Cells.read (Cells.write l a bs) a bs.length = bs := by
  induction bs generalizing l a with
  | nil => rfl
  | cons b bs ih =>
    simp only [Cells.write, List.length_cons, Cells.read]
    rw [ih (Cells.wf_set h a b), Cells.get_write_outside (Cells.wf_set h a b) _ _ _ (by omega), Cells.get_set h]
    simp

/-! ### State -/

/-- The memory of a state has its canonical form. -/
def State.memWf (s : State) : Bool := Memory.wf s.mem.cells

theorem reset_memWf : State.reset.memWf = true := rfl

theorem State.poke_memWf {s : State} (h : s.memWf = true) (a : Nat) (bs : List Byte) : (s.poke a bs).memWf = true :=
  Cells.wf_write h a bs

theorem State.byteAt_poke {s : State} (h : s.memWf = true) (a : Nat) (bs : List Byte) (x : Nat) (hx : x < a ∨ a + bs.length ≤ x) :
    (s.poke a bs).byteAt x = s.byteAt x :=
  Cells.get_write_outside h a bs x hx

theorem State.peek_poke {s : State} (h : s.memWf = true) (a : Nat) (bs : List Byte) : (s.poke a bs).peek a bs.length = bs :=
  Cells.read_write h a bs

theorem zeroWays_memWf {s : State} (h : s.memWf = true) (n : Nat) (m : BitVec 16) : (zeroWays s n m).memWf = true :=
  Cells.wf_filter h _

/-! ### What an access of a home does beside the bytes leaves them -/

/-- A fold of steps that leave the bytes leaves them. -/
theorem foldl_cells {α : Type} (f : State → α → State) (h : ∀ s x, (f s x).mem.cells = s.mem.cells) (l : List α) (s : State) :
    (l.foldl f s).mem.cells = s.mem.cells := by
  induction l generalizing s with
  | nil => rfl
  | cons x l ih => rw [List.foldl_cons, ih, h]

@[simp] theorem wakeHome_cells (s : State) (pa : Nat) : (wakeHome s pa).mem.cells = s.mem.cells := by
  simp only [wakeHome]
  split
  · rfl
  · split <;> rfl

@[simp] theorem wakeHomes_cells (s : State) (pa n : Nat) : (wakeHomes s pa n).mem.cells = s.mem.cells :=
  foldl_cells _ (fun _ _ => wakeHome_cells _ _) _ s

@[simp] theorem dropInj_cells (s : State) (c : Nat) (j : Injection) : (dropInj s c j).mem.cells = s.mem.cells := rfl

@[simp] theorem disarmWrite_cells (s : State) (pa n : Nat) : (disarmWrite s pa n).mem.cells = s.mem.cells :=
  foldl_cells (fun s (x : Nat × Injection) => dropInj s x.1 x.2) (fun _ _ => rfl) _ s

@[simp] theorem lineAddress_cells (s : State) (pa : Nat) : (lineAddress s pa).2.mem.cells = s.mem.cells := by
  simp only [lineAddress]
  split <;> rfl

@[simp] theorem faultAddress_cells (s : State) (store kind pa : Nat) : (faultAddress s store kind pa).mem.cells = s.mem.cells := by
  simp only [faultAddress]
  split <;> exact lineAddress_cells s pa

@[simp] theorem corrected_cells (s : State) (store pa : Nat) : (corrected s store pa).mem.cells = s.mem.cells := by
  unfold corrected
  extract_lets page n t
  split
  · exact faultAddress_cells _ store 0 pa
  · rfl

@[simp] theorem poisonLine_cells (s : State) (store pa : Nat) : (poisonLine s store pa).mem.cells = s.mem.cells := by
  simp [poisonLine]

@[simp] theorem noteAsked_cells (s : State) (x : Asker) : (noteAsked s x).mem.cells = s.mem.cells := by
  simp only [noteAsked]
  split <;> rfl

@[simp] theorem unasked_cells (s : State) (x : Asker) : (unasked s x).mem.cells = s.mem.cells := by
  simp only [unasked]
  split <;> rfl

@[simp] theorem rebuilt_cells (s : State) (pa : Nat) : (rebuilt s pa).mem.cells = s.mem.cells := by
  simp [rebuilt]

/-- A read of a line at its channel leaves the bytes where what an uncorrectable error leads to does. -/
theorem readArmed_cells {f : State → State} (hf : ∀ s, (f s).mem.cells = s.mem.cells) (s : State) (line : Nat) :
    (readArmed f s line).2.mem.cells = s.mem.cells := by
  have h : ∀ (xs : List (Nat × Injection)) (s : State),
      (xs.foldl (fun s x => let s := dropInj s x.1 x.2; if x.2.hard then s else corrected s (storeOf line) line) s).mem.cells = s.mem.cells :=
    fun xs s => foldl_cells _ (fun s x => by
      simp only
      split <;> simp) xs s
  simp only [readArmed]
  split
  · rw [hf, h]
  · exact h _ s

@[simp] theorem readTier_cells (s : State) (line : Nat) : (readTier s line).2.mem.cells = s.mem.cells :=
  readArmed_cells (fun _ => poisonLine_cells _ _ _) s line

@[simp] theorem readSource_cells (s : State) (line : Nat) : (readSource s line).2.mem.cells = s.mem.cells := by
  refine readArmed_cells (fun s => ?_) s line
  split
  · simp only
    split <;> split <;> simp
  · simp

@[simp] theorem readSources_cells (s : State) (lines : List Nat) : (readSources s lines).2.mem.cells = s.mem.cells := by
  suffices h : ∀ (x : Bool × State), (lines.foldl (fun x l => let y := readSource x.2 l; (x.1 && y.1, y.2)) x).2.mem.cells = x.2.mem.cells from h (true, s)
  intro x
  induction lines generalizing x with
  | nil => rfl
  | cons l ls ih => rw [List.foldl_cons, ih]; exact readSource_cells x.2 l

@[simp] theorem rebuildSource_cells (s : State) (pa : Nat) (p m : Bool) : (rebuildSource s pa p m).2.mem.cells = s.mem.cells := by
  have h : (if isProtected s.mem pa && p then readSources s ((groupLines (parityGroup pa)).filter (· != pa / 64 * 64)) else (false, s)).2.mem.cells =
      s.mem.cells := by
    split
    · exact readSources_cells s _
    · rfl
  simp only [rebuildSource]
  split
  · rw [readTier_cells, h]
  · exact h

@[simp] theorem uncorrectable_cells (s : State) (pa : Nat) (p m : Bool) : (uncorrectable s pa p m).mem.cells = s.mem.cells := by
  have h : (if storeOf pa = 4 then rebuildSource s pa p m else (false, s)).2.mem.cells = s.mem.cells := by
    split
    · exact rebuildSource_cells s pa p m
    · rfl
  unfold uncorrectable
  extract_lets x
  split
  · exact (rebuilt_cells _ pa).trans h
  · exact (poisonLine_cells _ _ _).trans h

@[simp] theorem meetOne_cells (s : State) (c : Nat) (j : Injection) : (meetOne s c j).mem.cells = s.mem.cells := by
  have hf : ∀ t : State, t.fresh.2.mem.cells = t.mem.cells := fun _ => rfl
  simp only [meetOne]
  repeat' split
  all_goals simp [hf]

/-- What a read that reaches its home does there leaves every byte. -/
@[simp] theorem touchBytes_cells (s : State) (pa n : Nat) : (touchBytes s pa n).mem.cells = s.mem.cells := by
  simp only [touchBytes, meetInjection]
  rw [foldl_cells _ (fun _ _ => meetOne_cells _ _ _), wakeHomes_cells]

/-- A write at the home writes its bytes, and no other. -/
theorem putBytes_cells (s : State) (pa : Nat) (d : List Byte) : (putBytes s pa d).mem.cells = Cells.write s.mem.cells pa d := by
  simp [putBytes, State.poke]

theorem putBytes_memWf {s : State} (h : s.memWf = true) (pa : Nat) (d : List Byte) : (putBytes s pa d).memWf = true := by
  unfold State.memWf
  rw [putBytes_cells]
  exact Cells.wf_write h pa d

theorem copyCells_memWf {s : State} (h : s.memWf = true) (src dst n : Nat) : (copyCells s src dst n).memWf = true := by
  unfold State.memWf copyCells
  refine Cells.wf_foldl_set (Cells.wf_filter ?_ _) _ _ _
  simpa [State.memWf] using h

theorem keepOutside_wf {l : List Host.Cell} (h : Memory.wf l = true) : Memory.wf (keepOutside l) = true := Cells.wf_filter h _

end Sys2Proof.Machine
end

