-- ==== Sys2Proof/Tests/Slice0.lean ====
section
/-! SUPPORT. The model's own tests: well-formedness, decoding, single words and steps on small states, and for every statement a state and operands
that meet its hypotheses. -/

set_option Elab.async false

namespace Sys2Proof.Tests

open Sys2Proof.Machine

/-! ### Decoding: one word of every instruction, its fields placed by the field layouts of the spec's opcode map (02 R40–R47) -/

def wordsG0 : List (W32 × Engine × Instr) :=
  [(0xE408F4A0, .V, .add 1 17 29 5),
   (0xE81E96E0, .V, .sub 2 29 5 23),
   (0xEC22DD60, .V, .and 3 5 23 11),
   (0xF03BAC60, .V, .or 4 23 11 3),
   (0xF4458E20, .V, .xor 5 11 3 17),
   (0xF851C7A0, .V, .shl 6 3 17 29),
   (0xFC68F4A0, .V, .shr 7 17 29 5),
   (0xE47E96E0, .V, .sra 1 29 5 23),
   (0xE882DD60, .V, .mul 2 5 23 11),
   (0xEC9BAC60, .V, .mulh 3 23 11 3),
   (0xF0A58E20, .V, .mulhu 4 11 3 17),
   (0xF4B1C7A0, .V, .div 5 3 17 29),
   (0xF8C8F4A0, .V, .divu 6 17 29 5),
   (0xFCDE96E0, .V, .rem 7 29 5 23),
   (0xE502DD60, .V, .min 1 5 23 11),
   (0xE91BAC60, .V, .max 2 23 11 3),
   (0xED258E20, .V, .minu 3 11 3 17),
   (0xF131C7A0, .V, .maxu 4 3 17 29),
   (0xF548F4A0, .V, .slt 5 17 29 5),
   (0xF95E96E0, .V, .sltu 6 29 5 23),
   (0xFD82DF5F, .V, .addi 7 5 23 863),
   (0xE59BAF66, .V, .andi 1 23 11 870),
   (0xE9A58F6D, .V, .ori 2 11 3 877),
   (0xEDB1C774, .V, .xori 3 3 17 884),
   (0xF1C8F43B, .V, .shli 4 17 29 59),
   (0xF5DE9402, .V, .shri 5 29 5 2),
   (0xF9E2DC09, .V, .srai 6 5 23 9),
   (0xFDFBAF90, .V, .slti 7 23 11 912),
   (0xE605DB97, .V, .li 1 11 23447),
   (0xEA11DB9E, .V, .lsh 2 3 23454)]

theorem test_decode_wordsG0 : ∀ p ∈ wordsG0, decodeWord ⟨p.2.1, true⟩ p.1 = .ok p.2.2 := by decide +kernel

theorem test_encode_wordsG0 : ∀ p ∈ wordsG0, encode p.2.2 = some p.1 := by decide +kernel

def wordsG1 : List (W32 × Engine × Instr) :=
  [(0xEE288012, .V, .csrr 3 17 18),
   (0xF23E8012, .V, .csrw 4 29 18),
   (0xF6428000, .V, .tick 5 5),
   (0xFA505C00, .V, .tickwait 6 23),
   (0xFE858FC1, .V, .beq 7 11 3 961),
   (0xE691C7C8, .V, .bne 1 3 17 968),
   (0xEAA8F7CF, .V, .blt 2 17 29 975),
   (0xEEBE97D6, .V, .bge 3 29 5 982),
   (0xF2C2DFDD, .V, .bltu 4 5 23 989),
   (0xF6DBAFE4, .V, .bgeu 5 23 11 996),
   (0xFAE5DBEB, .V, .jal 6 11 23531),
   (0xFEF1C7F2, .V, .jalr 7 3 17 1010),
   (0xE70047F9, .V, .semwait 1 17 1017),
   (0xEB107400, .V, .semsig 2 29 0),
   (0xEF200003, .V, .fence 3 3),
   (0xF3305C0E, .V, .brk 4 23566),
   (0xF7405C15, .V, .trap 5 23573),
   (0xFB500000, .V, .nop 6),
   (0xFF88DC23, .V, .lcall 7 17 23587),
   (0xE7900000, .V, .lret 1),
   (0xEBA7C0B9, .V, .ltag 2 31 23 1),
   (0xEFB1C000, .V, .lidx 3 7 0),
   (0xF3C95C3F, .V, .brb 4 37 7231),
   (0xF7D00000, .V, .join 5)]

theorem test_decode_wordsG1 : ∀ p ∈ wordsG1, decodeWord ⟨p.2.1, true⟩ p.1 = .ok p.2.2 := by decide +kernel

theorem test_encode_wordsG1 : ∀ p ∈ wordsG1, encode p.2.2 = some p.1 := by decide +kernel

def wordsC : List (W32 × Engine × Instr) :=
  [(0x1818DC4D, .C, .forkA 6 17 23629),
   (0x1C2EDC54, .C, .forkV 7 29 23636),
   (0x0432DC5B, .C, .forkM 1 5 23643),
   (0x084BDC62, .C, .forkK 2 23 23650),
   (0x0C500009, .C, .rdv 3 9),
   (0x10500010, .C, .rdvEnd 4),
   (0x14500000, .M, .rdvStream 5),
   (0x18600000, .C, .safept 6),
   (0x1C728000, .C, .unitid 7 5),
   (0x048B800C, .C, .param 1 23 12),
   (0x08958000, .C, .role 2 11),
   (0x0CA00E20, .C, .enqr 3 3 17),
   (0x10B88000, .C, .cmdpop 4 17),
   (0x14CE8000, .C, .cmdsteal 5 29),
   (0x18D000AF, .C, .gbar 6 175),
   (0x1CEBC058, .C, .qbind 7 47 11),
   (0x04F02118, .C, .qdepth 1 33 3),
   (0x09000E20, .C, .split 2 3 17)]

theorem test_decode_wordsC : ∀ p ∈ wordsC, decodeWord ⟨p.2.1, true⟩ p.1 = .ok p.2.2 := by decide +kernel

theorem test_encode_wordsC : ∀ p ∈ wordsC, encode p.2.2 = some p.1 := by decide +kernel

def wordsA0 : List (W32 × Engine × Instr) :=
  [(0x2C01F4A4, .A, .stdim 3 3 29 5 4),
   (0x30111400, .A, .stbase 4 2 5),
   (0x34208001, .A, .stgo 5 1 1),
   (0x38300000, .A, .strst 6 0),
   (0x3C44C588, .A, .tdesc 7 19 5 17),
   (0x2457F0E8, .A, .tfill 1 31 48 29),
   (0x2861F729, .A, .tdrain 2 7 55 5 1),
   (0x2C74C000, .A, .tfree 3 19),
   (0x3087C0B8, .A, .tstate 4 31 23),
   (0x349BC058, .A, .ldq 5 47 11),
   (0x38A02118, .A, .stq 6 33 3),
   (0x3D01C7A0, .A, .ld 7 3 17 29 0),
   (0x2518F4A3, .A, .ldu 1 17 29 5 3),
   (0x292E96E2, .A, .st 2 29 5 23 2),
   (0x2D32DD61, .A, .ldl 3 5 23 11 1),
   (0x314BAC60, .A, .ldacq 4 23 11 3 0 0),
   (0x35558E2F, .A, .strel 5 11 3 17 3 3),
   (0x3981C7B5, .A, .aadd 6 3 17 29 2 2 1),
   (0x3D98F4AB, .A, .aand 7 17 29 5 1 1 1),
   (0x25AE96E1, .A, .aor 1 29 5 23 0 0 1),
   (0x29B2DD7F, .A, .axor 2 5 23 11 3 3 1),
   (0x2DCBAC75, .A, .amin 3 23 11 3 2 2 1),
   (0x31D58E2B, .A, .amax 4 11 3 17 1 1 1),
   (0x35E1C7A1, .A, .aminu 5 3 17 29 0 0 1),
   (0x39F8F4BF, .A, .amaxu 6 17 29 5 3 3 1),
   (0x3E0E96F5, .A, .aswp 7 29 5 23 2 2 1),
   (0x2612DD6B, .A, .acas 1 5 23 11 1 1 1),
   (0x2A8BAC00, .A, .cpyhd 2 23 11 0),
   (0x2E958003, .A, .cpyst 3 11 3),
   (0x32A00C02, .A, .cpywait 4 3 2)]

theorem test_decode_wordsA0 : ∀ p ∈ wordsA0, decodeWord ⟨p.2.1, true⟩ p.1 = .ok p.2.2 := by decide +kernel

theorem test_encode_wordsA0 : ∀ p ∈ wordsA0, encode p.2.2 = some p.1 := by decide +kernel

def wordsA1 : List (W32 × Engine × Instr) :=
  [(0x36B04400, .A, .postc 5 17),
   (0x3AC074A0, .A, .pref 6 29 5)]

theorem test_decode_wordsA1 : ∀ p ∈ wordsA1, decodeWord ⟨p.2.1, true⟩ p.1 = .ok p.2.2 := by decide +kernel

theorem test_encode_wordsA1 : ∀ p ∈ wordsA1, encode p.2.2 = some p.1 := by decide +kernel

def wordsV0 : List (W32 × Engine × Instr) :=
  [(0x5C07FA97, .V, .vadd 7 31 58 37 3),
   (0x441DE54A, .V, .vsub 1 55 37 18 2),
   (0x482A92E9, .V, .vmul 2 42 18 58 1),
   (0x4C37FA94, .V, .vfma 3 31 58 37 0),
   (0x504DE54B, .V, .vfms 4 55 37 18 3),
   (0x545A92E8, .V, .vmin 5 42 18 58),
   (0x5867FA94, .V, .vmax 6 31 58 37),
   (0x5C7DE548, .V, .vdiv 7 55 37 18 0),
   (0x448A9200, .V, .vabs 1 42 18),
   (0x4897FA00, .V, .vneg 2 31 58),
   (0x4CADE501, .V, .vrcp 3 55 37 1),
   (0x50BA9200, .V, .vrsq 4 42 18 0),
   (0x54C7FA03, .V, .vexp2 5 31 58 3),
   (0x58DDE502, .V, .vlog2 6 55 37 2),
   (0x5D0A92E9, .V, .vcmp 7 42 18 58 1),
   (0x4517FA94, .V, .vsel 1 31 58 37),
   (0x492DE548, .V, .vand 2 55 37 18),
   (0x4D3A92E8, .V, .vor 3 42 18 58),
   (0x5147FA94, .V, .vxor 4 31 58 37),
   (0x555DE500, .V, .vnot 5 55 37),
   (0x596A92E8, .V, .vshl 6 42 18 58),
   (0x5D77FA94, .V, .vshr 7 31 58 37),
   (0x458DE548, .V, .vsra 1 55 37 18),
   (0x499A92B8, .V, .vadds 2 42 18 23 0),
   (0x4DA7FA5B, .V, .vmuls 3 31 58 11 3),
   (0x51BDE548, .V, .vqadd 4 55 37 18),
   (0x55CA92E8, .V, .vqsub 5 42 18 58),
   (0x59D7FA94, .V, .vqmul 6 31 58 37),
   (0x5DEDE500, .V, .vqabs 7 55 37),
   (0x460A9202, .V, .vcvt 1 42 18 2)]

theorem test_decode_wordsV0 : ∀ p ∈ wordsV0, decodeWord ⟨p.2.1, true⟩ p.1 = .ok p.2.2 := by decide +kernel

theorem test_encode_wordsV0 : ∀ p ∈ wordsV0, encode p.2.2 = some p.1 := by decide +kernel

def wordsV1 : List (W32 × Engine × Instr) :=
  [(0x4A101200, .V, .vbmax 2 18),
   (0x4E2DE500, .V, .vbq 3 55 37 0),
   (0x523A9203, .V, .vrsum 4 42 18 3),
   (0x5647FA00, .V, .vrmax 5 31 58),
   (0x5A5DE500, .V, .vrmin 6 55 37),
   (0x5E8A9200, .V, .vmov 7 42 18),
   (0x4697C0B8, .V, .vbcst 1 31 23),
   (0x4AADE548, .V, .vperm 2 55 37 18),
   (0x4EBA9288, .V, .vrot 3 42 18 17),
   (0x52C7C088, .V, .vrow 4 31 17),
   (0x56D1C000, .V, .vnext 5 7),
   (0x5AEA8AB8, .V, .vrng 6 42 10 23)]

theorem test_decode_wordsV1 : ∀ p ∈ wordsV1, decodeWord ⟨p.2.1, true⟩ p.1 = .ok p.2.2 := by decide +kernel

theorem test_encode_wordsV1 : ∀ p ∈ wordsV1, encode p.2.2 = some p.1 := by decide +kernel

def wordsM : List (W32 × Engine × Instr) :=
  [(0x7C02DC01, .M, .mnest 7 5 23 1),
   (0x6411E500, .M, .mbind 1 7 37),
   (0x68201319, .M, .mloadb 2 19 3 1),
   (0x6C300001, .M, .mbank 3 1),
   (0x70400001, .M, .mring 4 1),
   (0x74500000, .M, .mgo 5),
   (0x78600000, .M, .mwait 6),
   (0x7C71E500, .M, .mma 7 7 37),
   (0x64858001, .M, .mstat 1 11 1),
   (0x68900000, .M, .mclr 2)]

theorem test_decode_wordsM : ∀ p ∈ wordsM, decodeWord ⟨p.2.1, true⟩ p.1 = .ok p.2.2 := by decide +kernel

theorem test_encode_wordsM : ∀ p ∈ wordsM, encode p.2.2 = some p.1 := by decide +kernel

def wordsK : List (W32 × Engine × Instr) :=
  [(0x8C0047A1, .K, .skcfg 3 17 29 1),
   (0x90100000, .K, .skclr 4),
   (0x9424BA58, .K, .skfold 5 18 58 11),
   (0x98303A94, .K, .skpanel 6 58 37),
   (0x9C400000, .K, .skshrink 7),
   (0x84518000, .K, .skrank 1 3),
   (0x88688000, .K, .sken 2 17),
   (0x8C700000, .K, .skenclr 3),
   (0x9087C0B8, .K, .skrdu 4 31 23),
   (0x949DC058, .K, .skrdv 5 55 11),
   (0x98AA8000, .K, .skrds 6 42),
   (0x9CB7C088, .K, .skrow 7 31 17),
   (0x84C03A94, .K, .skmrg 1 58 37),
   (0x88D07400, .K, .skscl 2 29),
   (0x8CED4000, .K, .sksave 3 53),
   (0x90F01E00, .K, .skload 4 30)]

theorem test_decode_wordsK : ∀ p ∈ wordsK, decodeWord ⟨p.2.1, true⟩ p.1 = .ok p.2.2 := by decide +kernel

theorem test_encode_wordsK : ∀ p ∈ wordsK, encode p.2.2 = some p.1 := by decide +kernel

def wordsS : List (W32 × Engine × Instr) :=
  [(0xD4058008, .C, .scsrr 5 11 8),
   (0xD8118008, .C, .scsrw 6 3 8),
   (0xDC200000, .C, .tret 7),
   (0xC4300001, .C, .ctxbank 1 1),
   (0xC8401402, .C, .tlbinv 2 5 2),
   (0xCC500000, .C, .halt 3),
   (0xD0600000, .C, .wfi 4),
   (0xD4718000, .C, .errpop 5 3),
   (0xD8804405, .C, .eccinj 6 17 5)]

theorem test_decode_wordsS : ∀ p ∈ wordsS, decodeWord ⟨p.2.1, true⟩ p.1 = .ok p.2.2 := by decide +kernel

theorem test_encode_wordsS : ∀ p ∈ wordsS, encode p.2.2 = some p.1 := by decide +kernel


/-! ### Words the spec assembles -/

def assembled0 : List (W32 × Engine × Instr) :=
  [(0xEC0190A0, .V, .add 3 3 4 5),
   (0x218298F4, .A, .aadd 0 5 6 7 2 2 0),
   (0x210190A3, .A, .ld 0 3 4 5 3),
   (0xE2021234, .V, .li 0 4 4660),
   (0xE340002A, .V, .trap 0 42),
   (0x4281E200, .V, .vmov 0 7 34),
   (0xE2115678, .V, .lsh 0 2 22136),
   (0xE0131D00, .V, .sub 0 6 7 8),
   (0xE8A31D00, .V, .mulhu 2 6 7 8),
   (0xE18297FF, .V, .addi 0 5 5 (-1)),
   (0xE1D1903F, .V, .shri 0 3 4 63),
   (0xE2F07C00, .V, .jalr 0 0 31 0),
   (0xE2210011, .V, .csrr 0 2 17),
   (0xE2318010, .V, .csrw 0 3 16),
   (0xE2438000, .V, .tick 0 7),
   (0xE2501C00, .V, .tickwait 0 7),
   (0xE3000C0C, .V, .semwait 0 3 12),
   (0xE310040C, .V, .semsig 0 1 12),
   (0xE3200002, .V, .fence 0 2),
   (0xE3300007, .V, .brk 0 7),
   (0xFF500000, .V, .nop 7),
   (0x00600000, .C, .safept 0),
   (0x00D00002, .C, .gbar 0 2),
   (0x00E8C040, .C, .qbind 0 35 8),
   (0x00F02340, .C, .qdepth 0 35 8),
   (0x010010A0, .C, .split 0 4 5),
   (0x20000C80, .A, .stdim 0 48 3 4 0),
   (0x20109800, .A, .stbase 0 49 6),
   (0x20308000, .A, .strst 0 49),
   (0x20407810, .A, .tdesc 0 1 56 2)]

theorem test_decode_assembled0 : ∀ p ∈ assembled0, decodeWord ⟨p.2.1, true⟩ p.1 = .ok p.2.2 := by decide +kernel

def assembled1 : List (W32 × Engine × Instr) :=
  [(0x20507020, .A, .tfill 0 1 48 4),
   (0x20704000, .A, .tfree 0 1),
   (0x20804048, .A, .tstate 0 1 9),
   (0x20988038, .A, .ldq 0 34 7),
   (0x20A02238, .A, .stq 0 34 7),
   (0x211190A2, .A, .ldu 0 3 4 5 2),
   (0x21319003, .A, .ldl 0 3 4 0 3),
   (0x2141900B, .A, .ldacq 0 3 4 0 2 3),
   (0x21C190A8, .A, .amin 0 3 4 5 1 0 0),
   (0x221190BB, .A, .acas 0 3 4 5 3 1 1),
   (0x22819002, .A, .cpyhd 0 3 4 2),
   (0x22918002, .A, .cpyst 0 3 2),
   (0x22A01002, .A, .cpywait 0 4 2),
   (0x22B01000, .A, .postc 0 4),
   (0x22C010A0, .A, .pref 0 4 5),
   (0x4050420C, .V, .vmin 0 1 2 3),
   (0x411241E0, .V, .vsel 0 9 1 56),
   (0x416082E8, .V, .vshl 0 2 2 58),
   (0x41B18680, .V, .vqadd 0 6 6 32),
   (0x41E1A200, .V, .vqabs 0 6 34),
   (0x4241E100, .V, .vrmax 0 7 33),
   (0x42910018, .V, .vbcst 0 4 3),
   (0x42A14108, .V, .vperm 0 5 1 2),
   (0x42B14120, .V, .vrot 0 5 1 4),
   (0x42C04030, .V, .vrow 0 1 6),
   (0x42D04000, .V, .vnext 0 1),
   (0x42100100, .V, .vbmax 0 1),
   (0x60112200, .M, .mbind 0 4 34),
   (0x60400001, .M, .mring 0 1),
   (0x60300001, .M, .mbank 0 1)]

theorem test_decode_assembled1 : ∀ p ∈ assembled1, decodeWord ⟨p.2.1, true⟩ p.1 = .ok p.2.2 := by decide +kernel

def assembled2 : List (W32 × Engine × Instr) :=
  [(0x60714100, .M, .mma 0 5 1),
   (0x60500000, .M, .mgo 0),
   (0x60600000, .M, .mwait 0),
   (0x60900000, .M, .mclr 0),
   (0x60828002, .M, .mstat 0 5 2),
   (0x80100000, .K, .skclr 0),
   (0x80700000, .K, .skenclr 0),
   (0x80538000, .K, .skrank 0 7),
   (0x80638000, .K, .sken 0 7),
   (0x80204230, .K, .skfold 0 1 2 6),
   (0x80300310, .K, .skpanel 0 3 4),
   (0x80400000, .K, .skshrink 0),
   (0x80814010, .K, .skrdu 0 5 2),
   (0x80984010, .K, .skrdv 0 33 2),
   (0x80A18000, .K, .skrds 0 6),
   (0x80B1C018, .K, .skrow 0 7 3),
   (0x80D02400, .K, .skscl 0 9),
   (0x80EC4000, .K, .sksave 0 49),
   (0x80F03000, .K, .skload 0 48),
   (0x80C032C8, .K, .skmrg 0 50 50),
   (0xE3900000, .V, .lret 0),
   (0xE3A04010, .V, .ltag 0 1 2 0),
   (0xE3B18000, .V, .lidx 0 6 0),
   (0xE3D00000, .V, .join 0),
   (0xE1C29410, .V, .shli 0 5 5 16),
   (0xE1A29402, .V, .ori 0 5 5 2),
   (0xE1910803, .V, .andi 0 2 2 3),
   (0xE0310880, .V, .or 0 2 2 4),
   (0xE8828880, .V, .mul 2 5 2 4),
   (0xC0018000, .C, .scsrr 0 3 0)]

theorem test_decode_assembled2 : ∀ p ∈ assembled2, decodeWord ⟨p.2.1, true⟩ p.1 = .ok p.2.2 := by decide +kernel

def assembled3 : List (W32 × Engine × Instr) :=
  [(0xC0200000, .C, .tret 0),
   (0xC0300001, .C, .ctxbank 0 1),
   (0xC0500000, .C, .halt 0),
   (0xC0600000, .C, .wfi 0),
   (0xC0730000, .C, .errpop 0 6),
   (0xC0801002, .C, .eccinj 0 4 2),
   (0xC0110003, .C, .scsrw 0 2 3)]

theorem test_decode_assembled3 : ∀ p ∈ assembled3, decodeWord ⟨p.2.1, true⟩ p.1 = .ok p.2.2 := by decide +kernel


/-! ### Well-formedness: an ill-formed term for each check (02 R32, R37, R41–R47) -/

/-- A field outside its listed range (check 5); the last value inside it is well formed. -/
theorem test_ranges :
    ([.csrr 0 1 2, .csrr 0 1 0x14, .csrw 0 1 0xF, .stdim 0 0 1 2 5, .mnest 0 6 1 0, .scsrr 0 1 5, .scsrw 0 1 9, .tlbinv 0 1 3, .eccinj 0 1 6] : List Instr).all (fun i => !i.wf) = true ∧
    ([.csrr 0 1 1, .csrr 0 1 0x13, .csrw 0 1 0x10, .stdim 0 0 1 2 4, .mnest 0 5 1 0, .scsrr 0 1 4, .scsrw 0 1 8, .tlbinv 0 1 2, .eccinj 0 1 5] : List Instr).all (fun i => i.wf) = true := by
  decide +kernel

/-- A specifier of a kind its field does not accept (checks 6 and 7): C, A, lift and queue words. -/
theorem test_specifiers_scalar :
    (([.ltag 0 0x20 0 0, .lidx 0 0x20 0, .brb 0 0x3B 0, .qbind 0 0x1F 0, .qdepth 0 0x1F 0, .tdesc 0 0x20 0x38 0,
      .tdesc 0 0x1F 0x39 0, .tfill 0 0x20 0x30 0, .tfill 0 0x1F 0x2F 0, .tdrain 0 0x20 0x30 0 0, .tdrain 0 0x1F 0x2F 0 0, .tfree 0 0x20,
      .tstate 0 0x20 0, .ldq 0 0x1F 0, .stq 0 0x1F 0] : List Instr)).all (fun i => !i.wf) = true := by decide +kernel

/-- The same of V words. -/
theorem test_specifiers_vector :
    (([.vadd 0 0x38 0x3A 0x3A 0, .vadd 0 0x37 0x3B 0x3A 0, .vadd 0 0x37 0x3A 0x3B 0, .vsub 0 0x38 0x3A 0x3A 0, .vsub 0 0x37 0x3B 0x3A 0, .vsub 0 0x37 0x3A 0x3B 0,
      .vmul 0 0x38 0x3A 0x3A 0, .vmul 0 0x37 0x3B 0x3A 0, .vmul 0 0x37 0x3A 0x3B 0, .vfma 0 0x38 0x3A 0x3A 0, .vfma 0 0x37 0x3B 0x3A 0, .vfma 0 0x37 0x3A 0x3B 0,
      .vfms 0 0x38 0x3A 0x3A 0, .vfms 0 0x37 0x3B 0x3A 0, .vfms 0 0x37 0x3A 0x3B 0, .vmin 0 0x38 0x3A 0x3A, .vmin 0 0x37 0x3B 0x3A, .vmin 0 0x37 0x3A 0x3B,
      .vmax 0 0x38 0x3A 0x3A, .vmax 0 0x37 0x3B 0x3A, .vmax 0 0x37 0x3A 0x3B, .vdiv 0 0x38 0x3A 0x3A 0, .vdiv 0 0x37 0x3B 0x3A 0, .vdiv 0 0x37 0x3A 0x3B 0,
      .vabs 0 0x38 0x3A, .vabs 0 0x37 0x3B, .vneg 0 0x38 0x3A, .vneg 0 0x37 0x3B, .vrcp 0 0x38 0x3A 0, .vrcp 0 0x37 0x3B 0,
      .vrsq 0 0x38 0x3A 0, .vrsq 0 0x37 0x3B 0, .vexp2 0 0x38 0x3A 0, .vexp2 0 0x37 0x3B 0, .vlog2 0 0x38 0x3A 0, .vlog2 0 0x37 0x3B 0] : List Instr) ++
    ([.vcmp 0 0x38 0x3A 0x3A 0, .vcmp 0 0x37 0x3B 0x3A 0, .vcmp 0 0x37 0x3A 0x3B 0, .vsel 0 0x38 0x3A 0x3A, .vsel 0 0x37 0x3B 0x3A, .vsel 0 0x37 0x3A 0x3B,
      .vand 0 0x38 0x3A 0x3A, .vand 0 0x37 0x3B 0x3A, .vand 0 0x37 0x3A 0x3B, .vor 0 0x38 0x3A 0x3A, .vor 0 0x37 0x3B 0x3A, .vor 0 0x37 0x3A 0x3B,
      .vxor 0 0x38 0x3A 0x3A, .vxor 0 0x37 0x3B 0x3A, .vxor 0 0x37 0x3A 0x3B, .vnot 0 0x38 0x3A, .vnot 0 0x37 0x3B, .vshl 0 0x38 0x3A 0x3A,
      .vshl 0 0x37 0x3B 0x3A, .vshl 0 0x37 0x3A 0x3B, .vshr 0 0x38 0x3A 0x3A, .vshr 0 0x37 0x3B 0x3A, .vshr 0 0x37 0x3A 0x3B, .vsra 0 0x38 0x3A 0x3A,
      .vsra 0 0x37 0x3B 0x3A, .vsra 0 0x37 0x3A 0x3B, .vadds 0 0x38 0x3A 0 0, .vadds 0 0x37 0x3B 0 0, .vmuls 0 0x38 0x3A 0 0, .vmuls 0 0x37 0x3B 0 0,
      .vqadd 0 0x38 0x3A 0x3A, .vqadd 0 0x37 0x3B 0x3A, .vqadd 0 0x37 0x3A 0x3B, .vqsub 0 0x38 0x3A 0x3A, .vqsub 0 0x37 0x3B 0x3A, .vqsub 0 0x37 0x3A 0x3B] : List Instr) ++
    ([.vqmul 0 0x38 0x3A 0x3A, .vqmul 0 0x37 0x3B 0x3A, .vqmul 0 0x37 0x3A 0x3B, .vqabs 0 0x38 0x3A, .vqabs 0 0x37 0x3B, .vcvt 0 0x38 0x3A 0,
      .vcvt 0 0x37 0x3B 0, .vbmax 0 0x3B, .vbq 0 0x38 0x3A 0, .vbq 0 0x37 0x3B 0, .vrsum 0 0x38 0x3A 0, .vrsum 0 0x37 0x3B 0,
      .vrmax 0 0x38 0x3A, .vrmax 0 0x37 0x3B, .vrmin 0 0x38 0x3A, .vrmin 0 0x37 0x3B, .vmov 0 0x38 0x3A, .vmov 0 0x37 0x3B,
      .vbcst 0 0x38 0, .vperm 0 0x38 0x3A 0x3A, .vperm 0 0x37 0x3B 0x3A, .vperm 0 0x37 0x3A 0x3B, .vrot 0 0x38 0x3A 0, .vrot 0 0x37 0x3B 0,
      .vrow 0 0x20 0, .vnext 0 0x20, .vrng 0 0x38 0 0] : List Instr)).all (fun i => !i.wf) = true := by decide +kernel

/-- The same of M and K words. -/
theorem test_specifiers_matrix_sketch :
    (([.mbind 0 0x20 0x3A, .mbind 0 0x1F 0x3B, .mloadb 0 0x20 0 0, .mma 0 0x20 0x3A, .mma 0 0x1F 0x3B, .skfold 0 0x3B 0x3A 0,
      .skfold 0 0x3A 0x3B 0, .skpanel 0 0x3B 0x3A, .skpanel 0 0x3A 0x3B, .skrdu 0 0x38 0, .skrdv 0 0x38 0, .skrds 0 0x38,
      .skrow 0 0x38 0, .skmrg 0 0x3B 0x3A, .skmrg 0 0x3A 0x3B, .sksave 0 0x20, .skload 0 0x20] : List Instr)).all (fun i => !i.wf) = true := by decide +kernel

/-- The last specifier each field accepts. -/
theorem test_specifiers_accepted :
    (([.ltag 0 0x1F 0 0, .lidx 0 0x1F 0, .brb 0 0x3A 0, .qbind 0 0x2F 0, .qdepth 0 0x2F 0, .tdesc 0 0x1F 0x38 0,
      .tfill 0 0x1F 0x30 0, .tdrain 0 0x1F 0x30 0 0, .tfree 0 0x1F, .tstate 0 0x1F 0, .ldq 0 0x2F 0, .stq 0 0x2F 0,
      .vadd 0 0x37 0x3A 0x3A 0, .vsub 0 0x37 0x3A 0x3A 0, .vmul 0 0x37 0x3A 0x3A 0, .vfma 0 0x37 0x3A 0x3A 0, .vfms 0 0x37 0x3A 0x3A 0, .vmin 0 0x37 0x3A 0x3A,
      .vmax 0 0x37 0x3A 0x3A, .vdiv 0 0x37 0x3A 0x3A 0, .vabs 0 0x37 0x3A, .vneg 0 0x37 0x3A, .vrcp 0 0x37 0x3A 0, .vrsq 0 0x37 0x3A 0,
      .vexp2 0 0x37 0x3A 0, .vlog2 0 0x37 0x3A 0, .vcmp 0 0x37 0x3A 0x3A 0, .vsel 0 0x37 0x3A 0x3A, .vand 0 0x37 0x3A 0x3A, .vor 0 0x37 0x3A 0x3A,
      .vxor 0 0x37 0x3A 0x3A, .vnot 0 0x37 0x3A, .vshl 0 0x37 0x3A 0x3A, .vshr 0 0x37 0x3A 0x3A, .vsra 0 0x37 0x3A 0x3A, .vadds 0 0x37 0x3A 0 0] : List Instr) ++
    ([.vmuls 0 0x37 0x3A 0 0, .vqadd 0 0x37 0x3A 0x3A, .vqsub 0 0x37 0x3A 0x3A, .vqmul 0 0x37 0x3A 0x3A, .vqabs 0 0x37 0x3A, .vcvt 0 0x37 0x3A 0,
      .vbmax 0 0x3A, .vbq 0 0x37 0x3A 0, .vrsum 0 0x37 0x3A 0, .vrmax 0 0x37 0x3A, .vrmin 0 0x37 0x3A, .vmov 0 0x37 0x3A,
      .vbcst 0 0x37 0, .vperm 0 0x37 0x3A 0x3A, .vrot 0 0x37 0x3A 0, .vrow 0 0x1F 0, .vnext 0 0x1F, .vrng 0 0x37 0 0,
      .mbind 0 0x1F 0x3A, .mloadb 0 0x1F 0 0, .mma 0 0x1F 0x3A, .skfold 0 0x3A 0x3A 0, .skpanel 0 0x3A 0x3A, .skrdu 0 0x37 0,
      .skrdv 0 0x37 0, .skrds 0 0x37, .skrow 0 0x37 0, .skmrg 0 0x3A 0x3A, .sksave 0 0x37, .skload 0 0x37] : List Instr)).all (fun i => i.wf) = true := by decide +kernel
/-! ### Small states -/

/-- Core 0 with this bank active, its stream `e` issuing word `x`; core 1 empty. -/
def issuingWord (e : Engine) (k : Bank) (x : W32) : State :=
  { State.reset with cur := ⟨⟨0, false⟩, e, x⟩, cores := [(0, { Core.reset with bank0 := k })] }

def issuing (e : Engine) (k : Bank) : State := issuingWord e k 0

/-- A running unit whose stream `e` holds these registers. -/
def unitWith (e : Engine) (l : List (Nat × W64)) : Bank :=
  let k := { Bank.reset with phase := .running, runnable := true, bindRec := { BindRecord.reset with valid := true, spad := 0xFFFF, fst := 0xFFFFF, cim := 3 } }
  k.setStream e { k.stream e with status := .running, regs := l.foldl (fun v p => v.setIfInBounds p.1 p.2) (k.stream e).regs }

/-- A stream of a bank with a change made to it. -/
def onStream (e : Engine) (f : Stream → Stream) (k : Bank) : Bank := k.setStream e (f (k.stream e))

/-- A ready tile of FP32 rows. -/
def readyTile (base rows : Nat) : Tile := { Tile.null with base := base, rows := rows, len := 64, fmt := fmtFp32, state := .ready }

/-- The bank with no lift but one level of two copies open. -/
def lifted (e : Engine) (k : Bank) : Bank := onStream e (fun x => { x with lift := [⟨2, 0x44, 3⟩] }) k

/-- Its context is privileged, and a handler stands at 0x400. -/
def privileged (s : State) : State := ({ s with ctxs := [(0, { Ctx.reset with priv := true })] } : State).modBank ⟨0, false⟩ (fun k => { k with tvec := 0x400 })

/-! ### Every statement's hypotheses are met -/

def regsV : Bank := unitWith .V [(1, 5), (2, 7)]
def pendV (w : PendWrite) (ck : W64) : Bank := onStream .V (fun x => { x with pend := [⟨9, w, []⟩], stallctl := ck }) regsV

theorem witness_IntegerFormsCompute :
    Claims.Readable (Claims.issueState (issuing .V regsV)) 1 ∧ Claims.Readable (Claims.issueState (issuing .V regsV)) 2 ∧
    Claims.Readable (Claims.issueState (issuing .V (pendV (.reg 1 3) 0))) 1 ∧ Claims.registerForms ≠ [] ∧
    Claims.immediateForms ≠ [] ∧ Claims.shiftForms ≠ [] := by
  unfold Claims.Readable; decide +kernel

theorem witness_early_pieces :
    let s := issuing .V (pendV (.ireg 1 3) 0)
    let a := issuing .A { unitWith .A [] with mem := { BankMem.reset with reqs := [⟨0, .ordinary, 0, [(0, 8)], .reg (some 1) false, none, false, 0, 0, 0, 0, 0⟩] } }
    let p := issuing .V (pendV (.reg 1 3) 1)
    (1 : Reg) ≠ 0 ∧ (Claims.issueState s).me.pend.any (fun p => p.wr.toIreg 1) = true ∧ Claims.Readable (Claims.issueState s) 2 ∧ Claims.Readable (Claims.issueState p) 2 ∧
    Claims.Readable (Claims.issueState a) 2 ∧ Claims.branches ≠ [] ∧
    (Claims.issueState a).cur.engine = .A ∧ (Claims.issueState a).myBank.mem.owes 1 = true ∧
    (Claims.issueState p).me.pend.any (fun p => p.wr.toIreg 1) = false ∧ (Claims.issueState p).cur.engine ≠ .A ∧
    (Claims.issueState p).me.pend.any (fun p => p.wr.toReg 1) = true ∧ (Claims.issueState p).me.stallctl.getLsbD 0 = true := by
  unfold Claims.Readable; decide +kernel

/-- A word that reads register 1 early: one that waits, and two that trap, the second of which other conditions may keep from issuing. -/
theorem witness_EarlyReadWaitsOrTraps (p q v : Spec) (i : Claims.Fields) :
    let s := Claims.issueState (issuing .V (pendV (.ireg 1 3) 0))
    let u := Claims.issueState (issuing .V (pendV (.reg 1 3) 1))
    (∃ x ∈ Claims.registerReaders s 0 3 1 2 p q v i, x.first ∧ x.regs[0]? = some 1 ∧ Claims.Interlocked s 1) ∧
    (∃ x ∈ Claims.registerReaders u 0 3 1 2 p q v i, x.first ∧ x.sure ∧ (∀ r ∈ x.regs, ¬ Claims.Interlocked u r) ∧ ∃ r ∈ x.regs, Claims.Premature u r) ∧
    ∃ x ∈ Claims.registerReaders u 0 3 1 2 p q v i, x.first ∧ ¬ x.sure ∧ (∀ r ∈ x.regs, ¬ Claims.Interlocked u r) ∧ ∃ r ∈ x.regs, Claims.Premature u r := by
  refine ⟨⟨{ word := .jalr 0 3 1 i.n10, regs := [1], sure := True }, by simp only [Claims.registerReaders, List.mem_append, List.mem_cons, true_or, or_true], trivial, rfl, ?_⟩,
    ⟨{ word := .jalr 0 3 1 i.n10, regs := [1], sure := True }, by simp only [Claims.registerReaders, List.mem_append, List.mem_cons, true_or, or_true], trivial, trivial, ?_⟩,
    ⟨{ word := .tickwait 0 1, regs := [1] }, by simp only [Claims.registerReaders, List.mem_append, List.mem_cons, true_or, or_true], trivial, not_false, ?_⟩⟩ <;>
    (try simp only [List.mem_singleton, forall_eq, exists_eq_left]) <;> unfold Claims.Interlocked <;> (try unfold Claims.Premature) <;> decide +kernel

theorem witness_BranchesAndJumps :
    let u := Claims.issueState (issuing .V regsV)
    Claims.Readable u 1 ∧ Claims.Readable u 2 ∧ Claims.branches ≠ [] ∧
    (Claims.wrap ((u.me.get 0).toInt + 4 * (1 : BitVec 10).toInt)).toNat % 4 = 0 ∧ ¬ (Claims.wrap ((u.me.get 1).toInt + 4 * (1 : BitVec 10).toInt)).toNat % 4 = 0 := by
  unfold Claims.Readable; decide +kernel

theorem witness_ControlWordsComplete :
    let u := Claims.issueState (issuing .V regsV)
    let p := Claims.issueState (issuing .V (pendV (.reg 1 3) 0))
    Claims.Quiet u ∧ ¬ Claims.Quiet p ∧ Claims.Readable u 1 ∧ (u.me.get 0).toNat ≤ u.time.tick.toNat ∧ ¬ (u.me.get 1).toNat ≤ u.time.tick.toNat := by
  unfold Claims.Quiet Claims.Readable; decide +kernel

/-- Semaphore 3 of context 0 holds 6; semaphore 4 has its error bit set. -/
def semState : State := { issuing .V regsV with ctxs := [(0, { Ctx.reset with sems := [(3, ⟨6, false, 0⟩), (4, ⟨0, true, 2⟩)] })] }

theorem witness_SemaphoreWordsAct :
    let u := Claims.issueState semState
    let a := Claims.issueState (issuing .A (unitWith .A []))
    u.me.sigs = [] ∧ Claims.Readable u 1 ∧ Claims.Readable u 2 ∧ (u.myCtx.sem 4).err = true ∧ (u.myCtx.sem 3).err = false ∧
    ((u.myCtx.sem 3).val.toNat + 2 ^ 32 - (u.me.get 1).toNat % 2 ^ 32) % 2 ^ 32 < 2 ^ 31 ∧
    ¬ ((u.myCtx.sem 3).val.toNat + 2 ^ 32 - (u.me.get 2).toNat % 2 ^ 32) % 2 ^ 32 < 2 ^ 31 ∧
    Claims.Quiet u ∧ u.cur.engine ≠ .A ∧ Claims.Quiet a ∧ a.cur.engine = .A ∧ a.released a.cur.bank a.myBank.mem.seq = true ∧
    ¬ Claims.Quiet (Claims.issueState (issuing .V (pendV (.reg 1 3) 0))) := by
  unfold Claims.Quiet Claims.Readable; decide +kernel

theorem witness_TrapsAreTaken :
    let u := privileged (issuing .V regsV)
    let v := u.modBank ⟨0, false⟩ (fun k => { k with tcause := 0x8000000000000001 })
    Claims.HandlerFree u ⟨0, false⟩ ∧ ((issuing .V regsV).ctxOf ⟨0, false⟩).priv = false ∧
    ((u.modBank ⟨0, false⟩ (fun k => { k with tvec := 0x402 })).bank ⟨0, false⟩).tvec.toNat % 4 ≠ 0 ∧ (v.ctxOf ⟨0, false⟩).priv = true ∧ (v.bank ⟨0, false⟩).tvec ≠ 0 ∧ (v.bank ⟨0, false⟩).tvec.toNat % 4 = 0 ∧ (v.bank ⟨0, false⟩).valid = true := by
  unfold Claims.HandlerFree; decide +kernel

theorem witness_SoftwareTrapsEnter :
    let next := fun (s : State) => (Claims.issueState s).modMe (fun x => { x with issued := x.issued + 1 })
    Claims.HandlerFree (next (privileged (issuing .V regsV))) ⟨0, false⟩ ∧ ((next (issuing .V regsV)).ctxOf ⟨0, false⟩).priv = false := by
  unfold Claims.HandlerFree; decide +kernel

def tileState (e : Engine) (k : Bank) : State := issuing e (k.setTile 1 (readyTile 0 2))
def taggedTile : Tile := (readyTile 0 1).setLift 0 ⟨true, 256, none⟩
def liftedState (e : Engine) : State := issuing e (lifted e ((unitWith e [(1, 2), (2, 0x100)]).setTile 1 taggedTile))
def runningStream (wr : Bool) (buf : List BufRow) : DataStream :=
  { DataStream.reset with run := some ⟨0, [⟨4, 256⟩, ⟨1, 0⟩, ⟨1, 0⟩, ⟨1, 0⟩, ⟨1, 0⟩], wr, 0, buf, 0, [], [], 0, []⟩ }

theorem witness_BatchedBranches :
    let u := Claims.issueState (tileState .V regsV)
    let l := Claims.issueState (liftedState .V)
    let q := Claims.issueState (issuing .V (regsV.setQueue 2 { Queue.empty with rows := [1, 2] }))
    let b := Claims.issueState (issuing .V (regsV.setQueue 2 { Queue.empty with binding := some ⟨0, 0, none, 0, 0, 0, 0, []⟩ }))
    let d := fun x => Claims.issueState (issuing .V (regsV.setDs 3 x))
    let j := Claims.issueState (issuing .V (onStream .V (fun x => { x with join := [⟨0, 3, 0x40, 1, true, 1⟩], lift := [⟨2, 0x44, 2⟩] }) regsV))
    operandOf 1 = .tile 1 ∧ (u.myBank.tile 1).state = .ready ∧ tagsOf u.me (u.myBank.tile 1) = [] ∧ u.me.pend = [] ∧ (u.myBank.tile 2).state ≠ .ready ∧
    operandOf 0x22 = .queue 2 ∧ (q.myBank.queue 2).binding = none ∧ (q.myBank.queue 2).rows ≠ [] ∧ (u.myBank.queue 2).rows = [] ∧ (b.myBank.queue 2).binding ≠ none ∧
    operandOf 0x33 = .stream 3 ∧ ((d (runningStream false [⟨0, 7, 0, false⟩])).myBank.ds 3).fault = none ∧ ((d { DataStream.reset with fault := some ⟨.misaligned, 0, 0, 0⟩ }).myBank.ds 3).fault.isSome = true ∧
    operandOf 0x38 = .zeroRow ∧ operandOf 0x39 = .onesRow ∧
    (l.myBank.tile 1).state = .ready ∧ tagsOf l.me (l.myBank.tile 1) = [0] ∧ l.me.lift[0]? = some ⟨2, 0x44, 3⟩ ∧
    (l.me.join.filter (·.level == 0)).length < 8 ∧ footprintOk l.myBank l.me 1 = true ∧ l.me.pend = [] ∧
    j.me.join.getLast? = some ⟨0, 3, 0x40, 1, true, 1⟩ ∧ u.me.join = [] := by decide +kernel

theorem rowsReadable_of (u : State) (rows : List Nat) (h : u.me.pend = []) (ho : ∀ i ∈ rows, u.myBank.ownWork u.cur.engine i = false)
    (hj : (u.core u.cur.bank.core).inj = []) : Claims.RowsReadable u rows := by
  refine ⟨?_, ho, ?_⟩ <;> simp [h, hj]

/-- A branch on rows that come at once, on rows of a bank in retention, and on rows that a stream has waited for. -/
theorem witness_rows_of_a_branch :
    let s := tileState .V regsV
    let u := Claims.issueState s
    let z := Claims.issueState (s.setCore 0 { s.core 0 with retained := 1 })
    let w := Claims.issueState (tileState .V (onStream .V (fun x => { x with reading := some (0, 0) }) regsV))
    let l := Claims.issueState (liftedState .V)
    Claims.RowsReadable u [0] ∧ Claims.RowsReadable l [0, 1] ∧ u.me.reading = none ∧ l.me.reading = none ∧ Claims.readCost u [0] = 0 ∧
      Claims.readCost l [0, 1] = 0 ∧ Claims.readCost z [0] = 64 ∧ w.me.reading = some (w.me.pc, w.me.nextIssue) := by
  refine ⟨rowsReadable_of _ _ ?_ ?_ ?_, rowsReadable_of _ _ ?_ ?_ ?_, ?_⟩ <;> decide +kernel

theorem witness_LiftLevelsAndTags :
    let u := Claims.issueState (issuing .V (unitWith .V [(1, 2)]))
    let big := Claims.issueState (issuing .V (unitWith .V [(1, 257)]))
    let l := Claims.issueState (liftedState .V)
    let i := Claims.issueState (issuing .V (lifted .V (regsV.setTile 1 { taggedTile with fmt := fmtI8, len := 256 })))
    let again := Claims.issueState (issuing .V (onStream .V (fun x => { x with lrep := 1, xset := [(1, [0])] }) (lifted .V (regsV.setTile 1 { taggedTile with fmt := fmtI8, len := 256 }))))
    let t := Claims.issueState (issuing .V (lifted .V ((unitWith .V [(1, 2), (2, 0x100)]).setTile 1 (readyTile 0 1))))
    Claims.Readable u 1 ∧ (u.me.get 1).toNat = 2 ∧ u.me.lift.length < 4 ∧ (big.me.get 1).toNat = 257 ∧
    (∀ k < 32, ¬ ((Claims.tagAt u.myBank k 0).t = true ∨ (Claims.tagAt u.myBank k 0).b ≠ 0)) ∧
    u.me.lift = [] ∧ l.me.lift.getLast? = some ⟨2, 0x44, 3⟩ ∧ (∀ j ∈ l.me.join, j.opened ≤ 0) ∧ (∀ k < 32, (Claims.tagAt l.myBank k 0).acq ≠ some l.cur.engine) ∧
    Claims.Readable t 2 ∧ operandOf 1 = .tile 1 ∧ (t.myBank.tile 1).rows ≠ 0 ∧ (t.myBank.tile 1).state = .ready ∧ t.myBank.tileBusy .V 1 = false ∧
    (t.me.get 2).toNat < 2 ^ 25 ∧ (t.me.get 2).toNat % 2 ^ 24 % 256 = 0 ∧ (t.me.get 2).toNat ≠ 2 ^ 24 ∧
    footprintOk (t.myBank.setTile 1 ((t.myBank.tile 1).setLift 0 ⟨true, 256, none⟩)) t.me 1 = true ∧
    (i.myBank.tile 1).state = .ready ∧ ((i.myBank.tile 1).liftAt 0).t = true ∧ 0 < i.me.lift.length ∧ footprintOk i.myBank i.me 1 = true ∧
    i.me.lrep = 0 ∧ tagsOf i.me (i.myBank.tile 1) = [0] ∧ (again.me.lrep = 1 ∧ again.me.xset.find? (·.1 == 1) = some (1, [0])) ∧
    nextActive i.me [0] (repCount i.me [0]) i.me.lrep = some 0 ∧ nextActive again.me [0] (repCount again.me [0]) again.me.lrep = some 1 := by
  unfold Claims.Readable; decide +kernel

theorem witness_StreamsForkAndMeet :
    let u := Claims.issueState (issuing .C (unitWith .C [(1, 5)]))
    let b := Claims.issueState (issuing .C (onStream .A (fun x => { x with status := .running }) (unitWith .C [])))
    let v := Claims.issueState (issuing .V (pendV (.reg 1 3) 0))
    let asked := fun (c : Bool) (p : Option Nat) => Claims.issueState (issuing .C { unitWith .C [] with cancel := c, preempt := p })
    u.cur.engine = .C ∧ Claims.Readable u 1 ∧ Claims.Unlifted u ∧ (u.myBank.stream .A).status = .idle ∧ (b.myBank.stream .A).status ≠ .idle ∧
    (∀ e, e ≠ .C → (u.myBank.stream e).status = .idle) ∧ ¬ Claims.Unlifted (Claims.issueState (liftedState .C)) ∧
    Claims.Quiet u ∧ u.myBank.recorded .C = none ∧ ¬ Claims.Quiet v ∧ Claims.Unlifted v ∧ u.myBank.copying = false ∧ u.myBank.cancel = false ∧
    u.myBank.preempt = none ∧ (u.bank ⟨0, true⟩).back = false ∧ (asked true none).myBank.cancel = true ∧ (asked true none).myBank.copying = false ∧
    (asked false (some 0)).myBank.preempt.isSome = true ∧ (asked false (some 0)).myBank.copying = false := by
  unfold Claims.Readable Claims.Quiet Claims.Unlifted
  refine ⟨by decide +kernel, by decide +kernel, by decide +kernel, by decide +kernel, by decide +kernel, ?_, by decide +kernel⟩
  intro e h; cases e <;> first | rfl | exact absurd rfl h

theorem witness_lift_words_stop :
    let far : Tile := (readyTile 0 2).setLift 0 ⟨true, 1048320, none⟩
    let c := Claims.issueState (issuing .V ((unitWith .V [(1, 2)]).setTile 1 far))
    let x : Stream := { c.me with lift := c.me.lift ++ [⟨2, c.me.pc + 4, 3⟩] }
    let mine : Tile := (readyTile 0 1).setLift 0 ⟨true, 256, some .V⟩
    let r := Claims.issueState (issuing .V (lifted .V (onStream .V (fun y => { y with pend := [⟨9, .done, [1]⟩] }) (regsV.setTile 1 mine))))
    let j := Claims.issueState (issuing .V (onStream .V (fun y => { y with join := [⟨0, 3, 0x40, 1, true, 1⟩], lift := [⟨2, 0x44, 2⟩] }) regsV))
    let g := Claims.issueState (issuing .V (lifted .V ((unitWith .V [(1, 1), (2, 0xFFF00)]).setTile 1 (readyTile 0 2))))
    let filling := Claims.issueState (issuing .V (regsV.setTile 1 { readyTile 0 2 with state := .filling }))
    let busy := Claims.issueState (issuing .V (onStream .A (fun y => { y with pend := [⟨9, .done, [1]⟩] }) ((unitWith .V [(2, 0x100)]).setTile 1 (readyTile 0 1))))
    Claims.Readable c 1 ∧ (c.me.get 1).toNat = 2 ∧ (Claims.tagAt (c.myBank.setStream .V x) 1 0).t = true ∧ footprintOk (c.myBank.setStream .V x) x 1 = false ∧
    r.me.lift ≠ [] ∧ r.me.join = [] ∧ 1 ∈ r.myBank.namedBy .V ∧ (Claims.tagAt r.myBank 1 0).acq = some r.cur.engine ∧
    (∃ y ∈ j.me.join, j.me.lift.length - 1 < y.opened) ∧
    Claims.Readable g 2 ∧ ¬ (g.me.get 1).toNat % 2 ^ 24 % 256 = 0 ∧ (g.me.get 2).toNat < 2 ^ 20 ∧ (g.me.get 2).toNat % 256 = 0 ∧ (g.myBank.tile 1).rows ≠ 0 ∧
    (g.myBank.tile 2).rows = 0 ∧ (g.myBank.tile 1).state = .ready ∧ g.myBank.tileBusy .V 1 = false ∧ 0 < g.me.lift.length ∧
    footprintOk (g.myBank.setTile 1 ((g.myBank.tile 1).setLift 0 ⟨true, 0xFFF00, none⟩)) g.me 1 = false ∧
    (filling.myBank.tile 1).state = .filling ∧ (busy.myBank.tile 1).state = .ready ∧ busy.myBank.tileBusy .V 1 = true := by
  unfold Claims.Readable; decide +kernel

/-- A launch of two units of context 0 with one role group of both. -/
def twoUnits : Launch :=
  { ctx := 0, desc := 0, paramVa := 0, params := [], text := 0, textLen := 4, entry := 0, tiles := [], streams := [], spad := 0xFFFF, fst := 0, cim := 0, rnd := 0
    stallck := false, residue := false, wdog := 1048576, srctr := 0, units := [(0, .placed ⟨0, false⟩), (1, .placed ⟨1, false⟩)]
    groups := [⟨0, [⟨0, 0, 0, true⟩, ⟨0, 0, 1, true⟩]⟩], ssbase := 0x10000000000, plan := [(5, 0xFF)], barrier := [], crec := 0, ssem := 0, sinc := 0, dkey := 0
    origin := .queue 0 0, stage := none, job := 0, count := 0, lost := 0, first := none, killed := false, cancel := false, dropped := 0, async := none, done := false, binds := [] }

/-- Units 0 and 1 of launch 1 stand on cores 0 and 1, both in C. -/
def launchedWith (k : Bank) (l : Launch) (o : Bank) : State :=
  let k := { k with bindRec := { k.bindRec with launch := 1 } }
  let o := { o with phase := .running, bindRec := { o.bindRec with launch := 1, unit := 1 } }
  { State.reset with cur := ⟨⟨0, false⟩, .C, 0⟩, cores := [(0, { Core.reset with bank0 := k }), (1, { Core.reset with bank0 := o })]
                     host := { HostState.reset with launches := [(1, l)] } }

def launched (k : Bank) : State := launchedWith k twoUnits Bank.reset

theorem witness_ControlStreamWords :
    let u := Claims.issueState (launched (unitWith .C [(1, 1), (2, 9)]))
    let full := Claims.issueState (launchedWith (unitWith .C [(1, 1), (2, 9)]) twoUnits { Bank.reset with inbound := List.replicate 16 0 })
    let p := Claims.issueState (launched { unitWith .C [] with inbound := [3, 4] })
    let r := Claims.issueState (launchedWith (unitWith .C []) twoUnits { Bank.reset with inbound := [3, 0x8000000000000004] })
    let lone := Claims.issueState (issuing .C (unitWith .C []))
    operandOf 0x22 = .queue 2 ∧
    lone.myGroups = [] ∧ u.myGroups = [] ++ ⟨0, [⟨0, 0, 0, true⟩, ⟨0, 0, 1, true⟩]⟩ :: [] ∧ Claims.holdsRank u.myBank.bindRec.unit.toNat ⟨0, 0, 0, true⟩ = true ∧
    Claims.Readable u 1 ∧ Claims.Readable u 2 ∧ (u.me.get 1).toNat < 2 ^ 32 ∧ u.launchOf u.cur.bank = some twoUnits ∧
    entryOf twoUnits.groups ((u.me.get 1).setWidth 32) = some ⟨0, 0, 1, true⟩ ∧ u.time.chip.toNat = 0 ∧ kfind twoUnits.units 1 = some (.placed ⟨1, false⟩) ∧
    (u.bank ⟨1, false⟩).phase = .running ∧ (u.bank ⟨1, false⟩).inbound.length + (u.bank ⟨1, false⟩).arrivals.length < 16 ∧ u.me.wait = none ∧
    u.released u.cur.bank u.myBank.mem.seq = true ∧ 16 ≤ (full.bank ⟨1, false⟩).inbound.length + (full.bank ⟨1, false⟩).arrivals.length ∧
    u.cur.engine = .C ∧ u.myBank.inbound = [] ∧ p.myBank.inbound = [3, 4] ∧ u.myCtx.det = false ∧
    (stripBanks r.cur.bank.core) = (stripBanks r.cur.bank.core).takeWhile (· != ⟨1, false⟩) ++ ⟨1, false⟩ :: ((stripBanks r.cur.bank.core).dropWhile (· != ⟨1, false⟩)).tail ∧
    (r.bank ⟨1, false⟩).inbound = [] ++ [3] ++ 0x8000000000000004 :: [] ∧ popsNow r ⟨1, false⟩ = false := by
  unfold Claims.Readable; decide +kernel

theorem witness_BarriersAndPostedWords :
    let gr : Group := ⟨0, [⟨0, 0, 0, true⟩, ⟨0, 0, 1, true⟩]⟩
    let k := unitWith .C [(1, 5), (2, 0xF)]
    let u := Claims.issueState (launched k)
    let g := fun (b : Bool) => Claims.issueState (launched { k with gbar := some ⟨0, 2, b⟩ })
    let w : W64 := 0x1200000001
    let q := fun (r : Option BindReq) => Claims.issueState (launched ((unitWith .C [(1, w)]).setQueue 3 { Queue.empty with req := r }))
    let y : List (Nat × Row × Nat) → Binding := fun l => ⟨0, 0, some ⟨1, false⟩, 2, 1, 1, 0, l⟩
    Claims.Unlifted u ∧ u.launchOf u.cur.bank = some twoUnits ∧ twoUnits.groups.find? (fun x => x.num == 0) = some gr ∧
    gr.ranks.any (Claims.holdsRank u.myBank.bindRec.unit.toNat) = true ∧ gr.ranks.any (Claims.holdsRank 7) = false ∧
    (∀ r ∈ gr.ranks, r.bound = true → r.chip = u.time.chip.toNat) ∧
    (g true).myBank.gbar = some ⟨0, 2, true⟩ ∧ (g false).myBank.gbar = some ⟨0, 2, false⟩ ∧ u.myBank.gbar = none ∧ u.me.wait = none ∧
    (∀ e ∈ engines, u.myBank.doneBefore u.cycle (u.myBank.markOf engines) e = true) ∧ u.released u.cur.bank u.myBank.mem.seq = true ∧
    Claims.Readable u 1 ∧ Claims.Readable u 2 ∧ operandOf 0x23 = .queue 3 ∧ (u.myBank.queue 3).rows = [] ∧ (u.myBank.queue 3).reserved = 0 ∧
    u.me.get 0 = 0 ∧ (u.myBank.queue 3).binding = none ∧
    (y []).travelling u.cycle = false ∧ (y [(9, 7, 0)]).travelling u.cycle = true ∧
    ((q none).me.get 1).toNat < 2 ^ 37 ∧ ((q none).me.get 1).getLsbD 36 = true ∧ entryOf (q none).myGroups (((q none).me.get 1).setWidth 32) = some ⟨0, 0, 1, true⟩ ∧
    ((q none).myBank.queue 3).req = none ∧ ((q (some ⟨0, w, 0, 1, .answered true⟩)).myBank.queue 3).req = some ⟨0, w, 0, 1, .answered true⟩ ∧
    ((q (some ⟨0, w, 0, 1, .answered false⟩)).myBank.queue 3).req = some ⟨0, w, 0, 1, .answered false⟩ ∧
    kfind twoUnits.plan (u.me.get 1).toNat = some 0xFF ∧ (u.me.get 1).toNat < Config.sliceCount ∧ (u.me.get 2).toNat < 2 ^ 16 := by
  unfold Claims.Readable Claims.Unlifted; decide +kernel

theorem witness_StreamsAndTilesAreSet :
    let u := Claims.issueState (issuing .A (unitWith .A [(1, 64), (2, 4), (3, 0x00004001000)]))
    let far := Claims.issueState (issuing .A (unitWith .A [(1, 0x80000000)]))
    let busy := Claims.issueState (issuing .A ((unitWith .A []).setDs 2 (runningStream true [⟨0, 7, 0, false⟩])))
    let odd := Claims.issueState (issuing .A ((unitWith .A []).setDs 2 { DataStream.reset with base := 4 }))
    let behind := Claims.issueState (issuing .A { unitWith .A [] with mem := { BankMem.reset with reqs := [⟨0, .ordinary, 0, [(0, 8)], .nowhere, none, true, 0, 0, 0, 0, 0⟩] } })
    let v := (u.me.get 3).toNat
    let t := Claims.issueState (issuing .A (lifted .A ((unitWith .A [(3, 0x00004001000)]).setTile 1 taggedTile)))
    let f := Claims.issueState (issuing .A ((unitWith .A []).setTile 1 { readyTile 0 2 with state := .filling }))
    Claims.Readable u 1 ∧ Claims.Readable u 2 ∧ (-2 ^ 31 ≤ (u.me.get 1).toInt ∧ (u.me.get 1).toInt < 2 ^ 31 ∧ (u.me.get 2).toNat < 2 ^ 32) ∧
    Claims.GateOpen u ∧ u.myBank.mem.reqs = [] ∧ (∃ q ∈ behind.myBank.mem.reqs, q.first = true) ∧
    ¬ (far.me.get 1).toInt < 2 ^ 31 ∧ storing u.myBank 2 = false ∧ storing busy.myBank 2 = true ∧
    ((u.myBank.ds 2).base.toNat % 64 = 0 ∧ ∀ y ∈ (u.myBank.ds 2).dims, y.d % 64 = 0) ∧ ¬ (odd.myBank.ds 2).base.toNat % 64 = 0 ∧
    operandOf 1 = .tile 1 ∧ Claims.Readable u 3 ∧ v < 2 ^ 40 ∧ fmtBits (v / 2 ^ 32 % 2 ^ 8) ≠ 0 ∧ 1 ≤ v / 2 ^ 20 % 2 ^ 12 ∧ v / 2 ^ 20 % 2 ^ 12 * fmtBits (v / 2 ^ 32 % 2 ^ 8) ≤ 2048 ∧
    inShare u.myBank (v % 2 ^ 12 * 256) (256 * (v / 2 ^ 12 % 2 ^ 8 + 1)) = true ∧ (u.myBank.tile 1).state = .empty ∧ u.myBank.tileBusy u.cur.engine 1 = false ∧
    tagsOf u.me (u.myBank.tile 1) = [] ∧ ¬ 1 ≤ (u.me.get 1).toNat / 2 ^ 20 % 2 ^ 12 ∧ tagsOf t.me (t.myBank.tile 1) ≠ [] ∧ (t.myBank.tile 1).state = .ready ∧
    t.myBank.tileBusy t.cur.engine 1 = false ∧ (f.myBank.tile 1).state = .filling := by
  unfold Claims.Readable Claims.GateOpen; decide +kernel

theorem witness_FillsAndDrains :
    let k := (unitWith .A [(1, 2)]).setTile 1 (readyTile 0 2)
    let f := Claims.issueState (issuing .A (k.setDs 3 (runningStream false [])))
    let d := Claims.issueState (issuing .A (k.setDs 3 (runningStream true [])))
    let wide : StreamRun := ⟨0, [⟨1, 256⟩, ⟨1, 0⟩, ⟨1, 0⟩, ⟨1, 0⟩, ⟨2, 256⟩], false, 0, [], 0, [], [], 0, []⟩
    let lk := fun (r : StreamRun) => Claims.issueState (issuing .A (lifted .A (((unitWith .A [(1, 1)]).setTile 1 taggedTile).setDs 3 { DataStream.reset with run := some r })))
    let l := lk wide
    let w := lk { wide with write := true }
    let shut := Claims.issueState (issuing .A { k with gbar := some ⟨0, 2, false⟩ })
    Claims.Readable f 1 ∧ operandOf 1 = .tile 1 ∧ operandOf 0x33 = .stream 3 ∧ f.myBank.tileBusy f.cur.engine 1 = false ∧ (f.myBank.tile 1).rows ≠ 0 ∧
    tagsOf f.me (f.myBank.tile 1) = [] ∧ (f.me.get 1).toNat ≤ (f.myBank.tile 1).rows ∧ (f.myBank.tile 1).state = .ready ∧ (f.myBank.ds 3).fault = none ∧
    (f.me.get 1).toNat ≠ 0 ∧ (f.me.get 0).toNat = 0 ∧ d.myBank.tileBusy d.cur.engine 1 = false ∧ (d.myBank.tile 1).state = .ready ∧
    (d.myBank.ds 3).run.isSome = true ∧ (d.myBank.tile 2).state ≠ .ready ∧
    Claims.Readable l 1 ∧ l.myBank.tileBusy l.cur.engine 1 = false ∧ tagsOf l.me (l.myBank.tile 1) ≠ [] ∧ (l.me.get 1).toNat ≤ (l.myBank.tile 1).rows ∧
    (l.myBank.ds 3).run = some wide ∧ wide.given = 0 ∧ (l.me.get 1).toNat ≤ sliceSize wide ∧ repCount l.me [0] ≤ fifth wide ∧ footprintOk l.myBank l.me 1 = true ∧
    (l.myBank.tile 1).state = .ready ∧ wide.write = false ∧ (w.myBank.ds 3).run = some { wide with write := true } ∧
    Claims.GateOpen f ∧ Claims.GateOpen d ∧ Claims.GateOpen l ∧ Claims.GateOpen w ∧ ¬ Claims.GateOpen shut := by
  unfold Claims.Readable Claims.GateOpen; decide +kernel

/-- Core 0 has page 0 of context 0 in its TLB, at frame 2^24, readable and writable. -/
def mapped (s : State) : State :=
  s.setCore 0 { s.core 0 with tlb := [⟨0, false, 0, 16777216, none, true, true, false⟩] }

def memState (l : List (Nat × W64)) : State := mapped (issuing .A (unitWith .A l))

/-- Frame 2^24 + 64 holds line 1 of page 0. -/
def line1 : Nat := 16777280

theorem witness_LoadsIssueOrTrap :
    let u := Claims.issueState (memState [(1, 64)])
    let n := Claims.issueState (issuing .A (unitWith .A [(1, 64), (2, 1)]))
    let busy := Claims.issueState (issuing .A { unitWith .A [] with mem := { BankMem.reset with dirty := List.replicate 512 ⟨0, 0, [0], none, 0, 0, 0, 0⟩ } })
    Claims.Readable u 1 ∧ Claims.Readable u 0 ∧ (u.me.get 1 + u.me.get 0).toNat % 2 ^ 3 = 0 ∧ Claims.Reaches u (u.me.get 1 + u.me.get 0) 8 .read [(line1, 8)] ∧
    Claims.Unpoisoned u .ordinary [(line1, 8)] ∧ Claims.Unpoisoned u .home [(line1, 8)] ∧ operandOf 0x22 = .queue 2 ∧ (u.myBank.queue 2).hasRoom = true ∧
    Claims.Reaches u (u.me.get 1) 256 .read [(line1, 64), (line1 + 64, 64), (line1 + 128, 64), (line1 + 192, 64)] ∧
    (n.me.get 1 + n.me.get 2).toNat % 2 ^ 3 ≠ 0 ∧ 512 ≤ busy.slots busy.cur.bank ∧ Claims.GateOpen n ∧ n.myBank.badPage (.aStream n.cur.bank) 0x10000000000000 = false ∧
    translate n 0 n.myBank.ctxNum (n.launchOf n.cur.bank) 0x10000000000000 .read = .forbidden := by
  unfold Claims.Readable Claims.Reaches Claims.Unpoisoned Claims.Unarmed Claims.GateOpen; decide +kernel

theorem witness_memory_words_stop :
    let u := Claims.issueState (memState [(1, 64), (2, 1)])
    let p : State := { u with mem := { u.mem with poison := [line1 / 64] } }
    let a := u.setCore 0 { u.core 0 with inj := [⟨4, line1, true⟩] }
    let full := Claims.issueState (issuing .A ((unitWith .A [(1, 64)]).setQueue 2 { Queue.empty with rows := List.replicate 16 0 }))
    let bound := Claims.issueState (issuing .A ((unitWith .A [(1, 64)]).setQueue 2 { Queue.empty with binding := some ⟨0, 0, none, 0, 0, 0, 0, []⟩ }))
    Claims.Readable p 1 ∧ Claims.Readable p 0 ∧ Claims.Reaches p (p.me.get 1 + p.me.get 0) 8 .read [(line1, 8)] ∧
    Claims.Reaches p (p.me.get 1) 8 .write [(line1, 8)] ∧ Claims.Reaches p (p.me.get 1) 4 .write [(line1, 4)] ∧ (p.me.get 1).toNat % 8 = 0 ∧
    Claims.Poisoned p .ordinary [(line1, 8)] ∧ Claims.Poisoned p .home [(line1, 8)] ∧ Claims.Poisoned p .home [(line1, 4)] ∧
    (∃ x ∈ armedIn a line1 8, x.2.hard = true) ∧ homeHeld a.mem line1 = false ∧ poisonedIn (touchBytes a line1 8) line1 64 = true ∧ (∀ o ∈ a.myBank.mem.own, o.done = true) ∧
    (u.me.get 2).toNat % 8 ≠ 0 ∧ (u.me.get 2).toNat % 4 ≠ 0 ∧ (u.me.get 2).toNat % 64 ≠ 0 ∧ operandOf 0x22 = .queue 2 ∧
    (full.myBank.queue 2).hasRoom = false ∧ (u.myBank.queue 2).binding = none ∧ (u.myBank.queue 2).rows = [] ∧ (bound.myBank.queue 2).binding ≠ none := by
  unfold Claims.Readable Claims.Reaches Claims.Poisoned Claims.Unarmed Claims.GateOpen; decide +kernel

theorem witness_StoresAndAtomicsIssue :
    let u := Claims.issueState (memState [(1, 64), (2, 9)])
    let q := Claims.issueState (mapped (issuing .A ((unitWith .A [(1, 64)]).setQueue 2 { Queue.empty with rows := [5] })))
    Claims.Readable u 1 ∧ Claims.Readable u 2 ∧ Claims.Reaches u (u.me.get 1 + u.me.get 0) 8 .write [(line1, 8)] ∧ (u.me.get 1).toNat % 8 = 0 ∧
    Claims.Reaches u (u.me.get 1) 4 .write [(line1, 4)] ∧ Claims.Unpoisoned u .home [(line1, 8)] ∧
    operandOf 0x22 = .queue 2 ∧ (q.me.get 1).toNat % 64 = 0 ∧ (q.myBank.queue 2).binding = none ∧ (q.myBank.queue 2).rows = 5 :: [] ∧
    Claims.Reaches q (q.me.get 1) 256 .write [(line1, 64), (line1 + 64, 64), (line1 + 128, 64), (line1 + 192, 64)] := by
  unfold Claims.Readable Claims.Reaches Claims.Unpoisoned Claims.Unarmed Claims.GateOpen; decide +kernel

theorem witness_CopyWordsComplete :
    let u := Claims.issueState (issuing .A (unitWith .A [(1, 64)]))
    let c := fun (x : Channel) => Claims.issueState (issuing .A ((unitWith .A [(1, 64)]).setChan 2 x))
    let full := c { Channel.reset with heads := List.replicate 8 ⟨0, 0, 0, 0, none⟩ }
    let bad := c { Channel.reset with fail := some ⟨⟨.accessViolation, 0, 0, 0⟩, true⟩ }
    let shut := Claims.issueState (issuing .A { unitWith .A [] with gbar := some ⟨0, 2, false⟩ })
    let m := Claims.issueState (memState [(1, 64)])
    Claims.GateOpen u (if (u.myBank.chan 2).busy then 0 else 4) ∧ Claims.GateOpen u ∧ ¬ Claims.GateOpen shut (if (shut.myBank.chan 2).busy then 0 else 4) ∧ ¬ Claims.GateOpen shut ∧
    translate m m.cur.bank.core m.myBank.ctxNum (m.launchOf m.cur.bank) (m.me.get 1 + m.me.get 0) .read = .ok line1 ∧ Claims.GateOpen m ∧
    translate u u.cur.bank.core u.myBank.ctxNum (u.launchOf u.cur.bank) (u.me.get 1 + u.me.get 0) .read = .miss ∧ Claims.Readable m 1 ∧ Claims.Readable m 0 ∧
    Claims.Readable u 1 ∧ u.cur.engine = .A ∧ (u.me.get 1).toNat % 64 = 0 ∧ (u.myBank.chan 2).fail = none ∧ ¬ 8 ≤ (u.myBank.chan 2).heads.length ∧
    8 ≤ (full.myBank.chan 2).heads.length ∧ (bad.myBank.chan 2).fail = some ⟨⟨.accessViolation, 0, 0, 0⟩, true⟩ ∧ (u.me.get 0).toNat ≤ (u.myBank.chan 2).complete ∧
    ¬ (u.me.get 1).toNat ≤ (u.myBank.chan 2).complete ∧ Claims.Readable u 0 := by
  unfold Claims.Readable Claims.GateOpen; decide +kernel

/-- A bank with this memory side, in memory that holds 5 at line 1. -/
def homeState (m : BankMem) : State :=
  { issuing .A { unitWith .A [] with mem := m } with mem := { MemSys.reset with cells := [(line1, 5)], tags := [(line1 / 32, ⟨1, 2, 9⟩)] } }

theorem witness_HomeSerialises :
    let r : ReqKind → MemReq := fun k => ⟨0, k, 64, [(line1, 8)], .reg (some 3) false, none, false, 0, 0, 0, 0, 0⟩
    let e : Option (Nat × Nat × Nat) → StoreEntry := fun i => ⟨0, line1, [1, 2], i, 0, 0, 0, 0⟩
    let s := fun k => homeState { BankMem.reset with reqs := [r k] }
    let d := homeState { BankMem.reset with dirty := [e none] }
    let n := homeState { BankMem.reset with sent := [e none] }
    let t := fun i => homeState { BankMem.reset with sent := [e (some (1, 2, i))] }
    let b : BankId := ⟨0, false⟩
    Memory.wf (s .home).mem.cells = true ∧ (∀ k ∈ [ReqKind.home, .rmw .add 1 0], ((s k).bank b).mem.reqs = r k :: [] ∧ reqReady (s k) b (r k) = true) ∧
    yields (s .home) (0, [(line1, 8)]) = false ∧ yields n (0, [(line1, 2)]) = false ∧ (r .home).pieces = [(line1, 8)] ∧ Claims.CleanBytes (s .home) line1 8 ∧
    (d.bank b).mem.dirty = e none :: [] ∧ (d.bank b).going.rowsStored 0 = true ∧ (∀ r ∈ (d.bank b).mem.reqs, r.seq < 0 → r.keeps (e none) = false) ∧
    (d.bank ⟨0, true⟩).front = none ∧ (e none).due ≤ d.cycle ∧ (homeOf n.mem line1).isSome = true ∧
    (n.bank b).mem.sent = e none :: [] ∧ homeHeld n.mem line1 = false ∧ staleMap n.mem 0 line1 = false ∧
    ((t 8).bank b).mem.sent = e (some (1, 2, 8)) :: [] ∧ line1 % 32 + 2 ≤ 32 ∧ kfind (t 8).mem.tags (line1 / 32) = some ⟨1, 2, 9⟩ ∧ 8 < 9 := by
  unfold Claims.CleanBytes; decide +kernel

theorem witness_LoadsReturn :
    let b : BankId := ⟨0, false⟩
    let r : ReqDest → MemReturn := fun d => ⟨⟨4, .home, 64, [(line1, 8)], d, none, false, 0, 0, 0, 0x40, 0⟩, [5], 0⟩
    let early : MemReq := ⟨1, .ordinary, 0, [(line1, 64)], .queue 2, none, false, 0, 0, 0, 0, 0⟩
    let s := fun d => homeState { BankMem.reset with returns := [r d] }
    let w := homeState { BankMem.reset with returns := [r (.queue 2)], reqs := [early] }
    (∀ d ∈ [ReqDest.reg (some 3) true, .reg none false, .queue 2, .command, .nowhere], ((s d).bank b).mem.returns[0]? = some (r d) ∧ (r d).due ≤ (s d).cycle ∧ (r d).req.dest = d) ∧
    (s .nowhere).cycle < ({ r .nowhere with due := 1 } : MemReturn).due ∧ earlierRow ((s (.queue 2)).bank b).mem 2 4 = false ∧
    (((s (.queue 2)).bank b).queue 2).binding = none ∧ earlierRow (w.bank b).mem 2 4 = true := by
  decide +kernel

/-! ### V, M and K -/

def addForm : Claims.VForm := Claims.general (Instr.vadd · 1 2 0x39 0) (ops3 1 2 0x39 (some 0)) 4 okArith .add

/-- A VADD whose rows come at once, and one whose banks are in retention. -/
theorem witness_VectorWordsGiveTheirRow :
    let s := issuing .V ((regsV.setTile 1 (readyTile 0 1)).setTile 2 (readyTile 256 1))
    let z := s.setCore 0 { s.core 0 with retained := 2 }
    (Claims.VIssues s (Claims.issueState s) addForm ∧ Claims.extraCycles (Claims.issueState s) addForm [] [] = 0) ∧
      Claims.VIssues z (Claims.issueState z) addForm ∧ Claims.extraCycles (Claims.issueState z) addForm [] [] ≠ 0 := by
  unfold Claims.VIssues Claims.Readable
  refine ⟨⟨⟨?_, ?_, ?_, by decide +kernel, ?_, ?_, ?_, by decide +kernel, ?_⟩, by decide +kernel⟩,
    ⟨?_, ?_, ?_, by decide +kernel, ?_, ?_, ?_, by decide +kernel, ?_⟩, by decide +kernel⟩
  all_goals first
    | (intro sp h n hn
       have : sp = 2 ∨ sp = 0x39 ∨ sp = 1 := by simpa [addForm, Claims.general, VOps.all, ops3, or_assoc] using h
       rcases this with rfl | rfl | rfl <;> cases hn <;> rfl)
    | (rw [if_pos (by decide +kernel)]; exact ⟨by decide +kernel, rfl, by decide +kernel⟩)
    | (intro td h; cases h; decide +kernel)
    | (intro y h; cases h)

theorem witness_IntegerLanesAreExact :
    let v : VIn := { f := fmtI8, l := 2, fa := fmtI8, la := 2, fd := fmtI8, ld := 2, dt := true, ta := true, tb := true, a := 0x7F, b := 1, d := 0, x := 0
                     sca := 0, scal := false, sc := [], rnd := ⟨0, (0, 0), 0⟩ }
    isInt v.f = true ∧ v.l * v.w ≤ 2048 ∧ 1 < v.l ∧ ¬ 2 < v.l ∧ 2 * v.w < 2048 := by decide +kernel

/-- Rows of FP32, of INT8, of MXFP4 with block scales, and a row of FP32 measured for VBQ. -/
theorem witness_LanesAreComputed :
    let v : Nat → Nat → Nat → VIn := fun f n d => { f := f, l := n, fa := f, la := n, fd := d, ld := n, dt := true, ta := true, tb := true, a := 0x7F, b := 1, d := 0, x := 0
                                                    sca := 127, scal := f == 4, sc := [some 1, none, some 1000], rnd := ⟨3, (1, 2), 512⟩ }
    (∀ f ∈ [0, 1], isFloat (v f 5 0).f = true ∧ 0 < (v f 5 0).l ∧ (v f 5 0).l * (v f 5 0).w ≤ 2048) ∧ isInt (v 8 5 0).f = true ∧
    (∀ f ∈ [0, 1, 2, 3, 4, 8], ∀ d ∈ [0, 2, 4, 8], (v f 5 d).la * fmtBits (v f 5 d).fa ≤ 2048 ∧ (v f 5 d).ld * fmtBits (v f 5 d).fd ≤ 2048 ∧
      cvtFmt (v f 5 d).fa = true ∧ cvtFmt (v f 5 d).fd = true) ∧
    (v 4 5 0).scal = true ∧ isInt (v 4 5 0).fa = false ∧ isFloat (v 0 5 2).fa = true ∧ (v 0 5 2).fd = 2 ∧ (v 0 5 2).ld ≤ 128 ∧
    0 < (v 0 5 0).la ∧ (v 0 5 0).la ≤ 2 ^ 3 ∧ 2 ^ (3 - 1) < (v 0 5 0).la ∧ (v 0 1 0).la ≤ 2 ^ 0 := by decide +kernel

theorem witness_VectorOperandsAndCursors :
    let s := issuing .V ((unitWith .V [(1, 1), (2, 2)]).setTile 1 (readyTile 0 2))
    let u := Claims.issueState s
    let bad := Claims.issueState (issuing .V ((regsV.setTile 1 { readyTile 0 2 with len := 32 }).setTile 2 (readyTile 512 2)))
    s.myBank.vpair = none ∧ addForm.ops.all = [2, 0x39] ++ 1 :: [] ∧ operandOf 2 = .tile 2 ∧ (u.myBank.tile 2).state ≠ .ready ∧
    (bad.myBank.tile 1).state = .ready ∧ (bad.myBank.tile 2).state = .ready ∧ addForm.ok bad = false ∧
    operandOf 1 = .tile 1 ∧ (u.myBank.tile 1).state = .ready ∧ Claims.Readable u 1 ∧ (u.me.get 1).toNat < (u.myBank.tile 1).rows ∧
    ¬ (u.me.get 2).toNat < (u.myBank.tile 1).rows := by
  unfold Claims.Readable; decide +kernel

/-- M with an E4M3 bank 0, a nest table bound to C tile 4 and the queue 2, 8 rows of FP32 in the C tile. -/
def matrixState : State :=
  let k := (unitWith .M [(1, 3)]).setTile 4 (readyTile 0 8)
  let k := { k with mEng := { k.mEng with shadow := { NestTable.reset with bound := some (4, 0x22) } } }
  { issuing .M k with cores := [(0, { Core.reset with bank0 := k, cim0 := { CimBank.reset with fmt := some fmtE4m3 } })] }

theorem witness_NestsAreSetAndStarted :
    let u := Claims.issueState matrixState
    let w := Claims.issueState (issuing .M (unitWith .M [(1, 0x10000)]))
    let n : Nest := { id := 0, tab := NestTable.reset, one := none, cTile := 4, aSpec := 0x22, aFmt := none, cFmt := 0, banks := [false], reps := [], pos := 0, total := 1
                      nextCyc := 0, held := none, fresh := false, isat := false, rtrap := false, run := none, poisoned := [], written := [], waiting := none, flags := 0, failed := none }
    let r := Claims.issueState (issuing .M { unitWith .M [] with mEng := { MEngine.reset with nest := some n } })
    Claims.Readable u 1 ∧ (0 ≤ (u.me.get 1).toInt ∧ (u.me.get 1).toInt < 65536) ∧ ¬ (w.me.get 1).toInt < 65536 ∧ isConst 0x38 = true ∧ isConst 0x22 = false ∧
    u.myBank.bindRec.cim.getLsbD 0 = true ∧ Bank.reset.bindRec.cim.getLsbD 0 = false ∧ u.myBank.mEng.nest = none ∧ u.myBank.recorded u.cur.engine = none ∧
    Claims.tileReady u 4 ∧ Claims.tileReady u 0x22 ∧ ¬ Claims.tileReady w 4 ∧ r.myBank.mEng.nest ≠ none ∧ u.cur.engine = .M ∧ u.myBank.mEng.shadow.bound = some (4, 0x22) ∧ widenSet u [4, 0x22] = [] ∧ u.myBank.mEng.shadow.steps ≠ 0 := by
  unfold Claims.Readable; decide +kernel

theorem witness_nest_fits :
    let u := Claims.issueState matrixState
    Claims.NestFits u 4 0x22 4 u.myBank.mEng.shadow false ∧ Claims.NestFits u 4 0x22 4 u.myBank.mEng.shadow.single true ∧
    Claims.ArrayFree u u.myBank.mEng.shadow.reach := by
  have h : ∀ t, tileOf (Claims.issueState matrixState) 0x22 = some t → False := by
    intro t h; rw [show tileOf (Claims.issueState matrixState) 0x22 = none by decide +kernel] at h; cases h
  have hk : ∀ (tab : NestTable), tab.reach = [false] → tab.ring = 0 →
      ∀ k ∈ tab.reach, (Claims.issueState matrixState).myBank.hasCim k = true ∧ ∃ bf, (((Claims.issueState matrixState).core 0).cim k).fmt = some bf ∧
        cFormat tab.ring (match tileOf (Claims.issueState matrixState) 0x22 with | some t => t.fmt | none => bf) bf = some fmtFp32 := by
    intro tab hr hg k hk; rw [hr] at hk; rw [hg]
    have : k = false := by simpa using hk
    subst this; exact ⟨by decide +kernel, fmtE4m3, by decide +kernel, by decide +kernel⟩
  refine ⟨⟨by decide +kernel, by decide +kernel, by decide +kernel, fun n hn => absurd hn (by intro h; cases h), hk _ (by decide +kernel) (by decide +kernel),
      fun t ht => (h t ht).elim, by decide +kernel, by decide +kernel, ?_, fun t n ht => (h t ht).elim⟩,
    ⟨by decide +kernel, by decide +kernel, by decide +kernel, fun n hn => absurd hn (by intro h; cases h), hk _ (by decide +kernel) (by decide +kernel),
      fun t ht => (h t ht).elim, by decide +kernel, by decide +kernel, ?_, fun t n ht => (h t ht).elim⟩, ?_⟩
  · rw [if_neg Bool.false_ne_true]; exact ⟨fun t ht => (h t ht).elim, by decide +kernel⟩
  · rw [if_pos rfl]; exact fun t ht => (h t ht).elim
  unfold Claims.ArrayFree; decide +kernel

theorem witness_MatrixEngineRuns :
    let b : BankId := ⟨0, false⟩
    let t : Tile := { readyTile 0 64 with fmt := fmtI8, len := 256 }
    let u := Claims.issueState (issuing .M ((unitWith .M [(1, 0)]).setTile 2 t))
    let l : BankLoad := ⟨0, false, 2, fmtI8, 64, 0, [(0, none)], some 0⟩
    let s := issuing .M { unitWith .M [] with mEng := { MEngine.reset with loads := [l] } }
    let n : Nest := { id := 0, tab := NestTable.reset, one := none, cTile := 4, aSpec := 1, aFmt := some fmtI8, cFmt := fmtI32, banks := [false], reps := [⟨0, none, 0, [0]⟩], pos := 0
                      total := 1, nextCyc := 0, held := none, fresh := true, isat := false, rtrap := false, run := none, poisoned := [], written := [], waiting := none, flags := 0
                      failed := none }
    let r := issuing .M { unitWith .M [] with mEng := { MEngine.reset with nest := some n } }
    let y : WriteBack := ⟨0, 4, 0, [(3, 7), (4, 8)], 0⟩
    let w := issuing .M { unitWith .M [] with mEng := { MEngine.reset with backs := [y] } }
    Claims.Readable u 1 ∧ operandOf 2 = .tile 2 ∧ (u.myBank.tile 2).state = .ready ∧ widenSet u [2] = [] ∧ loadFits u.myBank (u.myBank.tile 2) (u.me.get 1).toNat = true ∧
    u.myBank.bindRec.cim.getLsbD 0 = true ∧ u.myBank.mEng.nest = none ∧
    (s.bank b).mEng.loads = l :: [] ∧ l.finish = some 0 ∧ 0 ≤ s.cycle ∧ l.copies = [(0, none)] ∧ (s.core b.core).inj = [] ∧ mInt l.fmt = true ∧ l.first % 32 = 0 ∧
    l.rows / 2 % 32 = 0 ∧
    (r.bank b).mEng.nest = some n ∧ n.nextCyc ≤ r.cycle ∧ n.pos < n.total ∧ n.reps = ⟨0, none, 0, [0]⟩ :: [] ∧ n.aFmt = some fmtI8 ∧ n.waiting = none ∧
    (w.bank b).mEng.backs = y :: [] ∧ y.cyc ≤ w.cycle ∧ (y.rows.map (·.1)).Nodup := by
  unfold Claims.Readable; decide +kernel

theorem witness_NestStepsCompute :
    let m : MAcc := ⟨List.replicate 512 0, 0, 0, []⟩
    let a : Nat → AVec := fun f => ⟨f, 5, List.replicate 8 (some 0)⟩
    let n : Nest := { id := 0, tab := NestTable.reset, one := none, cTile := 4, aSpec := 1, aFmt := some fmtI8, cFmt := fmtI32, banks := [false], reps := [], pos := 0
                      total := 1, nextCyc := 0, held := none, fresh := true, isat := false, rtrap := false, run := none, poisoned := [], written := [], waiting := none, flags := 0
                      failed := none }
    m.acc.length = 512 ∧ Claims.BankWhole CimBank.reset ∧ mInt (a 8).fmt = true ∧ mFloat (a 2).fmt = true ∧ n.one = none ∧ ∀ l < 6, 0 < Claims.extentOf n.tab l := by
  refine ⟨by decide +kernel, ⟨fun k r h => ?_, fun j => ?_⟩, by decide, by decide, rfl, by decide +kernel⟩
  · cases h
  · show (List.replicate 512 ((0 : Int), (0 : Int), 0)).length = 512
    exact List.length_replicate

/-- A K-run's only step, its first of two, and the second. -/
theorem witness_StepsGiveTheirValues :
    let b : BankId := ⟨0, false⟩
    let tab : Nat → NestTable := fun e => { NestTable.reset with levels := NestTable.reset.levels.setIfInBounds 0 ⟨e, 1, 0, false⟩ }
    let n : Nat → Nat → Option (Int × List Int) → Nest := fun e p r =>
      { id := 0, tab := tab e, one := none, cTile := 4, aSpec := 1, aFmt := some fmtI8, cFmt := fmtI32, banks := [false], reps := [⟨0, none, 0, [0]⟩], pos := p
        total := e, nextCyc := 0, held := none, fresh := false, isat := false, rtrap := false, run := r, poisoned := [], written := [], waiting := none, flags := 0
        failed := none }
    let s := fun (x : Nest) => issuing .M { unitWith .M [] with mEng := { MEngine.reset with nest := some x } }
    ∀ x ∈ [n 1 0 none, n 2 0 none, n 2 1 (some (0, List.replicate 512 3))], ((s x).bank b).mEng.nest = some x ∧ x.nextCyc ≤ (s x).cycle ∧ x.pos < x.total ∧
      ((s x).core 0).inj = [] ∧ 8 * (x.at_ x.pos).1 % fmtBits fmtI8 = 0 ∧ (x.run = none → x.first x.pos = true) ∧
      (x.run.isSome = true → x.first x.pos = false) ∧ (x.run.map (·.2.length)).getD 512 = 512 ∧ 0 ≤ (x.at_ x.pos).2.2 ∧
      (match exec (.nestStep b) (s x) with | .next _ => true | _ => false) = true := by
  intro b tab n s x hx
  simp only [List.mem_cons, List.not_mem_nil, or_false] at hx
  rcases hx with rfl | rfl | rfl <;> exact ⟨by rfl, by decide +kernel, by decide +kernel, by rfl, by decide +kernel, by decide +kernel, by decide +kernel, by decide +kernel,
    by decide +kernel, by rfl⟩

/-- MLOADB of an MXFP4 tile whose scale tile lies in the share and out of it, and of a tile that a write-back of M is still to write. -/
theorem witness_bank_load_waits_or_traps :
    let k := fun (b : Nat) (l : List WriteBack) => Claims.issueState (issuing .M { (((unitWith .M [(1, 0)]).setTile 2
        { readyTile 0 32 with fmt := fmtMxfp4, len := 512, scale := some 3 }).setTile 3 { readyTile b 2 with fmt := fmtU8, len := 256 }) with
      mEng := { MEngine.reset with backs := l }, bindRec := { BindRecord.reset with valid := true, spad := 0x3, cim := 3 } })
    let inside := k 8192 []
    let outside := k 131072 []
    let behind := k 8192 [⟨0, 4, 9, [(3, 7)], 0⟩]
    let x := inside.myBank.tile 2
    loadFits inside.myBank x 0 = true ∧ Claims.loadScale inside.myBank x = some 8192 ∧ inShare inside.myBank 8192 (256 * (x.rows / 16)) = true ∧
    Claims.loadScale outside.myBank x = some 131072 ∧ inShare outside.myBank 131072 (256 * (x.rows / 16)) = false ∧
    3 ∈ Claims.loadRows behind.myBank x ∧ behind.myBank.ownWork .M 3 = true := by decide +kernel

/-- K with a pair of 2×2, ℓ = 2, p = 1, holding one pair of columns. -/
def onePair : KPair := ⟨2, 2, 2, 1, false, 1, [[0x3F800000, 0]], [[0x40000000, 0]], true, 0⟩
def sketchState (w : KPair) (l : List (Nat × W64)) : State :=
  issuing .K { ((unitWith .K l).setTile 1 (readyTile 0 8)).setTile 2 (readyTile 2048 8) with kEng := { KEngine.reset with pair := w } }

theorem witness_FoldsChangeThePair :
    let u := Claims.issueState (sketchState onePair [(1, 0x3F800000)])
    u.cur.engine = .K ∧ (u.core u.cur.bank.core).inj = [] ∧ Claims.SketchFree u true [] ∧ Claims.Readable u 1 ∧ operandOf 1 = .tile 1 ∧ operandOf 2 = .tile 2 ∧
    (u.myBank.tile 1).state = .ready ∧ (u.myBank.tile 2).state = .ready ∧ vecOk u 1 2 = .ok () ∧ vecOk u 2 2 = .ok () ∧ widenSet u [1, 2] = [] ∧
    0 < u.myBank.kEng.pair.k := by
  refine ⟨by decide +kernel, by decide +kernel, ⟨by decide +kernel, by decide +kernel, fun _ => by decide +kernel, fun sp h => by cases h⟩, ?_, by decide +kernel,
    by decide +kernel, by decide +kernel, by decide +kernel, rfl, rfl, by decide +kernel, by decide +kernel⟩
  unfold Claims.Readable; decide +kernel

/-- The image of `onePair` in tile 1's rows. -/
def imageState : State :=
  (imageRows onePair).zipIdx.foldl (fun s r => s.setCore 0 { s.core 0 with spad := kset (s.core 0).spad r.2 r.1 }) (sketchState onePair [(1, 1)])

theorem witness_SketchWordsIssue :
    let u := Claims.issueState imageState
    let k := u.myBank.kEng.pair
    u.cur.engine = .K ∧ Claims.PairOk k ∧ (u.me.get 1).toNat < 64 ∧ (u.me.get 1).toNat < k.m ∧ Claims.Readable u 1 ∧ vecOk u 1 k.m = .ok () ∧ vecOk u 1 64 = .ok () ∧
    imageOk u 1 (imageRows k).length = .ok () ∧ checkFootprints u [1] = .ok () ∧ widenSet u [1, 2] = [] ∧
    (∃ x y, tileOf u 1 = some x ∧ tileOf u 2 = some y ∧ isFloat x.fmt = true ∧ 0 < x.rows / ((k.m + x.len - 1) / x.len) ∧
      ¬ x.rows / ((k.m + x.len - 1) / x.len) ≤ k.p) ∧
    (∃ r, peekHeader u 1 [] = .ok r ∧ (afterHeader u.myBank k false false false (srcAt u 1 [] 0) (srcAt u 1 [] 0) r).isSome = true ∧
      (afterHeader u.myBank k true false true (srcAt u 1 [] 0) (srcAt u 2 [] 0) r).isSome = true) := by
  refine ⟨by decide +kernel, by unfold Claims.PairOk; decide +kernel, by decide +kernel, by decide +kernel, by unfold Claims.Readable; decide +kernel, rfl, rfl, rfl, rfl,
    by decide +kernel, ⟨_, _, rfl, rfl, by decide +kernel, by decide +kernel, by decide +kernel⟩, ⟨_, rfl, by decide +kernel, by decide +kernel⟩⟩

/-- Read-outs into a tile and into a queue, a fold that appends, one that shrinks and one that an Inf poisons. -/
theorem witness_SketchValuesAreGiven :
    let u := Claims.issueState imageState
    let k := u.myBank.kEng.pair
    Claims.SketchFree u true [1] ∧ Claims.SketchFree u true [0x22] ∧ Claims.PairOk k ∧ (u.core u.cur.bank.core).inj = [] ∧ (u.me.get 1).toNat < 64 ∧
    (u.me.get 1).toNat < k.m ∧ (∀ x ∈ [2, 64], vecOk u 1 x = .ok () ∧ vecOk u 0x22 x = .ok ()) ∧ checkFootprints u [1] = .ok () ∧ checkFootprints u [0x22] = .ok () ∧
    operandOf 1 = .tile 1 ∧ tagsOf u.me (u.myBank.tile 1) = [] ∧ 1 ≤ (u.myBank.tile 1).len ∧ (u.myBank.tile 1).len ≤ fmtCap (u.myBank.tile 1).fmt ∧
    operandOf 0x22 = .queue 2 ∧ (u.myBank.queue 2).binding = none ∧ (u.myBank.queue 2).rows.length + (u.myBank.queue 2).reserved + (64 + 63) / 64 ≤ 16 ∧
    (1 ≤ [[(1 : Nat), 2]].length ∧ k.k + [[(1 : Nat), 2]].length ≤ k.l) ∧ (([] : List (List Nat)) = [] ∧ k.k ≠ 0) ∧ k.l < k.k + [[(1 : Nat), 2], [3, 4]].length := by
  have hf : ∀ sp : Spec, (∀ n, operandOf sp = .tile n → ((Claims.issueState imageState).myBank.tile n).state = .ready) →
      Claims.SketchFree (Claims.issueState imageState) true [sp] := fun sp h =>
    ⟨by decide +kernel, by decide +kernel, fun _ => by decide +kernel, fun x hx n hn => by cases List.mem_singleton.mp hx; exact h n hn⟩
  refine ⟨hf 1 (fun n h => by cases h; decide +kernel), hf 0x22 (fun n h => by cases h), by unfold Claims.PairOk; decide +kernel, by decide +kernel, by decide +kernel,
    by decide +kernel, fun x hx => ?_, by rfl, by rfl, by decide +kernel⟩
  simp only [List.mem_cons, List.not_mem_nil, or_false] at hx
  rcases hx with rfl | rfl <;> exact ⟨by rfl, by rfl⟩

/-- A merge of the image of `onePair` from one tile into the pair it is of. -/
theorem witness_merge_fits :
    let u := Claims.issueState imageState
    let x := u.myBank.tile 1
    let y := u.myBank.tile 2
    ∃ h, readHeader ((u.core 0).row (x.base / 256 + x.cursor)) = some h ∧ h.m = u.myBank.kEng.pair.m ∧ h.n = u.myBank.kEng.pair.n ∧ x.fmt = 0 ∧ x.len = 64 ∧ y.fmt = 0 ∧
      y.len = 64 ∧ y.cursor ≤ y.rows ∧ 1 ≤ h.k ∧ h.k ≤ u.myBank.kEng.pair.p ∧ x.cursor + 1 + h.k * 1 + h.k * 1 ≤ x.rows ∧ y.cursor + h.k * 1 ≤ y.rows := by
  exact ⟨{ onePair with u := [], v := [] }, by decide +kernel, by decide +kernel⟩

theorem witness_panel_fits :
    let u := Claims.issueState (issuing .K { ((unitWith .K []).setTile 1 (readyTile 0 1)).setTile 2 (readyTile 2048 1) with kEng := { KEngine.reset with pair := onePair } })
    let k := u.myBank.kEng.pair
    let x := u.myBank.tile 1
    let y := u.myBank.tile 2
    tileOf u 1 = some x ∧ tileOf u 2 = some y ∧ isFloat x.fmt = true ∧ isFloat y.fmt = true ∧ 0 < x.rows / ((k.m + x.len - 1) / x.len) ∧
    x.rows / ((k.m + x.len - 1) / x.len) ≤ k.p ∧ y.rows / ((k.n + y.len - 1) / y.len) = x.rows / ((k.m + x.len - 1) / x.len) := by decide +kernel

theorem witness_PairWordsAndImages :
    let u := Claims.issueState (sketchState onePair [(1, 0x00020002), (2, 0x00010002)])
    let bad := Claims.issueState (sketchState onePair [(1, 0)])
    u.cur.engine = .K ∧ Claims.SketchFree u true [] ∧ Claims.Readable u 1 ∧ Claims.Readable u 2 ∧ (u.me.get 1).toNat = 2 + 2 ^ 16 * 2 ∧ (u.me.get 2).toNat = 2 + 2 ^ 16 * 1 ∧
    footprintOf 2 2 2 1 ≤ u.myBank.fstBytes ∧ ¬ 1 ≤ (bad.me.get 1).toNat % 2 ^ 11 ∧ Claims.PairOk onePair := by
  refine ⟨by decide +kernel, ⟨by decide +kernel, by decide +kernel, fun _ => by decide +kernel, fun sp h => by cases h⟩, ?_, ?_, by decide +kernel, by decide +kernel,
    by decide +kernel, by decide +kernel, by unfold Claims.PairOk; decide +kernel⟩ <;> unfold Claims.Readable <;> decide +kernel

/-! ### S words and POSTC -/

theorem witness_TrapReturnResumes :
    let u := Claims.issueState (issuing .C (unitWith .C []))
    let v := Claims.issueState (issuing .C { unitWith .C [] with tcause := 0x8000000000020001 })
    let h := Claims.issueState (issuing .C { unitWith .C [] with tcause := 0x8000000000020001, held := [⟨.A, ⟨.misaligned, 4, 0, 0⟩, 0x40⟩] })
    u.cur.engine = .C ∧ u.myBank.tcause.getLsbD 63 = false ∧ v.myBank.tcause.getLsbD 63 = true ∧ v.myBank.tcause.toNat / 2 ^ 16 % 8 = engineNum .V ∧
    (h.ctxOf h.cur.bank).priv = false ∧ ((privileged h).ctxOf h.cur.bank).priv = true ∧ (privileged h).myBank.tvec ≠ 0 ∧ (privileged h).myBank.tvec.toNat % 4 = 0 ∧
    (privileged h).myBank.tcause = h.myBank.tcause ∧ (privileged h).myBank.held = h.myBank.held ∧ v.myBank.held = [] ∧ h.myBank.held = ⟨.A, ⟨.misaligned, 4, 0, 0⟩, 0x40⟩ :: [] ∧ Engine.A ≠ .C ∧ Engine.V ≠ .A := by decide +kernel

theorem witness_SystemWordsAct :
    let u := Claims.issueState (issuing .C (unitWith .C [(1, 5)]))
    let w := fun (x : Bool) => Claims.issueState (issuing .C { unitWith .C [] with wfi := some ⟨0, 0, 0, x⟩ })
    let two := { issuing .C (unitWith .C []) with cores := [(0, { Core.reset with bank0 := unitWith .C [], bank1 := unitWith .C [] })] }
    let v := Claims.issueState two
    Claims.Readable u 1 ∧ u.myBank.wfi = none ∧ (w true).myBank.wfi = some ⟨0, 0, 0, true⟩ ∧ (w false).myBank.wfi = some ⟨0, 0, 0, false⟩ ∧
    v.myBank.copying = false ∧ v.myBank.cancel = false ∧ v.myBank.preempt = none ∧ true ≠ (v.core v.cur.bank.core).active ∧ (v.bank ⟨0, true⟩).runnable = true ∧
    (v.bank ⟨0, true⟩).phase = .running ∧ ¬ (u.bank ⟨0, true⟩).runnable = true := by
  unfold Claims.Readable; decide +kernel

/-- Page tables of context 0 at 2^20: page 0 at 2^21 for reading, writing and code, page 1 without an entry, page 2 in host memory, page 3 with a
reserved bit; at 2^21 + 4096 a group table with one group 1 of this chip alone, at + 8192 a collective of it. -/
def tables : List Host.Cell :=
  let w := fun m (p : Nat × Nat) => Cells.write m p.1 (leBytes 8 p.2)
  [(0x100000, 0x108001), (0x108000, 0x110001), (0x110000, 0x20000F), (0x110010, 0x3002F), (0x110018, 0x41),
   (0x201000, 0x10001), (0x202000, 0x0000000100000A40), (0x202010, 1), (0x202018, 0x3000), (0x202020, 0x4000), (0x202028, 0x0001000100010001)].foldl w []

def walkState (e : Engine) (k : Bank) : State :=
  let s := issuing e k
  { s with ctxs := [(0, { Ctx.reset with registered := true, ptroot := 0x100000, groupVa := 0x1000 })], mem := { MemSys.reset with cells := tables } }

/-- Core 0 has page 0 at 2^21 in its TLB. -/
def walked (e : Engine) (k : Bank) : State :=
  let s := walkState e k
  s.setCore 0 { s.core 0 with tlb := [⟨0, false, 0, 0x200000, none, true, true, false⟩] }

theorem idle_parts (k : Bank) (hd : k.dstreams = Vector.replicate 8 DataStream.reset) (hc : k.chans = Vector.replicate 4 Channel.reset) :
    (∀ n r, (k.ds n).run = some r → ∀ a ∈ r.asked, a.got.isSome = true) ∧ (∀ n, ∀ h ∈ (k.chan n).heads, h.ask = none) ∧
      ∀ n r, (k.chan n).running = some r → r.out = [] := by
  have d : ∀ n, k.ds n = DataStream.reset := fun n => by
    unfold Bank.ds; rw [hd]; by_cases h : n < 8 <;> simp [Vector.getD, h]
  have c : ∀ n, k.chan n = Channel.reset := fun n => by
    unfold Bank.chan; rw [hc]; by_cases h : n < 4 <;> simp [Vector.getD, h]
  refine ⟨fun n r h => ?_, fun n h hh => ?_, fun n r h => ?_⟩
  · rw [d n] at h; cases h
  · rw [c n] at hh; cases hh
  · rw [c n] at h; cases h

theorem witness_InvalidateAndInject :
    let u := Claims.issueState (walked .C (unitWith .C [(1, 64), (2, 3)]))
    let q := Claims.issueState (walked .A (onStream .A (fun x => { x with wait := some ⟨0, 0, 0, [], none⟩ }) (unitWith .A [])))
    Claims.Readable u 1 ∧ u.me.wait = none ∧ Claims.NothingTranslated u ∧ q.me.wait = some ⟨0, 0, 0, [], none⟩ ∧ (u.me.get 2).toNat / 2 % 4 ≠ 0 ∧ (u.me.get 1).toNat / 2 % 4 = 0 ∧
    shareByte u.myBank 0 ((u.me.get 1).toNat % 2 ^ 52 / 8 * 8) = some 64 ∧ shareByte Bank.reset 0 ((u.me.get 1).toNat % 2 ^ 52 / 8 * 8) = none ∧
    readAddress u u.cur.bank (u.me.get 1 &&& ~~~7) = some (0x200000 + 64) ∧ readAddress u u.cur.bank 0x7FF000 = none := by
  refine ⟨by unfold Claims.Readable; decide +kernel, by decide +kernel, ⟨?_, by decide +kernel⟩, by decide +kernel, by decide +kernel, by decide +kernel, by decide +kernel,
    by decide +kernel, by decide +kernel⟩
  intro c hc q
  rw [show (Claims.issueState (walked .C (unitWith .C [(1, 64), (2, 3)]))).cores = [(walked .C (unitWith .C [(1, 64), (2, 3)])).cores.headD (0, Core.reset)] by decide +kernel] at hc
  have hc := List.mem_singleton.mp hc
  subst hc; cases q <;> exact ⟨by decide +kernel, by decide +kernel, by decide +kernel, idle_parts _ (by decide +kernel) (by decide +kernel)⟩

theorem witness_CollectiveWordPosts :
    let s := walked .A (unitWith .A [(1, 0x2000), (2, 4)])
    let u := Claims.issueState s
    let d := s.peek 0x202000 64
    let given := fun (b : List Byte) => Claims.issueState (walked .A { unitWith .A [(1, 0x2000)] with mem := { BankMem.reset with command := some (0, b) } })
    let bad := privileged (given [])
    let g := given d
    let p := Claims.nextMatch g 0 d
    let early := { g with esc := { g.esc with aborted := [⟨p, 1⟩] } }
    let r : MemReq := ⟨0, .ordinary, 0x2000, [(0x202000, 64)], .command, none, false, 0, 0, 0, 0, 0⟩
    let asked := Claims.issueState (walked .A { unitWith .A [(1, 0x2000)] with mem := { BankMem.reset with reqs := [r] } })
    let full := Claims.issueState { walked .A (unitWith .A []) with esc := { Escapement.reset with
      table := List.replicate 256 ⟨⟨0, 0, 0, 0⟩, [], 0, 0, .unit 0, .waiting, none, 0, none, [], false, none, none, none, none⟩ } }
    Claims.Readable u 1 ∧ (u.me.get 2).toNat % 64 ≠ 0 ∧ (u.me.get 1).toNat % 64 = 0 ∧ 256 ≤ full.esc.table.length ∧ r ∈ asked.myBank.mem.reqs ∧ r.dest = .command ∧
    u.esc.table.length < 256 ∧ u.myBank.mem = BankMem.reset ∧ Claims.Reaches u (u.me.get 1) 64 .read [(0x202000, 64)] ∧ Claims.Unpoisoned u .ordinary [(0x202000, 64)] ∧
    g.esc.table.length < 256 ∧ g.myBank.mem.reqs = [] ∧ g.myBank.mem.returns = [] ∧ g.myBank.mem.command = some (0, d) ∧
    (groupKept g (.source (.aStream g.cur.bank)) 0 d).isNone = true ∧ (groupKept bad (.source (.aStream g.cur.bank)) 0 []).isNone = true ∧ g.mem.asked = [] ∧
    (∀ y ∈ g.cores, ∀ j ∈ y.2.inj, j.store < 3) ∧ commandOk bad 0 [] = false ∧ bad.cur.engine = .A ∧ Claims.HandlerFree bad g.cur.bank ∧ bad.esc.table.length < 256 ∧ bad.myBank.mem.command = some (0, []) ∧ commandOk g 0 d = true ∧
    (g.ctx 0).nseg = 0 ∧ g.esc.aborted = [] ∧ early.esc.aborted = [⟨p, 1⟩] := by
  unfold Claims.Readable Claims.Reaches Claims.Unpoisoned Claims.Unarmed Claims.HandlerFree Claims.GateOpen; decide +kernel

/-! ### Steps of banks and units -/

theorem witness_ResultsTakeEffectAndUnitsEnd :
    let b : BankId := ⟨0, false⟩
    let s := issuing .V (onStream .V (fun x => { x with pend := [⟨0, .reg 3 8, []⟩] }) regsV)
    let e := launchedWith { (unitWith .C []).haltAll with phase := .ending .complete } twoUnits Bank.reset
    let l : VLate := ⟨5, .add, { f := fmtFp32, l := 64, fa := fmtFp32, la := 64, fd := fmtFp32, ld := 64, dt := true, ta := true, tb := false, a := 0, b := 0, d := 0, x := 0
                                 sca := 0, scal := false, sc := [], rnd := ⟨0, (0, 0), 0⟩ }, some 1, none, none, none, 1, 0, ⟨0, 0, 0, 0, [], [], none⟩⟩
    let v := { issuing .V (onStream .V (fun x => { x with pend := [⟨9, .row 0 0, []⟩, ⟨9, .done, []⟩] }) { regsV with late := [l] }) with cycle := 5 }
    (s.bank b).phase = .running ∧ (s.stream b .V).pend = [] ++ [⟨0, .reg 3 8, []⟩] ∧ 0 ≤ s.cycle ∧ (3 : Reg) ≠ 0 ∧
    (v.bank b).phase = .running ∧ (∀ p ∈ (v.stream b .V).pend, v.cycle < p.cyc) ∧ (v.bank b).late = [l] ∧ l.due ≤ v.cycle ∧ l.undo.reg = none ∧
    (∀ j ∈ (v.core b.core).inj, j.hard = false) ∧ (e.bank b).late = [] ∧
    (e.bank b).phase = .ending .complete ∧ (e.stream b .C).pend = [] ∧ (e.bank b).mayEnd .complete = true ∧ e.released b (e.bank b).mem.seq = true ∧ (e.bank b).mEng.fail = none ∧ (e.bank b).kEng.fail = none ∧
    e.launch? (e.bank b).bindRec.launch.toNat = some twoUnits := by decide +kernel

def blocked (k : BlockKind) (t : W64) : State :=
  { issuing .V (onStream .V (fun x => { x with block := some ⟨k, 5, 0⟩ }) regsV) with time := { TimeState.reset with tick := t } }

theorem witness_WaitsEndOrTrap :
    let b : BankId := ⟨0, false⟩
    let g : PostedSig := ⟨3, 2, ⟨0, 0, 0, [], none⟩, none⟩
    let later : PostedSig := ⟨3, 2, ⟨9, 0, 0, [], none⟩, none⟩
    let s := fun x => issuing .V (onStream .V (fun y => { y with sigs := [x] }) regsV)
    let old := blocked .sem 1048577
    let young := blocked .sem 1048576
    let a := issuing .C { unitWith .C [] with arrivals := [(0, 2, 7), (0, 1, 8)] }
    let w := { issuing .C { unitWith .C [] with wfi := some ⟨0, 0, 0, false⟩ } with time := { TimeState.reset with tick := 1048577 } }
    ((s g).stream b .V).sigs = g :: [] ∧ ((s g).bank b).doneBefore 0 g.mark .V = true ∧ (s g).released b (g.rel.getD ((s g).bank b).mem.seq) = true ∧
    ((issuing .V (pendV (.reg 1 3) 0)).bank b).doneBefore 0 later.mark .V = false ∧
    (old.stream b .V).block = some ⟨.sem, 5, 0⟩ ∧ (old.stream b .V).status = .running ∧ (old.core 0).active = b.slot ∧ Engine.V ≠ .M ∧ Engine.V ≠ .K ∧ 0 + (old.bank b).wdog < old.tick ∧ young.tick ≤ 0 + (young.bank b).wdog ∧
    (0, 1, 8) ∈ (a.bank b).arrivals ∧ (∀ y ∈ (a.bank b).arrivals, y = (0, 1, 8) ∨ 0 < y.1 ∨ (0 = y.1 ∧ 1 < y.2.1)) ∧
    (w.bank b).wfi = some ⟨0, 0, 0, false⟩ ∧ 0 + (w.bank b).wdog < w.tick := by decide +kernel

theorem witness_BoundQueuesCarryRows :
    let b : BankId := ⟨0, false⟩
    let p : BankId := ⟨1, false⟩
    let r : BindStage → BindReq := fun st => ⟨4, 0x1200000001, 0, 1, st⟩
    let s := fun (q : Queue) (o : Bank) => launchedWith ((unitWith .C []).setQueue 3 q) twoUnits o
    let ask := s { Queue.empty with req := some (r .posted) } Bank.reset
    let y : Binding := ⟨4, 0, some p, 2, 1, 1, 0, [(0, 9, 5)]⟩
    let own := s { Queue.empty with req := some (r .posted) } (Bank.reset.setQueue 2 { Queue.empty with sender := some ⟨some b, 3, 9⟩ })
    let row := s { Queue.empty with binding := some y } (Bank.reset.setQueue 2 { Queue.empty with sender := some ⟨some b, 3, 4⟩ })
    let back := s { Queue.empty with binding := some { y with way := [], back := 1 } } Bank.reset
    p ≠ b ∧ ((ask.bank b).queue 3).req = some (r .posted) ∧ ask.time.chip.toNat = 0 ∧ ask.launchOf b = some twoUnits ∧ kfind twoUnits.units 1 = some (.placed p) ∧ (ask.bank p).phase ≠ .free ∧
    ((ask.bank p).queue 2).sender = none ∧ ((own.bank p).queue 2).sender = some ⟨some b, 3, 9⟩ ∧ ((row.bank p).queue 2).sender ≠ none ∧ (0 : Nat) ≤ row.cycle ∧ row.cycle < 1 ∧
    (((s { Queue.empty with req := some (r (.asked (some true))) } Bank.reset).bank b).queue 3).req = some (r (.asked (some true))) ∧
    ((row.bank b).queue 3).binding = some y ∧ y.way = (0, 9, 5) :: [] ∧ y.bank = some p ∧ y.peerQ < 16 ∧ ((row.bank p).queue y.peerQ).sender = some ⟨some b, 3, y.id⟩ ∧
    ((back.bank b).queue 3).binding = some { y with way := [], back := 1 } ∧ 0 < 1 := by decide +kernel

/-- A launch of context 0 whose text is page 0, with unit 1 bound to core 1. -/
def bound : Launch := { twoUnits with units := [(0, .placed ⟨0, false⟩), (1, .bound ⟨1, false⟩)] }
def dispatching : State :=
  let s := { walkState .C (unitWith .C []) with host := { HostState.reset with launches := [(1, bound)] } }
  s.setCore 1 { Core.reset with tlb := [⟨0, false, 0, 0x200000, none, true, true, true⟩] }

theorem witness_UnitsStartAndPassBarriers :
    let b : BankId := ⟨0, false⟩
    let g := fun (n : Nat) => launchedWith { unitWith .C [] with gbar := some ⟨0, 2, false⟩ } { twoUnits with barrier := [(0, n)] } Bank.reset
    let c : SplitChange := ⟨3, 0, 0, 0⟩
    let w := (issuing .C Bank.reset).setSlice 5 { Slice.reset with changes := [c] }
    let d := dispatching
    let h := launchedWith { unitWith .C [] with gbar := some ⟨1, 2, false⟩, gkept := [⟨0, 2, false⟩], splits := [(5, 0xFF)] } { twoUnits with barrier := [(0, 2)] } Bank.reset
    ((g 2).bank b).gbar.toList ++ ((g 2).bank b).gkept = [] ++ ⟨0, 2, false⟩ :: [] ∧ (g 2).launchOf b = some { twoUnits with barrier := [(0, 2)] } ∧
    ((g 1).bank b).gbar.toList ++ ((g 1).bank b).gkept = [⟨0, 2, false⟩] ∧ kget 0 [(0, 1)] 0 < 2 ∧ 2 ≤ kget 0 [(0, 2)] 0 ∧ ((g 2).bank b).splits = [] ∧
    (h.bank b).gbar.toList ++ (h.bank b).gkept = [⟨1, 2, false⟩] ++ ⟨0, 2, false⟩ :: [] ∧ ¬ 2 ≤ kget 0 [((0 : Nat), (2 : Nat))] 1 ∧ ((h.bank b).splits.map (·.1)).Nodup ∧ (h.bank b).splits ≠ [] ∧
    (w.slice 5).changes = c :: [] ∧ c.until_ ≤ w.cycle ∧ Memory.wf w.mem.cells = true ∧
    d.launch? 1 = some bound ∧ kfind bound.units 1 = some (.bound ⟨1, false⟩) ∧ 1 < Config.coreCount ∧ (d.bank ⟨1, false⟩).phase = .free ∧ (d.bank ⟨1, false⟩).faults = [] ∧
    (d.bank ⟨1, false⟩).badWalks = [] ∧ boundWaiting d bound = 0 ∧ bound.done = false ∧ bound.cancel = false ∧ coreAwake d 1 = true ∧ readText d ⟨1, false⟩ bound.ctx bound.text 513 bound.textLen [] = .ok [0] ∧ bound.tiles = [] ∧ bound.streams = [] := by
  decide +kernel

theorem witness_BanksSwitchAndReset :
    let b : BankId := ⟨0, false⟩
    let two := fun (x y : Bank) (sw : Option Nat) => ({ State.reset with cores := [(0, { Core.reset with bank0 := x, bank1 := y, switching := sw })] } : State)
    let k := unitWith .C []
    let free := two { Bank.reset with phase := .free } k none
    let s := issuing .C k
    let p := issuing .C { k with phase := .preempted }
    let q := two Bank.reset { k with phase := .preempted } none
    let asks := ({ State.reset with cores := [(0, { Core.reset with bank0 := Bank.reset, bank1 := { k with phase := .ending .complete }, want := true })] } : State)
    let y := two { k with phase := .preempted, yielded := some (0, true) } { k with phase := .preempted, yielded := some (0, true) } (some 0)
    let r := ({ State.reset with cores := [(0, { Core.reset with bank0 := k, resetting := true })] } : State)
    ((two k k (some 32)).core 0).switching = some 32 ∧ ((two k k (some 0)).core 0).switching = some 0 ∧ (free.core 0).switching = none ∧
    ((free.core 0).bank true).runnable = true ∧ ((free.core 0).bank true).phase = .running ∧ ((free.core 0).bank false).phase = .free ∧
    ((two k { k with runnable := false } none).core 0).bank1.runnable = false ∧ (s.bank b).phase = .running ∧ (s.bank b).preempt = none ∧
    (p.bank b).phase = .preempted ∧ (p.core 0).active = b.slot ∧ (q.bank ⟨0, true⟩).phase = .preempted ∧ (q.core 0).active ≠ true ∧ (5 : BitVec 64).toNat % 2 ^ 11 < Config.coreCount ∧
    free.rests b = true ∧ (asks.core 0).switching = none ∧ ((asks.core 0).bank true).phase = .ending .complete ∧ ((asks.core 0).bank true).faults = [] ∧
    (asks.core 0).want = true ∧ asks.rests b = true ∧ ((y.core 0).bank true).phase = .preempted ∧ ((y.core 0).bank true).yielded = some (0, true) ∧ (y.bank b).yielded = some (0, true) ∧ (p.bank b).yielded = none ∧
    (p.core 0).switching = none ∧ (r.core 0).resetting = true ∧ (r.core 0).bank0.phase ≠ .free ∧ (r.core 0).bank1.phase = .free ∧ (r.core 0).bank1.bindRec.valid = false ∧ (s.core 0).resetting = false := by
  decide +kernel

/-- A stream of four rows at VA 0 whose lines stand in frame 2^21. -/
def fourRows : StreamRun := ⟨0, [⟨4, 256⟩, ⟨1, 0⟩, ⟨1, 0⟩, ⟨1, 0⟩, ⟨1, 0⟩], false, 0, [], 0, [], [], 0, []⟩
def rowLines : List Nat := [0x200000, 0x200040, 0x200080, 0x2000C0]
def streaming (r : StreamRun) (m : List Move) : State :=
  walked .A { (unitWith .A []).setDs 3 { DataStream.reset with run := some r } with moves := m }

theorem witness_StreamRowsMove :
    let b : BankId := ⟨0, false⟩
    let y : BufRow := ⟨0, 7, 0, false⟩
    let a : Ask := ⟨9, 0, 0, 0, rowLines, none⟩
    let f := streaming fourRows []
    let second := streaming { fourRows with asked := [a] } []
    let w := streaming { fourRows with write := true, buf := [y] } []
    let m : Move := ⟨0, 0, false, 1, 3, 2, 1, [some 256], 0, false, false⟩
    let g := streaming { fourRows with buf := [y] } [m]
    let two := streaming { fourRows with buf := [y] } [m, { m with id := 1, tile := 2 }]
    ((f.bank b).ds 3).run = some fourRows ∧ ((f.bank b).ds 3).fault = none ∧ (f.bank b).streamHeld 3 = false ∧ 0 < DataStream.positions fourRows ∧
    f.rowsMove b = true ∧ w.rowsMove b = true ∧ g.rowsMove b = true ∧ reachRow f b 3 (.dstream b 3) .read (rowVa fourRows 0) 4 = .ok rowLines ∧
    second.rowsMove b = true ∧ second.cycle < a.due ∧ reachRow second b 3 (.dstream b 3) .read (rowVa fourRows 1) 4 = .ok [0x200100, 0x200140, 0x200180, 0x2001C0] ∧
    1 < DataStream.positions fourRows ∧ second.slots b + 4 ≤ 512 ∧
    (w.bank b).moves = [] ∧ reachRow w b 3 (y.source b 3) .write (rowVa fourRows 0) 4 = .ok rowLines ∧ w.slots b + (if (w.bank b).rowsAhead 3 0 = true then 4 else 0) ≤ 512 ∧
    (g.bank b).moves = [m] ∧ m.drain = false ∧ m.tile < 32 ∧ m.stream = 3 ∧ m.copies = [some 256] ∧ m.lifted = false ∧ m.row < m.rows ∧ ¬ m.row + 1 < m.rows ∧
    (g.bank b).streamHeld 3 = false ∧ (two.bank b).moves = [m, { m with id := 1, tile := 2 }] := by
  decide +kernel

theorem witness_stream_rows_come :
    let b : BankId := ⟨0, false⟩
    let a : Option Row → Ask := fun g => ⟨0, 0, 0, 0, rowLines, g⟩
    let asks := fun (g : Option Row) => streaming { fourRows with asked := [a g], buf := List.replicate 3 ⟨0, 7, 0, false⟩ } []
    let s := asks none
    ((s.bank b).ds 3).fault = none ∧ s.rowsMove b = true ∧ (s.bank b).streamHeld 3 = false ∧ 0 ≤ s.cycle ∧
    (∀ l ∈ rowLines, l % 64 = 0 ∧ homeHeld s.mem l = false ∧ staleMap s.mem 0 l = false ∧ Claims.CleanBytes s l 64) ∧
    yields s (0, rowLines.map (fun l => (l, 64))) = false ∧ (s.bank b).rowsBefore 0 (some (0, 255)) = false ∧ (s.bank b).mem = BankMem.reset ∧ s.mem.shadow = [] ∧
    (((asks (some 7)).bank b).ds 3).run = some { fourRows with asked := [a (some 7)], buf := List.replicate 3 ⟨0, 7, 0, false⟩ } := by
  unfold Claims.CleanBytes; decide +kernel

/-- A record at VA 0x5000 that copies 16 bytes from 0x6000 to 0x6100 and raises semaphore 3; at 0x5040 one the unit does not own, at 0x5080 an invalid one. -/
def records : List Host.Cell :=
  let w := fun m (p : Nat × Nat) => Cells.write m p.1 (leBytes 8 p.2)
  [(0x205000, 1), (0x205008, 0x6000), (0x205010, 0x6100), (0x205018, 0x0001000100010010), (0x205038, 0x0000000300000000), (0x205080, 1), (0x206000, 0x77)].foldl w tables

def copyState (c : Channel) : State :=
  let s := walked .A ((unitWith .A []).setChan 2 c)
  { s with mem := { s.mem with cells := records } }

/-- Channel 2's chain stands at a record, to be asked for or on its way. -/
def chainAt (v : W64) (asked : Bool) : State :=
  copyState { Channel.reset with heads := [⟨0, 0, v, 0, if asked then some ⟨0, 0, 0, 0, [v.toNat + 0x200000], none⟩ else none⟩] }

theorem witness_ChainsAreWalked :
    let b : BankId := ⟨0, false⟩
    (∀ n ∈ [0x5000, 0x5040, 0x5080], let v := BitVec.ofNat 64 n
      Claims.CopyReaches (chainAt v false) b 2 .write v 64 (n + 0x200000) ∧ pieces v 2 64 = [(v, 64)] ∧
      Claims.CopyReaches (chainAt v true) b 2 .write v 64 (n + 0x200000) ∧ Claims.CleanBytes (chainAt v true) (n + 0x200000) 64 ∧
      staleMap (chainAt v true).mem 0 (n + 0x200000) = false ∧ (keptAt (chainAt v true) (.source (.chan b 2)) [(n + 0x200000, 64)]).isNone = true ∧
      ((chainAt v true).bank b).mem.older 0 [(n + 0x200000, 64)] = false ∧ ((chainAt v true).bank b).rowsBefore 0 (some (n, n + 63)) = false) ∧
    (((chainAt 0x5000 false).bank b).chan 2).heads = [⟨0, 0, 0x5000, 0, none⟩] ∧ (((chainAt 0x5000 false).bank b).chan 2).fail = none ∧
    (((chainAt 0x5000 false).bank b).chan 2).fault = none ∧ ((chainAt 0x5000 true).ctx 0).nseg = 0 ∧
    leAt ((chainAt 0x5040 true).peek 0x205040 64) 0 8 % 2 = 0 ∧ ((chainAt 0x5080 true).bank b).phase ≠ .free ∧
    (∀ p ∈ [(0x205000, true), (0x205080, false)], leAt ((chainAt 0 true).peek p.1 64) 0 8 % 2 = 1 ∧ recordOk ((chainAt 0 true).peek p.1 64) = p.2) := by
  unfold Claims.CopyReaches Claims.CleanBytes; decide +kernel

/-- The record at VA 0x5000, accepted; with it running in its three phases. -/
def accepted (runs : Nat) (out : List OutRun) : Accepted :=
  ⟨1, 0, 0, readRecord 0x5000 ((chainAt 0 false).peek 0x205000 64), [], runs, out, none, 0, 0, 0, 0⟩

theorem witness_records_start :
    let b : BankId := ⟨0, false⟩
    let q := copyState { Channel.reset with ready := [accepted 0 []] }
    let det : State := { q with ctxs := [(0, { Ctx.reset with det := true })] }
    ((q.bank b).chan 2).running = none ∧ ((q.bank b).chan 2).ready = accepted 0 [] :: [] ∧ ((q.bank b).chan 2).fault = none ∧ (q.ctx 0).det = false ∧
    (det.ctx 0).det = true ∧ (accepted 0 []).verdict = none ∧ (earlier (det.bank b) 2 (accepted 0 [])).length = 0 := by decide +kernel

/-- A record without flags and one with ACQ, with nothing read, with its run to be written, and written. -/
theorem witness_RecordsCopy :
    let b : BankId := ⟨0, false⟩
    let s := fun (r : Accepted) => { copyState { Channel.reset with running := some r } with cycle := 2000 }
    let acq := fun (r : Accepted) => { r with xfer := { r.xfer with flags := 1 } }
    let r := s (accepted 0 [])
    let x := (accepted 0 []).xfer
    let o : List (Nat × Nat) → OutRun := fun q => ⟨x.src, q, [(0x206100, 16)], if q = [] then List.replicate 16 0 else [], 0, 0, 0⟩
    let free := fun (t : State) ps => (keptAt t (.record b 2) ps).isNone = true
    Memory.wf r.mem.cells = true ∧ x.e = [16, 1, 1, 1] ∧ x.flags = 0 ∧ x.sem = 3 ∧ (r.bank b).mem = BankMem.reset ∧
    ((r.bank b).chan 2).running = some (accepted 0 []) ∧ (r.ctx 0).det = false ∧ (r.bank b).rowsBefore 0 x.dstInt = false ∧ (r.bank b).rowsBefore 0 x.srcInt = false ∧
    Claims.CopyReaches r b 2 .read x.src 16 0x206000 ∧ Claims.CopyReaches r b 2 .write x.dst 16 0x206100 ∧ Claims.CopyReaches r b 2 .write x.va 64 0x205000 ∧
    Claims.CleanBytes r 0x206000 16 ∧ staleMap r.mem 0 0x206000 = false ∧ staleMap r.mem 0 0x206100 = false ∧ staleMap r.mem 0 0x205000 = false ∧ free r [(0x206000, 16)] ∧
    pieces x.va 2 64 = [(x.va, 64)] ∧ homeTimes r.mem 0 [(0x206000, 16)] ≤ r.cycle ∧ 0 < homeTimes r.mem 0 [(0x206100, 16)] ∧
    (∀ y ∈ [accepted 0 [], acq (accepted 0 []), accepted 1 [o []], acq (accepted 1 [o [(0x206000, 16)]]), accepted 1 []],
      Claims.CopyReaches (s y) b 2 .write x.dst 16 0x206100 ∧ Claims.CopyReaches (s y) b 2 .write x.va 64 0x205000 ∧ free (s y) [(0x206000, 16), (0x206100, 16)] ∧
      free (s y) [(0x206100, 16)] ∧ free (s y) [(0x205000, 8)] ∧ y.xfer.flags ≤ 1) := by
  unfold Claims.CopyReaches Claims.CleanBytes; decide +kernel

/-! ### Translation, faults, contexts, collectives -/

def walking (page : Nat) (ats : Option Nat) (pri : Bool) : State :=
  let s := walkState .A (unitWith .A [])
  { s with host := { s.host with walks := [(0, ⟨0, page, [⟨.aStream ⟨0, false⟩, false, 64⟩], ats, pri, 0⟩)] } }

theorem witness_TranslationsEnd :
    let w := fun (p : Nat) => (⟨0, p, [⟨.aStream ⟨0, false⟩, false, 64⟩], none, false, 0⟩ : Walk)
    let h := { walking 2 (some 0x30000) false with host := { (walking 2 (some 0x30000) false).host with ats := [⟨0, 2, 0x40000, 9⟩] } }
    let hit := { walking 2 none false with host := { (walking 2 none false).host with ats := [⟨0, 2, 0x30000, 0x90000⟩] } }
    (∀ p < 4, ∀ a ∈ walkReads (walking p none false) 0 p, homeHeld (walking p none false).mem a = false ∧ Claims.CleanBytes (walking p none false) a 8) ∧
    hit.host.ats.find? (fun x => x.iova == 0x30000) = some ⟨0, 2, 0x30000, 0x90000⟩ ∧ State.reset.cores = [] ∧ State.reset.host.walks = [] ∧
    (∀ p < 4, ((walking p none false).host.walks.filter (fun x => x.1 == 0))[0]? = some (0, w p)) ∧
    walkTable (walking 0 none false) 0 0 = .entry ⟨0, false, 0, 0x200000, none, true, true, true⟩ ∧ walkTable (walking 1 none false) 0 1 = .fault ∧
    walkTable (walking 3 none false) 0 3 = .forbidden ∧ walkTable (walking 2 none false) 0 2 = .host 0x30000 ⟨0, false, 2, 0x30000, some 0x30000, true, true, true⟩ ∧
    (∀ x ∈ (walking 2 none false).host.ats, x.iova ≠ 0x30000) ∧ (∃ x ∈ h.host.walks, x.2.ats = some 0x30000 ∧ x.2.pri = false) ∧
    (∃ x ∈ (walking 2 (some 0x30000) true).host.walks, x.2.ats = some 0x30000 ∧ x.2.pri = true) := by
  unfold Claims.CleanBytes; decide +kernel

theorem witness_FaultsAreAnswered :
    let b : BankId := ⟨0, false⟩
    let x : CollEntry := { id := ⟨0, 1, 1, 1⟩, cmd := [], launch := 0, unit := 0, origin := .unit 0, state := .started, no := none, since := 0, fault := some 7
                           segs := [], wrote := false, stage := none, place := none, turn := none, got := none }
    let g : GraphRun := ⟨0, 0, [], [], [], [], [(2, 7)], [], 0, none, none, 0, none, false, false, none, false⟩
    let f : Source → PendingFault := fun y => ⟨7, 0, 0, 64, false, [(y, 64)]⟩
    let s := fun (y : Source) =>
      let k := { (unitWith .A []).setDs 3 (runningStream true []) with faults := [⟨7, 64, y, false⟩] }
      let k := k.setChan 2 { Channel.reset with fault := some 7 }
      let t := issuing .A (onStream .A (fun x => { x with status := .faulted }) k)
      { t with esc := { t.esc with table := [x] }
               host := { t.host with faults := [f y], queues := [(3, { WorkQueue.reset with hold := some (.fault 7) })], runs := [(5, g)] } }
    let v : BitVec 64 := 0x4000000000000007
    v.toNat / 2 ^ 62 = 1 ∧ (0x8000000000000007 : BitVec 64).toNat / 2 ^ 62 = 2 ∧ (7 : BitVec 64).toNat / 2 ^ 62 ≠ 1 ∧
    (∀ y ∈ [Source.aStream b, .dstream b 3, .fill b 3, .drain b 3, .chan b 2, .dispatch b, .coll x.id, .queue 3, .node 5 2 3],
      faultOf (s y) v = some (f y) ∧ faultOf (s y) 0x8000000000000007 = some (f y) ∧ (f y).srcs = [(y, 64)]) ∧
    (((s (.chan b 2)).bank b).chan 2).fault = some 7 ∧ (((s (.chan b 2)).bank b).chan 2).running = none ∧ (s (.coll x.id)).entry? x.id = some x ∧ x.origin = .unit 0 ∧
    ((s (.queue 3)).queue 3).hold = some (.fault 7) ∧ kfind (s (.node 5 2 3)).host.runs 5 = some g ∧ (Source.aStream b).ofA = true ∧
    (∀ g ∈ (s (.aStream b)).host.faults, g.id ≠ (0x4000000000000008 : BitVec 64).toNat % 2 ^ 32 ∨ ((s (.aStream b)).ctx g.ctx).gen.toNat ≠ 0) := by decide +kernel

/-- A context descriptor at device address 2^16: EQLOG2 5, all else zero; a segment table at 2^17 whose segment 0 is page 0. -/
def descState : State :=
  let m := Cells.write (Cells.write [] (0x10000 + 304) [5]) 0x20008 (leBytes 8 65536)
  { issuing .A { unitWith .A [] with preempt := some 0 } with
    ctxs := [(0, { Ctx.reset with registered := true, segtab := 0x20000, nseg := 1 })], mem := { MemSys.reset with cells := m } }

theorem witness_ContextsComeAndGo :
    let s := descState
    (1 : BitVec 64).toNat % 512 ≠ 0 ∧ Memory.wf s.mem.cells = true ∧ (0x10000 : BitVec 64) ≠ 0 ∧ (0x10000 : BitVec 64).toNat % 512 = 0 ∧ ctxDescOk (s.peek 0x10000 512) = true ∧
    (s.ctxs.filter (fun c => c.2.registered)).length < 4096 ∧ s.fleet.module ≠ .off ∧ Claims.CleanBytes s 0x10000 512 ∧ mustQueue s.mem 0x10000 512 = false ∧
    mustQueue { s.mem with queued := [⟨.write 0x10040 [1], 0, 9⟩] } 0x10000 512 = true ∧
    (s.ctx s.host.ctxnum.toNat).registered = true ∧ (s.ctx 5).registered = false ∧ (s.bank ⟨0, false⟩).preempt.isSome = true ∧ (s.bank ⟨0, false⟩).budget = 0 ∧
    (s.bank ⟨0, false⟩).phase ≠ .preempted ∧ twoUnits.ctx = 0 ∧ twoUnits.done = false ∧ twoUnits.count < twoUnits.units.length := by
  unfold Claims.CleanBytes; decide +kernel

theorem witness_MigrationsRun :
    let s := descState
    let m : Migration := ⟨0, 0, 0x30000, 0⟩
    let r := { s with host := { s.host with mig := some m } }
    let busy := { r with mem := { r.mem with cells := Cells.write r.mem.cells 0x20010 [1] } }
    s.host.mig = none ∧ (0x30000 : BitVec 64).toNat % 65536 = 0 ∧ 0 < (s.ctx 0).nseg ∧ (7 : BitVec 64).toNat % 65536 ≠ 0 ∧ r.host.mig = some m ∧
    settledSince { r with cores := [(0, { Core.reset with bank0 := { unitWith .A [] with mem := { BankMem.reset with sent := [⟨0, 64, [1], none, 0, 0, 0, 0⟩] } } })] } 0 0 = false ∧
    (∀ x ∈ r.mem.asked, ∀ l, x.who = .move l → yields r (x.cycle, x.pieces) = false) ∧
    leNat (busy.look (segAddr busy m.ctx m.seg + 16) 4) ≠ 0 ∧ leNat (r.look (segAddr r m.ctx m.seg + 16) 4) = 0 ∧ settledSince r m.ctx m.since = true ∧
    (∀ p ∈ (segPages r m.ctx m.seg).zipIdx, heldLines r m.ctx m.dst p.2 p.1 = []) := by
  refine ⟨by decide +kernel, by decide +kernel, by decide +kernel, by decide +kernel, by decide +kernel, by decide +kernel, fun x h => ?_, by decide +kernel⟩
  cases h

/-- The collective at VA 0x2000 as an entry of the table, started. -/
def collEntry (st : CollState) (no : Option TicketNo) (wrote : Bool) : CollEntry :=
  { id := ⟨0, 1, 1, 1⟩, cmd := (walkState .A Bank.reset).peek 0x202000 64, launch := 0, unit := 0, origin := .unit 0, state := st, no := no, since := 0, fault := none
    segs := [], wrote := wrote, stage := none, place := none, turn := none, got := none }

def collState (e : CollEntry) (t : W64) : State :=
  let s := walkState .A (unitWith .A [])
  { s with esc := { Escapement.reset with table := [e] }, host := { s.host with iotlb := [⟨0, false, 0, 0x200000, none, true, true, false⟩] }, time := { TimeState.reset with tick := t } }

theorem witness_TransfersMoveElements :
    let e := collEntry .started none false
    let s := collState e 0
    let d := e.cmd
    Memory.wf s.mem.cells = true ∧ s.entry? e.id = some e ∧ memberRank s e.id = some 0 ∧ (members e.id.peers).length = 1 ∧ leAt d 16 8 = e.id.peers.toNat ∧ leAt d 0 1 = 0x40 ∧
    cKindOk d = true ∧ leAt d 1 1 / 16 ≠ 3 ∧ bits (leAt d 2 2) 5 4 = 0 ∧ e.state = .started ∧ e.wrote = false ∧ e.fault = none ∧ e.segs = [] ∧ e.id ∉ s.esc.refused ∧
    reachSide s e.id .read (sideVas d 24 48 (srcBlocks d)) = .ok [0x203000] ∧ reachSide s e.id .write (sideVas d 32 56 (dstBlocks d)) = .ok [0x204000] ∧
    Claims.CleanBytes s 0x203000 4 ∧ e.turn = none ∧ e.after s [0x203000, 0x204000] = false ∧ mustQueue s.mem 0x204000 4 = false ∧
    (keptAt s (.source (.coll e.id)) [(0x203000, 4), (0x204000, 4)]).isNone = true ∧
    ([0x204000] : List Nat).Pairwise (fun a b => a + 4 ≤ b ∨ b + 4 ≤ a) := by
  unfold Claims.CleanBytes; decide +kernel

theorem witness_CollectivesAreOrdered :
    let no : TicketNo := ⟨0, 1, 0⟩
    let w := collState (collEntry .waiting none false) 4096
    let n := collState (collEntry .notified none false) 4096
    let t := collState (collEntry .ticketed (some no) false) 4096
    let p : CollId := ⟨0, 1, 1, 1⟩
    let two : CollId := ⟨0, 1, 3, 1⟩
    let dg := digestOf (collEntry .waiting none false).cmd
    let sent := { w with esc := { w.esc with out := [.notice ⟨p, dg, 0⟩] } }
    let got := { w with esc := { w.esc with issued := [⟨p, ⟨0, w.time.chip.toNat, 0⟩⟩] } }
    let wait := collEntry .waiting none false
    w.entry? p = some wait ∧ memberRank w p = some 0 ∧ leAt wait.cmd 6 2 < 32768 ∧ memberRank w two = some 0 ∧ (members two.peers).length = 2 ∧ w.esc.last ≠ some w.tick ∧
    hasTicket w p = false ∧ hasTicket got p = true ∧ hasTicket sent p = false ∧ hasTicket w two = false ∧
    n.entry? p = some (collEntry .notified none false) ∧ no.chip ≠ n.time.chip.toNat ∧ n.esc.top = none ∧
    t.entry? p = some (collEntry .ticketed (some no) false) ∧ no.tau + Claims.leastHorizon t ≤ t.tick ∧
    2 * (t.esc.table.filter (fun x => x.state == .started && !x.wrote)).length + 2 ≤ 32 ∧ (∀ x ∈ t.esc.table, x.state = .ticketed → x.no = some no) ∧
    ticketBelow no no = false ∧ (collState (collEntry .ticketed (some no) false) 4095).tick < no.tau + 4096 := by
  decide +kernel

theorem witness_CollectivesEnd :
    let d := collState (collEntry .started none true) 1048577
    let late := collState (collEntry .started none false) 1048577
    let rel := { collEntry .started none true with cmd := leBytes 8 0x20000, place := some ((⟨0, false⟩ : BankId), 1) }
    let busy := homeState { BankMem.reset with reqs := [⟨0, .home, 64, [(line1, 8)], .nowhere, none, false, 0, 0, 0, 0, 0⟩] }
    let none' := { d with esc := Escapement.reset }
    let past := { none' with ctxs := [(0, { Ctx.reset with matched := [(1, 1, 1)] })] }
    let kept := { none' with esc := { Escapement.reset with aborted := [⟨(collEntry .started none true).id, 1⟩] } }
    d.entry? (collEntry .started none true).id = some (collEntry .started none true) ∧ leAt rel.cmd 2 2 / 2 % 2 ≠ 0 ∧ busy.released ⟨0, false⟩ 1 = false ∧
    leAt (collEntry .started none true).cmd 2 2 / 2 % 2 = 0 ∧ (collEntry .started none true).origin = .unit 0 ∧
    late.entry? (collEntry .started none false).id = some (collEntry .started none false) ∧ 0 + 2 ^ 20 < late.tick ∧
    (collState (collEntry .started none true) 1048576).tick ≤ 0 + 2 ^ 20 ∧ none'.entry? (collEntry .started none true).id = none ∧ (none'.ctx 0).posts 1 1 < 1 ∧
    none'.esc.aborted = [] ∧ past.entry? (collEntry .started none true).id = none ∧ 1 ≤ (past.ctx 0).posts 1 1 ∧ kept.esc.aborted ≠ [] := by
  decide +kernel

/-! ### Time, queues, launches, graphs -/

theorem witness_TicksAndTheDomain :
    let s := State.reset
    let j := { s with time := { s.time with hasSet := true, joined := true } }
    let p := { s with time := { s.time with joined := true, ptp := true, badSync := 15, tick := 800000000 } }
    let q := { p with time := { p.time with alarm := true, okSync := 15 } }
    s.time.hasSet = false ∧ s.host.launches = [] ∧ s.esc.table = [] ∧ (∀ m ∈ [(1, 16)], m.2 ≤ 16) ∧ (16 : Nat) ≤ 16 ∧
    ptpLegal PtpPort.default = true ∧ ptpLegal { PtpPort.default with logSync := 1 } = false ∧ j.time.hasSet = true ∧ j.time.joined = true ∧ j.time.ptp = false ∧
    (23 : Nat) < 24 ∧ p.time.joined = true ∧ p.time.ptp = true ∧ p.time.alarm = false ∧ p.time.badSync = 15 ∧ 5120 < (-5121 : Int).natAbs ∧ q.time.alarm = true ∧
    q.time.okSync = 15 ∧ (-5120 : Int).natAbs ≤ 5120 ∧ p.time.lastSync + 800000000 ≤ p.tick := by decide +kernel

/-- Words at device addresses over the tables; page 4 is page 0 for reading and writing. -/
def placed (a : Nat) (ws : List Nat) (m : List Host.Cell) : List Host.Cell :=
  ws.zipIdx.foldl (fun m x => Cells.write m (a + 8 * x.2) (leBytes 8 x.1)) m

/-- Queue 3, enabled, with one packet of these words at VA 0x8000; launch 1 of two units; the I/O die holds page 0. -/
def packetState (ws : List Nat) (x : WorkQueue) : State :=
  let s := walkState .C (unitWith .C [])
  { s with mem := { s.mem with cells := placed 0x208000 ws (placed 0x110020 [0x200007] tables) }
           host := { s.host with queues := [(3, x)], launches := [(1, twoUnits)]
                                 iotlb := [⟨0, false, 0, 0x200000, none, true, true, false⟩, ⟨0, false, 1, 0, none, true, true, false⟩] } }

def ringQueue : WorkQueue := { WorkQueue.reset with base := 0x8000, en := true, wptr := 64 }

/-- The eight words of a packet as bytes. -/
def packetBytes (ws : List Nat) : List Byte := ws.flatMap (leBytes 8)

theorem witness_QueuesRunPackets :
    let off := packetState [] { WorkQueue.reset with base := 0x8000 }
    let on := packetState [] { ringQueue with rptr := 64, wptr := 128 }
    let err := packetState [] { ringQueue with err := true, code := 3 }
    let en : BitVec 64 := 0x8F
    let dis : BitVec 64 := 0x0F
    en.toNat / 2 ^ 7 % 2 = 1 ∧ 12 ≤ en.toNat % 32 ∧ en.toNat % 32 ≤ 30 ∧ dis.toNat / 2 ^ 7 % 2 ≠ 1 ∧ dis.toNat % 32 = 15 ∧ en.toNat / 2 ^ 16 % 2 ^ 16 = 0 ∧
    (off.queue 3).en = false ∧ (off.queue 3).base.toNat % 2 ^ 15 = 0 ∧ (off.queue 3).qerr.toNat % 32 = 0 ∧ (off.ctx 0).registered = true ∧
    (on.queue 3).en = true ∧ (on.queue 3).err = false ∧ (err.queue 3).en = true ∧ (err.queue 3).err = true ∧
    (64 : BitVec 64).toNat % 64 = 0 ∧ (on.queue 3).rptr.toNat ≤ (64 : BitVec 64).toNat ∧ (4160 : BitVec 64).toNat ≤ (on.queue 3).rptr.toNat + 2 ^ (on.queue 3).log2 ∧
    (65 : BitVec 64).toNat % 64 ≠ 0 ∧ (0 : BitVec 64).toNat < (on.queue 3).rptr.toNat ∧ (on.queue 3).rptr.toNat + 2 ^ (on.queue 3).log2 < (4224 : BitVec 64).toNat := by
  decide +kernel

theorem witness_packets_head :
    let zs := fun (n : Nat) => List.replicate n 0
    let h := fun (ty : Nat) (ws : List Nat) => Claims.Heads (packetState ws ringQueue) 3 ty (packetBytes ws)
    h 3 (0x0000000600030003 :: zs 7) ∧ h 4 (0x0000000600030004 :: zs 7) ∧ h 5 (0x80050005 :: 9 :: zs 6) ∧ h 6 (6 :: 1 :: zs 6) ∧
    h 0x40 [0x100000A40, 0, 1, 0x3000, 0x4000, 0x0001000100010001, 0, 0] ∧ h 0x44 (0x44 :: zs 7) ∧ h 1 (0x100000001 :: 0x9000 :: zs 6) ∧ h 2 (0x50002 :: zs 7) := by
  refine ⟨?_, ?_, ?_, ?_, ?_, ?_, ?_, ?_⟩ <;> (unfold Claims.Heads; decide +kernel)

theorem witness_packets_meet :
    let coll := [0x100000A40, 0, 1, 0x3000, 0x4000, 0x0001000100010001, 0, 0]
    let s := packetState coll ringQueue
    let bad := { s with ctxs := s.ctxs.map (fun (c : Nat × Ctx) => (c.1, { c.2 with sems := [(3, ⟨0, true, 0⟩)] })) }
    let hold := fun x => packetState [] { ringQueue with hold := some x }
    ((s.ctx 0).sem 3).err = false ∧ ((bad.ctx 0).sem 3).err = true ∧ ((hold (.sem 3 6)).queue 3).hold = some (.sem 3 6) ∧ ((hold (.tick 9)).queue 3).hold = some (.tick 9) ∧
    s.launch? 1 = some twoUnits ∧ twoUnits.ctx = (s.queue 3).ctx ∧ twoUnits.done = false ∧ leAt (packetBytes [6, 1]) 8 8 / 2 ^ 32 = 0 ∧ leAt (packetBytes [6, 1]) 8 4 = 1 ∧
    (s.queue 3).cancels = [] ∧ twoUnits.count < twoUnits.units.length ∧ (∀ y ∈ (packetState [] ringQueue).host.launches, y.1 ≠ 2) ∧
    commandOk s 0 (packetBytes coll) = true ∧ commandOk s 0 (packetBytes (0x44 :: List.replicate 7 0)) = false ∧ Claims.Uninjected s ∧
    (groupKept s (.source (.queue 3)) 0 (packetBytes coll)).isNone = true ∧ (groupKept s (.source (.queue 3)) 0 (packetBytes (0x44 :: List.replicate 7 0))).isNone = true ∧
    s.esc.aborted = [] := by
  unfold Claims.Uninjected; decide +kernel

/-- What a LAUNCH packet points to: its descriptor at VA 0x9000, the group table at 0xA000, the unit entry at 0xB000, parameters at 0xC000, and at
0x10000 a plan that gives it nothing. -/
def launchState (text : Nat) : State :=
  let p := [0x100000001, 0x9000, 0xC000, 0x3000, 0x10003]
  let s := packetState p ringQueue
  { s with mem := { s.mem with cells := placed 0x20A000 [0x10000, 1] (placed 0x209000 [text, 4, 0, 0, 0, 0, 0, 0, 0xA000, 0x10000, 0, 0, 0, 0, 0xB000, 1] s.mem.cells) } }

def launchBytes : List Byte := packetBytes [0x100000001, 0x9000, 0xC000, 0x3000, 0x10003, 0, 0, 0]
def descBytes : List Byte := packetBytes [0, 4, 0, 0, 0, 0, 0, 0, 0xA000, 0x10000, 0, 0, 0, 0, 0xB000, 1]

theorem leAt_zeros (n i k : Nat) : leAt (List.replicate n 0#8) i k = 0 := by
  have h : ∀ m, leNat (List.replicate m 0) = 0 := by
    intro m; induction m with
    | zero => rfl
    | succ m ih => simpa [List.replicate_succ, leNat] using ih
  simpa [leAt, slice, List.drop_replicate, List.take_replicate] using h _

theorem plan_zeros (n : Nat) : planClean (List.replicate n 0) = true ∧ planSlices (List.replicate n 0) = [] := by
  constructor
  · simp [planClean, leAt_zeros]
  · simp [planSlices, leAt_zeros, bits]

/-- A piece that the I/O die reads below every cell listed. -/
def lowPiece (s : State) (ctx : Nat) (p : W64 × Nat) : Bool :=
  canonical p.1 && match s.host.iotlb.find? (·.covers ctx (vaBits p.1)) with
    | some e => (match ioTr s ctx e p.1 .read with
        | .ok a => (linesOf a p.2).all (fun l => !homeHeld s.mem (64 * l)) && (armedIn s a p.2).isEmpty && homeAwake s a && !poisonedIn s a p.2 &&
            decide (a + p.2 ≤ 65536)
        | _ => false)
    | none => false

theorem low_read {l : List Host.Cell} (h : Cells.wfFrom (some 65535) l = true) (a n : Nat) (hn : a + n ≤ 65536) : Cells.read l a n = List.replicate n 0 := by
  induction n generalizing a with
  | zero => rfl
  | succ n ih => rw [Cells.read, Cells.get_below h (by omega), ih (a + 1) (by omega)]; rfl

theorem low_kept {s : State} (hq : s.mem.asked = []) (x : Asker) {a n : Nat} (h : (linesOf a n).all (fun l => !homeHeld s.mem (64 * l)) = true) :
    keptAt s x [(a, n)] = none := by
  have hf : (linesOf a n).find? (fun l => homeHeld s.mem (64 * l)) = none := by simpa [List.find?_eq_none] using h
  simp [keptAt, hf, hq]

theorem low_reads_zero {s : State} (hs : Cells.wfFrom (some 65535) s.mem.cells = true) (hu : s.mem.queued = [] ∧ s.mem.asked = []) (src : Source) (ctx : Nat)
    (l : List (W64 × Nat)) (h : l.all (lowPiece s ctx) = true) : ioPieces s src ctx l = .ok (List.replicate (l.map (·.2)).sum 0) := by
  induction l with
  | nil => rfl
  | cons p l ih =>
    simp only [List.all_cons, Bool.and_eq_true] at h
    obtain ⟨hp, hl⟩ := h
    unfold lowPiece at hp
    simp only [Bool.and_eq_true] at hp
    obtain ⟨hc, hp⟩ := hp
    simp only [ioPieces, hc, Bool.not_true, Bool.false_eq_true, if_false]
    split at hp
    · rename_i e he
      split at hp
      · rename_i a ht
        simp only [Bool.and_eq_true, Bool.not_eq_true', decide_eq_true_eq] at hp
        obtain ⟨⟨⟨⟨hh, hi⟩, hw⟩, hq⟩, hz⟩ := hp
        have hr : s.look a p.2 = List.replicate p.2 0 := by simpa [State.look, State.peek, hu.1] using low_read hs a p.2 hz
        simp [he, ht, low_kept hu.2 _ hh, hi, hw, hq, hr, ih hl]
      · exact absurd hp (by decide)
    · exact absurd hp (by decide)

/-- What Helmal reads for that launch but the plan. -/
def ReadsOfLaunch (s : State) (src : Source) : Prop :=
    let d := descBytes
    let rd := fun (a n : Nat) => ioRead s src 0 (BitVec.ofNat 64 a) n
    rd (leAt launchBytes 8 8) 128 = .ok d ∧ rd (leAt launchBytes 16 8) 512 = .ok (List.replicate 512 0) ∧
    rd (leAt d 112 8 + 32 * leAt d 104 2) 32 = .ok (List.replicate 32 0) ∧ rd (leAt d 16 8) (16 * leAt d 24 2) = .ok [] ∧ rd (leAt d 32 8) (64 * leAt d 40 2) = .ok [] ∧
    rd (leAt d 48 8) (8 * leAt d 56 2) = .ok [] ∧ readGbt s src 0 1024 (BitVec.ofNat 64 (leAt d 64 8)) [] = .ok [⟨0, [⟨0, 0, 0, true⟩]⟩]

/-- The pieces of the plan stand below every cell listed. -/
def PlanLow (s : State) : Prop :=
    Cells.wfFrom (some 65535) s.mem.cells = true ∧ ((pieces (BitVec.ofNat 64 (leAt descBytes 72 8)) 162 10248).all (lowPiece s 0) = true) ∧
    ((pieces (BitVec.ofNat 64 (leAt descBytes 72 8)) 162 10248).map (·.2)).sum = 10248 ∧ s.mem.queued = [] ∧ s.mem.asked = []

theorem PlanLow.read {s : State} (h : PlanLow s) (src : Source) :
    ioRead s src 0 (BitVec.ofNat 64 (leAt descBytes 72 8)) (8 + 8 * Config.sliceCount) = .ok (List.replicate 10248 0) := by
  obtain ⟨h1, h2, h3, h4⟩ := h
  have h := low_reads_zero h1 h4 src 0 _ h2
  rw [h3] at h; exact h

theorem launch_started {s : State} {src : Source} {ctx : Nat} {patches : List (Nat × W64)} {p d pr ue plan : List Byte} {origin : Origin} {gs : List Group}
    (h1 : ioRead s src ctx (BitVec.ofNat 64 (leAt p 8 8)) 128 = .ok d) (h2 : ioRead s src ctx (BitVec.ofNat 64 (leAt p 16 8)) 512 = .ok pr)
    (h3 : ioRead s src ctx (BitVec.ofNat 64 (leAt d 112 8 + 32 * leAt d 104 2)) 32 = .ok ue)
    (h4 : ioRead s src ctx (BitVec.ofNat 64 (leAt d 16 8)) (16 * leAt d 24 2) = .ok []) (h5 : ioRead s src ctx (BitVec.ofNat 64 (leAt d 32 8)) (64 * leAt d 40 2) = .ok [])
    (h6 : ioRead s src ctx (BitVec.ofNat 64 (leAt d 48 8)) (8 * leAt d 56 2) = .ok [])
    (h7 : ioRead s src ctx (BitVec.ofNat 64 (leAt d 72 8)) (8 + 8 * Config.sliceCount) = .ok plan)
    (h8 : readGbt s src ctx 1024 (BitVec.ofNat 64 (leAt d 64 8)) [] = .ok gs) (hc : (!descClean d || !descFields d) = false)
    (hk : leAt p 36 4 = 0) (hu : unitEntryOk ue (leAt d 8 4) (leAt d 12 4) = true) (hp : planClean plan = true) (hl : planSlices plan = [])
    (hg : let g := gs.map (fun g => { g with ranks := g.ranks.map (fun r => if r.bound then { r with chip := s.time.chip.toNat } else r) })
      gbtOk g (leAt p 4 4) = true ∧ ((g.flatMap (·.ranks)).filter (·.bound)).length ≤ 2 * usableCores s) :
    ∃ u i, startLaunch s src ctx p patches origin none 0 = .started u i := by
  obtain ⟨hb, hn⟩ := hg
  simp only [startLaunch, h1, h2, h3, h4, h5, h6, h7, h8, hc, hk, IoRead.then, if_true, Bool.false_eq_true, if_false]
  rw [if_neg (by simp [launchOf', hl]), if_pos]
  · exact ⟨_, _, rfl⟩
  · have hn' := Nat.le_trans (List.length_filter_le (fun r : RankEntry => r.chip == s.time.chip.toNat) _) hn
    simp only [hu, hp, hb, launchAllowed, launchOf', hl, entries, hk]
    simpa using hn'

theorem reads_start {s : State} {src : Source} {patches : List (Nat × W64)} {origin : Origin} (h : ReadsOfLaunch s src) (hp : PlanLow s)
    (hc : s.time.chip.toNat = 0 ∧ 1 ≤ 2 * usableCores s) : ∃ u i, startLaunch s src 0 launchBytes patches origin none 0 = .started u i := by
  obtain ⟨h1, h2, h3, h4, h5, h6, h8⟩ := h
  refine launch_started h1 h2 h3 h4 h5 h6 (hp.read _) h8 (by decide +kernel) (by decide +kernel) (by decide +kernel) (plan_zeros _).1 (plan_zeros _).2 ?_
  rw [hc.1]
  exact ⟨by decide +kernel, Nat.le_trans (by decide +kernel) hc.2⟩

theorem witness_launch_starts : ∃ u i, startLaunch (launchState 0) (.queue 3) 0 launchBytes [] (.queue 3 0) none 0 = .started u i :=
  reads_start (by unfold ReadsOfLaunch; decide +kernel) (by unfold PlanLow; decide +kernel) (by decide +kernel)

theorem witness_LaunchesStartAndComplete :
    let far := packetBytes [0x100000001, 0x8000000000000000, 0xC000, 0x3000, 0x10003, 0, 0, 0]
    let l := { twoUnits with count := 2, crec := 0x43000, ssem := 0x8003, sinc := 1, origin := .queue 3 0 }
    let s := packetState [] { ringQueue with active := [0] }
    let s := { s with host := { s.host with launches := [(1, l)] } }
    Claims.Heads (launchState 0) 3 1 launchBytes ∧ startLaunch (launchState 1) (.queue 3) 0 launchBytes [] (.queue 3 0) none 0 = .refuse ∧
    startLaunch (launchState 0) (.queue 3) 0 far [] (.queue 3 0) none 0 = .bad ∧
    Safety.MemoryCanonical s ∧ s.launch? 1 = some l ∧ l.done = false ∧ l.units.length ≤ l.count ∧ l.crec.toNat % 64 = 0 ∧ ioAddr s 0 l.crec .write = some 0x203000 ∧
    mustQueue s.mem 0x203000 64 = false ∧ Claims.Uninjected s ∧ l.async = none ∧ l.ssem / 2 ^ 15 % 2 = 1 ∧ 0 ∈ (s.queue 3).active := by
  unfold Claims.Heads Safety.MemoryCanonical Claims.Uninjected; decide +kernel

/-- A graph image of one node that runs the collective of `tables`, at VA 0xF000. -/
def imageWords : List Nat := [1, 0, 0, 0, 0, 0, 0, 0, 0x100000A40, 0, 1, 0x3000, 0x4000, 0x0001000100010001, 0, 0, 0, 0, 0, 0, 0, 0, 0, 0]
def graphState (r : GraphRun) : State :=
  let s := packetState (0x50002 :: List.replicate 7 0) ringQueue
  { s with mem := { s.mem with cells := placed 0x20F000 imageWords s.mem.cells }
           host := { s.host with graphs := [(5, packetBytes imageWords)], runs := [(4, r)], upload := some (5, 0xF000) } }

theorem witness_GraphsRun :
    let im := packetBytes imageWords
    let r : GraphRun := { slot := 6, ctx := 0, image := im, patches := [], started := [], ended := [], faults := [], refused := [], count := 0, origin := none, stage := none, job := 0, first := none
                          killed := false, cancel := false, async := none, done := false }
    let s := graphState r
    let v : BitVec 64 := 0xF005
    State.reset.host.upload = none ∧ s.host.upload = some (v.toNat % 2 ^ 8, 0xF000) ∧ s.host.ctxnum.toNat = 0 ∧ vaRead s 0 0xF000 64 = some (im.take 64) ∧
    leAt (im.take 64) 0 2 ≤ 4096 ∧ vaRead s 0 0xF000 (64 + 128 * leAt (im.take 64) 0 2) = some im ∧ imageOk' im = true ∧
    kfind s.host.graphs 5 = some im ∧ slotBusy s 5 = false ∧ v.toNat / 2 ^ 16 % 2 ^ 16 = 0 ∧ (s.ctx 0).registered = true ∧
    leAt (packetBytes [0x50002]) 2 1 = 5 ∧ leAt (packetBytes [0x50002]) 4 2 = 0 ∧ kfind s.host.graphs 6 = none ∧
    kfind s.host.runs 4 = some r ∧ r.mayStart 0 = true ∧ r.mayStart 1 = false ∧ leAt (nodeOf r.image 0) 0 1 ≠ 1 ∧
    commandOk s r.ctx ((nodeOf r.image 0).take 64) = true ∧ s.esc.table.length < 256 ∧ s.esc.aborted = [] ∧
    (groupKept s (.source (.node 4 0 8192)) r.ctx ((nodeOf r.image 0).take 64)).isNone = true ∧ (vaKept s .upload 0 0xF000 (64 + 128 * leAt (im.take 64) 0 2)).isNone = true ∧ Claims.Uninjected s := by
  unfold Claims.Uninjected; decide +kernel

/-- Run 4 of an image of one LAUNCH node, with a patch of its parameter 5. -/
def nodeRun (d : List Byte) : GraphRun :=
  { slot := 6, ctx := 0, image := leBytes 64 1 ++ d ++ List.replicate 64 0, patches := [(0, 5, 7)], started := [], ended := [], faults := [], refused := [], count := 0
    origin := none, stage := none, job := 0, first := none, killed := false, cancel := false, async := none, done := false }

def nodeState (text : Nat) (d : List Byte) : State :=
  let s := launchState text
  { s with host := { s.host with runs := [(4, nodeRun d)] } }

theorem witness_launch_node_starts :
    let r := nodeRun launchBytes
    let far := packetBytes [0x100000001, 0x8000000000000000, 0xC000, 0x3000, 0x10003, 0, 0, 0]
    let start := fun text d => startLaunch (nodeState text d) (.node 4 0 8192) 0 ((nodeOf (nodeRun d).image 0).take 64) [(5, 7)] (.graph 4 0) none 0
    kfind (nodeState 0 launchBytes).host.runs 4 = some r ∧ r.mayStart 0 = true ∧ leAt ((nodeOf r.image 0).take 64) 0 1 = 1 ∧
    (∃ u i, start 0 launchBytes = .started u i) ∧ start 1 launchBytes = .refuse ∧ start 0 far = .bad := by
  refine ⟨by decide +kernel, by decide +kernel, by decide +kernel, ?_, by decide +kernel, by decide +kernel⟩
  have hd : (nodeOf (nodeRun launchBytes).image 0).take 64 = launchBytes := by decide +kernel
  simp only [hd]
  exact reads_start (by unfold ReadsOfLaunch; decide +kernel) (by unfold PlanLow; decide +kernel) (by decide +kernel)

/-- Run 4 of slot 6, stage 1, job 1 whose one node is launch 2; launch 1 of that stage and job, whose unit has posted a collective, a second of
queue 3, which stands in that stage and job. -/
def cancelState : State :=
  let r : GraphRun := { slot := 6, ctx := 0, image := leBytes 64 1, patches := [], started := [0], ended := [], faults := [], refused := [], count := 0, origin := none
                        stage := some 1, job := 1, first := none, killed := false, cancel := false, async := none, done := false }
  let l := { twoUnits with stage := some 1, job := 1 }
  let e := collEntry .started none false
  let s := graphState r
  { s with host := { s.host with launches := [(1, l), (2, { twoUnits with origin := .graph 4 0 })], queues := [(3, { ringQueue with job := 1, stage := some 1 })] }
           esc := { Escapement.reset with table := [{ e with origin := .unit 1 }, { e with id := ⟨0, 1, 1, 2⟩, origin := .queue 3 0, stage := some 1 }] } }

theorem cancel_reaches_the_run {y n : Nat} (h : (y = 1 ∧ n = 6) ∨ (y = 2 ∧ n = 1) ∨ (y = 3 ∧ n = 1)) : ∃ r, Claims.RunReached cancelState y 0 n 4 r := by
  refine ⟨_, rfl, rfl, rfl, ?_, ?_⟩
  · rcases h with ⟨rfl, rfl⟩ | ⟨rfl, rfl⟩ | ⟨rfl, rfl⟩ <;> decide
  · intro he
    rcases he 0 (by decide +kernel) with h | ⟨l, hl, ho, hc⟩ | ⟨e, he, ho, _⟩
    · exact absurd h (by decide)
    · fin_cases hl
      · exact absurd ho (by decide)
      · exact absurd hc (by decide)
    · fin_cases he <;> exact absurd ho (by decide)

theorem witness_CancelReachesItsLevel :
    (∀ x < 4, (BitVec.ofNat 64 (x * 2 ^ 62 + 1)).toNat / 2 ^ 62 = x ∧ (BitVec.ofNat 64 (x * 2 ^ 62 + 1)).toNat % 2 ^ 32 = 1) ∧
    (∃ l, cancelState.launch? 1 = some l ∧ l.done = false ∧ l.cancel = false ∧ l.count < l.units.length ∧
      Claims.LaunchReached cancelState 0 0 1 1 l ∧ Claims.LaunchReached cancelState 2 0 1 1 l ∧ Claims.LaunchReached cancelState 3 0 1 1 l) ∧
    (∃ l, cancelState.launch? 2 = some l ∧ l.count < l.units.length ∧ Claims.LaunchReached cancelState 1 0 6 2 l) ∧
    (∃ e ∈ cancelState.esc.table, cancelState.entry? e.id = some e ∧ e.wrote = false ∧ Claims.CollReached cancelState 2 0 1 e ∧ Claims.CollReached cancelState 3 0 1 e) ∧
    (cancelState.queue 3).ctx = 0 ∧ (cancelState.queue 3).job = 1 ∧ (cancelState.queue 3).stage = some 1 := by
  refine ⟨by decide +kernel, ⟨_, rfl, rfl, rfl, by decide, .inl ⟨rfl, .inl ⟨rfl, rfl⟩⟩, .inl ⟨rfl, .inr (.inl ⟨rfl, rfl⟩)⟩, .inl ⟨rfl, .inr (.inr ⟨rfl, rfl⟩)⟩⟩, ?_,
    ⟨_, .tail _ (.head _), by decide +kernel, rfl, .inl ⟨rfl, .inl ⟨rfl, rfl⟩⟩, .inl ⟨rfl, .inr ⟨rfl, 3, 0, rfl, rfl⟩⟩⟩, rfl, rfl, rfl⟩
  obtain ⟨r, hr⟩ := cancel_reaches_the_run (y := 1) (n := 6) (.inl ⟨rfl, rfl⟩)
  exact ⟨_, rfl, by decide, .inr ⟨4, r, 0, hr, rfl⟩⟩

/-- A stage's queue with nothing else left of the stage: its next packet closes the stage. -/
theorem witness_cancelled_stage_goes_on :
    let s := packetState (0x00050005 :: List.replicate 7 0) { ringQueue with stage := some 1 }
    let u := { s with host := { s.host with launches := [] } }
    u.host.launches = [] ∧ u.host.runs = [] ∧ u.esc.table = [] ∧ (u.queue 3).stage = some 1 ∧ (u.queue 3).rptr.toNat < (u.queue 3).wptr.toNat ∧
    (vaRead u 0 ((u.queue 3).at_ (u.queue 3).rptr) 64).map (leAt · 0 1) = some 5 := by decide +kernel

/-! ### Memory system, host accesses, fleet -/

theorem witness_ChannelReadsReport :
    let s := fun (n : Nat) => { State.reset with mem := { MemSys.reset with events := [(0, n)], protmap := [(0, 1)] } }
    let tiered := { State.reset with mem := { MemSys.reset with mirrors := [(0, ⟨0x40000000, 0x20000000000, 0x200000⟩)] } }
    let rebuilding := { State.reset with mem := { MemSys.reset with rebuilds := [1] } }
    Claims.LineThere 64 ∧ Claims.LineThere (2 ^ 41) ∧ Claims.LineThere 939524096 ∧ rebuildHeld (s 0).mem 64 = false ∧ mustQueue (s 0).mem (64 / 64 * 64) 64 = false ∧ (∀ e ∈ (s 0).mem.events, e.1 ≠ 2 ^ 30 / 65536) ∧
    Claims.LineThere (2 ^ 30) ∧
    (s 2).mem.events.find? (fun e => e.1 == 64 / 65536) = some (0, 2) ∧ (s 3).mem.events.find? (fun e => e.1 == 64 / 65536) = some (0, 3) ∧
    (s 3).mem.faq.length < 256 ∧ isProtected (s 0).mem 64 = true ∧ isProtected (s 0).mem 939524096 = true ∧
    (∀ l ∈ groupLines (parityGroup 64), l ≠ 64 → Claims.GoodSource (s 0) l) ∧ isProtected tiered.mem 0x40000000 = false ∧ mirrorClean tiered.mem 0x40000000 = true ∧
    (∀ l ∈ tierCopy tiered.mem 0x40000000, Claims.GoodSource tiered l) ∧ isProtected (s 0).mem (2 ^ 30) = false ∧ mirrorClean (s 0).mem (2 ^ 30) = false ∧
    rebuildHeld rebuilding.mem 64 = true ∧ 64 / 64 ∈ rebuilding.mem.rebuilds ∧ mustQueue rebuilding.mem (64 / 64 * 64) 64 = true := by
  unfold Claims.LineThere Claims.GoodSource; decide +kernel

theorem witness_MemoryRegistersAct :
    let s := State.reset
    let busy := { s with mem := { MemSys.reset with moving := some (0, [0]) } }
    let stale := fun (k : BankMem) => { issuing .A { unitWith .A [] with mem := k } with mem := { MemSys.reset with gen := 1, moved := [(1, 1)] } }
    let m : BankMem := { BankMem.reset with reqs := [⟨0, .ordinary, 0, [(64, 8)], .reg (some 1) false, none, false, 0, 0, 0, 0, 0⟩] }
    let v : BitVec 64 := 0x8000000000000003
    v.toNat % 2 ^ 21 ≠ 0 ∧ (0x200000 : BitVec 64).toNat % 2 ^ 21 = 0 ∧ v.getLsbD 63 = true ∧ v.toNat % 2 ^ 11 = 3 ∧ mayRetire s 3 = true ∧ mayRetire busy 3 = false ∧
    3 < 1280 ∧ (busy.slice 3).retired = false ∧ ((s.setSlice 3 { Slice.reset with retired := true }).slice 3).retired = true ∧
    busy.mem.moving = some (0, [0]) ∧ busy.mem.queued = [] ∧ (firstStale (stale m) (stale m).cores).isSome = true := by decide +kernel

theorem witness_HostAccessesAct :
    let s := packetState [] ringQueue
    Safety.MemoryCanonical s ∧ ([1, 2] : List Byte) ≠ [] ∧ frameExists s 64 = true ∧ frameExists s (64 + 2 - 1) = true ∧ mustQueue s.mem 64 2 = false ∧ s.fleet.module ≠ .off ∧
    mustQueue ({ s.mem with rebuilds := [1] } : MemSys) 64 2 = true ∧ Config.hostBase + 2 ≤ Config.scratchBase ∧ mustQueue s.mem Config.hostBase 2 = false ∧
    ((packetState [] { ringQueue with err := true }).queue 3).err = true ∧ ((packetState [] { ringQueue with hold := some (.tick 9) }).queue 3).hold ≠ none ∧
    armedIn s 64 2 = [] ∧ (s.queue 4).en = false ∧ (s.queue 3).en = true ∧ (3999 : BitVec 64).toNat % 2 ^ 16 < 4000 ∧ 8000 < (8001 : BitVec 64).toNat % 2 ^ 16 ∧
    4000 ≤ (4000 : BitVec 64).toNat % 2 ^ 16 ∧ (8000 : BitVec 64).toNat % 2 ^ 16 ≤ 8000 := by
  unfold Safety.MemoryCanonical; decide +kernel

/-- A state whose strip 3 stands at the part's voltage limit, with `limit` as its clock's, and is being re-planned. -/
def agedState (limit : Nat) : State :=
  { State.reset with fleet := { State.reset.fleet with limit := [(3, limit)], volts := [(3, Config.voltageSteps 3)], planning := some 3 } }

theorem witness_strip_at_limit :
    (Config.voltageSteps 3 ≤ kget 0 (agedState 1000).fleet.volts 3 ∧ 925 ≤ Claims.limitOf (agedState 1000) 3) ∧
    Config.voltageSteps 3 ≤ kget 0 (agedState 900).fleet.volts 3 ∧ Claims.limitOf (agedState 900) 3 = 900 ∧
    (∀ l, (agedState l).fleet.plans 3 = true) ∧ State.reset.fleet.plans 3 = false :=
  ⟨⟨Nat.le_refl _, by decide⟩, Nat.le_refl _, by decide, fun _ => rfl, rfl⟩

theorem witness_PowerIsManaged :
    let s := State.reset
    let low := { s with fleet := { s.fleet with limit := [(3, 900)], cool := 9 } }
    let idle := { s with time := { s.time with tick := 4000 }, fleet := { s.fleet with ltol := 200 } }
    let deep := { s with time := { s.time with tick := 400000 }
                         fleet := { s.fleet with ltol := 5000, dies := (List.range 8).map (fun d => (d, .retention)), strips := [(7, .retention)] } }
    let held := packetState [] { ringQueue with hold := some (.tick 0) }
    1000 * s.fleet.pcap.toNat < 8000001 ∧ 100 * 7840000 ≤ 98 * (1000 * s.fleet.pcap.toNat) ∧ 9 ≤ low.fleet.cool ∧ s.fleet.overCnt < 100 ∧ 925 ≤ Claims.limitOf s 3 ∧
    (∃ c, c < 1280 ∧ (s.core c).usable = true ∧ Claims.coreIn c 3 = true) ∧
    (400000 ≤ ({ s.fleet with sinceSample := 400000 } : Fleet).sinceSample ∧ s.fleet.sinceSample < 400000 ∧ s.fleet.sinceMonitor < 2 ^ 36) ∧
    Claims.limitOf low 3 = 900 ∧ s.fleet.module ≠ .off ∧ stripIdle idle 7 = true ∧ (∀ j < 24, 24 * 7 + j ∉ busyStrips idle) ∧ 80000 ≤ idle.fleet.ltol.toNat * 400 ∧
    moduleIdle deep = true ∧ 2000000 ≤ deep.fleet.ltol.toNat * 400 ∧ kget .run deep.fleet.strips 7 = .retention ∧ (held.queue 3).hold = some (.tick 0) ∧
    (0 : W64).toNat ≤ held.tick + held.fleet.exitLatency ∧ coreAwake { s with cycle := 65536 } 1279 = true ∧
    kget 0 (({ s with cycle := 65536 } : State).core 1279).lastUse 3 + 65536 ≤ ({ s with cycle := 65536 } : State).cycle := by decide +kernel

theorem witness_ModuleResetsAndAttests :
    let s := State.reset
    let w := { s with fleet := { s.fleet with fwstat := 1 } }
    s.fleet.fwstat ≠ 1 ∧ w.fleet.fwstat = 1 ∧ ({ s.fleet with powered := false } : Fleet).powered = false ∧ Memory.wf s.mem.cells = true ∧
    (FirmwareCheck.mk 0 0 false false).signatureOk ≠ true := by decide +kernel

/-! ### Steps, encodings, the invariant -/

theorem witness_StepRunsDecodedWord :
    let at_ := fun (x : W32) (pc : W64) => { issuing .A (onStream .A (fun y => { y with pc := pc }) { unitWith .A [] with text := [x], textLen := 4 }) with agenda := [.issue 0 .A] }
    let s := at_ 0xE0018440 0
    let f : BankFault := ⟨7, 64, .aStream ⟨0, false⟩, true⟩
    let b : BankId := ⟨0, false⟩
    let k := (onStream .A (fun y => { y with status := .faulted }) (unitWith .A []))
    k.a.status = .faulted ∧ k.aStopped = false ∧ k.aDone = true ∧ s.fleet.powered = true ∧ s.agenda = .issue 0 .A :: [] ∧ (s.core 0).active = b.slot ∧ mayIssue s b .A = true ∧ mayIssue s b .V = false ∧ refusedFor (s.bank b) = none ∧
    refusedFor { s.bank b with faults := [f] } = some f ∧ (s.bank b).wordAt 0 = some 0xE0018440 ∧ ((at_ 0 4).bank b).wordAt 4 = none ∧
    decodeWord ⟨.A, false⟩ 0xE0018440 = .ok (.add 0 3 1 2) ∧ decodeWord ⟨.A, false⟩ 0xE0018441 = .error .illegalWord ∧ State.reset.agenda = [] := by
  decide +kernel

theorem witness_OnlyWantOfPowerStops :
    State.reset.fleet.powered = true ∧ ({ State.reset with fleet := { Fleet.reset with powered := false } } : State).fleet.powered = false ∧
    ([] : List Agendum) ≠ [.event .powerOn] := by decide +kernel

theorem witness_EncodedWordsDecode : (Instr.add 0 3 1 2).wf = true ∧ encode (.add 0 3 1 2) = some 0xE0018440 ∧ fld (0xE0018440 : W32) 29 3 = 7 := by decide +kernel

theorem witness_DecodedWordsEncode : decodeWord ⟨.M, false⟩ 0xE0018440 = .ok (.add 0 3 1 2) := by decide +kernel

theorem witness_MemoryStaysCanonical : Safety.MemoryCanonical State.reset ∧ (∃ t, Safety.StepsTo State.reset t) ∧
    ∀ a, Cells.get [(5, 1)] a = Cells.get (Cells.set [] 5 1) a := by
  refine ⟨by unfold Safety.MemoryCanonical; decide +kernel, ⟨_, rfl⟩, fun a => ?_⟩
  rw [show Cells.set [] 5 1 = [(5, 1)] by decide]

/-! ### Single words. The results are calculated by hand from the rules named. -/

/-- What a word writes to register 3 of stream V that holds these registers. -/
def writes (i : Instr) (l : List (Nat × W64)) : Option W64 :=
  match exec i (issuing .V (unitWith .V l)) with
  | .next t =>
    let x := t.stream ⟨0, false⟩ .V
    (x.pend.findSome? (fun p => match p.wr with | .reg 3 v => some v | .ireg 3 v => some v | _ => none)).or (some (x.get 3))
  | _ => none

/-- Where stream V goes on from 0x100 after a word. -/
def goesOn (i : Instr) (l : List (Nat × W64)) : Option W64 :=
  match exec i (issuing .V (onStream .V (fun x => { x with pc := 0x100 }) (unitWith .V l))) with
  | .next t => some (t.stream ⟨0, false⟩ .V).pc
  | _ => none

theorem test_add_wraps : writes (.add 0 3 1 2) [(1, 0xFFFFFFFFFFFFFFFF), (2, 2)] = some 1 := by decide +kernel
theorem test_sub_wraps : writes (.sub 0 3 1 2) [(1, 3), (2, 5)] = some 0xFFFFFFFFFFFFFFFE := by decide +kernel
theorem test_shl_takes_six_bits : writes (.shl 0 3 1 2) [(1, 1), (2, 0x7F)] = some 0x8000000000000000 := by decide +kernel
theorem test_shr_zero_fills : writes (.shr 0 3 1 2) [(1, 0x8000000000000000), (2, 63)] = some 1 := by decide +kernel
theorem test_sra_copies_sign : writes (.sra 0 3 1 2) [(1, 0x8000000000000000), (2, 63)] = some 0xFFFFFFFFFFFFFFFF := by decide +kernel
theorem test_mul_low : writes (.mul 0 3 1 2) [(1, 0x100000001), (2, 0x100000001)] = some 0x0000000200000001 := by decide +kernel
theorem test_mulh_signed : writes (.mulh 0 3 1 2) [(1, 0xFFFFFFFFFFFFFFFF), (2, 5)] = some 0xFFFFFFFFFFFFFFFF := by decide +kernel
theorem test_mulhu_unsigned : writes (.mulhu 0 3 1 2) [(1, 0xFFFFFFFFFFFFFFFF), (2, 5)] = some 4 := by decide +kernel
theorem test_div_truncates : writes (.div 0 3 1 2) [(1, 0xFFFFFFFFFFFFFFF9), (2, 2)] = some 0xFFFFFFFFFFFFFFFD := by decide +kernel
theorem test_div_by_zero : writes (.div 0 3 1 2) [(1, 7)] = some 0xFFFFFFFFFFFFFFFF := by decide +kernel
theorem test_div_overflow : writes (.div 0 3 1 2) [(1, 0x8000000000000000), (2, 0xFFFFFFFFFFFFFFFF)] = some 0x8000000000000000 := by decide +kernel
theorem test_divu : writes (.divu 0 3 1 2) [(1, 0xFFFFFFFFFFFFFFFF), (2, 2)] = some 0x7FFFFFFFFFFFFFFF := by decide +kernel
theorem test_rem_sign : writes (.rem 0 3 1 2) [(1, 0xFFFFFFFFFFFFFFF9), (2, 2)] = some 0xFFFFFFFFFFFFFFFF := by decide +kernel
theorem test_min_signed : writes (.min 0 3 1 2) [(1, 0xFFFFFFFFFFFFFFFF), (2, 1)] = some 0xFFFFFFFFFFFFFFFF := by decide +kernel
theorem test_minu_unsigned : writes (.minu 0 3 1 2) [(1, 0xFFFFFFFFFFFFFFFF), (2, 1)] = some 1 := by decide +kernel
theorem test_slt_signed : writes (.slt 0 3 1 2) [(1, 0xFFFFFFFFFFFFFFFF), (2, 1)] = some 1 := by decide +kernel
theorem test_sltu_unsigned : writes (.sltu 0 3 1 2) [(1, 0xFFFFFFFFFFFFFFFF), (2, 1)] = some 0 := by decide +kernel
theorem test_addi_sign_extends : writes (.addi 0 3 1 0x3FF) [(1, 5)] = some 4 := by decide +kernel
theorem test_andi_sign_extends : writes (.andi 0 3 1 0x200) [(1, 0xFFFFFFFFFFFFFFFF)] = some 0xFFFFFFFFFFFFFE00 := by decide +kernel
theorem test_srai : writes (.srai 0 3 1 4) [(1, 0xFFFFFFFFFFFFFF00)] = some 0xFFFFFFFFFFFFFFF0 := by decide +kernel
theorem test_li_sign_extends : writes (.li 0 3 0x4000) [] = some 0xFFFFFFFFFFFFC000 := by decide +kernel
theorem test_lsh_shifts_in : writes (.lsh 0 3 0x1234) [(3, 2)] = some 0x11234 := by decide +kernel
theorem test_beq_taken : goesOn (.beq 0 1 2 (-4)) [(1, 7), (2, 7)] = some 0xF4 := by decide +kernel
theorem test_beq_not_taken : goesOn (.beq 0 1 2 (-4)) [(1, 7), (2, 8)] = some 0x104 := by decide +kernel
theorem test_blt_signed : goesOn (.blt 0 1 2 2) [(1, 0xFFFFFFFFFFFFFFFF), (2, 1)] = some 0x10C := by decide +kernel
theorem test_bltu_unsigned : goesOn (.bltu 0 1 2 2) [(1, 0xFFFFFFFFFFFFFFFF), (2, 1)] = some 0x104 := by decide +kernel
theorem test_jal_links : writes (.jal 0 3 8) [] = some 4 ∧ goesOn (.jal 0 3 8) [] = some 0x124 := by decide +kernel
theorem test_jalr : goesOn (.jalr 0 3 1 8) [(1, 0x200)] = some 0x220 := by decide +kernel

/-- The first FP32 element that a V word writes to tile 2 from tile 1, whose row starts with `x`. -/
def writesRow (i : Instr) (x : Nat) : Option Nat :=
  let s := issuing .V (((unitWith .V []).setTile 1 (readyTile 0 1)).setTile 2 (readyTile 256 1))
  match exec i (s.setCore 0 { s.core 0 with spad := kset (s.core 0).spad 0 (BitVec.ofNat 2048 x) }) with
  | .next t => (t.stream ⟨0, false⟩ .V).pend.findSome? (fun p => match p.wr with | .row 1 v => some (v.toNat % 2 ^ 32) | _ => none)
  | _ => none

theorem test_vadd : writesRow (.vadd 0 2 1 0x39 0) 0x3FC00000 = some 0x40200000 := by decide +kernel
theorem test_vadd_ties_to_even : writesRow (.vadd 0 2 1 0x39 0) 0x33800000 = some 0x3F800000 := by decide +kernel
theorem test_vmul : writesRow (.vmul 0 2 1 1 0) 0x3FC00000 = some 0x40100000 := by decide +kernel
theorem test_vdiv : writesRow (.vdiv 0 2 0x39 1 0) 0x40400000 = some 0x3EAAAAAB := by decide +kernel
theorem test_vneg_flips_zero : writesRow (.vneg 0 2 1) 0 = some 0x80000000 := by decide +kernel
theorem test_vmax : writesRow (.vmax 0 2 1 0x39) 0xBF800000 = some 0x3F800000 := by decide +kernel

/-- The hash of the three letters abc, as FIPS 180-4's example gives it. -/
theorem test_sha512 : sha512 [0x61, 0x62, 0x63] = 0xDDAF35A193617ABACC417349AE20413112E6FA4E89A97EA20A9EEEE64B55D39A2192992A274FC1A836BA3C23A3FEEBBD454D4423643CE80E2A9AC94FA54CA49F := by
  decide +kernel

end Sys2Proof.Tests
end

/-! PROOFS. Decoding and encoding agree (02 R31, R32, R40–R47). A word is read field by field: the bits of its encoding are a
row of fields, and a word is that row exactly when each field of the word is the piece that stands there. Each class grid
checks or hands on every field of the word, so nothing of the word is lost. -/

namespace Sys2Proof.Encoding

/-! ### Fields of a word -/

/-- The bits of `x` from bit `lo` up are `v`. -/
def HasField (x : W32) (lo : Nat) {n : Nat} (v : BitVec n) : Prop := fld x lo n = v

@[simp] theorem hasField_fld {x : W32} {lo n : Nat} : HasField x lo (fld x lo n) := rfl

theorem hasField_zero_iff {x y : W32} : HasField x 0 y ↔ x = y := by simp [HasField, fld]

theorem fld_append_fld {x : W32} {lo m n : Nat} : fld x (lo + n) m ++ fld x lo n = fld x lo (m + n) :=
  BitVec.extractLsb'_append_extractLsb'_eq_extractLsb' rfl

theorem toNat_fld_add {x : W32} {lo m n : Nat} :
    (fld x lo (m + n)).toNat = (fld x (lo + n) m).toNat * 2 ^ n + (fld x lo n).toNat := by
  rw [← fld_append_fld, BitVec.toNat_append, ← Nat.shiftLeft_add_eq_or_of_lt (fld x lo n).isLt, Nat.shiftLeft_eq]

/-- A row of fields stands in a word when each field stands at its own place. (`no_index`, because the width of a word is
written 32 and that of a row as a sum.) -/
@[simp] theorem hasField_append {x : W32} {lo m n : Nat} {a : BitVec m} {b : BitVec n} :
    HasField x lo (no_index (a ++ b)) ↔ HasField x (lo + n) a ∧ HasField x lo b := by
  simp only [HasField, ← fld_append_fld]
  refine ⟨fun h => ⟨?_, ?_⟩, fun ⟨ha, hb⟩ => congrArg₂ _ ha hb⟩
  · simpa only [BitVec.extractLsb'_append_eq_left] using congrArg (BitVec.extractLsb' n m) h
  · simpa only [BitVec.extractLsb'_append_eq_right] using congrArg (BitVec.extractLsb' 0 n) h

@[simp] theorem fld_eq_ofNat_iff {x : W32} {lo n k : Nat} :
    fld x lo n = BitVec.ofNat n k ↔ (fld x lo n).toNat = k % 2 ^ n := by
  rw [← BitVec.toNat_inj, BitVec.toNat_ofNat]

@[simp] theorem hasField_ofNat_iff {x : W32} {lo n k : Nat} :
    HasField x lo (BitVec.ofNat n k) ↔ (fld x lo n).toNat = k % 2 ^ n := fld_eq_ofNat_iff

/-! ### What the encoding of an instruction holds, and what a decoder answers -/

/-- Every field of the encoding of `i` stands in `x`. -/
def Spells (x : W32) (i : Instr) : Prop := ∃ y ∈ encode i, HasField x 0 y

theorem spells_iff {x : W32} {i : Instr} : Spells x i ↔ encode i = some x := by
  simp [Spells, hasField_zero_iff]

/-- The instruction that `r` answers, if it answers one, is spelt by `x`. -/
def Reads (x : W32) (r : Except Cause Instr) : Prop := ∀ i, r = .ok i → Spells x i

@[simp] theorem reads_error {x : W32} {c : Cause} : Reads x (.error c) := by simp [Reads]

@[simp] theorem reads_ok {x : W32} {i : Instr} : Reads x (.ok i) ↔ Spells x i := by simp [Reads]

@[simp] theorem reads_cell {x : W32} {r : Bool} {i : Instr} : Reads x (cell r i) ↔ (r = true → Spells x i) := by
  cases r <;> simp [Reads, cell]

/-! ### The class grids

The split over the opcode leaves one cell at a time. There `hclass` gives the class field, the case its opcode, the cell's own
check the reserved zeros, and the operands are fields of the word themselves: together they are every field of the encoding. -/

theorem decodeG_reads {x : W32} (hclass : (fld x 29 3).toNat = 7) : Reads x (decodeG x) := by
  unfold decodeG
  split
  case h_55 => exact reads_error
  all_goals simp +contextual [Spells, encode.eq_def, *]

/-- RDV and RDV.end share an opcode: bit 4 tells them apart, and their encodings hold it together with the reserved bits
above it, RDV.end also with those below (02 R42). -/
theorem decodeC_reads {x : W32} (hclass : (fld x 29 3).toNat = 0) : Reads x (decodeC x) := by
  unfold decodeC
  split
  case h_17 => exact reads_error
  case h_5 hop =>
    have hhigh : (fld x 4 16).toNat = (fld x 5 15).toNat * 2 + (fld x 4 1).toNat := toNat_fld_add (m := 15) (n := 1)
    have hbody : (fld x 0 20).toNat = (fld x 4 16).toNat * 16 + (fld x 0 4).toNat := toNat_fld_add (m := 16) (n := 4)
    split
    next hend => simp +contextual [Spells, encode.eq_def, *]
    next hend =>
      have hbit : (fld x 4 1).toNat = 0 := by
        have hne : (fld x 4 1).toNat ≠ 1 := by simpa using hend
        have hlt := (fld x 4 1).isLt
        omega
      simp +contextual [Spells, encode.eq_def, *]
  all_goals simp +contextual [Spells, encode.eq_def, *]

theorem decodeRdvStream_reads {x : W32} (hclass : (fld x 29 3).toNat = 0) (hop : fld x 20 6 = 5) :
    Reads x (decodeRdvStream x) := by
  simp +contextual [decodeRdvStream, Spells, encode.eq_def, *]

theorem decodeA_reads {x : W32} (hclass : (fld x 29 3).toNat = 1) : Reads x (decodeA x) := by
  unfold decodeA
  split
  case h_33 => exact reads_error
  all_goals simp +contextual [Spells, encode.eq_def, *]

theorem decodeV_reads {x : W32} (hclass : (fld x 29 3).toNat = 2) : Reads x (decodeV x) := by
  unfold decodeV
  split
  case h_43 => exact reads_error
  all_goals simp +contextual [Spells, encode.eq_def, *]

theorem decodeM_reads {x : W32} (hclass : (fld x 29 3).toNat = 3) : Reads x (decodeM x) := by
  unfold decodeM
  split
  case h_11 => exact reads_error
  all_goals simp +contextual [Spells, encode.eq_def, *]

theorem decodeK_reads {x : W32} (hclass : (fld x 29 3).toNat = 4) : Reads x (decodeK x) := by
  unfold decodeK
  split
  case h_17 => exact reads_error
  all_goals simp +contextual [Spells, encode.eq_def, *]

theorem decodeS_reads {x : W32} (hclass : (fld x 29 3).toNat = 6) : Reads x (decodeS x) := by
  unfold decodeS
  split
  case h_10 => exact reads_error
  all_goals simp +contextual [Spells, encode.eq_def, *]

/-! ### The decoder as a whole -/

theorem decodeCell_reads (env : DecodeEnv) (x : W32) : Reads x (decodeCell env x) := by
  unfold decodeCell
  split
  next hclass => exact decodeG_reads hclass
  next hclass _ => exact decodeC_reads hclass
  next hclass _ =>
    split
    next hop => exact decodeRdvStream_reads hclass hop
    next => exact reads_error
  next hclass _ => exact decodeA_reads hclass
  next hclass _ => exact decodeV_reads hclass
  next hclass _ => exact decodeM_reads hclass
  next hclass _ => exact decodeK_reads hclass
  next => exact reads_error
  next hclass _ =>
    split
    next => exact decodeS_reads hclass
    next => exact reads_error
  next => exact reads_error

theorem fieldCause_eq_none_iff {i : Instr} : i.fieldCause = none ↔ i.wf = true := by
  unfold Instr.fieldCause Instr.wf
  cases i.inRange <;> cases i.specsOk <;> simp

/-- What decodes is what the class grid gives and the checks of its fields pass (02 R32). -/
theorem decodeWord_eq_ok_iff {env : DecodeEnv} {x : W32} {i : Instr} :
    decodeWord env x = .ok i ↔ decodeCell env x = .ok i ∧ i.wf = true := by
  rw [← fieldCause_eq_none_iff]
  unfold decodeWord
  split
  next c hcell => simp [hcell]
  next j hcell =>
    split
    next c hcause =>
      simp only [hcell, reduceCtorEq, Except.ok.injEq, false_iff, not_and]
      rintro rfl hnone
      simp [hcause] at hnone
    next hcause =>
      simp only [hcell, Except.ok.injEq, iff_self_and]
      rintro rfl
      exact hcause

/-- Settles O59: the class grid that decodes the word reads it whole, and the word's fields pass the checks. -/
theorem decodedWordsEncode : Obligations.DecodedWordsEncode := by
  intro env x i hdecode
  obtain ⟨hcell, hwf⟩ := decodeWord_eq_ok_iff.mp hdecode
  exact ⟨hwf, spells_iff.mp (decodeCell_reads env x i hcell)⟩

end Sys2Proof.Encoding

/-! PROOFS. What a bank's words and steps do (01, 04–07). First the rules that every word shares: only its bank differs,
how its meaning ends, and how a register is read. -/

namespace Sys2Proof.KernelMachine

open Sys2Proof Sys2Proof.Machine Sys2Proof.Claims

/-! ### One update after another -/

theorem kset_kset {α : Type} (l : List (Nat × α)) (k : Nat) (x y : α) : kset (kset l k x) k y = kset l k y := by
  induction l with
  | nil => simp [kset]
  | cons p l ih =>
    obtain ⟨j, z⟩ := p
    by_cases hj : j = k
    · simp [kset, hj]
    by_cases hk : k < j
    · simp [kset, hj, hk]
    · simp [kset, hj, hk, ih]

@[simp] theorem setCore_setCore (s : State) (n : Nat) (c d : Core) : (s.setCore n c).setCore n d = s.setCore n d := by
  simp [State.setCore, kset_kset]

@[simp] theorem setBank_setBank (s : State) (b : BankId) (x y : Bank) : (s.setBank b x).setBank b y = s.setBank b y := by
  unfold State.setBank
  rw [setCore_setCore, State.core_setCore, if_pos rfl, Core.setBank_setBank]

@[simp] theorem setBank_modBank (s : State) (b : BankId) (x : Bank) (f : Bank → Bank) : (s.setBank b x).modBank b f = s.setBank b (f x) := by
  rw [State.modBank, State.bank_setBank_same, setBank_setBank]

@[simp] theorem modBank_modBank (s : State) (b : BankId) (f g : Bank → Bank) : (s.modBank b f).modBank b g = s.modBank b (g ∘ f) := by
  simp [State.modBank]

theorem modMe_eq_modMyBank (s : State) (f : Stream → Stream) :
    s.modMe f = s.modMyBank (fun k => k.setStream s.cur.engine (f (k.stream s.cur.engine))) := rfl

@[simp] theorem modMyBank_modMyBank (s : State) (f g : Bank → Bank) : (s.modMyBank f).modMyBank g = s.modMyBank (g ∘ f) :=
  modBank_modBank _ _ _ _

@[simp] theorem modMe_modMe (s : State) (f g : Stream → Stream) : (s.modMe f).modMe g = s.modMe (g ∘ f) := by
  simp only [modMe_eq_modMyBank, State.modMyBank_cur, modMyBank_modMyBank]
  congr 1
  funext k
  simp

/-! ### Only the issuing bank differs -/

theorem onlyBank_refl (b : BankId) (u : State) : OnlyBank b u u := by
  refine ⟨rfl, rfl, rfl, rfl, rfl, rfl, rfl, rfl, rfl, rfl, fun n => ?_⟩
  split
  · next h => subst h; exact (Core.setBank_bank _ _).symm
  · rfl

theorem onlyBank_setBank {b : BankId} {u t : State} (h : OnlyBank b u t) (x : Bank) : OnlyBank b u (t.setBank b x) := by
  obtain ⟨h1, h2, h3, h4, h5, h6, h7, h8, h9, h10, hcore⟩ := h
  refine ⟨h1, h2, h3, h4, h5, h6, h7, h8, h9, h10, fun n => ?_⟩
  rw [State.core_setBank, State.bank_setBank_same]
  split
  · next hn => subst hn; rw [hcore, if_pos rfl, Core.setBank_setBank]
  · next hn => rw [hcore, if_neg hn]

theorem onlyBank_modBank {b : BankId} {u t : State} (h : OnlyBank b u t) (f : Bank → Bank) : OnlyBank b u (t.modBank b f) :=
  onlyBank_setBank h _

theorem onlyBank_modMyBank {b : BankId} {u t : State} (h : OnlyBank b u t) (hb : t.cur.bank = b) (f : Bank → Bank) :
    OnlyBank b u (t.modMyBank f) := by
  subst hb; exact onlyBank_modBank h f

theorem onlyBank_modMe {b : BankId} {u t : State} (h : OnlyBank b u t) (hb : t.cur.bank = b) (f : Stream → Stream) :
    OnlyBank b u (t.modMe f) := by
  subst hb; exact onlyBank_modBank h _

theorem onlyBank_retire {b : BankId} {u t : State} (h : OnlyBank b u t) (hb : t.cur.bank = b) (w : BitVec 3) :
    OnlyBank b u (retire t w) :=
  onlyBank_modMe h hb _

theorem onlyBank_byteAt {b : BankId} {u t : State} (h : OnlyBank b u t) (a : Nat) : t.byteAt a = u.byteAt a := by
  obtain ⟨_, _, _, _, _, _, hmem, _⟩ := h
  simp only [State.byteAt, hmem]

theorem onlyBank_cur {b : BankId} {u t : State} (h : OnlyBank b u t) : t.cur = u.cur := by
  obtain ⟨_, hcur, _⟩ := h
  exact hcur

theorem onlyBank_cycle {b : BankId} {u t : State} (h : OnlyBank b u t) : t.cycle = u.cycle := by
  obtain ⟨_, _, hcycle, _⟩ := h
  exact hcycle

theorem onlyBank_core {b : BankId} {u t : State} (h : OnlyBank b u t) (n : Nat) :
    t.core n = if n = b.core then (u.core n).setBank b.slot (t.bank b) else u.core n := by
  obtain ⟨_, _, _, _, _, _, _, _, _, _, hcore⟩ := h
  exact hcore n

theorem onlyBank_bank_ne {b p : BankId} {u t : State} (h : OnlyBank b u t) (hp : p ≠ b) : t.bank p = u.bank p := by
  obtain ⟨n, x⟩ := b
  obtain ⟨m, y⟩ := p
  rw [State.bank, onlyBank_core h, State.bank]
  split
  · next hn =>
    change m = n at hn
    subst hn
    have : y ≠ x := fun e => hp (by rw [e])
    simp [this, State.bank]
  · rfl

theorem onlyBank_trans {b : BankId} {u v t : State} (h : OnlyBank b u v) (h' : OnlyBank b v t) : OnlyBank b u t := by
  have hcore := onlyBank_core h
  obtain ⟨h1, h2, h3, h4, h5, h6, h7, h8, h9, h10, _⟩ := h
  obtain ⟨k1, k2, k3, k4, k5, k6, k7, k8, k9, k10, kcore⟩ := h'
  refine ⟨k1.trans h1, k2.trans h2, k3.trans h3, k4.trans h4, k5.trans h5, k6.trans h6, k7.trans h7, k8.trans h8, k9.trans h9,
    k10.trans h10, fun n => ?_⟩
  rw [kcore, hcore]
  split
  · rw [Core.setBank_setBank]
  · rfl

/-! ### The state a word issues in -/

theorem issueState_cur (s : State) : (issueState s).cur = s.cur := settle_cur _ _ _
theorem issueState_cycle (s : State) : (issueState s).cycle = s.cycle := settle_cycle _ _ _
theorem issueState_time (s : State) : (issueState s).time = s.time := settle_time _ _ _
@[simp] theorem issueState_byteAt (s : State) (a : Nat) : (issueState s).byteAt a = s.byteAt a := settle_byteAt _ _ _ _

/-- A register that can be read gives its value. -/
theorem rd_of_readable {u : State} {r : Reg} (h : Readable u r) : rd u r = .ok (u.me.get r) := by
  rcases h with rfl | ⟨hireg, howes, hreg⟩
  · rfl
  unfold rd
  split
  · next h => subst h; rfl
  have hA : (u.cur.engine == Engine.A && u.myBank.mem.owes r) = false := by
    by_cases he : u.cur.engine = .A
    · simp [howes he]
    · simp [he]
  have hstall : (u.me.pend.any (·.wr.toReg r) && u.me.stallctl.getLsbD 0) = false := by
    rcases hreg with h | h
    · rw [h, Bool.false_and]
    · rw [h, Bool.and_false]
  simp only [hireg, hA, hstall, Bool.false_eq_true, if_false]

/-! ### Retiring -/

theorem retire_me (s : State) (w : BitVec 3) : (retire s w).me = advanced s.me s.cycle w := by
  simp [retire, retireAt, advanced]

@[simp] theorem retire_myBank (s : State) (w : BitVec 3) :
    (retire s w).myBank = s.myBank.setStream s.cur.engine (advanced (s.myBank.stream s.cur.engine) s.cycle w) := by
  simp [retire, retireAt, advanced, State.me_eq]

@[simp] theorem retire_cur (s : State) (w : BitVec 3) : (retire s w).cur = s.cur := rfl
@[simp] theorem retire_cycle (s : State) (w : BitVec 3) : (retire s w).cycle = s.cycle := rfl

/-- A word that retires in `v`, which differs from the state it issues in by its bank alone. -/
theorem bankWord_retire {s v : State} (h : OnlyBank (issueState s).cur.bank (issueState s) v) (w : BitVec 3) :
    BankWord s (retire v w) w v.myBank := by
  have honly := onlyBank_retire h (congrArg Current.bank (onlyBank_cur h)) w
  refine ⟨honly, ?_, fun a => (onlyBank_byteAt honly a).trans (issueState_byteAt s a)⟩
  rw [retire_myBank, onlyBank_cur h, onlyBank_cycle h]

/-- The words below change their bank by a function of it. -/
theorem onlyBank_issue (s : State) (g : Bank → Bank) :
    OnlyBank (issueState s).cur.bank (issueState s) ((issueState s).modMyBank g) :=
  onlyBank_modMyBank (onlyBank_refl _ _) rfl _

/-! ### How a meaning ends -/

section
variable {s : State} {w : BitVec 3} {i : Instr} {f : State → Res State}

theorem next_of_ok {t : State} (hi : exec i s = run s f) (h : f (issueState s) = .ok t) : exec i s = .next t := hi.trans (run_ok h)

theorem bankWord_of_ok {v : State} (hi : exec i s = run s f) (h : f (issueState s) = .ok (retire v w))
    (hv : OnlyBank (issueState s).cur.bank (issueState s) v) : ∃ t, exec i s = .next t ∧ BankWord s t w v.myBank :=
  ⟨_, next_of_ok hi h, bankWord_retire hv w⟩

/-- A word that changes its bank by `g` and goes on. -/
theorem bankWord_of_mod {g : Bank → Bank} (hi : exec i s = run s f) (h : f (issueState s) = .ok (retire ((issueState s).modMyBank g) w)) :
    ∃ t, exec i s = .next t ∧ BankWord s t w (g (issueState s).myBank) := by
  simpa only [State.myBank_modMyBank] using bankWord_of_ok hi h (onlyBank_issue s g)

theorem traps_of_error {c : Cause} {v : W64} (hi : exec i s = run s f) (h : f (issueState s) = .error (.trap (mkTrap c v)))
    (hc : c ≠ .undersizedStall) : Traps s i c v := by
  have := run_trap h (.inl hc)
  rw [Traps, hi, this]
  simp [mkTrap, issueState]

theorem waits_of_error (onA : Bool) (hi : exec i s = run s f) (h : f (issueState s) = .error (.interlock onA)) : Waits s i :=
  ⟨onA, hi.trans (run_interlock h)⟩

theorem modMe_congr {u : State} {f g : Stream → Stream} (h : f u.me = g u.me) : u.modMe f = u.modMe g :=
  congrArg (u.setStream u.cur.bank u.cur.engine) h

/-- A block keeps the tick at which it began while it lasts. -/
theorem noteBlock_eq (u : State) (k : BlockKind) (v : W64) :
    ∃ n, noteBlock u k v = u.modMe (fun x => { x with lock := false, block := some ⟨k, v, n⟩ }) ∧
      (u.me.block = some ⟨k, v, n⟩ ∨ (n = u.tick ∧ ∀ m, u.me.block ≠ some ⟨k, v, m⟩)) := by
  unfold noteBlock
  cases hb : u.me.block with
  | none => exact ⟨u.tick, modMe_congr (by simp [hb]), .inr ⟨rfl, by simp⟩⟩
  | some y =>
    by_cases hy : y.kind = k ∧ y.tval = v
    · obtain ⟨rfl, rfl⟩ := hy
      exact ⟨y.since, modMe_congr (by simp [hb]), .inl rfl⟩
    · refine ⟨u.tick, modMe_congr (by simp only [hb, if_neg hy]), .inr ⟨rfl, fun m hm => hy ?_⟩⟩
      obtain rfl := Option.some.inj hm
      exact ⟨rfl, rfl⟩

theorem blocks_of_error {k : BlockKind} {v : W64} (hi : exec i s = run s f) (h : f (issueState s) = .error (.block k v)) : Blocks s i k v := by
  obtain ⟨n, hn, hsince⟩ := noteBlock_eq (issueState s) k v
  exact ⟨n, (hi.trans (run_block h)).trans (congrArg _ hn), hsince⟩

end

end Sys2Proof.KernelMachine

namespace Sys2Proof.KernelMachine

open Sys2Proof Sys2Proof.Machine Sys2Proof.Claims

/-! ### Words of C that start, join and end streams (01 R19; 04 R98–R101) -/

theorem target_eq_wrap {n : Nat} (pc : W64) (o : BitVec n) : target pc o = wrap (pc.toInt + 4 + 4 * o.toInt) := by
  simp only [target, wrap, BitVec.signExtend, BitVec.ofInt_add, BitVec.ofInt_mul, BitVec.ofInt_toInt]
  rfl

theorem noLift_ok {u : State} (h : Unlifted u) : noLift u = .ok () := by
  rw [Unlifted] at h
  simp [noLift, trapIf, h]

theorem noLift_error {u : State} (h : ¬ Unlifted u) : noLift u = .error (.trap (mkTrap .liftDepth (u.cur.word.setWidth 64))) := by
  rw [Unlifted] at h
  simp [noLift, trapIf, h, wordTrap]

@[simp] theorem idle_iff (k : Bank) (e : Engine) : k.idle e = true ↔ (k.stream e).status = .idle := by
  simp [Bank.idle]

/-- The core that counts a redirect of this cycle (17 R297). -/
def redirecting (u : State) : Core := { u.core u.cur.bank.core with redir := (u.cycle, redirectPlace u) }

theorem redirectNo_eq (u : State) : redirectNo u = (redirectPlace u, u.setCore u.cur.bank.core (redirecting u)) := rfl

theorem bank_redirecting (u : State) : (u.setCore u.cur.bank.core (redirecting u)).myBank = u.myBank := by
  simp only [State.myBank, State.bank, State.setCore_cur, State.core_setCore, if_true]
  cases u.cur.bank.slot <;> rfl

theorem start_get (x : Stream) (v pc : W64) (n : Nat) (r : Reg) : (x.start v pc n).get r = if r = 1 then v else 0 := by
  by_cases h0 : r = 0
  · subst h0; rfl
  by_cases h1 : r = 1
  · subst h1; rfl
  · have : (1 : Nat) ≠ r.toNat := fun h => h1 (BitVec.eq_of_toNat_eq h.symm)
    rw [if_neg h1, Stream.get, if_neg h0]
    simp [Stream.start, Vector.getElem_set_ne, this]

section
variable {u : State} {e : Engine} {w : BitVec 3} {d : Reg} {o : BitVec 15}

theorem fork_of_lifted (h : ¬ Unlifted u) : fork e w d o u = .error (.trap (mkTrap .liftDepth (u.cur.word.setWidth 64))) := by
  simp [fork, noLift_error h]

theorem fork_of_busy (h : Unlifted u) (hd : Readable u d) (hx : (u.myBank.stream e).status ≠ .idle) :
    fork e w d o u = .error (.block .rdv 0) := by
  have hidle : u.myBank.idle e = false := by simpa [Bank.idle] using hx
  simp [fork, noLift_ok h, rd_of_readable hd, hidle]

/-- The stream that FORK starts (04 R99). -/
def forked (u : State) (e : Engine) (d : Reg) (o : BitVec 15) : Stream :=
  (u.myBank.stream e).start (u.me.get d) (target u.me.pc o) (u.cycle + 1 + redirectPlace u)

theorem fork_of_idle (h : Unlifted u) (hd : Readable u d) (hx : (u.myBank.stream e).status = .idle) :
    fork e w d o u =
      .ok (retire ((u.setCore u.cur.bank.core (redirecting u)).modMyBank (·.setStream e (forked u e d o))) w) := by
  have hidle : u.myBank.idle e = true := by simpa using hx
  have hstream : (u.setCore u.cur.bank.core (redirecting u)).stream u.cur.bank e = u.myBank.stream e :=
    congrArg (Bank.stream · e) (bank_redirecting u)
  simp [fork, noLift_ok h, rd_of_readable hd, hidle, redirectNo_eq, State.modStream, State.setStream, hstream, State.modMyBank, forked]

/-- FORK starts its stream and C goes on. -/
theorem fork_myBank (he : e ≠ .C) (hC : u.cur.engine = .C) :
    (retire ((u.setCore u.cur.bank.core (redirecting u)).modMyBank (·.setStream e (forked u e d o))) w).myBank =
      (u.myBank.setStream e (forked u e d o)).setStream .C (advanced u.me u.cycle w) := by
  simp [bank_redirecting, hC, Bank.stream_setStream_ne _ _ he.symm, State.me_eq]

end

theorem forkForm_runs {form : (BitVec 3 → Reg → BitVec 15 → Instr) × Engine}
    (h : form ∈ ([(.forkA, .A), (.forkV, .V), (.forkM, .M), (.forkK, .K)] : List ((BitVec 3 → Reg → BitVec 15 → Instr) × Engine))) :
    form.2 ≠ .C ∧ ∀ w d o s, exec (form.1 w d o) s = run s (fork form.2 w d o) := by
  simp only [List.mem_cons, List.not_mem_nil, or_false] at h
  rcases h with rfl | rfl | rfl | rfl <;> exact ⟨by decide, fun _ _ _ _ => rfl⟩

/-- Settles O10: each outcome of FORK's meaning, read in the state the word issues in. -/
theorem forksStartStreams : Obligations.ForksStartStreams := by
  intro form hform w d o s u x hC hd
  obtain ⟨hne, hruns⟩ := forkForm_runs hform
  have hi := hruns w d o s
  refine ⟨fun hl => traps_of_error hi (fork_of_lifted hl) (by decide), fun hl hx => blocks_of_error hi (fork_of_busy hl hd hx), fun hl hx => ?_⟩
  refine ⟨_, forked u form.2 d o, next_of_ok hi (fork_of_idle hl hd hx), ⟨_, rfl, ?_⟩, ?_, start_get _ _ _ _, ?_⟩
  · exact onlyBank_retire (onlyBank_modMyBank (onlyBank_refl _ _) rfl _) rfl w
  · exact fork_myBank hne hC
  · simp only [forked, Stream.start, target_eq_wrap]; rfl

/-! ### Safe points (04 R101) -/

section
variable {u : State} {w : BitVec 3}

/-- The state in which a safe point has asked for the other bank's turn (01 R28). -/
def turnAsked (s : State) (b : BankId) : State :=
  if (s.bank ⟨b.core, !b.slot⟩).back && (s.bank ⟨b.core, !b.slot⟩).runnable then s.setCore b.core { s.core b.core with want := true } else s

theorem otherSlot_ne (b : BankId) : (⟨b.core, !b.slot⟩ : BankId) ≠ b := by
  obtain ⟨n, x⟩ := b
  cases x <;> simp

theorem bank_wanting (c : Core) (x : Bool) : ({ c with want := true } : Core).bank x = c.bank x := by cases x <;> rfl

theorem turnAsked_bank (s : State) (b p : BankId) : (turnAsked s b).bank p = s.bank p := by
  rw [turnAsked]
  split
  · rw [State.bank, State.core_setCore]
    split
    · next h => rw [bank_wanting, ← h]; rfl
    · rfl
  · rfl

theorem turnAsked_cur (s : State) (b : BankId) : (turnAsked s b).cur = s.cur := by
  rw [turnAsked]
  split <;> rfl

theorem onlyBank_turnAsked {b : BankId} {s t : State} (h : OnlyBank b s t) : OnlyBank b (turnAsked s b) (turnAsked t b) := by
  rw [turnAsked, turnAsked, onlyBank_bank_ne h (otherSlot_ne b)]
  split
  · have hcore := onlyBank_core h
    obtain ⟨h1, h2, h3, h4, h5, h6, h7, h8, h9, h10, _⟩ := h
    refine ⟨h1, h2, h3, h4, h5, h6, h7, h8, h9, h10, fun n => ?_⟩
    have hbank : (t.setCore b.core { t.core b.core with want := true }).bank b = t.bank b := by
      rw [State.bank, State.core_setCore, if_pos rfl, bank_wanting]; rfl
    rw [hbank, State.core_setCore, State.core_setCore]
    split
    · rw [hcore, if_pos rfl]
      cases b.slot <;> rfl
    · next hn => rw [hcore, if_neg hn]
  · exact h

theorem preemptUnit_eq (s : State) (b : BankId) (atEnd : Bool) : preemptUnit s b false atEnd = s.modBank b (gaveWay · atEnd) := rfl

/-- A safe point asks for the other bank's turn, and acts on its own bank (04 R101). -/
theorem safePoint_spec (s : State) (b : BankId) :
    OnlyBank b (turnAsked s b) (safePoint s b) ∧ (safePoint s b).bank b = atSafePoint (s.bank b) := by
  have hself := onlyBank_refl b (turnAsked s b)
  have hbank := turnAsked_bank s b b
  change OnlyBank b (turnAsked s b) (if (s.bank b).copying then turnAsked s b
    else if (s.bank b).cancel then endUnit (turnAsked s b) b .cancelled
    else if (s.bank b).preempt.isSome then (turnAsked s b).modBank b (gaveWay · false) else turnAsked s b) ∧
    State.bank (if (s.bank b).copying then turnAsked s b
    else if (s.bank b).cancel then endUnit (turnAsked s b) b .cancelled
    else if (s.bank b).preempt.isSome then (turnAsked s b).modBank b (gaveWay · false) else turnAsked s b) b = _
  rw [atSafePoint]
  split
  · exact ⟨hself, hbank⟩
  split
  · exact ⟨onlyBank_modBank hself _, by rw [endUnit, State.bank_modBank_same, hbank]⟩
  split
  · exact ⟨onlyBank_modBank hself _, by rw [State.bank_modBank_same, hbank]⟩
  · exact ⟨hself, hbank⟩

/-- A word that is a safe point once it has retired. -/
theorem safePointWord_of_ok {s : State} {i : Instr} {f : State → Res State} (hi : exec i s = run s f)
    (h : f (issueState s) = .ok (safePoint (retire (issueState s) w) (issueState s).cur.bank)) :
    ∃ t, exec i s = .next t ∧ SafePointWord s t w := by
  have hretire : OnlyBank (issueState s).cur.bank (issueState s) (retire (issueState s) w) := onlyBank_retire (onlyBank_refl _ _) rfl w
  obtain ⟨hsafe, hbank⟩ := safePoint_spec (retire (issueState s) w) (issueState s).cur.bank
  have honly := onlyBank_trans (onlyBank_turnAsked hretire) hsafe
  refine ⟨_, next_of_ok hi h, ⟨_, rfl, honly⟩, ?_, fun a => ?_⟩
  · have hcur : (safePoint (retire (issueState s) w) (issueState s).cur.bank).cur = (issueState s).cur :=
      (onlyBank_cur honly).trans (turnAsked_cur _ _)
    rw [State.myBank, hcur, hbank]
    exact congrArg atSafePoint (retire_myBank (issueState s) w)
  · rw [onlyBank_byteAt honly, ← issueState_byteAt s]
    unfold turnAsked
    split <;> rfl

/-- Where nothing is asked of the unit a safe point changes nothing. -/
theorem safePoint_of_nothing_asked {s : State} {b : BankId} (hc : (s.bank b).cancel = false) (hp : (s.bank b).preempt = none)
    (ho : (s.bank ⟨b.core, !b.slot⟩).back = false) : safePoint s b = s := by
  simp [safePoint, hc, hp, ho]

theorem rdv_met_iff {k : Bank} {x : BitVec 4} :
    ((!x.getLsbD 0 || k.idle .A) && (!x.getLsbD 1 || k.idle .V) && (!x.getLsbD 2 || k.idle .M) && (!x.getLsbD 3 || k.idle .K)) = true ↔
      (x.getLsbD 0 = true → (k.stream .A).status = .idle) ∧ (x.getLsbD 1 = true → (k.stream .V).status = .idle) ∧
      (x.getLsbD 2 = true → (k.stream .M).status = .idle) ∧ (x.getLsbD 3 = true → (k.stream .K).status = .idle) := by
  simp only [Bool.and_eq_true, Bool.or_eq_true, Bool.not_eq_true', idle_iff, and_assoc, ← Bool.not_eq_true, ← imp_iff_not_or]

theorem deliver_ok (h : u.myBank.recorded u.cur.engine = none) : deliver u = .ok () := by
  simp [deliver, h]

end

/-- A stream that joins goes on and is idle (01 R19). -/
theorem modMe_retire_idle (s : State) (w : BitVec 3) :
    (retire s w).modMe (fun x => { x with status := .idle }) = retire (s.modMe (fun x => { x with status := .idle })) w := by
  simp only [retire, retireAt, modMe_modMe, State.me_modMe, State.modMe_cycle]
  rfl

theorem waitIf_not_quiet {u : State} (h : ¬ Quiet u) (onA : Bool) : waitIf (!u.myBank.completed u.cur.engine) onA = .error (.interlock onA) := by
  rw [Quiet] at h
  simp [waitIf, h]

theorem waitIf_quiet {u : State} (h : Quiet u) (onA : Bool) : waitIf (!u.myBank.completed u.cur.engine) onA = .ok () := by
  rw [Quiet] at h
  simp [waitIf, h]

/-- RDV's wait is a block until every stream it names is idle (04 R100). -/
theorem rendezvousAndSafePoints : Claims.RendezvousAndSafePoints := by
  intro w x s
  dsimp only
  refine ⟨fun hl hmet => safePointWord_of_ok rfl ?_, fun hl hmet => blocks_of_error rfl ?_, fun hl => safePointWord_of_ok rfl ?_,
    fun hl hc hp ho => ?_, fun hl hq hf => ?_, fun hl hq => waits_of_error ((issueState s).myBank.waitsOnA (issueState s).cur.engine) rfl ?_,
    fun hl => ⟨traps_of_error rfl ?_ (by decide), traps_of_error rfl ?_ (by decide)⟩⟩
  · simp only [noLift_ok hl, Except.bind_ok', if_pos (rdv_met_iff.mpr hmet)]
  · simp only [noLift_ok hl, Except.bind_ok', if_neg (rdv_met_iff.not.mpr hmet)]
  · simp [noLift_ok hl]
  · have honly := onlyBank_retire (onlyBank_refl (issueState s).cur.bank (issueState s)) rfl w
    have hsafe : safePoint (retire (issueState s) w) (issueState s).cur.bank = retire (issueState s) w := by
      have hbank := retire_myBank (issueState s) w
      rw [State.myBank, retire_cur] at hbank
      refine safePoint_of_nothing_asked ?_ ?_ ?_
      · rw [hbank, Bank.setStream_cancel]; exact hc
      · rw [hbank, Bank.setStream_preempt]; exact hp
      · rw [onlyBank_bank_ne honly (otherSlot_ne _)]; exact ho
    refine ⟨bankWord_of_ok rfl ?_ (onlyBank_refl _ _), fun hmet => bankWord_of_ok rfl ?_ (onlyBank_refl _ _)⟩
    · simp [noLift_ok hl, hsafe]
    · simp only [noLift_ok hl, Except.bind_ok', if_pos (rdv_met_iff.mpr hmet), hsafe]
  · refine bankWord_of_mod (g := fun k => k.setStream (issueState s).cur.engine { k.stream (issueState s).cur.engine with status := .idle }) rfl ?_
    simp only [noLift_ok hl, waitIf_quiet hq, deliver_ok hf, modMe_retire_idle, Except.bind_ok']
    rfl
  · simp [noLift_ok hl, waitIf_not_quiet hq]
  · simp [noLift_error hl]
  · simp [noLift_error hl]

theorem rdvEnd_idle_iff {k : Bank} :
    (k.idle .A && k.idle .V && k.idle .M && k.idle .K) = true ↔ ∀ e, e ≠ .C → (k.stream e).status = .idle := by
  simp only [Bool.and_eq_true, idle_iff, and_assoc]
  refine ⟨fun ⟨ha, hv, hm, hk⟩ e he => ?_, fun h => ⟨h _ (by decide), h _ (by decide), h _ (by decide), h _ (by decide)⟩⟩
  cases e with
  | C => exact absurd rfl he
  | A => exact ha
  | V => exact hv
  | M => exact hm
  | K => exact hk

/-- The bank of a unit that ends (01 R19). -/
def endedAs (st : EndStatus) (k : Bank) : Bank :=
  { k.haltAll with phase := .ending st, preempt := none, yielded := none, cancel := false, gbar := none, gkept := [] }

theorem endUnit_eq (s : State) (b : BankId) (st : EndStatus) : endUnit s b st = s.modBank b (endedAs st) := rfl

/-- What a word that retires and then changes its bank by `g` leaves. -/
theorem modBank_retire_spec (s : State) (w : BitVec 3) (g : Bank → Bank) :
    let u := issueState s
    let t := (retire u w).modBank u.cur.bank g
    OnlyBank u.cur.bank u t ∧ (∀ a, t.byteAt a = s.byteAt a) ∧ t.myBank = g (u.myBank.setStream u.cur.engine (advanced u.me u.cycle w)) := by
  have honly : OnlyBank (issueState s).cur.bank (issueState s) ((retire (issueState s) w).modBank (issueState s).cur.bank g) :=
    onlyBank_modBank (onlyBank_retire (onlyBank_refl _ _) rfl w) g
  refine ⟨honly, fun a => (onlyBank_byteAt honly a).trans (issueState_byteAt s a), ?_⟩
  change ((retire (issueState s) w).modMyBank g).myBank = _
  rw [State.myBank_modMyBank, retire_myBank]
  rfl

/-- RDV.end is a safe point and then the end of the unit. -/
theorem rdvEndEndsTheUnit : Claims.RdvEndEndsTheUnit := by
  intro w s
  dsimp only
  refine ⟨fun hl hidle => ?_, fun hl hidle => blocks_of_error rfl ?_, fun hl => traps_of_error rfl ?_ (by decide)⟩
  · have hmet := rdvEnd_idle_iff.mpr hidle
    by_cases hcancel : (issueState s).myBank.copying = false ∧ (issueState s).myBank.cancel = true
    · obtain ⟨honly, hbytes, hbank⟩ := modBank_retire_spec s w (endedAs .cancelled)
      refine ⟨_, next_of_ok rfl ?_, honly, hbytes, ?_⟩
      · simp only [noLift_ok hl, Except.bind_ok', hmet, hcancel.1, hcancel.2, endUnit_eq]; rfl
      · rw [if_pos hcancel]; exact hbank
    by_cases hpre : (issueState s).myBank.copying = false ∧ (issueState s).myBank.preempt.isSome = true
    · obtain ⟨honly, hbytes, hbank⟩ := modBank_retire_spec s w (gaveWay · true)
      have hc : (issueState s).myBank.cancel = false := by
        cases hv : (issueState s).myBank.cancel with
        | false => rfl
        | true => exact absurd ⟨hpre.1, hv⟩ hcancel
      refine ⟨_, next_of_ok rfl ?_, honly, hbytes, ?_⟩
      · simp only [noLift_ok hl, Except.bind_ok', hmet, hpre.1, hpre.2, hc, preemptUnit_eq]; rfl
      · rw [if_neg hcancel, if_pos hpre]; exact hbank
    · obtain ⟨honly, hbytes, hbank⟩ := modBank_retire_spec s w (endedAs .complete)
      have hstay : (!(issueState s).myBank.copying && ((issueState s).myBank.cancel || (issueState s).myBank.preempt.isSome)) = false := by
        cases hv : (issueState s).myBank.copying with
        | true => rfl
        | false => simpa [hv] using And.intro hcancel hpre
      refine ⟨_, next_of_ok rfl ?_, honly, hbytes, ?_⟩
      · simp only [noLift_ok hl, Except.bind_ok', hmet, hstay, endUnit_eq]; rfl
      · rw [if_neg hcancel, if_neg hpre]; exact hbank
  · have hmet : ((issueState s).myBank.idle .A && (issueState s).myBank.idle .V && (issueState s).myBank.idle .M && (issueState s).myBank.idle .K) = false := by
      rw [← Bool.not_eq_true, rdvEnd_idle_iff]
      push Not
      exact hidle
    simp [noLift_ok hl, hmet]
  · simp [noLift_error hl]

/-- Settles O11: rendezvous and safe points, and the unit's end. -/
theorem streamsMeetAndEnd : Obligations.StreamsMeetAndEnd := ⟨rendezvousAndSafePoints, rdvEndEndsTheUnit⟩

end Sys2Proof.KernelMachine

namespace Sys2Proof.KernelMachine

open Sys2Proof Sys2Proof.Machine Sys2Proof.Claims

/-! ### STGO and the lines that the bank holds (05 R123) -/

/-- A bank that holds a line and has performed a row of stream 0 into it, which A's loads do not yet see. -/
def hiddenRowBank : Bank :=
  { Bank.reset with mem := { BankMem.reset with own := [⟨0, 7, 0, true, some (0, false)⟩], lines := [(0, [0])] } }

def hiddenRowState : State := { State.reset with cores := [(0, { Core.reset with bank0 := hiddenRowBank })] }

theorem hiddenRowState_issue : issueState hiddenRowState = hiddenRowState := rfl

theorem hiddenRowState_gateOpen : GateOpen hiddenRowState 4 := by
  refine ⟨by decide, ?_⟩
  decide +kernel

/-- The run keeps the line with the row shown. -/
theorem hiddenRowState_stgo :
    ∀ t, exec (.stgo 0 0 0) hiddenRowState = .next t → (t.myBank.ds 0).run.map (·.lines) = some [(0, [7])] := by
  rintro t ht
  cases ht
  rfl

/-- Refutes O14: STGO shows A's loads the rows that its stream has stored before it keeps the bank's lines (05 R123), so that the run
keeps the lines with those rows, where the statement has the lines as they stood before. In `hiddenRowState` the line of address 0 holds 0, and a
performed row of stream 0 has put 7 there: the run keeps 7, the statement 0. -/
theorem not_streamsAndTilesAreSet : ¬ Obligations.StreamsAndTilesAreSet := by
  rintro ⟨hstreams, -⟩
  obtain ⟨-, -, -, -, hgo, -⟩ := hstreams 0 0 0 0 0 0 hiddenRowState
  obtain ⟨t, hexec, -, hbank, -⟩ :=
    (hgo rfl rfl (by decide)).1 hiddenRowState_gateOpen (by decide)
  have hlines := hiddenRowState_stgo t hexec
  rw [hbank] at hlines
  exact absurd hlines (by decide +kernel)

end Sys2Proof.KernelMachine

namespace Sys2Proof.KernelMachine

open Sys2Proof Sys2Proof.Machine Sys2Proof.Claims

/-! ### What memory words of A and words that name tiles wait for (01 R16; 04 R109; 05 R116) -/

section
variable {u : State}

theorem trapIf_false {c : Cause} {b : Bool} (h : b = false) : trapIf b u c = .ok () := by rw [h]; rfl

theorem trapIf_true {c : Cause} {b : Bool} (h : b = true) : trapIf b u c = .error (.trap (mkTrap c (u.cur.word.setWidth 64))) := by
  rw [h]; rfl

theorem waitIf_false {b onA : Bool} (h : b = false) : waitIf b onA = .ok () := by rw [h]; rfl

theorem waitIf_true {b onA : Bool} (h : b = true) : waitIf b onA = .error (.interlock onA) := by rw [h]; rfl

theorem memGate_open {n : Nat} (h : GateOpen u n) : memGate u n = .ok () := by
  obtain ⟨harrived, hslots⟩ := h
  have hany : (u.myBank.gbar.toList ++ u.myBank.gkept).any (fun g => !g.passed) = false := by
    simpa only [List.any_eq_false, Bool.not_eq_true', Bool.not_eq_false] using harrived
  rw [memGate, waitIf_false hany, waitIf_false (by simpa using hslots)]
  rfl

theorem memGate_shut {n : Nat} (h : ¬ GateOpen u n) : memGate u n = .error (.interlock false) := by
  rw [memGate]
  by_cases hany : (u.myBank.gbar.toList ++ u.myBank.gkept).any (fun g => !g.passed) = true
  · rw [waitIf_true hany]; rfl
  · have hslots : ¬ u.slots u.cur.bank + n ≤ 512 := fun hle => h ⟨by
      simpa only [List.any_eq_true, Bool.not_eq_true', not_exists, not_and, Bool.not_eq_false] using hany, hle⟩
    rw [waitIf_false (Bool.eq_false_iff.mpr hany), waitIf_true (by simpa using hslots)]
    rfl

theorem freeWait_free {sp : Spec} {t : Nat} (hst : (u.myBank.tile t).state = .empty ∨ (u.myBank.tile t).state = .ready)
    (hbusy : u.myBank.tileBusy u.cur.engine t = false) : freeWait u sp t = .ok () := by
  rcases hst with h | h <;> rw [freeWait, h] <;> exact waitIf_false hbusy

theorem needReady_of_tile {sp : Spec} {t : Nat} (hsp : operandOf sp = .tile t) :
    needReady u sp = if (u.myBank.tile t).state = .ready then .ok () else .error (.block .tile (sp.setWidth 64)) := by
  rw [needReady, hsp]

theorem needReady_ok {sp : Spec} (h : ∀ t, operandOf sp = .tile t → (u.myBank.tile t).state = .ready) : needReady u sp = .ok () := by
  rw [needReady]
  split
  · next t ht => rw [if_pos (h t ht)]
  · rfl

theorem needReady_error {sp : Spec} {t : Nat} (hsp : operandOf sp = .tile t) (h : (u.myBank.tile t).state ≠ .ready) :
    needReady u sp = .error (.block .tile (sp.setWidth 64)) := by
  rw [needReady_of_tile hsp, if_neg h]

/-! ### The copies that a fill or drain moves (05 R128, R131) -/

theorem streamNo_of_operand {q : Spec} {m : Nat} (h : operandOf q = .stream m) : streamNo q = m := by
  revert h
  unfold operandOf streamNo
  dsimp only
  repeat' split
  all_goals simp

theorem moveCopies_unlifted {t m rows : Nat} {wr : Bool} (htags : tagsOf u.me (u.myBank.tile t) = [])
    (hfault : (u.myBank.ds m).fault = none) (hrun : ∀ r, (u.myBank.ds m).run = some r → r.write = wr) :
    moveCopies u t m rows wr = .ok ([some (u.myBank.tile t).base], 0, false) := by
  cases hr : (u.myBank.ds m).run with
  | none => simp [moveCopies, hfault, hr, trapIf, htags]
  | some r => simp [moveCopies, hfault, hr, trapIf, hrun r hr, htags]

end

/-- The copies of a lifted tile, one for each repetition, none for an inactive one (05 R131). -/
def liftedCopies (u : State) (t : Nat) : List (Option Nat) :=
  (indexVectors u.me (tagsOf u.me (u.myBank.tile t))).map (fun v =>
    if activeAt u.me v then some (copyBase (u.myBank.tile t) (tagsOf u.me (u.myBank.tile t)) v) else none)

/-- A stream at its first position whose fifth extent covers the copies of a tile (05 R131). -/
structure CoversCopies (u : State) (t m rows : Nat) (wr : Bool) (r : StreamRun) : Prop where
  lifted : tagsOf u.me (u.myBank.tile t) ≠ []
  fault : (u.myBank.ds m).fault = none
  run : (u.myBank.ds m).run = some r
  dir : r.write = wr
  first : r.given = 0
  rows : rows ≤ sliceSize r
  fifth : repCount u.me (tagsOf u.me (u.myBank.tile t)) ≤ fifth r
  foot : footprintOk u.myBank u.me t = true

theorem moveCopies_lifted {u : State} {t m rows : Nat} {wr : Bool} {r : StreamRun} (h : CoversCopies u t m rows wr r) :
    moveCopies u t m rows wr = .ok (liftedCopies u t, sliceSize r, true) := by
  obtain ⟨hlift, hfault, hrun, hdir, hfirst, hrows, hfifth, hfoot⟩ := h
  simp [moveCopies, hfault, hrun, hdir, hlift, hfirst, trapIf, Nat.not_lt.mpr hrows, Nat.not_lt.mpr hfifth, hfoot, liftedCopies]

/-! ### TFILL and TDRAIN (05 R128, R129) -/

/-- The bank once a fill of tile `n`, which stood as `x`, has started. -/
def fillStarted (x : Tile) (n m c : Nat) (cs : List (Option Nat)) (sl : Nat) (lifted : Bool) (k : Bank) : Bank :=
  { k.setTile n { x with state := .filling } with
    moves := k.moves ++ [⟨k.opSeq, k.mem.seq, false, n, m, c, 0, cs, sl, lifted, false⟩], opSeq := k.opSeq + 1 }

/-- The bank once a drain of it has started. -/
def drainStarted (x : Tile) (n m c : Nat) (cs : List (Option Nat)) (sl : Nat) (lifted free : Bool) (k : Bank) : Bank :=
  { k.setTile n { x with state := .draining } with
    moves := k.moves ++ [⟨k.opSeq, k.mem.seq, true, n, m, c, 0, cs, sl, lifted, free⟩], opSeq := k.opSeq + 1
    mem := { k.mem with seq := k.mem.seq + 1 } }

/-- What a fill or drain of tile `n` over stream `m` has to find before it looks at the stream (05 R128, R129). -/
structure MoveReady (u : State) (p q : Spec) (a : Reg) (n m : Nat) : Prop where
  count : Readable u a
  tile : operandOf p = .tile n
  stream : operandOf q = .stream m
  free : u.myBank.tileBusy u.cur.engine n = false
  rows : (u.myBank.tile n).rows ≠ 0
  fits : (u.me.get a).toNat ≤ (u.myBank.tile n).rows

theorem MoveReady.rows_nonzero {u : State} {p q : Spec} {a : Reg} {n m : Nat} (h : MoveReady u p q a n m) :
    ((u.myBank.tile n).rows == 0) = false := by
  simpa using h.rows

theorem MoveReady.count_fits {u : State} {p q : Spec} {a : Reg} {n m : Nat} (h : MoveReady u p q a n m) :
    decide ((u.me.get a).toNat > (u.myBank.tile n).rows) = false := by
  simpa using h.fits

theorem no_rows_iff {v : W64} {lifted : Bool} : (decide (v = 0) && !lifted) = true ↔ v.toNat = 0 ∧ lifted = false := by
  simp [← BitVec.toNat_inj]

section
variable {s : State} {w : BitVec 3} {p q : Spec} {a : Reg} {o : BitVec 1} {n m : Nat} {cs : List (Option Nat)} {sl : Nat} {lifted : Bool}

/-- A tile that TFILL can take. -/
abbrev Fillable (u : State) (n : Nat) : Prop := (u.myBank.tile n).state = .empty ∨ (u.myBank.tile n).state = .ready

theorem tfill_waits (h : MoveReady (issueState s) p q a n m) (hst : Fillable (issueState s) n)
    (hx : moveCopies (issueState s) n m ((issueState s).me.get a).toNat false = .ok (cs, sl, lifted))
    (hgate : ¬ GateOpen (issueState s)) : Waits s (.tfill w p q a) := by
  refine waits_of_error false rfl ?_
  simp only [rd_of_readable h.count, h.tile, streamNo_of_operand h.stream, freeWait_free hst h.free, h.rows_nonzero, h.count_fits,
    Bool.or_self, trapIf_false, hx, memGate_shut hgate, Except.bind_ok', Except.bind_error']

theorem tfill_starts (h : MoveReady (issueState s) p q a n m) (hst : Fillable (issueState s) n)
    (hx : moveCopies (issueState s) n m ((issueState s).me.get a).toNat false = .ok (cs, sl, lifted)) (hgate : GateOpen (issueState s))
    (hsome : ¬ (((issueState s).me.get a).toNat = 0 ∧ lifted = false)) :
    ∃ t, exec (.tfill w p q a) s = .next t ∧ BankWord s t w
      (fillStarted ((issueState s).myBank.tile n) n m ((issueState s).me.get a).toNat cs sl lifted (issueState s).myBank) := by
  refine bankWord_of_mod (g := fillStarted _ n m ((issueState s).me.get a).toNat cs sl lifted) rfl ?_
  simp only [rd_of_readable h.count, h.tile, streamNo_of_operand h.stream, freeWait_free hst h.free, h.rows_nonzero, h.count_fits,
    Bool.or_self, trapIf_false, hx, memGate_open hgate, Except.bind_ok', if_neg (no_rows_iff.not.mpr hsome)]
  rfl

theorem tfill_of_no_rows (h : MoveReady (issueState s) p q a n m) (hst : Fillable (issueState s) n)
    (hx : moveCopies (issueState s) n m ((issueState s).me.get a).toNat false = .ok (cs, sl, false)) (hgate : GateOpen (issueState s))
    (hnone : ((issueState s).me.get a).toNat = 0) :
    ∃ t, exec (.tfill w p q a) s = .next t ∧
      BankWord s t w ((issueState s).myBank.setTile n { (issueState s).myBank.tile n with state := .ready, cursor := 0 }) := by
  refine bankWord_of_mod (g := fun k => k.setTile n { (issueState s).myBank.tile n with state := .ready, cursor := 0 }) rfl ?_
  simp only [rd_of_readable h.count, h.tile, streamNo_of_operand h.stream, freeWait_free hst h.free, h.rows_nonzero, h.count_fits,
    Bool.or_self, trapIf_false, hx, memGate_open hgate, Except.bind_ok', if_pos (no_rows_iff.mpr ⟨hnone, rfl⟩)]

theorem tdrain_waits (h : MoveReady (issueState s) p q a n m) (hst : ((issueState s).myBank.tile n).state = .ready)
    (hx : moveCopies (issueState s) n m ((issueState s).me.get a).toNat true = .ok (cs, sl, lifted))
    (hgate : ¬ GateOpen (issueState s)) : Waits s (.tdrain w p q a o) := by
  refine waits_of_error false rfl ?_
  simp only [rd_of_readable h.count, h.tile, streamNo_of_operand h.stream, needReady_of_tile h.tile, hst, if_true, h.free, waitIf_false,
    h.rows_nonzero, h.count_fits, trapIf_false, hx, memGate_shut hgate, Except.bind_ok', Except.bind_error']

theorem tdrain_starts (h : MoveReady (issueState s) p q a n m) (hst : ((issueState s).myBank.tile n).state = .ready)
    (hx : moveCopies (issueState s) n m ((issueState s).me.get a).toNat true = .ok (cs, sl, lifted)) (hgate : GateOpen (issueState s))
    (hsome : ¬ (((issueState s).me.get a).toNat = 0 ∧ lifted = false)) :
    ∃ t, exec (.tdrain w p q a o) s = .next t ∧ BankWord s t w
      (drainStarted ((issueState s).myBank.tile n) n m ((issueState s).me.get a).toNat cs sl lifted (o == 1) (issueState s).myBank) := by
  refine bankWord_of_mod (g := drainStarted _ n m ((issueState s).me.get a).toNat cs sl lifted (o == 1)) rfl ?_
  simp only [rd_of_readable h.count, h.tile, streamNo_of_operand h.stream, needReady_of_tile h.tile, hst, if_true, h.free, waitIf_false,
    h.rows_nonzero, h.count_fits, trapIf_false, hx, memGate_open hgate, Except.bind_ok', if_neg (no_rows_iff.not.mpr hsome)]
  rfl

theorem tdrain_of_no_rows (h : MoveReady (issueState s) p q a n m) (hst : ((issueState s).myBank.tile n).state = .ready)
    (hx : moveCopies (issueState s) n m ((issueState s).me.get a).toNat true = .ok (cs, sl, false)) (hgate : GateOpen (issueState s))
    (hnone : ((issueState s).me.get a).toNat = 0) :
    ∃ t, exec (.tdrain w p q a o) s = .next t ∧
      BankWord s t w ((issueState s).myBank.setTile n { (issueState s).myBank.tile n with state := if o = 1 then .empty else .ready }) := by
  refine bankWord_of_mod (g := fun k => k.setTile n { (issueState s).myBank.tile n with state := if o = 1 then .empty else .ready }) rfl ?_
  simp only [rd_of_readable h.count, h.tile, streamNo_of_operand h.stream, needReady_of_tile h.tile, hst, if_true, h.free, waitIf_false,
    h.rows_nonzero, h.count_fits, trapIf_false, hx, memGate_open hgate, Except.bind_ok', if_pos (no_rows_iff.mpr ⟨hnone, rfl⟩)]

theorem tdrain_blocks (h : MoveReady (issueState s) p q a n m) (hst : ((issueState s).myBank.tile n).state ≠ .ready) :
    Blocks s (.tdrain w p q a o) .tile (p.setWidth 64) := by
  refine blocks_of_error rfl ?_
  simp only [rd_of_readable h.count, h.tile, h.rows_nonzero, trapIf_false, needReady_error h.tile hst, Except.bind_ok', Except.bind_error']

end

theorem fillsAndDrainsStart : Claims.FillsAndDrainsStart := by
  intro w p q a o n m s
  dsimp only
  intro ha hp hq hfree hrows htags hfits
  have h : MoveReady (issueState s) p q a n m := ⟨ha, hp, hq, hfree, hrows, hfits⟩
  refine ⟨fun hst ⟨hfault, hrun⟩ hgate => tfill_waits h hst (moveCopies_unlifted htags hfault hrun) hgate,
    fun hst ⟨hfault, hrun⟩ hgate => tdrain_waits h hst (moveCopies_unlifted htags hfault hrun) hgate,
    fun hst ⟨hfault, hrun⟩ hgate => ?_, fun hst ⟨hfault, hrun⟩ hgate => ?_, tdrain_blocks h⟩
  · have hcopies := moveCopies_unlifted (rows := ((issueState s).me.get a).toNat) htags hfault hrun
    split
    · next hnone => exact tfill_of_no_rows h hst hcopies hgate hnone
    · next hsome => exact tfill_starts h hst hcopies hgate (fun hn => hsome hn.1)
  · have hcopies := moveCopies_unlifted (rows := ((issueState s).me.get a).toNat) htags hfault hrun
    split
    · next hnone => exact tdrain_of_no_rows h hst hcopies hgate hnone
    · next hsome => exact tdrain_starts h hst hcopies hgate (fun hn => hsome hn.1)

theorem liftedFillsAndDrainsStart : Claims.LiftedFillsAndDrainsStart := by
  intro w p q a o n m r s
  dsimp only
  intro ha hp hq hfree hrows hlift hfits hfault hrun hfirst hslice hfifth hfoot hgate
  have h : MoveReady (issueState s) p q a n m := ⟨ha, hp, hq, hfree, hrows, hfits⟩
  have hcovers : ∀ wr, r.write = wr → CoversCopies (issueState s) n m ((issueState s).me.get a).toNat wr r :=
    fun wr hdir => ⟨hlift, hfault, hrun, hdir, hfirst, hslice, hfifth, hfoot⟩
  exact ⟨fun hst hdir => tfill_starts h hst (moveCopies_lifted (hcovers _ hdir)) hgate (by simp),
    fun hst hdir => tdrain_starts h hst (moveCopies_lifted (hcovers _ hdir)) hgate (by simp)⟩

/-- Settles O15: the copies that a fill or drain moves, then its waits, then the move it starts. -/
theorem fillsAndDrains : Obligations.FillsAndDrains := ⟨fillsAndDrainsStart, liftedFillsAndDrainsStart⟩

end Sys2Proof.KernelMachine

namespace Sys2Proof.KernelMachine

open Sys2Proof Sys2Proof.Machine Sys2Proof.Claims

/-! ### V words that block or trap, and cursors (06 R149, R150, R166) -/

/-- The meaning of a V word. -/
abbrev VForm.meaning (f : VForm) (w : BitVec 3) : State → Res State := vword w f.lat f.ops f.ok f.cf f.rounds f.fn

theorem paired_of_unpaired {s : State} (h : ∀ y, s.myBank.vpair = some y → y.1 ≠ s.cycle) (ta : Spec) (f : State → Res State) :
    paired s ta f = run s f := by
  unfold paired
  split
  · next c y hp => exact if_neg (h _ hp)
  · rfl

/-- Every V word but VROW and VNEXT runs its meaning, VBQ and VCVT where no VBMAX has issued in this cycle (06 R162). -/
theorem vectorForm_runs {p q r : Spec} {a : Reg} {m c : BitVec 2} {h : BitVec 4} {f : VForm} (hf : f ∈ vectorForms p q r a m c h)
    (w : BitVec 3) {s : State} (hpair : ∀ y, s.myBank.vpair = some y → y.1 ≠ s.cycle) : exec (f.word w) s = run s (VForm.meaning f w) := by
  simp only [vectorForms, List.mem_append, List.mem_cons, List.not_mem_nil, or_false] at hf
  rcases hf with (hf | hf) | hf
  · rcases hf with rfl | rfl | rfl | rfl | rfl | rfl | rfl | rfl | rfl | rfl | rfl | rfl | rfl | rfl | rfl | rfl <;> rfl
  · rcases hf with rfl | rfl | rfl | rfl | rfl | rfl | rfl | rfl | rfl | rfl | rfl | rfl | rfl | rfl | rfl | rfl <;> rfl
  · rcases hf with rfl | rfl | rfl | rfl | rfl | rfl | rfl | rfl
    · exact paired_of_unpaired hpair q _
    · exact paired_of_unpaired hpair q _
    all_goals rfl

section
variable {u : State} {w : BitVec 3} {f : VForm}

/-- A tile operand that is ready, or no tile. -/
abbrev OperandReady (u : State) (sp : Spec) : Prop := ∀ n, operandOf sp = .tile n → (u.myBank.tile n).state = .ready

theorem forM_needReady_ok {l : List Spec} (h : ∀ sp ∈ l, OperandReady u sp) : l.forM (needReady u) = .ok () := by
  induction l with
  | nil => rfl
  | cons sp l ih =>
    rw [List.forM_eq_forM, List.forM_cons, needReady_ok (h sp List.mem_cons_self), Except.bind_ok']
    exact ih (fun x hx => h x (List.mem_cons_of_mem _ hx))

/-- The first operand that is not ready blocks the word. -/
theorem forM_needReady_error {l l' : List Spec} {sp : Spec} {n : Nat} (h : ∀ x ∈ l, OperandReady u x) (hsp : operandOf sp = .tile n)
    (hst : (u.myBank.tile n).state ≠ .ready) : (l ++ sp :: l').forM (needReady u) = .error (.block .tile (sp.setWidth 64)) := by
  rw [List.forM_eq_forM, List.forM_append, ← List.forM_eq_forM, forM_needReady_ok h, Except.bind_ok', List.forM_eq_forM, List.forM_cons, needReady_error hsp hst]
  rfl

theorem vword_of_blocked {e : Stop} (h : f.ops.all.forM (needReady u) = .error e) : VForm.meaning f w u = .error e := by
  unfold VForm.meaning vword
  rw [h]
  rfl

theorem vword_of_bad_format (h : ∀ sp ∈ f.ops.all, OperandReady u sp) (hfirst : u.me.lrep = 0) (hok : f.ok u = false) :
    VForm.meaning f w u = .error (.trap (mkTrap .reservedOperand (u.cur.word.setWidth 64))) := by
  unfold VForm.meaning vword
  rw [forM_needReady_ok h, Except.bind_ok']
  extract_lets first
  rw [trapIf_true (show (first && !f.ok u) = true by simp [first, hfirst, hok])]
  rfl

end

theorem vectorWordsBlockOrTrap : Claims.VectorWordsBlockOrTrap := by
  intro p q r a m c h f hf w s
  dsimp only
  intro hpair
  have hi := vectorForm_runs hf w hpair
  refine ⟨fun sp n l l' hall hready hsp hst => blocks_of_error hi (vword_of_blocked ?_),
    fun hready hfirst hok => traps_of_error hi (vword_of_bad_format hready hfirst hok) (by decide)⟩
  rw [hall]
  exact forM_needReady_error hready hsp hst

theorem cursorWordsMove : Claims.CursorWordsMove := by
  intro w p a n s
  dsimp only
  intro hp hst
  have hready : needReady (issueState s) p = .ok () := by rw [needReady_of_tile hp, if_pos hst]
  refine ⟨fun ha => ?_, ?_⟩
  · split
    · next hlt =>
      refine bankWord_of_mod (g := fun k => k.setTile n { (issueState s).myBank.tile n with cursor := ((issueState s).me.get a).toNat }) rfl ?_
      simp only [hready, rd_of_readable ha, hp, Except.bind_ok', trapIf_false (decide_eq_false (Nat.not_le.mpr hlt))]
    · next hge =>
      refine traps_of_error rfl ?_ (by decide)
      simp only [hready, rd_of_readable ha, hp, Except.bind_ok', trapIf_true (decide_eq_true (Nat.not_lt.mp hge)), Except.bind_error']
  · refine bankWord_of_mod (g := fun k => k.setTile n { (issueState s).myBank.tile n with
      cursor := (((issueState s).myBank.tile n).cursor + 1) % ((issueState s).myBank.tile n).rows }) rfl ?_
    simp only [hready, hp, Except.bind_ok']

/-- Settles O23: the checks of a V word come before all else it does, and a cursor word is one update of its tile. -/
theorem vectorOperandsAndCursors : Obligations.VectorOperandsAndCursors := ⟨vectorWordsBlockOrTrap, cursorWordsMove⟩

end Sys2Proof.KernelMachine

namespace Sys2Proof.KernelMachine

open Sys2Proof Sys2Proof.Machine Sys2Proof.Claims

/-! ### A register result (17 R293, R298) -/

theorem onlyBank_wanted {b : BankId} {u t : State} (h : OnlyBank b u t) (hb : t.cur.bank = b) (d : Reg) : OnlyBank b u (wanted t d) := by
  unfold wanted
  split
  · exact onlyBank_modMyBank h hb _
  · exact h

theorem wanted_cur (u : State) (d : Reg) : (wanted u d).cur = u.cur := by unfold wanted; split <;> rfl
theorem wanted_cycle (u : State) (d : Reg) : (wanted u d).cycle = u.cycle := by unfold wanted; split <;> rfl

theorem wanted_myBank (u : State) (d : Reg) :
    (wanted u d).myBank = { u.myBank with mem := if u.cur.engine = .A then u.myBank.mem.forget d else u.myBank.mem } := by
  unfold wanted
  split
  · next h => rw [State.myBank_modMyBank]
  · rfl

/-- A stream that is given a register result of latency 1: in the register, or behind an earlier result on its way there. -/
def givenReg (cycle : Nat) (d : Reg) (v : W64) (x : Stream) : Stream :=
  if x.onWay d then { x with pend := x.pend ++ [⟨effective x.pend (fun w => w.toReg d || w.toIreg d) (cycle + 1), .reg d v, []⟩] }
  else x.put d v

theorem wrReg_one {u : State} {d : Reg} (hd : d ≠ 0) (v : W64) : wrReg u d v 1 = (wanted u d).modMe (givenReg u.cycle d v) := by
  by_cases h : u.me.onWay d = true
  · rw [wrReg_later hd (.inr h)]
    exact modMe_congr (by rw [wanted_me, givenReg, if_pos h])
  · rw [wrReg_at_once hd (Nat.le_refl 1) (Bool.eq_false_iff.mpr h)]
    exact modMe_congr (by rw [wanted_me, givenReg, if_neg h])

/-- Of a stream that is given a result, and then goes on, only registers and results on their way differ (17 R296). -/
theorem advanced_givenReg (cycle : Nat) (w : BitVec 3) (d : Reg) (v : W64) (x : Stream) :
    let y := advanced (givenReg cycle d v x) cycle w
    y = { x with
      regs := y.regs, pend := y.pend, pc := x.pc + 4, nextIssue := cycle + 1 + w.toNat, issued := x.issued + 1
      block := none, lrep := 0, wait := none, lock := false } := by
  unfold givenReg Stream.put
  repeat' split
  all_goals rfl

theorem delivered_givenReg {u t : State} {d : Reg} {w : BitVec 3} {v : W64} (hd : d ≠ 0)
    (ht : t.me = advanced (givenReg u.cycle d v u.me) u.cycle w) : Delivered u t d v 1 := by
  rw [Delivered, if_neg hd, ht]
  by_cases h : u.me.onWay d = true
  · rw [if_neg (fun hn => absurd h (Bool.eq_false_iff.mp hn.2)), givenReg, if_pos h]
    exact ⟨rfl, _, rfl, effective_le _ _ _, fun hn => absurd h (Bool.eq_false_iff.mp hn)⟩
  · rw [if_pos ⟨Nat.le_refl 1, Bool.eq_false_iff.mpr h⟩, givenReg, if_neg h]
    refine ⟨Stream.put_pend _ _ _, fun r => ?_⟩
    change (u.me.put d v).get r = _
    rw [Stream.get_put]
    by_cases hr : r = d
    · rw [if_pos ⟨hr, hd⟩, if_pos hr]
    · rw [if_neg (fun hn => hr hn.1), if_neg hr]

/-- A word that gives register `d` a value of latency 1 and goes on does that and nothing else. -/
theorem registerWord_retire (s : State) (w : BitVec 3) (d : Reg) (v : W64) :
    RegisterWord s (retire (wrReg (issueState s) d v 1) w) w d v 1 := by
  by_cases hd : d = 0
  · subst hd
    rw [wrReg_zero]
    obtain ⟨honly, hbank, hbytes⟩ := bankWord_retire (onlyBank_refl _ (issueState s)) w
    have hme := retire_me (issueState s) w
    refine ⟨?_, ?_, ?_, honly, hbytes⟩
    · rw [Delivered, if_pos rfl, hme]; exact ⟨rfl, rfl⟩
    · rw [GoesOn, hme]; rfl
    · rw [OnlyStream, hbank, hme, if_neg (fun hn => hn.2 rfl), State.me_eq]
      cases (issueState s).cur.engine <;> rfl
  · have hv : OnlyBank (issueState s).cur.bank (issueState s) (wrReg (issueState s) d v 1) := by
      rw [wrReg_one hd]
      exact onlyBank_modMe (onlyBank_wanted (onlyBank_refl _ _) rfl d) (by rw [wanted_cur]) _
    obtain ⟨honly, hbank, hbytes⟩ := bankWord_retire hv w
    have hgiven : (wrReg (issueState s) d v 1).me = givenReg (issueState s).cycle d v (issueState s).me := by
      rw [wrReg_one hd, State.me_modMe, wanted_me]
    have hme : (retire (wrReg (issueState s) d v 1) w).me =
        advanced (givenReg (issueState s).cycle d v (issueState s).me) (issueState s).cycle w := by
      rw [retire_me, hgiven, onlyBank_cycle hv]
    refine ⟨delivered_givenReg hd hme, ?_, ?_, honly, hbytes⟩
    · rw [GoesOn, hme]; exact advanced_givenReg _ _ _ _ _
    · rw [OnlyStream, retire_myBank, hme, onlyBank_cur hv, onlyBank_cycle hv, ← onlyBank_cur hv, ← State.me_eq, hgiven, onlyBank_cur hv]
      rw [wrReg_one hd, State.myBank_modMe, wanted_me, wanted_cur, Bank.setStream_setStream, wanted_myBank]
      simp only [hd, ne_eq, not_false_eq_true, and_true]
      cases (issueState s).cur.engine <;> rfl

theorem registerWord_of_ok {s : State} {i : Instr} {f : State → Res State} {w : BitVec 3} {d : Reg} {v : W64} (hi : exec i s = run s f)
    (h : f (issueState s) = .ok (retire (wrReg (issueState s) d v 1) w)) : ∃ t, exec i s = .next t ∧ RegisterWord s t w d v 1 :=
  ⟨_, next_of_ok hi h, registerWord_retire s w d v⟩

end Sys2Proof.KernelMachine

namespace Sys2Proof.KernelMachine

open Sys2Proof Sys2Proof.Machine Sys2Proof.Claims

/-! ### The words of the nest table (07 R179–R181, R185, R187, R190) -/

section
variable {s : State} {i : Instr} {w : BitVec 3} {f : State → Res State}

/-- The bank with its shadow nest changed. -/
def shadowed (g : NestTable → NestTable) (k : Bank) : Bank := { k with mEng := { k.mEng with shadow := g k.mEng.shadow } }

theorem modShadow_eq (u : State) (g : NestTable → NestTable) : modShadow u g = u.modMyBank (shadowed g) := rfl

theorem bankWord_of_shadow {g : NestTable → NestTable} (hi : exec i s = run s f)
    (h : f (issueState s) = .ok (retire (modShadow (issueState s) g) w)) :
    ∃ t, exec i s = .next t ∧ BankWord s t w (shadowed g (issueState s).myBank) :=
  bankWord_of_mod hi h

end

/-- The bounds of an item of a level (07 R180). -/
abbrev ItemInRange (j : BitVec 2) (v : Int) : Prop :=
  if j = 0 then 0 ≤ v ∧ v < 65536 else if j = 3 then v = 0 ∨ v = 1 else -32768 ≤ v ∧ v < 32768

theorem itemFits_iff {j : BitVec 2} {v : Int} : itemFits j v = true ↔ ItemInRange j v := by
  unfold itemFits ItemInRange
  split
  · simp only [Bool.and_eq_true, decide_eq_true_eq]; omega
  split
  · simp
  · simp only [Bool.and_eq_true, decide_eq_true_eq]; omega

theorem nestLevel_put_eq (x : NestLevel) (j : BitVec 2) (v : Int) :
    x.put j v = if j = 0 then { x with ext := v.toNat } else if j = 1 then { x with ast := v } else if j = 2 then { x with cst := v }
      else { x with bst := decide (v = 1) } := rfl

theorem isConst_ready {u : State} {sp : Spec} (h : tileReady u sp) : needReady u sp = .ok () := by
  refine needReady_ok (fun t ht => h t ?_)
  rw [tileNo, ht]
  exact List.mem_singleton_self t

theorem not_tileReady {u : State} {sp : Spec} (h : ¬ tileReady u sp) : needReady u sp = .error (.block .tile (sp.setWidth 64)) := by
  rw [tileReady, tileNo] at h
  split at h
  · next t ht => exact needReady_error ht (by simpa using h)
  · exact absurd (fun n hn => absurd hn List.not_mem_nil) h

theorem hasCim_iff {k : Bank} {j : BitVec 1} : k.hasCim (j == 1) = k.bindRec.cim.getLsbD j.toNat := by
  have hj : j = 0 ∨ j = 1 := by
    have := j.isLt
    rcases Nat.lt_or_ge j.toNat 1 with h | h
    · exact .inl (BitVec.eq_of_toNat_eq (by simpa using h))
    · exact .inr (BitVec.eq_of_toNat_eq (by simp; omega))
  rcases hj with rfl | rfl <;> rfl

/-- What MSTAT adds to counter `c`: the step in the array and the wait that lasts (07 R190). -/
def statExtra (m : MEngine) (c t : Nat) : Nat := (m.nest.map (·.counting c t)).getD 0

theorem stat_eq (m : MEngine) (c t : Nat) : m.stat c t = m.cnt.getD c 0 + BitVec.ofNat 64 (statExtra m c t) := by
  unfold MEngine.stat statExtra
  cases m.nest <;> rfl

theorem statExtra_none {m : MEngine} {c : BitVec 3} {t : Nat} (h : m.nest = none ∨ (c ≠ 4 ∧ c ≠ 5)) : statExtra m c.toNat t = 0 := by
  unfold statExtra
  rcases h with h | ⟨h4, h5⟩
  · rw [h]; rfl
  · cases m.nest with
    | none => rfl
    | some n =>
      have h4' : ¬ c.toNat = 4 := fun h => h4 (BitVec.eq_of_toNat_eq h)
      have h5' : ¬ c.toNat = 5 := fun h => h5 (BitVec.eq_of_toNat_eq h)
      simp [Nest.counting, h4', h5']

theorem nestTableWords : Claims.NestTableWords := by
  intro w l a c k r j p q s
  dsimp only
  refine ⟨fun ha => ?_, ?_, ?_, ?_, ?_, ?_, fun hn hf => ?_, fun hn => ?_⟩
  · by_cases hfits : ItemInRange j ((issueState s).me.get a).toInt
    · rw [if_pos hfits]
      refine bankWord_of_shadow (g := fun tab => { tab with
        levels := tab.levels.setIfInBounds l.toNat ((tab.levels.getD l.toNat ⟨1, 0, 0, false⟩).put j ((issueState s).me.get a).toInt) }) rfl ?_
      simp only [rd_of_readable ha, Except.bind_ok', itemFits_iff.mpr hfits, Bool.not_true, trapIf_false]
    · rw [if_neg hfits]
      refine traps_of_error rfl ?_ (by decide)
      simp only [rd_of_readable ha, Except.bind_ok', Bool.eq_false_iff.mpr (itemFits_iff.not.mpr hfits), Bool.not_false, trapIf_true, Except.bind_error']
  · split
    · next hconst =>
      refine traps_of_error rfl ?_ (by decide)
      simp only [trapIf_true hconst, Except.bind_error']
    next hconst =>
    have hno := Bool.eq_false_iff.mpr hconst
    split
    · next hp =>
      refine blocks_of_error rfl ?_
      simp only [trapIf_false hno, Except.bind_ok', not_tileReady hp, Except.bind_error']
    next hp =>
    split
    · next hq =>
      refine blocks_of_error rfl ?_
      simp only [trapIf_false hno, Except.bind_ok', isConst_ready (not_not.mp hp), not_tileReady hq, Except.bind_error']
    · next hq =>
      refine bankWord_of_shadow (g := fun tab => { tab with bound := some (p, q) }) rfl ?_
      simp only [trapIf_false hno, Except.bind_ok', isConst_ready (not_not.mp hp), isConst_ready (not_not.mp hq)]
  · split
    · next hk =>
      refine bankWord_of_shadow (g := fun tab => { tab with start := k == 1 }) rfl ?_
      simp only [hasCim_iff, hk, Bool.not_true, trapIf_false, Except.bind_ok']
    · next hk =>
      refine traps_of_error rfl ?_ (by decide)
      simp only [hasCim_iff, Bool.eq_false_iff.mpr hk, Bool.not_false, trapIf_true, Except.bind_error']
  · exact bankWord_of_shadow (g := fun tab => { tab with ring := r.toNat }) rfl rfl
  · exact bankWord_of_mod (g := fun b => { b with mEng := { b.mEng with armed := true } }) rfl rfl
  · obtain ⟨t, hexec, hword⟩ := registerWord_of_ok (s := s) (i := .mstat w a c) (w := w) (d := a)
      (v := (issueState s).myBank.mEng.stat c.toNat (issueState s).cycle) rfl rfl
    rw [stat_eq] at hword
    refine ⟨t, _, hexec, hword, statExtra_none, ?_, ?_⟩
    · intro n cyc ch hc hnest hheld
      rw [statExtra, hnest, hc]
      simp [Nest.counting, hheld]
    · intro n y hc hnest hwait
      rw [statExtra, hnest, hc]
      simp [Nest.counting, hwait]
  · refine bankWord_of_ok rfl ?_ (onlyBank_refl _ _)
    simp only [hn, Option.isSome_none, waitIf_false, deliver_ok hf, Except.bind_ok']
  · refine waits_of_error false rfl ?_
    simp only [Option.isSome_iff_ne_none.mpr hn, waitIf_true, Except.bind_error']

end Sys2Proof.KernelMachine

namespace Sys2Proof.KernelMachine

open Sys2Proof Sys2Proof.Machine Sys2Proof.Claims

/-! ### MGO and MMA (07 R182, R186, R187) -/

theorem modMyBank_congr {u : State} {f g : Bank → Bank} (h : f u.myBank = g u.myBank) : u.modMyBank f = u.modMyBank g :=
  congrArg (u.setBank u.cur.bank) h

theorem setTile_tile (k : Bank) (c : Nat) : k.setTile c (k.tile c) = k := by
  have : k.tiles.setIfInBounds c (k.tiles.getD c Tile.null) = k.tiles := by
    apply Vector.ext
    intro i hi
    rw [Vector.getElem_setIfInBounds]
    split
    · next h => subst h; simp [Vector.getD, hi]
    · rfl
  unfold Bank.setTile Bank.tile
  rw [this]

/-- A guard that lets a word through. -/
theorem bind_guard_ok {α : Type} {c : Bool} {e : Stop} {k : Unit → Res α} {r : Res α} (hc : c = false) (hk : k () = r) :
    ((if c = true then .error e else .ok ()) >>= k) = r := by
  rw [hc]; exact hk

/-- The unit once a start has taken the arming (07 R187). -/
def disarmed (k : Bank) : Bank := { k with mEng := { k.mEng with armed := false } }

/-- The unit with nest `n` running. -/
def nestRuns (n : Nest) (k : Bank) : Bank := { k with opSeq := k.opSeq + 1, mEng := { k.mEng with nest := some n, armed := false } }

/-- A word that widens over nothing leaves its destination's tags. -/
theorem settleTags_nil {u : State} {g : Bank → Bank} {pc : Spec} : settleTags (u.modMyBank g) pc [] = .ok (u.modMyBank g) := by
  unfold settleTags
  split
  · simp only [List.filter_nil, List.any_nil, Bool.false_eq_true, if_false, List.foldl_nil, modMyBank_modMyBank]
    exact congrArg Except.ok (modMyBank_congr (by simp [setTile_tile]))
  · rfl

theorem finishNest_running {fuel : Nat} {v : State} {b : BankId} {n : Nest} (hn : (v.bank b).mEng.nest = some n) (hfail : n.failed = none)
    (hpos : n.pos < n.total) : finishNest fuel v b = v := by
  cases fuel with
  | zero => rfl
  | succ fuel => simp [finishNest, hn, hfail, hpos]

/-- A nest that has just started runs on. -/
theorem finishNest_started {fuel : Nat} {u : State} {w : BitVec 3} {g : Bank → Bank} {n : Nest} (hn : (g u.myBank).mEng.nest = some n)
    (hfail : n.failed = none) (hpos : n.pos < n.total) :
    finishNest fuel (retire (u.modMyBank g) w) (u.modMyBank g).cur.bank = retire (u.modMyBank g) w := by
  refine finishNest_running ?_ hfail hpos
  change (retire (u.modMyBank g) w).myBank.mEng.nest = some n
  rw [retire_myBank, State.myBank_modMyBank, Bank.setStream_mEng]
  exact hn

/-- What the nest that a start of MGO or MMA makes is (07 R182). -/
structure NestMade (u : State) (c : Nat) (pa : Spec) (tab : NestTable) (one : Bool) (n : Nest) : Prop where
  table : n.tab = tab
  cTile : n.cTile = c
  aSpec : n.aSpec = pa
  pos : n.pos = 0
  total : n.total = if one then 1 else tab.steps
  fresh : n.fresh = u.myBank.mEng.armed
  banks : n.banks = tab.reach
  held : n.held = none
  failed : n.failed = none
  flags : n.flags = 0
  nextCyc : n.nextCyc = u.cycle + 4
  toC : n.reps.map (·.c) = [(u.myBank.tile c).base]
  fromA : ∀ x, tileOf u pa = some x → n.reps.map (·.a) = [x.base]

theorem disarmed_facts (u : State) (sp : Spec) (l : List Spec) :
    (u.modMyBank disarmed).me = u.me ∧ (u.modMyBank disarmed).myBank = disarmed u.myBank ∧
    tileOf (u.modMyBank disarmed) sp = tileOf u sp ∧ scaleTiles (u.modMyBank disarmed) sp = scaleTiles u sp ∧
    widenSet (u.modMyBank disarmed) l = widenSet u l ∧
    ∀ k, ((u.modMyBank disarmed).core u.cur.bank.core).cim k = (u.core u.cur.bank.core).cim k := by
  have hme : (u.modMyBank disarmed).me = u.me := by rw [State.me_modMyBank]; exact (State.me_eq u).symm
  have htile : tileOf (u.modMyBank disarmed) sp = tileOf u sp := by unfold tileOf; rw [State.myBank_modMyBank]; rfl
  refine ⟨hme, State.myBank_modMyBank _ _, htile, ?_, ?_, ?_⟩
  · rw [scaleTiles, htile, scaleTiles]
  · unfold widenSet State.tagsIn
    simp only [hme, State.myBank_modMyBank]
    rfl
  · intro k
    rw [State.modMyBank, State.modBank, State.core_setBank, if_pos rfl]
    cases u.cur.bank.slot <;> rfl

theorem startNest_fits {u : State} {w : BitVec 3} {pc pa : Spec} {c : Nat} {tab : NestTable} {one : Bool} (h : NestFits u pc pa c tab one)
    (hw : widenSet u [pc, pa] = []) (hsteps : one = false → tab.steps ≠ 0) :
    ∃ n, startNest u w pc pa tab one = .ok (retire (u.modMyBank (nestRuns n)) w) ∧ NestMade u c pa tab one n := by
  obtain ⟨hc, hcready, hconst, haready, hbanks, hcap, hclen, hcrows, hspan, hscale⟩ := h
  obtain ⟨hme, hbank, htile, hscales, hwiden, hcim⟩ := disarmed_facts u pa [pc, pa]
  have hctile : (u.modMyBank disarmed).myBank.tile c = u.myBank.tile c := congrArg (·.tile c) hbank
  have htotal : 0 < if one = true then 1 else tab.steps := by
    cases one with
    | true => exact Nat.one_pos
    | false => exact Nat.pos_of_ne_zero (hsteps rfl)
  refine ⟨?n, ?_, ?_⟩
  rotate_left
  · unfold startNest
    simp only [needReady_ok (sp := pc) (u := u) (by simpa [hc] using hcready), needReady_ok (sp := pa) haready, Except.bind_ok', hconst, hc,
      Bool.false_eq_true, if_false]
    generalize hd : u.modMyBank (fun b => { b with mEng := { b.mEng with armed := false } }) = d
    change u.modMyBank disarmed = d at hd
    rw [hd] at hme hbank htile hscales hwiden hcim hctile
    have hcore : d.cur = u.cur := by rw [← hd]; rfl
    have hsettle : settleTags d pc [] = .ok d := by rw [← hd]; exact settleTags_nil
    refine bind_guard_ok ?given (bind_guard_ok ?formats (bind_guard_ok ?lenA (bind_guard_ok ?lenC (bind_guard_ok ?spans ?_))))
    case given =>
      refine List.any_eq_false.mpr fun k hk => ?_
      rw [hbank]
      change ¬ (!u.myBank.hasCim k) = true
      simpa using (hbanks k hk).1
    case formats =>
      refine List.any_eq_false.mpr fun k hk => ?_
      obtain ⟨_, bf, hfmt, hcf⟩ := hbanks k hk
      rw [hcore, hcim, hfmt, htile, hctile]
      simp only [bne_iff_ne, ne_eq, not_not]
      exact hcf
    case lenA =>
      rw [htile]
      cases hx : tileOf u pa with
      | none => rfl
      | some t => simpa using hcap t hx
    case lenC => rw [hctile]; simp [hclen, hcrows]
    case spans =>
      rw [htile, hctile]
      cases hx : tileOf u pa with
      | none => cases one <;> simp_all
      | some t => cases one <;> simp_all
    have hreps : (indexVectors d.me []).filter (activeAt d.me) = [[]] := rfl
    simp only [hwiden, hw, hsettle, hreps, List.map_cons, List.map_nil]
    refine bind_guard_ok rfl (bind_guard_ok ?share ?_)
    case share =>
      rw [htile, hscales]
      refine Bool.eq_false_iff.mpr fun hbad => ?_
      simp only [Bool.and_eq_true, Bool.not_eq_true', List.isEmpty_eq_false_iff, List.any_cons, List.any_nil, Bool.or_false] at hbad
      obtain ⟨⟨_, hne⟩, hout⟩ := hbad
      cases hx : tileOf u pa with
      | none => rw [hx] at hout; exact absurd hout Bool.false_ne_true
      | some t =>
        cases hn : t.scale with
        | none => simp [hx, scaleBase, hn] at hout
        | some n =>
          have hin := hscale t n hx hne hn
          have hsc : scaleBase d.myBank d.me t [] = some (u.myBank.tile n).base := by rw [scaleBase, hn, hbank]; rfl
          have hshare : inShare d.myBank = inShare u.myBank := by rw [hbank]; rfl
          cases one <;> simp [hx, hsc, scaleInShare, hshare] at hout hin <;> simp [hin] at hout
    refine congrArg Except.ok ((finishNest_started rfl rfl htotal).trans ?_)
    subst hd
    rw [modMyBank_modMyBank]
    rfl
  · exact {
      table := rfl, cTile := rfl, aSpec := rfl, pos := rfl, total := rfl, fresh := rfl, banks := rfl, held := rfl, failed := rfl, flags := rfl
      nextCyc := rfl
      toC := congrArg (fun x : Tile => [x.base]) hctile
      fromA := fun x hx => by simp only [htile, hx]; rfl }

theorem mgoWait_free {u : State} {reach : List Bool} (h : ArrayFree u reach) : mgoWait u reach = .ok () := by
  obtain ⟨hnest, hloads, hfail⟩ := h
  have hwait : (u.myBank.mEng.nest.isSome || u.myBank.mEng.loads.any (fun l => reach.contains l.bank)) = false := by
    rw [hnest]
    simpa using hloads
  have hrec : u.myBank.recorded .M = none := hfail
  simp only [mgoWait, waitIf_false hwait, hrec, Except.bind_ok']

theorem nestsStart : Claims.NestsStart := by
  intro w pc pa c one s
  dsimp only
  intro hM hbound hfits hfree hw hsteps
  obtain ⟨n, hstart, hn⟩ := startNest_fits (w := w) hfits hw hsteps
  have hbw := bankWord_retire (onlyBank_issue s (nestRuns n)) w
  have hexec : exec (if one then Instr.mma w pc pa else Instr.mgo w) s = .next (retire ((issueState s).modMyBank (nestRuns n)) w) := by
    cases one with
    | false =>
      refine next_of_ok rfl ?_
      have hwait : mgoWait (issueState s) (issueState s).myBank.mEng.shadow.reach = .ok () := mgoWait_free hfree
      simp only [hwait, Except.bind_ok', hbound rfl]
      exact hstart
    | true =>
      refine next_of_ok rfl ?_
      have hwait : mgoWait (issueState s) (issueState s).myBank.mEng.shadow.single.reach = .ok () := mgoWait_free hfree
      simp only [hwait, Except.bind_ok']
      exact hstart
  obtain ⟨honly, -, -⟩ := hbw
  refine ⟨_, n, hexec, honly, ?_, hn.table, hn.cTile, hn.aSpec, hn.pos, hn.total, hn.fresh, hn.banks, hn.held, hn.failed, hn.flags,
    hn.nextCyc.ge, hn.toC, hn.fromA⟩
  rw [retire_myBank, State.myBank_modMyBank, State.modMyBank_cur, State.modMyBank_cycle, State.me_eq, hM]
  rfl

/-- Settles O24: each word of the nest table writes its item; a start whose checks pass runs through every guard of `startNest`. -/
theorem nestsAreSetAndStarted : Obligations.NestsAreSetAndStarted := ⟨nestTableWords, nestsStart⟩

end Sys2Proof.KernelMachine

namespace Sys2Proof.KernelMachine

open Sys2Proof Sys2Proof.Machine Sys2Proof.Claims

/-! ### A posted addition whose stream's lifted word has ended (04 R94; 10 R236) -/

/-- A SEMSIG that V issued while its word of number 5 stood between two repetitions, and that the results due in cycle 9 hold back. -/
def carriedSig : PostedSig := { sem := 0, inc := 1, mark := ⟨9, 0, 0, [(.V, 5)], none⟩, rel := none }

/-- V has ended that word and has the addition still posted. -/
def carriedSigState : State :=
  { State.reset with cores := [(0, { Core.reset with bank0 := Bank.reset.setStream .V { Stream.reset with sigs := [carriedSig] } })] }

/-- The step drops the ended word from what the addition waits for. -/
theorem carriedSigState_step :
    ((semsigIncrement carriedSigState ⟨0, false⟩ .V).stream ⟨0, false⟩ .V).sigs = [{ carriedSig with mark := ⟨9, 0, 0, [], none⟩ }] := rfl

/-- Refutes O34: a SEMSIG_INCREMENT that finds earlier words not complete does not leave the state as it is, as `SignalsAdd` says, but carries the
addition's mark on: a word recorded between two repetitions that has ended since goes from it. In `carriedSigState` the mark names such a word
before the step and none after it. -/
theorem not_waitsEndOrTrap : ¬ Obligations.WaitsEndOrTrap := by
  rintro ⟨hsignals, -⟩
  have hstep := (hsignals ⟨0, false⟩ .V carriedSig [] carriedSigState rfl).1 (by decide)
  have hsame : semsigIncrement carriedSigState ⟨0, false⟩ .V = carriedSigState := by injection hstep
  have hsigs := carriedSigState_step
  rw [hsame] at hsigs
  exact absurd hsigs (by decide)

end Sys2Proof.KernelMachine

namespace Sys2Proof.KernelMachine

open Sys2Proof Sys2Proof.Machine Sys2Proof.Claims

/-! ### The parameter address in the bind record (20 R334) -/

/-- A launch of context 0 with its text at page 0 and its parameters at address 64, its one unit bound to core 1. -/
def addressedLaunch : Launch :=
  { ctx := 0, desc := 0, paramVa := 64, params := [], text := 0, textLen := 4, entry := 0, tiles := [], streams := [], spad := 0, fst := 0, cim := 0
    rnd := 0, stallck := false, residue := false, wdog := 1048576, srctr := 0, units := [(0, .bound ⟨1, false⟩)], binds := [], groups := []
    ssbase := 0, plan := [], barrier := [], crec := 0, ssem := 0, sinc := 0, dkey := 0, origin := .queue 0 0, stage := none, job := 0, count := 0
    lost := 0, first := none, killed := false, cancel := false, dropped := 0, async := none, done := false }

/-- Core 1 holds the translation of its text. -/
def addressedState : State :=
  { State.reset with
    cores := [(1, { Core.reset with tlb := [⟨0, false, 0, 0x200000, none, true, true, true⟩] })]
    host := { HostState.reset with launches := [(1, addressedLaunch)] } }

theorem addressedState_reads : readText addressedState ⟨1, false⟩ addressedLaunch.ctx addressedLaunch.text 513 addressedLaunch.textLen [] = .ok [0] := by
  decide +kernel

/-- The unit's bind record holds that address. -/
theorem addressedState_params : ((dispatch addressedState ⟨1, false⟩ 1 0).bank ⟨1, false⟩).bindRec.params = 64 := by decide +kernel

/-- Refutes O36: DISPATCH makes the bind record that its launch gives (`bindOf`, 20 R334), with the address of the launch's parameters, where
`DispatchStartsTheUnit` has 0 in that field. In `addressedState` the launch's parameters stand at address 64. -/
theorem not_unitsStartAndPassBarriers : ¬ Obligations.UnitsStartAndPassBarriers := by
  rintro ⟨-, hdispatch⟩
  obtain ⟨t, hexec, -, -, -, -, -, -, hbind, -⟩ := hdispatch ⟨1, false⟩ 1 0 addressedLaunch [0] addressedState (by decide +kernel) rfl rfl
    (by decide) (by decide) (by decide +kernel) (by decide +kernel) (by decide +kernel) (by decide +kernel) (by decide +kernel)
    addressedState_reads rfl rfl
  have ht : dispatch addressedState ⟨1, false⟩ 1 0 = t := by injection hexec
  have hparams := addressedState_params
  rw [ht, hbind] at hparams
  exact absurd hparams (by decide)

end Sys2Proof.KernelMachine

namespace Sys2Proof.KernelMachine

open Sys2Proof Sys2Proof.Machine Sys2Proof.Claims

/-! ### Steps that leave every bank and what the host knows -/

/-- Every bank and the host's tables stand. -/
def UnitsStand (s t : State) : Prop := t.host = s.host ∧ ∀ p, t.bank p = s.bank p

theorem UnitsStand.refl (s : State) : UnitsStand s s := ⟨rfl, fun _ => rfl⟩

theorem UnitsStand.trans {s t u : State} (h : UnitsStand s t) (h' : UnitsStand t u) : UnitsStand s u :=
  ⟨h'.1.trans h.1, fun p => (h'.2 p).trans (h.2 p)⟩

theorem UnitsStand.foldl {α : Type} {f : State → α → State} (h : ∀ s x, UnitsStand s (f s x)) (l : List α) (s : State) :
    UnitsStand s (l.foldl f s) := by
  induction l generalizing s with
  | nil => exact .refl s
  | cons x l ih => exact (h s x).trans (ih _)

theorem UnitsStand.launch? {s t : State} (h : UnitsStand s t) (i : Nat) : t.launch? i = s.launch? i := by
  rw [State.launch?, h.1]; rfl

theorem unitsStand_wakeHome (s : State) (pa : Nat) : UnitsStand s (wakeHome s pa) := by
  unfold wakeHome
  split
  · exact .refl s
  · dsimp only
    split <;> exact ⟨rfl, fun _ => rfl⟩

theorem unitsStand_dropInj (s : State) (n : Nat) (j : Injection) : UnitsStand s (dropInj s n j) := by
  refine ⟨rfl, fun p => ?_⟩
  unfold dropInj State.bank
  rw [State.core_setCore]
  split
  · next h => subst h; rfl
  · rfl

theorem unitsStand_putBytes (s : State) (pa : Nat) (d : List Byte) : UnitsStand s (putBytes s pa d) :=
  ((UnitsStand.foldl (fun s _ => unitsStand_wakeHome s _) _ s).trans
    (UnitsStand.foldl (fun s (x : Nat × Injection) => unitsStand_dropInj s x.1 x.2) _ _)).trans ⟨rfl, fun _ => rfl⟩

theorem unitsStand_write (s : State) (pa : Nat) (d : List Byte) : UnitsStand s (s.write pa d) := by
  unfold State.write
  split
  · exact ⟨rfl, fun _ => rfl⟩
  · exact unitsStand_putBytes s pa d

theorem unitsStand_errorRecord (s : State) (n : Nat) (d : List Byte) : UnitsStand s (s.errorRecord n d) :=
  ((unitsStand_write s _ _).trans (unitsStand_write _ _ _)).trans ⟨rfl, fun _ => rfl⟩

theorem unitsStand_dropRecords (s : State) (n : Nat) (rs : List Accepted) : UnitsStand s (dropRecords s n rs) :=
  UnitsStand.foldl (fun s _ => unitsStand_write s _ _) _ s

theorem unitsStand_unasked (s : State) (x : Asker) : UnitsStand s (unasked s x) := by
  unfold unasked
  split <;> exact ⟨rfl, fun _ => rfl⟩

/-! ### A unit's end (01 R19) -/

/-- A bank after the senders from bank `b` are forgotten. -/
def freed (b : BankId) (k : Bank) : Bank :=
  { k with queues := k.queues.map (fun q => if q.sender.any (fun x => x.bank == some b) then { q with sender := none } else q) }

theorem kfind_map {α β : Type} (g : α → β) (l : List (Nat × α)) (k : Nat) : kfind (l.map (fun x => (x.1, g x.2))) k = (kfind l k).map g := by
  induction l with
  | nil => rfl
  | cons p l ih =>
    obtain ⟨j, x⟩ := p
    simp only [List.map_cons, kfind]
    split
    · rfl
    split
    · rfl
    · exact ih

theorem freed_reset (b : BankId) : freed b Bank.reset = Bank.reset := by
  unfold freed Bank.reset
  rw [Vector.map_replicate]
  rfl

def freedCore (b : BankId) (c : Core) : Core := { c with bank0 := freed b c.bank0, bank1 := freed b c.bank1 }

theorem freeSenders_eq (s : State) (b : BankId) : freeSenders s b = { s with cores := s.cores.map (fun c => (c.1, freedCore b c.2)) } := rfl

theorem bank_freeSenders (s : State) (b p : BankId) : (freeSenders s b).bank p = freed b (s.bank p) := by
  rw [freeSenders_eq]
  unfold State.bank State.core kget
  rw [kfind_map (freedCore b)]
  cases kfind s.cores p.core with
  | none =>
    have : freed b (Core.reset.bank p.slot) = Core.reset.bank p.slot := by cases p.slot <;> exact freed_reset b
    exact this.symm
  | some c => cases p.slot <;> rfl

theorem foldl_esc {α : Type} {f : State → α → State} (h : ∀ s x, ∃ e, f s x = { s with esc := e }) (l : List α) (s : State) :
    ∃ e, l.foldl f s = { s with esc := e } := by
  induction l generalizing s with
  | nil => exact ⟨s.esc, rfl⟩
  | cons x l ih =>
    obtain ⟨e, he⟩ := h s x
    obtain ⟨e', he'⟩ := ih (f s x)
    exact ⟨e', by rw [List.foldl_cons, he', he]⟩

/-- The message that ends a queue's binding, or its request, at another chip (19 R322). -/
def endOfBinding (o : Option Binding) (s : State) : State :=
  match o with
  | some x => if x.bank.isNone && x.chip ≠ s.time.chip.toNat then s.sendOut (.unbind x.chip x.id) else s
  | none => s

def endOfRequest (o : Option BindReq) (s : State) : State :=
  match o with
  | some r => if r.chip ≠ s.time.chip.toNat then s.sendOut (.unbind r.chip r.id) else s
  | none => s

/-- Ends of remote bindings are messages that go out. -/
theorem unbindRemote_eq (s : State) (b : BankId) : ∃ e, unbindRemote s b = { s with esc := e } := by
  refine foldl_esc (fun s q => ?_) _ s
  dsimp only
  obtain ⟨e, he⟩ : ∃ e, endOfBinding q.binding s = { s with esc := e } := by
    unfold endOfBinding
    repeat' split
    all_goals exact ⟨_, rfl⟩
  change ∃ e, endOfRequest q.req (endOfBinding q.binding s) = _
  rw [he]
  unfold endOfRequest
  repeat' split
  all_goals exact ⟨_, rfl⟩

theorem startSplits_eq (l : List (Nat × BitVec 16)) (s : State) (u a : Nat) :
    ∃ x, l.foldl (fun s x => startSplit s x.1 x.2 u a) s = { s with mem := { s.mem with slices := x } } := by
  induction l generalizing s with
  | nil => exact ⟨_, rfl⟩
  | cons p l ih =>
    obtain ⟨x, hx⟩ := ih (startSplit s p.1 p.2 u a)
    exact ⟨x, hx⟩


theorem bank_modBank (s : State) (b p : BankId) (f : Bank → Bank) : (s.modBank b f).bank p = if p = b then f (s.bank b) else s.bank p := by
  split
  · next h => rw [h, State.bank_modBank_same]
  · next h => exact State.bank_modBank_ne s f h

/-- A bank as its unit's end leaves it, but for bindings (01 R19). -/
def endedBank (b : BankId) (k : Bank) : Bank :=
  { k.haltAll with
    splits := [], badWalks := k.badWalks.filter (fun w => !w.2.endsWith b), check := k.check.filter (·.state != some true)
    phase := .free, runnable := false, back := false, preempt := none, yielded := none, cancel := false, gbar := none, gkept := [], wfi := none
    faults := [], inbound := [], arrivals := [], held := [], queues := k.queues.map Queue.unitEnds, moves := []
    bindRec := { k.bindRec with valid := false, resume := false }
    mEng := { k.mEng with fail := none }, kEng := { k.kEng with fail := none } }

/-- What the end of a unit in bank `b` comes to. -/
structure UnitEnded (s t : State) (b : BankId) (st : EndStatus) : Prop where
  bank : t.bank b = endedBank b (freed b (s.bank b))
  others : ∀ p, p ≠ b → t.bank p = freed b (s.bank p)
  launches : t.host.launches = (s.modLaunch (s.bank b).launchId (·.unitEnds (s.bank b).bindRec.unit.toNat st)).host.launches
  tags : ∃ v : State, t.mem.tags = s.mem.tags.filter (fun y => y.2.launch != (s.bank b).launchId ||
    (match t.launch? (s.bank b).launchId with | some l => l.keepsTag v (s.bank b).launchId y.2 | none => false)) ∧
    v.cores = (freeSenders (s.modBank b (fun k => { k with splits := [] })) b).cores

theorem bank_congr {s t : State} (h : t.cores = s.cores) (p : BankId) : t.bank p = s.bank p := by
  unfold State.bank State.core
  rw [h]

theorem launch?_congr {s t : State} (h : t.host.launches = s.host.launches) (i : Nat) : t.launch? i = s.launch? i :=
  congrArg (kfind · i) h

theorem modLaunch_launches_congr {s t : State} (h : t.host.launches = s.host.launches) (i : Nat) (f : Launch → Launch) :
    (t.modLaunch i f).host.launches = (s.modLaunch i f).host.launches := by
  unfold State.modLaunch
  rw [launch?_congr h]
  split
  · exact congrArg (kset · i _) h
  · exact h

theorem forgetSources_launches (s : State) (f : Source → Bool) : (forgetSources s f).host.launches = s.host.launches := rfl

theorem reportUndelivered_none {v : State} {b : BankId} (hM : (v.bank b).mEng.fail = none) (hK : (v.bank b).kEng.fail = none) :
    reportUndelivered v b = v.modBank b (fun k => { k with mEng := { k.mEng with fail := none }, kEng := { k.kEng with fail := none } }) := by
  simp only [reportUndelivered, hM, hK]

theorem unitEnds_ended {s : State} {b : BankId} (st : EndStatus) (hM : (s.bank b).mEng.fail = none) (hK : (s.bank b).kEng.fail = none) :
    UnitEnded s (unitEnds s b st) b st := by
  obtain ⟨x, hx⟩ := startSplits_eq (s.bank b).splits s (s.bank b).bindRec.unit.toNat 0
  have hsplits : applySplits s b 0 = ({ s with mem := { s.mem with slices := x } } : State).modBank b (fun k => { k with splits := [] }) := by
    rw [applySplits, hx]
  obtain ⟨e, he⟩ := unbindRemote_eq (freeSenders (applySplits s b 0) b) b
  unfold unitEnds
  dsimp only
  rw [he, hsplits]
  generalize hv : ({ freeSenders (({ s with mem := { s.mem with slices := x } } : State).modBank b (fun k => { k with splits := [] })) b with
    esc := e } : State).modLaunch (s.bank b).launchId (·.unitEnds (s.bank b).bindRec.unit.toNat st) = v
  have hcores : v.cores = (freeSenders (s.modBank b (fun k => { k with splits := [] })) b).cores := by
    rw [← hv, State.modLaunch_cores]; rfl
  have hlaunches : v.host.launches = (s.modLaunch (s.bank b).launchId (·.unitEnds (s.bank b).bindRec.unit.toNat st)).host.launches := by
    rw [← hv]; apply modLaunch_launches_congr; rfl
  have htags : v.mem.tags = s.mem.tags := by
    rw [← hv, State.modLaunch_mem]; rfl
  have hbank : ∀ p, v.bank p = freed b (if p = b then { s.bank b with splits := [] } else s.bank p) := fun p => by
    rw [bank_congr hcores, bank_freeSenders, bank_modBank]
  have hfails : ∀ k : Bank, (freed b k).mEng = k.mEng ∧ (freed b k).kEng = k.kEng := fun _ => ⟨rfl, rfl⟩
  have hw : ∀ p, (forgetSources (clearTags v (s.bank b).launchId) (Source.endsWith b)).bank p = v.bank p := fun _ => rfl
  rw [reportUndelivered_none
    (by rw [State.bank_modBank_same, hw, hbank, if_pos rfl]; exact hM)
    (by rw [State.bank_modBank_same, hw, hbank, if_pos rfl]; exact hK)]
  exact {
    bank := by rw [State.bank_modBank_same, State.bank_modBank_same, hw, hbank, if_pos rfl]; rfl
    others := fun p hp => by rw [State.bank_modBank_ne _ _ hp, State.bank_modBank_ne _ _ hp, hw, hbank, if_neg hp]
    launches := hlaunches
    tags := ⟨v, by rw [← htags]; rfl, hcores⟩ }

end Sys2Proof.KernelMachine

namespace Sys2Proof.KernelMachine

open Sys2Proof Sys2Proof.Machine Sys2Proof.Claims

/-! ### BANK_SWITCH (01 R28) -/

theorem aStopped_iff {k : Bank} : k.aStopped = true ↔ ∃ f ∈ k.faults, f.refused = false ∧ f.src.ofA = true := by
  simp [Bank.aStopped]

/-- A bank can run: its unit is running, has given way with its faults answered, or is ending (01 R28; 21 R347, R355). -/
abbrev CanRun (o : Bank) : Prop :=
  (o.runnable = true ∧ o.phase = .running) ∨ (o.runnable = true ∧ o.phase = .preempted ∧ ∀ f ∈ o.faults, f.refused = true) ∨
    ((∃ x, o.phase = .ending x) ∧ ∀ f ∈ o.faults, f.refused = true)

theorem ready_iff {o : Bank} : o.ready = true ↔ CanRun o := by
  unfold Bank.ready CanRun
  cases o.phase <;> simp

/-- What calls for a switch away from bank `k` to bank `o` (01 R28). -/
abbrev SwitchCalled (c : Core) (k o : Bank) : Prop :=
  k.phase = .free ∨ k.phase = .preempted ∨ (∃ f ∈ k.faults, f.refused = false ∧ f.src.ofA = true) ∨
    ((o.back = true ∨ ∃ x, o.phase = .ending x) ∧ (c.want = true ∨ ∃ e, (k.stream e).block.isSome = true))

theorem ends_iff {o : Bank} : o.ends = true ↔ ∃ x, o.phase = .ending x := by
  unfold Bank.ends
  cases o.phase <;> simp

theorem any_engines {p : Engine → Bool} : engines.any p = true ↔ ∃ e, p e = true := by
  rw [List.any_eq_true]
  exact ⟨fun ⟨e, _, h⟩ => ⟨e, h⟩, fun ⟨e, h⟩ => ⟨e, by cases e <;> decide, h⟩⟩

theorem switchWanted_iff {c : Core} {k o : Bank} : switchWanted c k o = true ↔ CanRun o ∧ SwitchCalled c k o := by
  simp only [switchWanted, Bool.and_eq_true, Bool.or_eq_true, beq_iff_eq, ready_iff, aStopped_iff, ends_iff, any_engines, or_assoc]

/-- The bank that is left asks anew for what its streams have not read (23 R382). -/
def askedAnew (k : Bank) : Bank :=
  { k with dstreams := k.dstreams.map (fun d => { d with run := d.run.map (fun r => { r with asked := r.asked.takeWhile (·.got.isSome) }) }) }

theorem leave_stopped {k : Bank} (h : ∃ f ∈ k.faults, f.refused = false ∧ f.src.ofA = true) (hp : k.phase ≠ .preempted) :
    k.leave = { askedAnew k with runnable := false } := by
  unfold Bank.leave
  rw [aStopped_iff.mpr h, bne_iff_ne.mpr hp]
  simp only [Bool.and_self, Bool.not_true, Bool.and_false]
  rfl

theorem leave_going {k : Bank} (h : ¬ (∃ f ∈ k.faults, f.refused = false ∧ f.src.ofA = true) ∨ k.phase = .preempted) : k.leave = askedAnew k := by
  have : (k.aStopped && k.phase != .preempted) = false := by
    rcases h with h | h
    · rw [Bool.eq_false_iff.mpr (aStopped_iff.not.mpr h), Bool.false_and]
    · rw [h]; exact Bool.and_false _
  unfold Bank.leave
  rw [this, Bool.not_false, Bool.and_true]
  rfl

/-- A bank behind whose accesses in the FIFO place `seq` lies (11 R263). -/
def behind (k : Bank) (seq : Nat) : BankMem := { k.mem with seq := max k.mem.seq seq }

/-- A unit that had given way, set running again as an acquire (11 R256; 21 R355). -/
def resumedBank (k : Bank) (seq : Nat) : Bank :=
  { k with back := false, phase := .running, preempt := none, yielded := none, bindRec := { k.bindRec with resume := false }, mem := (behind k seq).acquire }

theorem activate_running {k : Bank} {seq : Nat} (h : k.phase ≠ .preempted) : k.activate seq = { k with back := false, mem := behind k seq } := by
  simp only [Bank.activate, if_neg h]
  rfl

theorem activate_resumes {k : Bank} {seq : Nat} (h : k.phase = .preempted) (hy : ∀ y, k.yielded = some y → y.2 = false) :
    k.activate seq = resumedBank k seq := by
  have : k.yielded.any (·.2) = false := by
    cases hk : k.yielded with
    | none => rfl
    | some y => exact hy y hk
  simp only [Bank.activate, if_pos h, this, Bool.false_eq_true, if_false]
  rfl

theorem activate_ends {k : Bank} {seq : Nat} {y : Nat × Bool} (h : k.phase = .preempted) (hk : k.yielded = some y) (hy : y.2 = true) :
    k.activate seq = { (resumedBank k seq).haltAll with phase := .ending .complete, cancel := false, gbar := none, gkept := [] } := by
  have : k.yielded.any (·.2) = true := by rw [hk]; exact hy
  simp only [Bank.activate, if_pos h, this, if_true]
  rfl

/-- The core once its switch has ended. -/
def switched (c : Core) : Core :=
  let c := c.setBank c.active (c.bank c.active).leave
  let c := c.setBank (!c.active) ((c.bank (!c.active)).activate (c.bank c.active).mem.seq)
  { c with active := !c.active, switching := none, want := false }

theorem switched_spec (c : Core) : (switched c).active = !c.active ∧ (switched c).switching = none ∧
    (switched c).bank c.active = (c.bank c.active).leave ∧
    (switched c).bank (!c.active) = (c.bank (!c.active)).activate (c.bank c.active).mem.seq := by
  obtain ⟨active⟩ := c
  cases active <;> exact ⟨rfl, rfl, rfl, rfl⟩

theorem bankSwitch_ends {s : State} {n x : Nat} (h : (s.core n).switching = some x) (hx : x ≤ s.cycle) :
    bankSwitch s n = s.setCore n (switched (s.core n)) := by
  simp only [bankSwitch, h, if_pos hx]
  rfl

theorem bankSwitch_idle {s : State} {n : Nat} (h : (s.core n).switching = none) :
    bankSwitch s n = if switchWanted (s.core n) ((s.core n).bank (s.core n).active) ((s.core n).bank (!(s.core n).active)) &&
      s.rests ⟨n, (s.core n).active⟩ then s.setCore n { s.core n with switching := some (s.cycle + 32) } else s := by
  simp only [bankSwitch, h]

theorem bankSwitchTakesItsTime : Claims.BankSwitchTakesItsTime := by
  intro n s
  dsimp only
  refine ⟨fun x hx hlt => ?_, fun x hx hle => ?_, fun hnone hready hcalled hrests => ?_, fun hnone hnot => ?_⟩
  · refine congrArg Host.Outcome.next ?_
    simp only [bankSwitch, hx, if_neg (Nat.not_le.mpr hlt)]
  · refine ⟨_, congrArg Host.Outcome.next (bankSwitch_ends hx hle), ?_⟩
    obtain ⟨hactive, hdone, hleft, hother⟩ := switched_spec (s.core n)
    rw [State.core_setCore, if_pos rfl]
    refine ⟨hactive, hdone, fun hstop hp => ?_, fun hgo => ?_, fun hp => ?_, fun hp hy => ?_, fun y hp hk hy => ?_, fun m hm => ?_⟩
    · rw [hleft, leave_stopped hstop hp]; rfl
    · rw [hleft, leave_going hgo]; rfl
    · rw [hother, activate_running hp]; rfl
    · rw [hother, activate_resumes hp hy]; rfl
    · rw [hother, activate_ends hp hk hy]; rfl
    · rw [State.core_setCore, if_neg hm]
  · refine congrArg Host.Outcome.next ((bankSwitch_idle hnone).trans (if_pos ?_))
    rw [switchWanted_iff.mpr ⟨hready, hcalled⟩, hrests]
    rfl
  · refine congrArg Host.Outcome.next ((bankSwitch_idle hnone).trans (if_neg ?_))
    rw [Bool.and_eq_true, switchWanted_iff]
    rintro ⟨⟨hready, hcalled⟩, hrests⟩
    rcases hnot with h | h | h
    · exact h hready
    · exact h hcalled
    · exact Bool.false_ne_true (h.symm.trans hrests)

/-! ### Pre-emption and core reset (21 R355, R357) -/

theorem abandonBank_stands (s : State) (b : BankId) :
    (abandonBank s b).host = s.host ∧ ∀ p, (abandonBank s b).bank p = if p = b then (s.bank b).abandon else s.bank p := by
  have h := (UnitsStand.foldl (fun s ch => (unitsStand_unasked s (.record b ch)).trans (unitsStand_unasked _ (walkerOf b ch))) (List.range 4) s).trans
    (unitsStand_dropRecords _ (s.bank b).ctxNum (s.bank b).records)
  refine ⟨h.1, fun p => ?_⟩
  unfold abandonBank
  dsimp only
  rw [bank_modBank, h.2, h.2]

/-- A unit that a reset finds in a bank ends LOST: the launches count it so, and of the other banks only bindings end. -/
theorem loseUnit_lost {s : State} {b : BankId} (h : (s.bank b).phase ≠ .free ∨ (s.bank b).bindRec.valid = true) :
    (loseUnit s b).host.launches = (s.modLaunch (s.bank b).launchId (·.unitEnds (s.bank b).bindRec.unit.toNat .lost)).host.launches ∧
      ∀ p, p ≠ b → (loseUnit s b).bank p = freed b (s.bank p) := by
  obtain ⟨hhost, hbank⟩ := abandonBank_stands s b
  have hb : (abandonBank s b).bank b = (s.bank b).abandon := by rw [hbank, if_pos rfl]
  have hunit : ¬ (((abandonBank s b).bank b).phase = .free && !((abandonBank s b).bank b).bindRec.valid) = true := by
    rw [hb, Bool.and_eq_true, decide_eq_true_eq, Bool.not_eq_true']
    rintro ⟨hp, hv⟩
    rcases h with h | h
    · exact h hp
    · exact Bool.false_ne_true (hv.symm.trans h)
  unfold loseUnit
  dsimp only
  rw [if_neg hunit]
  generalize hv : ((abandonBank s b).fresh.2.unitError b ((abandonBank s b).fresh.1 % 12) (mkTrap .unitLost 0) 0) = v
  have hstand : UnitsStand (abandonBank s b) v := by
    rw [← hv]
    exact UnitsStand.trans (t := (abandonBank s b).fresh.2) ⟨rfl, fun _ => rfl⟩ (unitsStand_errorRecord _ _ _)
  have hvb : v.bank b = (s.bank b).abandon := (hstand.2 b).trans hb
  have hend := unitEnds_ended (s := v) (b := b) .lost (by rw [hvb]; rfl) (by rw [hvb]; rfl)
  refine ⟨?_, fun p hp => ?_⟩
  · rw [hend.launches, hvb]
    exact modLaunch_launches_congr (congrArg HostState.launches (hstand.1.trans hhost)) _ _
  · rw [hend.others p hp, hstand.2, hbank, if_neg hp]

theorem loseUnit_of_free {s : State} {b : BankId} (h : (s.bank b).phase = .free) (hv : (s.bank b).bindRec.valid = false) :
    (loseUnit s b).host = s.host := by
  obtain ⟨hhost, hbank⟩ := abandonBank_stands s b
  have hb : (abandonBank s b).bank b = (s.bank b).abandon := by rw [hbank, if_pos rfl]
  unfold loseUnit
  dsimp only
  rw [hb, if_pos (by rw [Bool.and_eq_true, decide_eq_true_eq, Bool.not_eq_true']; exact ⟨h, hv⟩), hhost]

theorem modLaunch_launch? {s : State} {i : Nat} {l : Launch} (f : Launch → Launch) (h : s.launch? i = some l) :
    (s.modLaunch i f).launch? i = some (f l) := by
  rw [State.modLaunch, h]
  exact kfind_kset_same _ _ _

theorem coreResetDone_host {s : State} {n : Nat} (h : (s.core n).resetting = true) :
    (coreResetDone s n).host = (loseUnit (loseUnit s ⟨n, false⟩) ⟨n, true⟩).host := by
  unfold coreResetDone
  rw [if_pos h]
  exact State.setCore_host _ _ _

/-- A reset counts the unit of the core's first bank LOST, where the second holds none. -/
theorem resetDone_counts {s : State} {n : Nat} {l : Launch} (hreset : (s.core n).resetting = true)
    (hunit : (s.core n).bank0.phase ≠ .free ∨ (s.core n).bank0.bindRec.valid = true) (hfree : (s.core n).bank1.phase = .free)
    (hvalid : (s.core n).bank1.bindRec.valid = false) (hl : s.launch? (s.core n).bank0.launchId = some l) :
    (coreResetDone s n).launch? (s.core n).bank0.launchId = some (l.unitEnds (s.core n).bank0.bindRec.unit.toNat .lost) := by
  obtain ⟨hlaunches, hothers⟩ := loseUnit_lost (s := s) (b := ⟨n, false⟩) hunit
  have hsecond : (loseUnit s ⟨n, false⟩).bank ⟨n, true⟩ = freed ⟨n, false⟩ (s.core n).bank1 := hothers ⟨n, true⟩ (by simp)
  have hhost := loseUnit_of_free (s := loseUnit s ⟨n, false⟩) (b := ⟨n, true⟩) (by rw [hsecond]; exact hfree) (by rw [hsecond]; exact hvalid)
  have hend : (coreResetDone s n).host.launches = _ :=
    (congrArg HostState.launches ((coreResetDone_host hreset).trans hhost)).trans hlaunches
  rw [launch?_congr hend]
  exact modLaunch_launch? (·.unitEnds (s.core n).bank0.bindRec.unit.toNat .lost) hl

theorem startReset_of_lt {s : State} {n : Nat} (h : n < Config.coreCount) :
    startReset s n = s.setCore n { s.core n with resetting := true, usable := false } := if_pos h

theorem preemptionAndCoreReset : Claims.PreemptionAndCoreReset := by
  intro b n v s
  dsimp only
  refine ⟨fun hp hn => ?_, fun hp hy hact hsw => ?_, fun y hp hk hy hact hsw => ?_, fun hp hact => ?_, fun hv => ?_, fun hn => ?_,
    fun hreset hunit hfree hvalid => ?_, fun hn hreset => ?_, ?_⟩
  · refine congrArg Host.Outcome.next ?_
    have hasks : ((s.bank b).phase = .running && (s.bank b).preempt.isNone) = true := by simp [hp, hn]
    exact if_pos hasks
  · refine congrArg Host.Outcome.next ?_
    simp only [unitResume, if_pos hp, hact, hsw, decide_true, Option.isNone_none, Bool.and_self, if_true]
    rw [State.modBank, activate_resumes hp hy]
    rfl
  · refine ⟨_, rfl, ?_⟩
    simp only [unitResume, if_pos hp, hact, hsw, decide_true, Option.isNone_none, Bool.and_self, if_true]
    rw [State.bank_modBank_same, activate_ends hp hk hy]
  · refine congrArg Host.Outcome.next ?_
    simp only [unitResume, if_pos hp, decide_eq_false hact, Bool.false_and, Bool.false_eq_true, if_false]
    rfl
  · have hcore : (v.extractLsb' 0 11).toNat = v.toNat % 2 ^ 11 := by simp
    refine congrArg Host.Outcome.next ?_
    rw [hcore]
    exact startReset_of_lt hv
  · exact congrArg Host.Outcome.next (startReset_of_lt hn)
  · refine ⟨_, rfl, ?_⟩
    have hcounts := fun l => resetDone_counts (l := l) hreset hunit hfree hvalid
    have hcore : ∃ c : Core, (coreResetDone s n).core n = { Core.reset with
        usable := false, spad := c.spad, spadOwner := c.spadOwner, fstOwner := c.fstOwner, cim0 := c.cim0, cim1 := c.cim1
        retained := c.retained, lastUse := c.lastUse, redir := c.redir, tap := c.tap, replies := c.replies
        bank0 := (s.core n).bank0.afterReset, bank1 := (s.core n).bank1.afterReset } := by
      unfold coreResetDone
      rw [if_pos hreset, State.core_setCore, if_pos rfl]
      exact ⟨_, rfl⟩
    obtain ⟨c, hc⟩ := hcore
    rw [hc]
    exact ⟨rfl, rfl, rfl, rfl, rfl, rfl, rfl, fun l hl => hcounts l hl⟩
  · refine congrArg Host.Outcome.next ?_
    simp only [coreRetest, hn, hreset, decide_true, Bool.not_false, Bool.and_self, if_true]
  · refine congrArg Host.Outcome.next ?_
    simp only [coreRetest, Bool.and_false, Bool.false_eq_true, if_false]

/-- Settles O37, by cases on where the switch stands, on how the bank that is reached had given way, and on what a reset finds. -/
theorem banksSwitchAndReset : Obligations.BanksSwitchAndReset := ⟨bankSwitchTakesItsTime, preemptionAndCoreReset⟩

end Sys2Proof.KernelMachine

namespace Sys2Proof.KernelMachine

open Sys2Proof Sys2Proof.Machine Sys2Proof.Claims

/-! ### What results in flight do to a stream and its bank (17 R293) -/

/-- What a result does to its stream. -/
def effectOn (w : PendWrite) (x : Stream) : Stream :=
  match w with
  | .reg d v | .ireg d v => x.put d v
  | .flags v => { x with numflags := x.numflags ||| v }
  | .row _ _ | .queue _ _ | .dstream _ _ | .done => x

/-- Two banks with the same streams at the same stage of the unit. -/
def SameRun (k j : Bank) : Prop := (∀ e, j.stream e = k.stream e) ∧ j.phase = k.phase

theorem SameRun.refl (k : Bank) : SameRun k k := ⟨fun _ => rfl, rfl⟩

theorem SameRun.trans {k j i : Bank} (h : SameRun k j) (h' : SameRun j i) : SameRun k i :=
  ⟨fun e => (h'.1 e).trans (h.1 e), h'.2.trans h.2⟩

theorem sameRun_setQueue (k : Bank) (q : Nat) (y : Queue) : SameRun k (k.setQueue q y) := ⟨fun e => by cases e <;> rfl, rfl⟩

theorem sameRun_setDs (k : Bank) (n : Nat) (y : DataStream) : SameRun k (k.setDs n y) := ⟨fun e => by cases e <;> rfl, rfl⟩

theorem sameRun_bumpSeq (k : Bank) : SameRun k k.bumpSeq := ⟨fun e => by cases e <;> rfl, rfl⟩

theorem sameRun_acceptRow (k : Bank) (n : Nat) (v : Row) : SameRun k (k.acceptRow n v) := by
  unfold Bank.acceptRow
  split
  · exact sameRun_setDs _ _ _
  · exact (sameRun_setDs k n _).trans (sameRun_bumpSeq _)
  · exact .refl k

theorem bank_putRow (s : State) (n i : Nat) (r : Row) (p : BankId) : (s.putRow n i r).bank p = s.bank p := by
  unfold State.putRow State.bank
  dsimp only
  rw [State.core_setCore]
  split
  · next h => subst h; rfl
  · rfl

theorem bank_inject (s : State) (a b t : Nat) (p : BankId) : (s.inject a b t).2.bank p = s.bank p := by
  unfold State.inject State.bank
  dsimp only
  rw [State.core_setCore]
  split
  · next h => subst h; rfl
  · rfl

theorem sameRun_pushRow (s : State) (b : BankId) (q : Nat) (r : Row) : SameRun (s.bank b) ((s.pushRow b q r).bank b) := by
  unfold State.pushRow
  dsimp only
  split
  · split
    · rw [State.bank_modBank_same, bank_inject]; exact sameRun_setQueue _ _ _
    · rw [State.bank_modBank_same]; exact sameRun_setQueue _ _ _
  · rw [State.bank_modBank_same]; exact sameRun_setQueue _ _ _

theorem apply_bank (w : PendWrite) (s : State) (b : BankId) (e : Engine) :
    (w.apply s b e).stream b e = effectOn w (s.stream b e) ∧ ((w.apply s b e).bank b).phase = (s.bank b).phase := by
  have hown : ∀ f : Stream → Stream, (s.modStream b e f).stream b e = f (s.stream b e) ∧ ((s.modStream b e f).bank b).phase = (s.bank b).phase := by
    intro f
    refine ⟨State.stream_modStream_same _ _ _ _, ?_⟩
    rw [State.modStream, State.setStream, State.bank_modBank_same, Bank.setStream_phase]
  have hother : ∀ t : State, SameRun (s.bank b) (t.bank b) → t.stream b e = s.stream b e ∧ (t.bank b).phase = (s.bank b).phase :=
    fun t h => ⟨h.1 e, h.2⟩
  cases w with
  | reg d v => exact hown _
  | ireg d v => exact hown _
  | flags v => exact hown _
  | done => exact ⟨rfl, rfl⟩
  | row i v => exact hother _ (by unfold PendWrite.apply; rw [bank_putRow]; exact .refl _)
  | queue q v =>
    refine hother _ (SameRun.trans ?_ (sameRun_pushRow _ _ _ _))
    rw [State.bank_modBank_same]
    exact sameRun_setQueue _ _ _
  | dstream n v => exact hother _ (by unfold PendWrite.apply; rw [State.bank_modBank_same]; exact sameRun_acceptRow _ _ _)

theorem foldl_apply_bank (ps : List Pend) (s : State) (b : BankId) (e : Engine) :
    (ps.foldl (fun s p => p.wr.apply s b e) s).stream b e = ps.foldl (fun x p => effectOn p.wr x) (s.stream b e) ∧
      ((ps.foldl (fun s p => p.wr.apply s b e) s).bank b).phase = (s.bank b).phase := by
  induction ps generalizing s with
  | nil => exact ⟨rfl, rfl⟩
  | cons p ps ih =>
    obtain ⟨hx, hp⟩ := apply_bank p.wr s b e
    obtain ⟨hxs, hps⟩ := ih (p.wr.apply s b e)
    exact ⟨by rw [List.foldl_cons, List.foldl_cons, hxs, hx], hps.trans hp⟩

/-- The results of a stream that are due, oldest first. -/
def dueOf (x : Stream) (cycle : Nat) : List Pend := x.pend.filter (fun p => decide (p.cyc ≤ cycle))

/-- A stream once the results that are due have taken effect. -/
def settled (x : Stream) (cycle : Nat) : Stream :=
  (dueOf x cycle).foldl (fun x p => effectOn p.wr x) { x with pend := x.pend.filter (fun p => decide (cycle < p.cyc)) }

theorem splitDue_eq (t : Nat) (ps : List Pend) :
    splitDue t ps = (ps.filter (fun p => decide (p.cyc ≤ t)), ps.filter (fun p => decide (t < p.cyc))) := by
  have hnot : (not ∘ fun p : Pend => decide (p.cyc ≤ t)) = fun p => decide (t < p.cyc) := by
    funext p
    simp only [Function.comp_apply, ← decide_not, Nat.not_le]
  rw [splitDue, List.partition_eq_filter_filter, hnot]

theorem settle_bank (s : State) (b : BankId) (e : Engine) :
    (settle s b e).stream b e = settled (s.stream b e) s.cycle ∧ ((settle s b e).bank b).phase = (s.bank b).phase := by
  unfold settle settled dueOf
  dsimp only
  rw [splitDue_eq]
  split
  · next h =>
    have hnone : (s.stream b e).pend.filter (fun p => decide (p.cyc ≤ s.cycle)) = [] := List.isEmpty_iff.mp h
    rw [hnone]
    refine ⟨?_, rfl⟩
    have hall : (s.stream b e).pend.filter (fun p => decide (s.cycle < p.cyc)) = (s.stream b e).pend := by
      refine List.filter_eq_self.mpr fun p hp => ?_
      simpa using List.filter_eq_nil_iff.mp hnone p hp
    rw [hall]
    rfl
  · obtain ⟨hx, hp⟩ := foldl_apply_bank ((s.stream b e).pend.filter (fun p => decide (p.cyc ≤ s.cycle)))
      (s.setStream b e { s.stream b e with pend := (s.stream b e).pend.filter (fun p => decide (s.cycle < p.cyc)) }) b e
    refine ⟨hx.trans ?_, hp.trans ?_⟩
    · rw [State.stream_setStream_same]
    · rw [State.setStream, State.bank_modBank_same, Bank.setStream_phase]

theorem effectOn_stands (w : PendWrite) (x : Stream) : (effectOn w x).pend = x.pend ∧ (effectOn w x).pc = x.pc ∧
    ∀ r, w.toReg r = false → w.toIreg r = false → (effectOn w x).get r = x.get r := by
  have hput : ∀ d v, (x.put d v).pend = x.pend ∧ (x.put d v).pc = x.pc ∧ ∀ r, ¬ d = r → (x.put d v).get r = x.get r := by
    refine fun d v => ⟨Stream.put_pend _ _ _, Stream.put_pc _ _ _, fun r hr => ?_⟩
    rw [Stream.get_put, if_neg (fun h => hr h.1.symm)]
  cases w with
  | reg d v =>
    obtain ⟨hpend, hpc, hget⟩ := hput d v
    exact ⟨hpend, hpc, fun r hr _ => hget r (of_decide_eq_false hr)⟩
  | ireg d v =>
    obtain ⟨hpend, hpc, hget⟩ := hput d v
    exact ⟨hpend, hpc, fun r _ hr => hget r (of_decide_eq_false hr)⟩
  | _ => exact ⟨rfl, rfl, fun _ _ _ => rfl⟩

theorem foldl_effectOn (ps : List Pend) (x : Stream) :
    (ps.foldl (fun x p => effectOn p.wr x) x).pend = x.pend ∧ (ps.foldl (fun x p => effectOn p.wr x) x).pc = x.pc ∧
    ∀ r, (∀ p ∈ ps, p.wr.toReg r = false ∧ p.wr.toIreg r = false) → (ps.foldl (fun x p => effectOn p.wr x) x).get r = x.get r := by
  induction ps generalizing x with
  | nil => exact ⟨rfl, rfl, fun _ _ => rfl⟩
  | cons p ps ih =>
    obtain ⟨hpend, hpc, hget⟩ := effectOn_stands p.wr x
    obtain ⟨hpends, hpcs, hgets⟩ := ih (effectOn p.wr x)
    refine ⟨hpends.trans hpend, hpcs.trans hpc, fun r hr => ?_⟩
    obtain ⟨hreg, hireg⟩ := hr p List.mem_cons_self
    exact (hgets r (fun q hq => hr q (List.mem_cons_of_mem _ hq))).trans (hget r hreg hireg)

/-- The newest result stands, where it is due. -/
theorem settled_newest {x : Stream} {cycle c : Nat} {ps : List Pend} {d : Reg} {v : W64} {l : List Nat} (hx : x.pend = ps ++ [⟨c, .reg d v, l⟩])
    (hc : c ≤ cycle) (hd : d ≠ 0) : (settled x cycle).get d = v := by
  have hdue : dueOf x cycle = ps.filter (fun p => decide (p.cyc ≤ cycle)) ++ [⟨c, .reg d v, l⟩] := by
    rw [dueOf, hx, List.filter_append, List.filter_cons_of_pos (by simpa using hc), List.filter_nil]
  rw [settled, hdue, List.foldl_append]
  exact (Stream.get_put _ _ _ _).trans (if_pos ⟨rfl, hd⟩)

/-! ### Rows read late (17 R302) -/

theorem lateReads_eq (s : State) (b : BankId) : lateReads s b =
    if ((s.bank b).late.filter (fun l => decide (l.due ≤ s.cycle))).isEmpty then s
    else readAll b ((s.bank b).late.filter (fun l => decide (l.due ≤ s.cycle)))
      (s.modBank b (fun k => { k with late := (s.bank b).late.filter (not ∘ fun l => decide (l.due ≤ s.cycle)) })) := by
  unfold lateReads
  rw [List.partition_eq_filter_filter]

theorem lateReads_of_none_due {s : State} {b : BankId} (h : ∀ l ∈ (s.bank b).late, s.cycle < l.due) : lateReads s b = s := by
  rw [lateReads_eq, if_pos]
  rw [List.isEmpty_iff]
  exact List.filter_eq_nil_iff.mpr fun l hl => by simpa using h l hl

/-- Credits have gone back to their senders: of bank `b` only its queues differ, and memory and its core's rows stand. -/
structure Credited (b : BankId) (s t : State) : Prop where
  mem : t.mem = s.mem
  row : ∀ i, (t.core b.core).row i = (s.core b.core).row i
  bank : ∃ qs, t.bank b = { s.bank b with queues := qs }

theorem row_setBank (c : Core) (x : Bool) (k : Bank) (i : Nat) : (c.setBank x k).row i = c.row i := by cases x <;> rfl

theorem row_modBank (s : State) (p : BankId) (f : Bank → Bank) (n i : Nat) : ((s.modBank p f).core n).row i = (s.core n).row i := by
  rw [State.core_modBank]
  split
  · next h => rw [row_setBank, h]
  · rfl

theorem credited_credit (b : BankId) (s : State) (x : Option Sender) : Credited b s (s.credit x) := by
  unfold State.credit
  split
  · refine ⟨rfl, row_modBank _ _ _ _, ?_⟩
    rw [bank_modBank]
    split
    · next h => subst h; exact ⟨_, rfl⟩
    · exact ⟨_, rfl⟩
  · exact ⟨rfl, fun _ => rfl, _, rfl⟩
  · exact ⟨rfl, fun _ => rfl, _, rfl⟩

theorem credited_foldl {α : Type} (b : BankId) (f : α → Option Sender) (l : List α) (s : State) :
    Credited b s (l.foldl (fun s x => s.credit (f x)) s) := by
  induction l generalizing s with
  | nil => exact ⟨rfl, fun _ => rfl, _, rfl⟩
  | cons x l ih =>
    obtain ⟨hmem, hrow, qs, hbank⟩ := credited_credit b s (f x)
    obtain ⟨hmems, hrows, qss, hbanks⟩ := ih (s.credit (f x))
    exact ⟨hmems.trans hmem, fun i => (hrows i).trans (hrow i), qss, by rw [List.foldl_cons, hbanks, hbank]⟩

/-- The V stream once the word behind `l` has read its rows. -/
def readLate (l : VLate) (c : Core) (x : Stream) : Stream :=
  { x with pend := x.pend.take (x.pend.length - l.results) ++ l.patch (l.fn.out (l.inputs c)) (x.pend.drop (x.pend.length - l.results)) }

theorem inputs_congr {c d : Core} (l : VLate) (h : ∀ i, d.row i = c.row i) : l.inputs d = l.inputs c := by
  have hrow : d.row = c.row := funext h
  unfold VLate.inputs
  rw [hrow]

theorem reads_spec {l : VLate} {b : BankId} (s : State) (h : l.undo.reg = none) :
    (∃ qs, (l.reads s b).bank b = { s.bank b with queues := qs, v := readLate l (s.core b.core) (s.bank b).v }) ∧
      (l.reads s b).mem = s.mem ∧ ∀ i, ((l.reads s b).core b.core).row i = (s.core b.core).row i := by
  obtain ⟨hmem, hrow, qs, hbank⟩ := credited_foldl b (fun x : Spec × Row × Option Sender => x.2.2) l.undo.pops s
  unfold VLate.reads
  simp only [h, Option.isSome_none, Bool.false_eq_true, if_false]
  refine ⟨⟨qs, ?_⟩, hmem, fun i => (row_modBank _ _ _ _ _).trans (hrow i)⟩
  rw [State.bank_modBank_same, hbank]
  cases (l.fn.out (l.inputs (s.core b.core))).ent <;> rfl

/-- One V word whose extra cycles are over reads its rows as they stand. -/
theorem lateReads_one {s : State} {b : BankId} {l : VLate} (hlate : (s.bank b).late = [l]) (hdue : l.due ≤ s.cycle) (hreg : l.undo.reg = none)
    (hinj : ∀ j ∈ (s.core b.core).inj, j.hard = false) :
    (∃ qs, (lateReads s b).bank b = { s.bank b with late := [], queues := qs, v := readLate l (s.core b.core) (s.bank b).v }) ∧
      (lateReads s b).mem = s.mem ∧ ∀ i, ((lateReads s b).core b.core).row i = (s.core b.core).row i := by
  have hnow : (s.bank b).late.filter (fun l => decide (l.due ≤ s.cycle)) = [l] := by rw [hlate]; simpa using hdue
  have hlater : (s.bank b).late.filter (not ∘ fun l => decide (l.due ≤ s.cycle)) = [] := by rw [hlate]; simpa using hdue
  rw [lateReads_eq, hnow, hlater, if_neg (by simp)]
  generalize hv : s.modBank b (fun k => { k with late := [] }) = v
  have hrow : ∀ i, (v.core b.core).row i = (s.core b.core).row i := fun i => by rw [← hv]; exact row_modBank _ _ _ _ _
  have hinjv : (v.core b.core).inj = (s.core b.core).inj := by
    rw [← hv, State.core_modBank, if_pos rfl]
    cases b.slot <;> rfl
  have hsound : l.rows.findSome? (fun i => ((v.core b.core).injAt 0 (256 * i) 256).bind (fun j => if j.hard then some (i, j.addr) else none)) = none := by
    refine List.findSome?_eq_none_iff.mpr fun i _ => ?_
    cases hj : (v.core b.core).injAt 0 (256 * i) 256 with
    | none => rfl
    | some j =>
      have hsoft : j.hard = false := hinj j (hinjv ▸ List.mem_of_find?_eq_some hj)
      rw [Option.bind_some, hsoft]
      rfl
  have hread : readAll b [l] v = l.reads v b := by
    unfold readAll
    rw [hsound]
    rfl
  rw [hread]
  obtain ⟨⟨qs, hbank⟩, hmem, hrows⟩ := reads_spec v (b := b) hreg
  refine ⟨⟨qs, ?_⟩, hmem.trans (by rw [← hv]; rfl), fun i => (hrows i).trans (hrow i)⟩
  have hvb : v.bank b = { s.bank b with late := [] } := by rw [← hv, State.bank_modBank_same]
  rw [hbank, hvb]
  unfold readLate
  rw [inputs_congr l hrow]

/-! ### READY_WRITE and the end of a unit (01 R19; 17 R293) -/

theorem tryEnd_running {s : State} {b : BankId} (h : (s.bank b).phase = .running) : tryEnd s b = s := by
  unfold tryEnd
  rw [h]

theorem tryEnd_ends {s : State} {b : BankId} {st : EndStatus} (h : (s.bank b).phase = .ending st) (hmay : (s.bank b).mayEnd st = true)
    (hrel : s.released b (s.bank b).mem.seq = true) : tryEnd s b = unitEnds s b st := by
  unfold tryEnd
  rw [h]
  exact if_pos (by rw [hmay, hrel]; rfl)

/-- The step where results are due, or none and no late read. -/
theorem readyWrite_settles {s : State} {b : BankId} {e : Engine}
    (h : e = .V → (∃ p ∈ (s.stream b e).pend, p.cyc ≤ s.cycle) ∨ ∀ l ∈ (s.bank b).late, s.cycle < l.due) :
    execReadyWrite b e s = .next (tryEnd (settle s b e) b) := by
  unfold execReadyWrite
  by_cases hdue : ∃ p ∈ (s.stream b e).pend, p.cyc ≤ s.cycle
  · have hready : (s.stream b e).pend.any (fun p => decide (p.cyc ≤ s.cycle)) = true := by simpa using hdue
    rw [hready]
    dsimp only
    rw [if_neg (by simp)]
  · have hnone : ∀ p ∈ (s.stream b e).pend, s.cycle < p.cyc := fun p hp => Nat.lt_of_not_le fun hle => hdue ⟨p, hp, hle⟩
    rw [settle_of_none_due hnone]
    dsimp only
    split
    · next hV =>
      have he : e = .V := by simp at hV; exact hV.1
      rw [lateReads_of_none_due ((h he).resolve_left hdue)]
    · rfl

/-- The step where V has nothing due. -/
theorem readyWrite_reads {s : State} {b : BankId} (h : ∀ p ∈ (s.stream b .V).pend, s.cycle < p.cyc) :
    execReadyWrite b .V s = .next (tryEnd (lateReads s b) b) := by
  have hready : (s.stream b .V).pend.any (fun p => decide (p.cyc ≤ s.cycle)) = false := by
    simpa only [List.any_eq_false, decide_eq_true_eq, Nat.not_le] using h
  unfold execReadyWrite
  rw [hready]
  dsimp only
  rw [if_pos (by simp)]

theorem mem_kset {α : Type} {l : List (Nat × α)} {k : Nat} {x : α} {p : Nat × α} (h : p ∈ kset l k x) : p ∈ l ∨ p = (k, x) := by
  induction l with
  | nil => exact .inr (List.mem_singleton.mp h)
  | cons q l ih =>
    obtain ⟨j, y⟩ := q
    unfold kset at h
    split at h
    · rcases List.mem_cons.mp h with h | h
      · exact .inr h
      · exact .inl (List.mem_cons_of_mem _ h)
    split at h
    · rcases List.mem_cons.mp h with h | h
      · exact .inr h
      · exact .inl h
    · rcases List.mem_cons.mp h with h | h
      · exact .inl (h ▸ List.mem_cons_self)
      · exact (ih h).imp (List.mem_cons_of_mem _) id

/-- What was listed is listed still, but for what was found at the key that is set. -/
theorem mem_kset_of_mem {α : Type} {l : List (Nat × α)} {k : Nat} {x : α} {p : Nat × α} (h : p ∈ l) :
    p ∈ kset l k x ∨ kfind l k = some p.2 := by
  induction l with
  | nil => exact absurd h List.not_mem_nil
  | cons q l ih =>
    obtain ⟨j, y⟩ := q
    unfold kset kfind
    split
    · rcases List.mem_cons.mp h with h | h
      · exact .inr (by rw [h])
      · exact .inl (List.mem_cons_of_mem _ h)
    split
    · exact .inl (List.mem_cons_of_mem _ h)
    · rcases List.mem_cons.mp h with h | h
      · exact .inl (h ▸ List.mem_cons_self)
      · exact (ih h).imp (List.mem_cons_of_mem _) id

theorem mem_kset_self {α : Type} (l : List (Nat × α)) (k : Nat) (x : α) : (k, x) ∈ kset l k x := by
  induction l with
  | nil => exact List.mem_singleton.mpr rfl
  | cons q l ih =>
    obtain ⟨j, y⟩ := q
    unfold kset
    split
    · exact List.mem_cons_self
    split
    · exact List.mem_cons_self
    · exact List.mem_cons_of_mem _ ih

theorem mem_of_kfind {α : Type} {l : List (Nat × α)} {k : Nat} {x : α} (h : kfind l k = some x) : (k, x) ∈ l := by
  induction l with
  | nil => exact absurd h (by simp [kfind])
  | cons q l ih =>
    obtain ⟨j, y⟩ := q
    unfold kfind at h
    split at h
    · next hj => rw [hj, Option.some.inj h]; exact List.mem_cons_self
    split at h
    · exact absurd h (by simp)
    · exact List.mem_cons_of_mem _ (ih h)

/-- Copies that a unit of a launch has queued go on in a bank (04 R100). -/
def CopiesIn (k : Bank) (id u : Nat) : Prop := k.copying = true ∧ k.launchId = id ∧ k.bindRec.unit.toNat = u

/-- They go on in some bank of the module. -/
def CopiesGoOn (cores : List (Nat × Core)) (id u : Nat) : Prop := ∃ c ∈ cores, ∃ q, CopiesIn (c.2.bank q) id u

theorem copiesOf_iff (v : State) (id u : Nat) : v.copiesOf id u = true ↔ CopiesGoOn v.cores id u := by
  have hbank : ∀ k : Bank, k.copiesOf id u = true ↔ CopiesIn k id u := fun k => by
    unfold Bank.copiesOf CopiesIn
    simp only [Bool.and_eq_true, beq_iff_eq]
    tauto
  unfold State.copiesOf CopiesGoOn
  simp only [List.any_eq_true, Bool.or_eq_true, hbank, Bool.exists_bool]
  rfl

/-- The end of a unit leaves what copies go on. -/
theorem copiesGoOn_ended (s : State) (b : BankId) (id u : Nat) :
    CopiesGoOn (freeSenders (s.modBank b (fun k => { k with splits := [] })) b).cores id u ↔ CopiesGoOn s.cores id u := by
  let c' := (s.core b.core).setBank b.slot { s.bank b with splits := [] }
  have hcores : (freeSenders (s.modBank b (fun k => { k with splits := [] })) b).cores =
      (kset s.cores b.core c').map (fun c => (c.1, freedCore b c.2)) := rfl
  have hfreed : ∀ (c : Core) (q : Bool), CopiesIn ((freedCore b c).bank q) id u ↔ CopiesIn (c.bank q) id u := fun c q => by cases q <;> exact Iff.rfl
  have hset : ∀ q : Bool, CopiesIn (c'.bank q) id u ↔ CopiesIn ((s.core b.core).bank q) id u := fun q => by
    unfold c' State.bank
    cases b.slot <;> cases q <;> exact Iff.rfl
  have hreset : ∀ q : Bool, ¬ CopiesIn (Core.reset.bank q) id u := fun q h => by
    have hnone : (Core.reset.bank q).copying = false := by cases q <;> decide +kernel
    obtain ⟨hcopying, -⟩ := h
    exact Bool.false_ne_true (hnone.symm.trans hcopying)
  rw [hcores]
  constructor
  · rintro ⟨c, hc, q, hq⟩
    obtain ⟨d, hd, rfl⟩ := List.mem_map.mp hc
    have hq := (hfreed d.2 q).mp hq
    rcases mem_kset hd with hd | rfl
    · exact ⟨d, hd, q, hq⟩
    · have hq := (hset q).mp hq
      cases hfind : kfind s.cores b.core with
      | none =>
        have : s.core b.core = Core.reset := by rw [State.core, kget, hfind]; rfl
        exact absurd (this ▸ hq) (hreset q)
      | some x =>
        have : s.core b.core = x := by rw [State.core, kget, hfind]; rfl
        exact ⟨_, mem_of_kfind hfind, q, this ▸ hq⟩
  · rintro ⟨c, hc, q, hq⟩
    rcases mem_kset_of_mem (k := b.core) (x := c') hc with hd | hfind
    · exact ⟨_, List.mem_map.mpr ⟨c, hd, rfl⟩, q, (hfreed c.2 q).mpr hq⟩
    · have : s.core b.core = c.2 := by rw [State.core, kget, hfind]; rfl
      exact ⟨_, List.mem_map.mpr ⟨_, mem_kset_self _ _ _, rfl⟩, q, (hfreed c' q).mpr ((hset q).mpr (this ▸ hq))⟩

theorem keepsTag_iff {l : Launch} {v : State} {id : Nat} {y : SectorTag} : l.keepsTag v id y = true ↔
    ∃ u ∈ l.units, u.1 < y.ident ∧ ((∀ z, u.2 ≠ .ended z) ∨ v.copiesOf id u.1 = true) := by
  have hended : ∀ x : UnitState, (match x with | .ended _ => false | _ => true) = true ↔ ∀ z, x ≠ .ended z := fun x => by cases x <;> simp
  unfold Launch.keepsTag
  simp only [List.any_eq_true, Bool.and_eq_true, Bool.or_eq_true, decide_eq_true_eq]
  exact exists_congr fun u => and_congr_right fun _ => and_congr_right fun _ => or_congr (hended u.2) Iff.rfl

/-- Which sector tags stand once a unit has ended (11 R265, R266). -/
theorem UnitEnded.mem_tags {s t : State} {b : BankId} {st : EndStatus} (h : UnitEnded s t b st) (y : Nat × SectorTag) :
    y ∈ t.mem.tags ↔ y ∈ s.mem.tags ∧ (y.2.launch = (s.bank b).launchId → ∃ l, t.launch? (s.bank b).launchId = some l ∧ ∃ u ∈ l.units,
      u.1 < y.2.ident ∧ ((∀ z, u.2 ≠ .ended z) ∨ CopiesGoOn s.cores (s.bank b).launchId u.1)) := by
  obtain ⟨v, htags, hcores⟩ := h.tags
  have hcopies : ∀ u, v.copiesOf (s.bank b).launchId u = true ↔ CopiesGoOn s.cores (s.bank b).launchId u := fun u => by
    rw [copiesOf_iff, hcores, copiesGoOn_ended]
  rw [htags, List.mem_filter, Bool.or_eq_true, bne_iff_ne]
  refine and_congr_right fun _ => ?_
  rw [← imp_iff_not_or]
  refine imp_congr_right fun _ => ?_
  cases t.launch? (s.bank b).launchId with
  | none => simp
  | some l =>
    simp only [keepsTag_iff, hcopies]
    exact ⟨fun h => ⟨l, rfl, h⟩, fun ⟨_, hl, h⟩ => Option.some.inj hl ▸ h⟩

/-- Settles O33: by what each result does to its stream, by the one late read, and by `unitEnds_ended`. -/
theorem resultsTakeEffectAndUnitsEnd : Obligations.ResultsTakeEffectAndUnitsEnd := by
  intro b e s
  dsimp only
  refine ⟨fun hrun hV => ?_, fun l hrun he hpend hlate hdue hreg hinj => ?_, fun st hphase hpend hlate hmay hrel hM hK => ?_⟩
  · obtain ⟨hstream, hphase⟩ := settle_bank s b e
    obtain ⟨hpend, hpc, hget⟩ := foldl_effectOn (dueOf (s.stream b e) s.cycle)
      { s.stream b e with pend := (s.stream b e).pend.filter (fun p => decide (s.cycle < p.cyc)) }
    refine ⟨settle s b e, ?_, ?_, settle_mem _ _ _, settle_time _ _ _, settle_host _ _ _, ?_, fun r hr => ?_, fun ps c d v l hx hc hd => ?_⟩
    · exact (readyWrite_settles hV).trans (congrArg Host.Outcome.next (tryEnd_running (hphase.trans hrun)))
    · rw [hstream]; exact hpend
    · rw [hstream]; exact hpc
    · rw [hstream]
      refine hget r fun p hp => ?_
      obtain ⟨hp, hdue⟩ := List.mem_filter.mp hp
      exact hr p hp (of_decide_eq_true hdue)
    · rw [hstream]; exact settled_newest hx hc hd
  · subst he
    obtain ⟨⟨qs, hbank⟩, hmem, hrows⟩ := lateReads_one hlate hdue hreg hinj
    have hphase : ((lateReads s b).bank b).phase = .running := by rw [hbank]; exact hrun
    refine ⟨lateReads s b, (readyWrite_reads hpend).trans (congrArg Host.Outcome.next (tryEnd_running hphase)), ?_, hrows, hmem, ?_⟩
    · rw [hbank]
    · rw [State.stream, hbank]; rfl
  · have hnone : (∀ p ∈ (s.stream b e).pend, s.cycle < p.cyc) := fun p hp => by rw [hpend] at hp; exact absurd hp List.not_mem_nil
    have hstep : execReadyWrite b e s = .next (unitEnds s b st) := by
      rw [readyWrite_settles fun _ => .inr fun l hl => by rw [hlate] at hl; exact absurd hl List.not_mem_nil, settle_of_none_due hnone,
        tryEnd_ends hphase hmay hrel]
    have hend := unitEnds_ended st hM hK
    refine ⟨unitEnds s b st, hstep, ?_, ?_, ?_, ?_, hend.mem_tags, fun l hl => ?_⟩
    · rw [hend.bank]; rfl
    · rw [hend.bank]; rfl
    · rw [hend.bank]; rfl
    · rw [hend.bank]; rfl
    · rw [launch?_congr hend.launches]
      refine (modLaunch_launch? _ hl).trans (congrArg some ?_)
      unfold Launch.unitEnds
      split <;> rfl

end Sys2Proof.KernelMachine

namespace Sys2Proof.KernelMachine

open Sys2Proof Sys2Proof.Machine Sys2Proof.Claims

/-! ### What an access of a home does beside the bytes leaves banks and host (22 R367–R380) -/

theorem unitsStand_wakeHomes (s : State) (pa n : Nat) : UnitsStand s (wakeHomes s pa n) :=
  UnitsStand.foldl (fun s _ => unitsStand_wakeHome s _) _ s

theorem unitsStand_lineAddress (s : State) (pa : Nat) : UnitsStand s (lineAddress s pa).2 := by
  unfold lineAddress
  split <;> exact ⟨rfl, fun _ => rfl⟩

theorem unitsStand_faultAddress (s : State) (store kind pa : Nat) : UnitsStand s (faultAddress s store kind pa) := by
  refine (unitsStand_lineAddress s pa).trans ?_
  unfold faultAddress
  dsimp only
  split <;> exact ⟨rfl, fun _ => rfl⟩

theorem unitsStand_corrected (s : State) (store pa : Nat) : UnitsStand s (corrected s store pa) := by
  unfold corrected
  extract_lets page n m t
  have ht : UnitsStand s t := ⟨rfl, fun _ => rfl⟩
  split
  · exact ht.trans (unitsStand_faultAddress _ _ _ _)
  · exact ht

theorem unitsStand_poisonLine (s : State) (store pa : Nat) : UnitsStand s (poisonLine s store pa) :=
  UnitsStand.trans ⟨rfl, fun _ => rfl⟩ (unitsStand_faultAddress _ _ _ _)

theorem unitsStand_noteAsked (s : State) (x : Asker) : UnitsStand s (noteAsked s x) := by
  unfold noteAsked
  split <;> exact ⟨rfl, fun _ => rfl⟩

theorem unitsStand_rebuilt (s : State) (pa : Nat) : UnitsStand s (rebuilt s pa) := by
  have hnoted : UnitsStand s { s with mem := { s.mem with cwd := s.mem.cwd + 1, rebuilds := s.mem.rebuilds ++ [pa / 64] } } := ⟨rfl, fun _ => rfl⟩
  exact (hnoted.trans (unitsStand_noteAsked _ _)).trans (unitsStand_faultAddress _ _ _ _)

theorem unitsStand_readArmed {f : State → State} (hf : ∀ s, UnitsStand s (f s)) (s : State) (line : Nat) :
    UnitsStand s (readArmed f s line).2 := by
  have hmet : ∀ js : List (Nat × Injection), UnitsStand s
      (js.foldl (fun s x => let s := dropInj s x.1 x.2; if x.2.hard then s else corrected s (storeOf line) line) s) := fun js =>
    UnitsStand.foldl (fun s x => by
      dsimp only
      split
      · exact unitsStand_dropInj _ _ _
      · exact (unitsStand_dropInj _ _ _).trans (unitsStand_corrected _ _ _)) js s
  unfold readArmed
  dsimp only
  split
  · exact (hmet _).trans (hf _)
  · exact hmet _

theorem unitsStand_readTier (s : State) (line : Nat) : UnitsStand s (readTier s line).2 :=
  unitsStand_readArmed (fun _ => unitsStand_poisonLine _ _ _) s line

theorem unitsStand_readSource (s : State) (line : Nat) : UnitsStand s (readSource s line).2 := by
  refine unitsStand_readArmed (fun s => ?_) s line
  split
  · next t _ =>
    have htier : UnitsStand s (if mirrorClean s.mem line then readTier s t else (false, s)).2 := by
      split
      · exact unitsStand_readTier s t
      · exact .refl s
    extract_lets x
    split
    · exact htier.trans (unitsStand_rebuilt _ _)
    · exact htier.trans (unitsStand_poisonLine _ _ _)
  · exact unitsStand_poisonLine _ _ _

theorem unitsStand_readSources (s : State) (lines : List Nat) : UnitsStand s (readSources s lines).2 := by
  suffices h : ∀ x : Bool × State, UnitsStand x.2 (lines.foldl (fun x l => let y := readSource x.2 l; (x.1 && y.1, y.2)) x).2 from h (true, s)
  intro x
  induction lines generalizing x with
  | nil => exact .refl _
  | cons l ls ih => exact (unitsStand_readSource x.2 l).trans (ih _)

theorem unitsStand_rebuildSource (s : State) (pa : Nat) (p m : Bool) : UnitsStand s (rebuildSource s pa p m).2 := by
  have hsources : UnitsStand s
      (if isProtected s.mem pa && p then readSources s ((groupLines (parityGroup pa)).filter (· != pa / 64 * 64)) else (false, s)).2 := by
    split
    · exact unitsStand_readSources s _
    · exact .refl s
  unfold rebuildSource
  dsimp only
  split
  · exact hsources.trans (unitsStand_readTier _ _)
  · exact hsources

theorem unitsStand_uncorrectable (s : State) (pa : Nat) (p m : Bool) : UnitsStand s (uncorrectable s pa p m) := by
  have hsource : UnitsStand s (if storeOf pa = 4 then rebuildSource s pa p m else (false, s)).2 := by
    split
    · exact unitsStand_rebuildSource s pa p m
    · exact .refl s
  unfold uncorrectable
  extract_lets x
  split
  · exact hsource.trans (unitsStand_rebuilt _ _)
  · exact hsource.trans (unitsStand_poisonLine _ _ _)

theorem unitsStand_meetOne (s : State) (c : Nat) (j : Injection) : UnitsStand s (meetOne s c j) := by
  unfold meetOne
  split
  · exact .refl s
  refine (unitsStand_dropInj s c j).trans ?_
  dsimp only
  split
  · exact unitsStand_corrected _ _ _
  split
  · refine UnitsStand.trans (t := (dropInj s c j).fresh.2) ⟨rfl, fun _ => rfl⟩ ?_
    split
    · exact UnitsStand.trans ⟨rfl, fun _ => rfl⟩ (unitsStand_faultAddress _ _ _ _)
    · exact unitsStand_poisonLine _ _ _
  · exact unitsStand_uncorrectable _ _ _ _

theorem unitsStand_touchBytes (s : State) (pa n : Nat) : UnitsStand s (touchBytes s pa n) :=
  (unitsStand_wakeHomes s pa n).trans (UnitsStand.foldl (fun s (x : Nat × Injection) => unitsStand_meetOne s x.1 x.2) _ _)

theorem unitsStand_served (s : State) (x : Asker) (n : Nat) : UnitsStand s (served s x n) := by
  unfold served
  split
  · exact .refl s
  · refine (unitsStand_unasked s x).trans ?_
    unfold noteMisses
    split <;> exact ⟨rfl, fun _ => rfl⟩

theorem unitsStand_ioTouch (s : State) (ctx : Nat) (va : W64) (n : Nat) : UnitsStand s (ioTouch s ctx va n) :=
  UnitsStand.foldl (fun s p => by
    split
    · exact unitsStand_touchBytes _ _ _
    · exact .refl s) _ s

theorem unitsStand_walkMeet (s : State) (ctx page : Nat) : UnitsStand s (walkMeet s ctx page) :=
  UnitsStand.foldl (fun s _ => unitsStand_touchBytes s _ _) _ s

theorem unitsStand_vaWrite (s : State) (ctx : Nat) (va : W64) (d : List Byte) : UnitsStand s (vaWrite s ctx va d) := by
  unfold vaWrite
  generalize pieces va (d.length / 64 + 2) d.length = ps
  suffices h : ∀ x : State × List Byte, UnitsStand x.1 (ps.foldl (fun (x : State × List Byte) p =>
      let s := walkMeet x.1 ctx (vaBits p.1 / 65536)
      ((match ioAddr s ctx p.1 .write with | some a => s.write a (x.2.take p.2) | none => s), x.2.drop p.2)) x).1 from h (s, d)
  intro x
  induction ps generalizing x with
  | nil => exact .refl _
  | cons p ps ih =>
    refine UnitsStand.trans (UnitsStand.trans (unitsStand_walkMeet x.1 ctx (vaBits p.1 / 65536)) ?_) (ih _)
    dsimp only
    split
    · exact unitsStand_write _ _ _
    · exact .refl _

end Sys2Proof.KernelMachine

namespace Sys2Proof.KernelMachine

open Sys2Proof Sys2Proof.Machine Sys2Proof.Claims

/-! ### Reads that wake homes and meet no error leave what later reads find (24 R387) -/

/-- Strips, dies and the module that are in RUN stay so. -/
structure StaysAwake (f f' : Fleet) : Prop where
  strips : ∀ k, kget .run f.strips k = .run → kget .run f'.strips k = .run
  dies : ∀ k, kget .run f.dies k = .run → kget .run f'.dies k = .run
  module : f.module ≠ .retention → f'.module ≠ .retention

theorem StaysAwake.refl (f : Fleet) : StaysAwake f f := ⟨fun _ => id, fun _ => id, id⟩

theorem StaysAwake.trans {f g h : Fleet} (x : StaysAwake f g) (y : StaysAwake g h) : StaysAwake f h :=
  ⟨fun k hk => y.strips k (x.strips k hk), fun k hk => y.dies k (x.dies k hk), fun hm => y.module (x.module hm)⟩

/-- Homes have been woken and nothing else has happened. -/
def Woken (s t : State) : Prop := ∃ f, t = { s with fleet := f } ∧ StaysAwake s.fleet f

theorem Woken.refl (s : State) : Woken s s := ⟨s.fleet, rfl, .refl _⟩

theorem Woken.trans {s t u : State} (h : Woken s t) (h' : Woken t u) : Woken s u := by
  obtain ⟨f, rfl, hf⟩ := h
  obtain ⟨g, rfl, hg⟩ := h'
  exact ⟨g, rfl, hf.trans hg⟩

theorem kget_kset_run {α : Type} [DecidableEq α] {d : α} {l : List (Nat × α)} {k j : Nat} (h : kget d l j = d) : kget d (kset l k d) j = d := by
  rw [kget_kset]
  split
  · rfl
  · exact h

theorem woken_wakeHome (s : State) (pa : Nat) : Woken s (wakeHome s pa) := by
  unfold wakeHome
  split
  · exact .refl s
  dsimp only
  split
  · exact ⟨_, rfl, fun _ => id, fun _ => id, id⟩
  · refine ⟨_, rfl, fun k hk => kget_kset_run hk, fun k hk => kget_kset_run hk, fun hm => ?_⟩
    rw [if_neg hm]
    exact hm

theorem Woken.foldl {α : Type} {f : State → α → State} (h : ∀ s x, Woken s (f s x)) (l : List α) (s : State) : Woken s (l.foldl f s) := by
  induction l generalizing s with
  | nil => exact .refl s
  | cons x l ih => exact (h s x).trans (ih _)

theorem woken_touchBytes {s : State} {pa n : Nat} (h : armedIn s pa n = []) : Woken s (touchBytes s pa n) := by
  have hwoken : Woken s (wakeHomes s pa n) := Woken.foldl (fun s _ => woken_wakeHome s _) _ s
  unfold touchBytes meetInjection
  obtain ⟨f, hf, hstays⟩ := hwoken
  rw [hf]
  have harmed : armedIn { s with fleet := f } pa n = [] := h
  rw [harmed]
  exact ⟨f, rfl, hstays⟩

/-- A state that source `src` can read again: homes have been woken, and no home holds a request of its. -/
def ReadsAgain (src : Source) (s t : State) : Prop :=
  ∃ f a m, t = { s with fleet := f, mem := { s.mem with asked := a, miss := m } } ∧ StaysAwake s.fleet f ∧ a.find? (·.who == Asker.source src) = none

theorem find?_unasked (s : State) (x : Asker) : (unasked s x).mem.asked.find? (·.who == x) = none := by
  unfold unasked
  split
  · refine List.find?_eq_none.mpr fun y hy => ?_
    have hne := (List.mem_filter.mp hy).2
    simpa using hne
  · next h =>
    refine List.find?_eq_none.mpr fun y hy hyx => h ?_
    exact List.any_eq_true.mpr ⟨y, hy, hyx⟩

theorem readsAgain_served {s t : State} (src : Source) (n : Nat) (h : Woken s t) : ReadsAgain src s (served t (.source src) n) := by
  obtain ⟨f, rfl, hf⟩ := h
  unfold served
  split
  · next hnone => exact ⟨f, s.mem.asked, s.mem.miss, rfl, hf, hnone⟩
  · next y _ =>
    have hgone := find?_unasked { s with fleet := f } (.source src)
    obtain ⟨a, ha⟩ : ∃ a, unasked { s with fleet := f } (.source src) = { s with fleet := f, mem := { s.mem with asked := a } } := by
      unfold unasked
      split <;> exact ⟨_, rfl⟩
    rw [ha] at hgone ⊢
    unfold noteMisses
    split
    · exact ⟨f, a, _, rfl, hf, hgone⟩
    · exact ⟨f, a, _, rfl, hf, hgone⟩

theorem homeAwake_again {src : Source} {s t : State} (h : ReadsAgain src s t) {pa : Nat} (ha : homeAwake s pa = true) : homeAwake t pa = true := by
  obtain ⟨f, a, m, rfl, hf, -⟩ := h
  have hhome : homeOf ({ s.mem with asked := a, miss := m } : MemSys) pa = homeOf s.mem pa := rfl
  unfold homeAwake at ha ⊢
  rw [hhome]
  split
  · rfl
  · next n hn =>
    rw [hn] at ha
    simp only [Bool.and_eq_true, beq_iff_eq, bne_iff_ne] at ha ⊢
    obtain ⟨⟨hstrip, hdie⟩, hmodule⟩ := ha
    exact ⟨⟨hf.strips _ hstrip, hf.dies _ hdie⟩, hf.module hmodule⟩

theorem keptAt_again {src : Source} {s t : State} (h : ReadsAgain src s t) {ps : List (Nat × Nat)} (hk : keptAt s (.source src) ps = none) :
    keptAt t (.source src) ps = none := by
  obtain ⟨f, a, m, rfl, -, hasked⟩ := h
  have hfree : (ps.flatMap (fun p => linesOf p.1 p.2)).find? (fun l => homeHeld s.mem (64 * l)) = none := by
    unfold keptAt at hk
    split at hk
    · exact absurd hk (by simp)
    · next h _ => exact h
    · next h _ => exact h
  have hfree' : (ps.flatMap (fun p => linesOf p.1 p.2)).find? (fun l => homeHeld { s.mem with asked := a, miss := m } (64 * l)) = none := hfree
  unfold keptAt
  rw [hfree', hasked]

/-- How a read ended, where it was not another step first, it ends again. -/
def SameRead (r r' : IoRead) : Prop := (∀ d, r = .ok d → r' = .ok d) ∧ (r = .bad → r' = .bad)

theorem sameRead_stop {t : State} {r : IoRead} : SameRead (.stop t) r := by
  constructor <;> intros <;> contradiction

theorem sameRead_refl (r : IoRead) : SameRead r r := ⟨fun _ => id, id⟩

theorem ioPieces_again {src : Source} {s t : State} (h : ReadsAgain src s t) (ctx : Nat) (ps : List (W64 × Nat)) :
    SameRead (ioPieces s src ctx ps) (ioPieces t src ctx ps) := by
  induction ps with
  | nil => exact sameRead_refl _
  | cons p ps ih =>
    obtain ⟨va, n⟩ := p
    have hkept := fun a => keptAt_again (ps := [(a, n)]) h
    have hawake := fun a => homeAwake_again (pa := a) h
    obtain ⟨f, a, m, rfl, -⟩ := h
    generalize ht : ({ s with fleet := f, mem := { s.mem with asked := a, miss := m } } : State) = t at *
    have hsame : t.host = s.host ∧ (∀ e, ioTr t ctx e va .read = ioTr s ctx e va .read) ∧ (∀ a, armedIn t a n = armedIn s a n) ∧
        (∀ a, poisonedIn t a n = poisonedIn s a n) ∧ ∀ a, t.look a n = s.look a n := by
      subst ht
      exact ⟨rfl, fun _ => rfl, fun _ => rfl, fun _ => rfl, fun _ => rfl⟩
    obtain ⟨hhost, htr, harmed, hpoison, hlook⟩ := hsame
    unfold ioPieces
    split
    · exact sameRead_refl _
    rw [hhost]
    split
    · exact sameRead_stop
    rw [htr]
    split
    · next pa _ =>
      cases hk : keptAt s (.source src) [(pa, n)] with
      | some u => exact sameRead_stop
      | none =>
        rw [hkept pa hk, harmed, hpoison, hlook]
        dsimp only
        split
        · exact sameRead_stop
        · next hclear =>
          obtain ⟨harm, hhome⟩ : (armedIn s pa n).isEmpty = true ∧ homeAwake s pa = true := by simpa using hclear
          rw [harm, hawake pa hhome]
          simp only [Bool.not_true, Bool.or_self, Bool.false_eq_true, if_false]
          split
          · exact sameRead_refl _
          obtain ⟨hok, hbad⟩ := ih
          cases hr : ioPieces s src ctx ps with
          | ok d => rw [hok d hr]; exact sameRead_refl _
          | stop u => exact sameRead_stop
          | bad => rw [hbad hr]; exact sameRead_refl _
    · exact sameRead_stop
    · exact sameRead_refl _

theorem ioRead_again {src : Source} {s t : State} (h : ReadsAgain src s t) (ctx : Nat) (va : W64) (n : Nat) :
    SameRead (ioRead s src ctx va n) (ioRead t src ctx va n) := ioPieces_again h ctx _

/-- A piece that was read has a translation and meets no error. -/
theorem ioPieces_cons_ok {s : State} {src : Source} {ctx n : Nat} {va : W64} {ps : List (W64 × Nat)} {d : List Byte}
    (h : ioPieces s src ctx ((va, n) :: ps) = .ok d) : ∃ e a d', s.host.iotlb.find? (·.covers ctx (vaBits va)) = some e ∧
      ioTr s ctx e va .read = .ok a ∧ armedIn s a n = [] ∧ ioPieces s src ctx ps = .ok d' := by
  unfold ioPieces at h
  split at h
  · contradiction
  split at h
  · contradiction
  next e he =>
  split at h
  · next a ha =>
    split at h
    · contradiction
    split at h
    · contradiction
    next hclear =>
    split at h
    · contradiction
    split at h
    · next d' hd' =>
      have harm : (armedIn s a n).isEmpty = true := by
        simp only [Bool.or_eq_true, Bool.not_eq_true', not_or, Bool.not_eq_false] at hclear
        exact hclear.1
      exact ⟨e, a, d', he, ha, List.isEmpty_iff.mp harm, hd'⟩
    · next hno => exact absurd h (hno d)
  · contradiction
  · contradiction

/-- A read that gave its bytes has met no error: touching its lines wakes homes, no more. -/
theorem woken_ioTouch {s : State} {src : Source} {ctx : Nat} {va : W64} {n : Nat} {d : List Byte} (h : ioRead s src ctx va n = .ok d) :
    Woken s (ioTouch s ctx va n) := by
  unfold ioRead at h
  unfold ioTouch
  generalize pieces va (n / 64 + 2) n = ps at h ⊢
  suffices hps : ∀ t : State, Woken s t → Woken s (ps.foldl (fun s p =>
      match (s.host.iotlb.find? (·.covers ctx (vaBits p.1))).map (fun e => ioTr s ctx e p.1 .read) with
      | some (.ok a) => touchBytes s a p.2
      | _ => s) t) from hps s (.refl s)
  induction ps generalizing d with
  | nil => exact fun t ht => ht
  | cons p ps ih =>
    obtain ⟨va, n⟩ := p
    obtain ⟨e, a, d', he, ha, harm, hd'⟩ := ioPieces_cons_ok h
    intro t ht
    refine ih hd' _ ?_
    obtain ⟨f, rfl, hf⟩ := ht
    have htr : (({ s with fleet := f } : State).host.iotlb.find? (·.covers ctx (vaBits va))).map
        (fun e => ioTr { s with fleet := f } ctx e va .read) = some (.ok a) := by
      change (s.host.iotlb.find? (·.covers ctx (vaBits va))).map (fun e => ioTr s ctx e va .read) = some (.ok a)
      rw [he, Option.map_some, ha]
    dsimp only at htr ⊢
    rw [htr]
    exact Woken.trans ⟨f, rfl, hf⟩ (woken_touchBytes harm)

end Sys2Proof.KernelMachine

namespace Sys2Proof.KernelMachine

open Sys2Proof Sys2Proof.Machine Sys2Proof.Claims

/-! ### A launch starts in a state that reads the same (20 R332–R334) -/

/-- How a read of a group binding table ended, where it was not another step first, it ends again. -/
def SameTable (r r' : GbtRead) : Prop := (∀ g, r = .ok g → r' = .ok g) ∧ (r = .refuse → r' = .refuse) ∧ (r = .bad → r' = .bad)

theorem sameTable_refl (r : GbtRead) : SameTable r r := ⟨fun _ => id, id, id⟩

theorem SameRead.thenTable {r r' : IoRead} {f g : List Byte → GbtRead} (h : SameRead r r') (hf : ∀ d, SameTable (f d) (g d)) :
    SameTable (r.then .stop .bad f) (r'.then .stop .bad g) := by
  obtain ⟨hok, hbad⟩ := h
  cases r with
  | ok d => rw [hok d rfl]; exact hf d
  | bad => rw [hbad rfl]; exact sameTable_refl _
  | stop t => refine ⟨?_, ?_, ?_⟩ <;> intros <;> contradiction

theorem readGbt_again {src : Source} {s t : State} (h : ReadsAgain src s t) (ctx n : Nat) (va : W64) (acc : List Group) :
    SameTable (readGbt s src ctx n va acc) (readGbt t src ctx n va acc) := by
  induction n generalizing va acc with
  | zero =>
    unfold readGbt
    refine (ioRead_again h _ _ _).thenTable fun d => ?_
    exact sameTable_refl _
  | succ n ih =>
    unfold readGbt
    refine (ioRead_again h _ _ _).thenTable fun d => ?_
    split
    · exact sameTable_refl _
    dsimp only
    split
    · exact sameTable_refl _
    refine (ioRead_again h _ _ _).thenTable fun e => ?_
    split
    · exact ih _ _
    · exact sameTable_refl _

/-- What a launch takes from its packet and the place it stands in (20 R332, R333). -/
structure FromPacket (ctx : Nat) (p : List Byte) (stage : Option Nat) (l : Launch) : Prop where
  ctx : l.ctx = ctx
  desc : l.desc = BitVec.ofNat 64 (leAt p 8 8)
  crec : l.crec = BitVec.ofNat 64 (leAt p 24 8)
  ssem : l.ssem = leAt p 32 2
  sinc : l.sinc = leAt p 34 2
  dkey : l.dkey = BitVec.ofNat 32 (leAt p 36 4)
  count : l.count = 0
  done : l.done = false
  stage : l.stage = stage

/-- How a start ended in `s`, where it was not another step first, it ends in `t`: a launch that satisfies `L` begins. -/
def SameStart (s t : State) (L : Launch → Prop) (r r' : LaunchStart) : Prop :=
  (r = .refuse → r' = .refuse) ∧ (r = .bad → r' = .bad) ∧ ∀ u i, r = .started u i → i = s.host.nextId ∧
    ∃ v l sems, L l ∧ UnitsStand t v ∧ r' = .started (beginLaunch v l sems).1 (beginLaunch v l sems).2

section
variable {s t : State} {L : Launch → Prop}

theorem sameStart_refuse : SameStart s t L .refuse .refuse := ⟨id, fun h => by contradiction, fun _ _ h => by contradiction⟩

theorem sameStart_bad : SameStart s t L .bad .bad := ⟨fun h => by contradiction, id, fun _ _ h => by contradiction⟩

theorem sameStart_stop {u : State} {r : LaunchStart} : SameStart s t L (.stop u) r := by
  refine ⟨?_, ?_, ?_⟩ <;> intros <;> contradiction

theorem SameRead.thenStart {r r' : IoRead} {f g : List Byte → LaunchStart} (h : SameRead r r') (hf : ∀ d, SameStart s t L (f d) (g d)) :
    SameStart s t L (r.then .stop .bad f) (r'.then .stop .bad g) := by
  obtain ⟨hok, hbad⟩ := h
  cases r with
  | ok d => rw [hok d rfl]; exact hf d
  | bad => rw [hbad rfl]; exact sameStart_bad
  | stop u => exact sameStart_stop

end

theorem beginLaunch_id (v : State) (l : Launch) (sems : List (List Byte)) : (beginLaunch v l sems).2 = v.host.nextId := rfl

/-- The last tests of a start, on the launch `l` that has been read: they end in `t` as in `s`. -/
theorem sameStart_begins {s t : State} {L : Launch → Prop} (hslice : t.slice = s.slice) {l : Launch} (hl : L l)
    (accepted : Bool) (reads : List (Nat × Nat)) (src : Source) (ctx : Nat) (sems : List (List Byte)) :
    let ends := fun (s : State) =>
      if l.plan.any (fun x => !(s.slice x.1).changes.isEmpty) then LaunchStart.stop s
      else if accepted then
        let t := reads.foldl (fun s x => ioTouch s ctx (BitVec.ofNat 64 x.1) x.2) s
        let r := beginLaunch (served t (.source src) 1) l sems
        .started r.1 r.2
      else .refuse
    SameStart s t L (ends s) (ends t) := by
  have htouched : ∀ s : State, UnitsStand s (served (reads.foldl (fun s x => ioTouch s ctx (BitVec.ofNat 64 x.1) x.2) s) (.source src) 1) := fun s =>
    (UnitsStand.foldl (fun s _ => unitsStand_ioTouch s _ _ _) reads s).trans (unitsStand_served _ _ _)
  dsimp only
  rw [hslice]
  split
  · exact sameStart_stop
  split
  · refine ⟨fun h => by contradiction, fun h => by contradiction, fun u i hr => ⟨?_, _, l, sems, hl, htouched t, rfl⟩⟩
    have hid := (htouched s).1
    injection hr with _ hi
    rw [← hi, beginLaunch_id, hid]
  · exact sameStart_refuse

theorem startLaunch_again {src : Source} {s t : State} (h : ReadsAgain src s t) (ctx : Nat) (p : List Byte) (patch : List (Nat × W64))
    (origin : Origin) (stage : Option Nat) (job : Nat) :
    SameStart s t (FromPacket ctx p stage) (startLaunch s src ctx p patch origin stage job) (startLaunch t src ctx p patch origin stage job) := by
  have hsame : t.slice = s.slice ∧ t.time = s.time ∧ launchAllowed t = launchAllowed s := by
    obtain ⟨f, a, m, rfl, -⟩ := h
    exact ⟨rfl, rfl, rfl⟩
  obtain ⟨hslice, htime, hallowed⟩ := hsame
  unfold startLaunch
  generalize hfuel : (1024 : Nat) = fuel
  dsimp only
  rw [htime, hallowed]
  refine (ioRead_again h _ _ _).thenStart fun d => (ioRead_again h _ _ _).thenStart fun pr => ?_
  split
  · exact sameStart_refuse
  refine (ioRead_again h _ _ _).thenStart fun ue => (ioRead_again h _ _ _).thenStart fun td => (ioRead_again h _ _ _).thenStart fun sd =>
    (ioRead_again h _ _ _).thenStart fun md => (ioRead_again h _ _ _).thenStart fun plan => ?_
  obtain ⟨hok, hrefuse, hbad⟩ := readGbt_again h ctx fuel (BitVec.ofNat 64 (leAt d 64 8)) []
  cases hg : readGbt s src ctx fuel (BitVec.ofNat 64 (leAt d 64 8)) [] with
  | stop u => exact sameStart_stop
  | refuse => rw [hrefuse hg]; exact sameStart_refuse
  | bad => rw [hbad hg]; exact sameStart_bad
  | ok gs =>
    rw [hok gs hg]
    exact sameStart_begins hslice ⟨rfl, rfl, rfl, rfl, rfl, rfl, rfl, rfl, rfl⟩ _ _ src ctx _

end Sys2Proof.KernelMachine

namespace Sys2Proof.KernelMachine

open Sys2Proof Sys2Proof.Machine Sys2Proof.Claims

/-! ### The launch that begins (20 R326, R332) -/

/-- The launch `id` is `l`, but for requests that it holds. -/
def HoldsLaunch (id : Nat) (l : Launch) (s : State) : Prop := ∃ bs, s.launch? id = some { l with binds := bs }

/-- The queues and the next ID stand, and launch `id` is `l` still. -/
structure StillBegun (id : Nat) (l : Launch) (s t : State) : Prop where
  queues : t.host.queues = s.host.queues
  nextId : t.host.nextId = s.host.nextId
  holds : HoldsLaunch id l s → HoldsLaunch id l t

theorem StillBegun.trans {id : Nat} {l : Launch} {s t u : State} (h : StillBegun id l s t) (h' : StillBegun id l t u) : StillBegun id l s u :=
  ⟨h'.queues.trans h.queues, h'.nextId.trans h.nextId, fun x => h'.holds (h.holds x)⟩

theorem StillBegun.of_host {id : Nat} {l : Launch} {s t : State} (h : t.host = s.host) : StillBegun id l s t :=
  ⟨congrArg HostState.queues h, congrArg HostState.nextId h, fun ⟨bs, hl⟩ => ⟨bs, (launch?_congr (congrArg HostState.launches h) id).trans hl⟩⟩

theorem claimQueue_host (s : State) (p : BankId) (q : Nat) (y : Sender) : (claimQueue s p q y).2.host = s.host := by
  unfold claimQueue
  split
  · rfl
  · split <;> rfl

theorem freeRemote_begun (id : Nat) (l : Launch) (s : State) (r : RemoteBind) : StillBegun id l s (freeRemote s r) := by
  refine ⟨rfl, rfl, fun ⟨bs, hl⟩ => ?_⟩
  let g := fun (l : Launch) => { l with binds := l.binds.filter (fun x => !(x.1.chip == r.chip && x.1.id == r.id)) }
  have hfree : (freeRemote s r).launch? id = (s.launch? id).map g := kfind_map g _ _
  rw [hl] at hfree
  exact ⟨_, hfree⟩

theorem remoteBind_begun (id : Nat) (l : Launch) (s : State) (r : RemoteBind) (q : Nat) : StillBegun id l s (remoteBind s r q) := by
  unfold remoteBind
  split
  · exact freeRemote_begun id l s r
  split
  · exact ⟨rfl, rfl, fun h => h⟩
  next l' hl' =>
  split
  · exact .of_host rfl
  have hheld : StillBegun id l s (s.setLaunch r.launch { l' with binds := l'.binds ++ [(r, q)] }) := by
    refine ⟨rfl, rfl, fun ⟨bs, hl⟩ => ?_⟩
    by_cases hid : r.launch = id
    · obtain rfl := hid
      obtain rfl := Option.some.inj (hl.symm.trans hl')
      exact ⟨_, kfind_kset_same _ _ _⟩
    · exact ⟨bs, (kfind_kset_ne _ _ (Ne.symm hid)).trans hl⟩
  split
  · exact .of_host (claimQueue_host _ _ _ _)
  · exact hheld
  · exact hheld
  · exact .of_host rfl

theorem takeEarly_begun (id : Nat) (l : Launch) (s : State) : StillBegun id l s (takeEarly s id) := by
  unfold takeEarly
  dsimp only
  generalize s.host.early.filter (·.1.launch == id) = rs
  suffices h : ∀ t, StillBegun id l s t → StillBegun id l s (rs.foldl (fun s x => remoteBind s x.1 x.2) t) from
    h _ ⟨rfl, rfl, fun h => h⟩
  induction rs with
  | nil => exact fun _ h => h
  | cons r rs ih => exact fun t h => ih _ (h.trans (remoteBind_begun id l t r.1 r.2))

theorem takeSlices_host (id : Nat) (xs : List (Nat × BitVec 16)) (s : State) : (xs.foldl (fun s x => takeSlice s id x) s).host = s.host := by
  induction xs generalizing s with
  | nil => rfl
  | cons x xs ih => exact (ih _).trans rfl

/-- A launch that begins is the next ID's, and the ID after is next. -/
theorem beginLaunch_begun (v : State) (l : Launch) (sems : List (List Byte)) :
    HoldsLaunch v.host.nextId l (beginLaunch v l sems).1 ∧ (beginLaunch v l sems).1.host.nextId = nextLaunchId v.host.nextId ∧
      (beginLaunch v l sems).1.host.queues = v.host.queues := by
  obtain ⟨w, hw, hnext, hqueues, hl⟩ : ∃ w, (beginLaunch v l sems).1 = takeEarly w v.host.nextId ∧
      w.host.nextId = nextLaunchId v.host.nextId ∧ w.host.queues = v.host.queues ∧ w.launch? v.host.nextId = some l := by
    refine ⟨_, rfl, rfl, ?_, kfind_kset_same _ _ _⟩
    change (l.plan.foldl (fun s x => takeSlice s v.host.nextId x) (v.modCtx l.ctx _)).host.queues = _
    rw [takeSlices_host]
    rfl
  have hbegun := takeEarly_begun v.host.nextId l w
  rw [hw]
  exact ⟨hbegun.holds ⟨l.binds, hl⟩, hbegun.nextId.trans hnext, hbegun.queues.trans hqueues⟩

/-! ### LAUNCH packets (20 R327–R332) -/

/-- A packet that heads its queue comes to its effect `f`, in a state that it reads again. -/
theorem packet_heads {s : State} {q ty : Nat} {p : List Byte} (h : Heads s q ty p) (hty : knownType ty = true) (f : State → WorkQueue → List Byte → State)
    (own : Nat → Bool) (hown : own ty = true) :
    ∃ t, ReadsAgain (.queue q) s t ∧ packet s q own f = f t (s.queue q) p := by
  obtain ⟨hq, hen, herr, hhold, hlt, hturn, hrun, hgood, hread, htype, hholds, hclean, hfields⟩ := h
  have hagain := readsAgain_served (.queue q) 1 (woken_ioTouch hread)
  refine ⟨_, hagain, ?_⟩
  have hholds' : packetHolds (served (ioTouch s (s.queue q).ctx ((s.queue q).at_ (s.queue q).rptr) 64) (.source (.queue q)) 1) (s.queue q) p =
      false := by
    obtain ⟨f, a, m, ht, -⟩ := hagain
    rw [ht]
    exact hholds
  unfold packet
  dsimp only
  rw [if_neg (by simp [queueCount, hq, hen, herr, hhold, hlt, hturn, hrun]), if_neg (by simpa using hgood), hread]
  dsimp only [IoRead.then]
  rw [htype, hty, hown, hholds', hclean, hfields]
  rfl

theorem queue_congr {s t : State} (h : t.host.queues = s.host.queues) (q : Nat) : t.queue q = s.queue q := by
  unfold State.queue
  rw [h]

theorem queue_setQueue (s : State) (q p : Nat) (x : WorkQueue) : (s.setQueue q x).queue p = if p = q then x else s.queue p := kget_kset _ _ _ _ _

/-- A queue whose packet is refused or cannot be read is in error, the others stand (20 R331). -/
theorem inError_queueError {s t : State} (h : t.host = s.host) (q code ty : Nat) (v : W64) : InError s (queueError t q code ty v) q code := by
  have hwritten := (unitsStand_vaWrite t (t.queue q).ctx (t.queue q).qerr (queueRecord t (t.queue q) code ty v)).1
  have hqueue : ∀ p, (queueError t q code ty v).queue p = if p = q then { s.queue q with err := true, code := code, hold := none } else s.queue p := by
    intro p
    unfold queueError
    dsimp only
    generalize vaWrite t (t.queue q).ctx (t.queue q).qerr (queueRecord t (t.queue q) code ty v) = w at hwritten ⊢
    rw [queue_setQueue]
    have hqueues : t.host.queues = s.host.queues := by rw [h]
    split
    · rw [queue_congr hqueues]
    · refine queue_congr ?_ p
      change w.host.queues = s.host.queues
      rw [hwritten, hqueues]
  refine ⟨?_, ?_, ?_, ?_, fun p hp => ?_⟩
  · rw [hqueue, if_pos rfl]
  · rw [hqueue, if_pos rfl]
  · rw [hqueue, if_pos rfl]
  · rw [hqueue, if_pos rfl]
  · rw [hqueue, if_neg hp]

theorem launchPacket_heads {s : State} {q : Nat} {p : List Byte} (h : Heads s q 1 p) :
    ∃ t, t.host = s.host ∧ SameStart s t (FromPacket (s.queue q).ctx p (s.queue q).stage)
        (startLaunch s (.queue q) (s.queue q).ctx p [] (.queue q ((s.queue q).rptr.toNat / 64)) (s.queue q).stage (s.queue q).job)
        (startLaunch t (.queue q) (s.queue q).ctx p [] (.queue q ((s.queue q).rptr.toNat / 64)) (s.queue q).stage (s.queue q).job) ∧
      launchPacket s q = match startLaunch t (.queue q) (s.queue q).ctx p [] (.queue q ((s.queue q).rptr.toNat / 64)) (s.queue q).stage (s.queue q).job with
        | .stop t => t
        | .bad => queueError t q 9 1 0
        | .refuse => queueError t q 7 1 0
        | .started u id =>
          (begin u q).setQueue q { (begin u q).queue q with lid := BitVec.ofNat 64 ((s.queue q).index % 4294967296 * 4294967296 + id) } := by
  obtain ⟨t, hagain, ht⟩ := packet_heads h rfl (fun s x p =>
    match startLaunch s (.queue q) x.ctx p [] (.queue q x.index) x.stage x.job with
    | .stop t => t
    | .bad => queueError s q 9 1 0
    | .refuse => queueError s q 7 1 0
    | .started s id =>
      let s := begin s q
      s.setQueue q { s.queue q with lid := BitVec.ofNat 64 (x.index % 4294967296 * 4294967296 + id) }) (· == 1) rfl
  have hhost : t.host = s.host := by
    obtain ⟨f, a, m, rfl, -⟩ := hagain
    rfl
  exact ⟨t, hhost, startLaunch_again hagain _ _ _ _ _ _, ht⟩

theorem queue_begin (s : State) (q : Nat) :
    (begin s q).queue q = { s.queue q with rptr := (s.queue q).rptr + 64, active := (s.queue q).active ++ [(s.queue q).rptr.toNat / 64] } :=
  kget_kset_same _ _ _ _

/-- A queue's last launch stands in the low word of QLID (20 R329). -/
theorem lid_low (k id : Nat) : (BitVec.ofNat 64 (k % 4294967296 * 4294967296 + id)).toNat % 2 ^ 32 = id % 2 ^ 32 := by
  rw [BitVec.toNat_ofNat]
  omega

theorem launchesStart (q : Nat) (p : List Byte) (s : State) :
    let x := s.queue q
    let r := startLaunch s (.queue q) x.ctx p [] (.queue q (x.rptr.toNat / 64)) x.stage x.job
    Heads s q 1 p →
      (∀ u i, r = .started u i → i = s.host.nextId ∧ ∃ t l, exec (.launch q) s = .next t ∧ Started s t q ∧ t.launch? i = some l ∧
        l.ctx = x.ctx ∧ l.desc = BitVec.ofNat 64 (leAt p 8 8) ∧ l.crec = BitVec.ofNat 64 (leAt p 24 8) ∧ l.ssem = leAt p 32 2 ∧
        l.sinc = leAt p 34 2 ∧ l.dkey = BitVec.ofNat 32 (leAt p 36 4) ∧ l.count = 0 ∧ l.done = false ∧ l.stage = x.stage ∧
        t.host.nextId = (if i ≥ 2 ^ 32 - 1 then 1 else i + 1) ∧ (t.queue q).lid.toNat % 2 ^ 32 = i % 2 ^ 32) ∧
      (r = .refuse → ∃ t, exec (.launch q) s = .next t ∧ InError s t q 7) ∧
      (r = .bad → ∃ t, exec (.launch q) s = .next t ∧ InError s t q 9) := by
  dsimp only
  intro hheads
  obtain ⟨t, hhost, ⟨hrefuse, hbad, hstarted⟩, hpacket⟩ := launchPacket_heads hheads
  obtain ⟨-, -, herr, -⟩ := id hheads
  refine ⟨fun u i hr => ?_, fun hr => ⟨_, rfl, ?_⟩, fun hr => ⟨_, rfl, ?_⟩⟩
  · obtain ⟨hi, v, l, sems, hl, hv, hr'⟩ := hstarted u i hr
    rw [hr'] at hpacket
    dsimp only at hpacket
    obtain ⟨⟨bs, hholds⟩, hnext, hqueues⟩ := beginLaunch_begun v l sems
    have hvhost : v.host = s.host := hv.1.trans hhost
    rw [beginLaunch_id, hvhost, ← hi] at hpacket
    rw [hvhost] at hholds hnext hqueues
    rw [← hi] at hholds hnext
    generalize (beginLaunch v l sems).1 = w at hpacket hholds hnext hqueues
    have hqueue : (launchPacket s q).queue q = { (begin w q).queue q with
        lid := BitVec.ofNat 64 ((s.queue q).index % 4294967296 * 4294967296 + i) } := by
      rw [hpacket, queue_setQueue, if_pos rfl]
    rw [queue_begin, queue_congr hqueues] at hqueue
    refine ⟨hi, launchPacket s q, { l with binds := bs }, rfl, ⟨?_, ?_, ?_⟩, ?_, hl.ctx, hl.desc, hl.crec, hl.ssem, hl.sinc, hl.dkey, hl.count,
      hl.done, hl.stage, ?_, ?_⟩
    · rw [hqueue]
    · rw [hqueue]; exact herr
    · rw [hqueue]
    · rw [hpacket]; exact hholds
    · rw [hpacket]; exact hnext
    · rw [hqueue]; exact lid_low _ _
  · rw [hpacket, hrefuse hr]
    exact inError_queueError hhost _ _ _ _
  · rw [hpacket, hbad hr]
    exact inError_queueError hhost _ _ _ _

end Sys2Proof.KernelMachine

namespace Sys2Proof.KernelMachine

open Sys2Proof Sys2Proof.Machine Sys2Proof.Claims

/-! ### One line written through a context's tables (21 R344) -/

theorem get_write_inside {l : List Host.Cell} (h : Memory.wf l = true) (a : Nat) (bs : List Byte) (x : Nat) (hx : a ≤ x ∧ x < a + bs.length) :
    Cells.get (Cells.write l a bs) x = bs.getD (x - a) 0 := by
  induction bs generalizing l a with
  | nil => exact absurd hx (by simp)
  | cons b bs ih =>
    unfold Cells.write
    have hset := Cells.wf_set h a b
    by_cases hxa : x = a
    · subst hxa
      rw [Cells.get_write_outside hset _ _ _ (.inl (Nat.lt_succ_self x)), Cells.get_set h, if_pos rfl]
      simp
    · have hlt : a + 1 ≤ x ∧ x < a + 1 + bs.length := by simp at hx; omega
      rw [ih hset (a + 1) hlt]
      have : x - a = x - (a + 1) + 1 := by omega
      rw [this]
      rfl

theorem stored_of_cells {s t : State} {a : Nat} {d : List Byte} (h : Safety.MemoryCanonical s) (ht : t.mem.cells = Cells.write s.mem.cells a d) :
    Stored s t a d := by
  intro i
  unfold State.byteAt
  rw [ht]
  split
  · next hi => exact get_write_inside h a d i hi
  · next hi => exact Cells.get_write_outside h a d i (by omega)

theorem armedIn_uninjected {s : State} (h : Uninjected s) (pa n : Nat) : armedIn s pa n = [] := by
  unfold armedIn
  refine List.flatMap_eq_nil_iff.mpr fun c hc => ?_
  rw [List.map_eq_nil_iff]
  refine List.filter_eq_nil_iff.mpr fun j hj => ?_
  have hstore := h c hc j hj
  unfold Injection.hits
  simp only [Bool.and_eq_true, decide_eq_true_eq]
  omega

/-- With no error armed a walk of the tables wakes homes, no more. -/
theorem woken_walkMeet {s : State} (h : Uninjected s) (ctx page : Nat) : Woken s (walkMeet s ctx page) := by
  unfold walkMeet
  generalize walkReads s ctx page = as
  suffices has : ∀ t, Woken s t → Woken s (as.foldl (fun s a => touchBytes s a 8) t) from has s (.refl s)
  induction as with
  | nil => exact fun _ ht => ht
  | cons a as ih =>
    intro t ht
    refine ih _ (ht.trans (woken_touchBytes ?_))
    obtain ⟨f, rfl, -⟩ := ht
    exact armedIn_uninjected h a 8

theorem pieces_line {va : W64} (h : va.toNat % 64 = 0) : pieces va 3 64 = [(va, 64)] := by
  simp [pieces, h]

theorem putBytes_ctxs (s : State) (pa : Nat) (d : List Byte) : (putBytes s pa d).ctxs = s.ctxs := by
  have hdisarm : ∀ (js : List (Nat × Injection)) (s : State), (js.foldl (fun s x => dropInj s x.1 x.2) s).ctxs = s.ctxs := by
    intro js
    induction js with
    | nil => exact fun _ => rfl
    | cons j js ih => exact fun s => (ih _).trans rfl
  obtain ⟨f, hf, -⟩ : Woken s (wakeHomes s pa d.length) := Woken.foldl (fun s _ => woken_wakeHome s _) _ s
  refine (hdisarm _ (wakeHomes s pa d.length)).trans ?_
  rw [hf]

/-- A line written through a context's tables where no error is armed and nothing holds it. -/
theorem vaWrite_line {s : State} {ctx pa : Nat} {va : W64} {d : List Byte} (hd : d.length = 64) (hva : va.toNat % 64 = 0)
    (hpa : ioAddr s ctx va .write = some pa) (hfree : mustQueue s.mem pa 64 = false) (h : Uninjected s) :
    ∃ t, Woken s t ∧ vaWrite s ctx va d = putBytes t pa d := by
  have hwoken := woken_walkMeet h ctx (vaBits va / 65536)
  refine ⟨_, hwoken, ?_⟩
  have hsame : ioAddr (walkMeet s ctx (vaBits va / 65536)) ctx va .write = some pa ∧ mustQueue (walkMeet s ctx (vaBits va / 65536)).mem pa d.length = false := by
    obtain ⟨f, hf, -⟩ := hwoken
    rw [hf, hd]
    exact ⟨hpa, hfree⟩
  obtain ⟨haddr, hqueue⟩ := hsame
  unfold vaWrite
  rw [hd, pieces_line hva, List.foldl_cons, List.foldl_nil]
  dsimp only
  rw [haddr]
  dsimp only
  rw [List.take_of_length_le (Nat.le_of_eq hd), State.write, if_neg (by rw [hqueue]; simp)]

/-! ### LAUNCH_COMPLETE (20 R333) -/

@[simp] theorem length_leBytes (n x : Nat) : (leBytes n x).length = n := by
  induction n generalizing x with
  | zero => rfl
  | succ n ih => simp [leBytes, ih]

/-- What the record holds (20 R333). -/
def recordOf (s : State) (id : Nat) (l : Launch) : List Byte :=
  completionBytes (statusOf l.killed l.cancel l.first).1 (statusOf l.killed l.cancel l.first).2 id l.count l.lost l.dropped s.tick l.async

theorem length_recordOf {s : State} {id : Nat} {l : Launch} (h : l.async = none) : (recordOf s id l).length = 64 := by
  unfold recordOf completionBytes
  rw [h]
  simp only [List.length_append, length_leBytes, Option.getD_none, List.length_replicate]

theorem statusOf_eq (killed cancelled : Bool) (first : Option Cause) : statusOf killed cancelled first =
    (if killed then 3 else if cancelled then 2 else if first.isSome then 3 else 1, if killed then 0 else match first with | some c => c.code | none => 0) := by
  cases killed <;> cases cancelled <;> cases first <;> rfl

/-- The launch is over and its slices are free; then what started it goes on. -/
def launchOver (s : State) (id : Nat) (l : Launch) : State :=
  let s := l.binds.foldl (fun s x => s.sendOut (.bound x.1.chip x.1.id false)) s
  let s := s.setLaunch id { l with done := true, binds := [] }
  let s := { s with mem := { s.mem with slices := s.mem.slices.map (fun x =>
    if x.2.owner = some id then (x.1, { x.2 with owner := none }) else x) } }
  stageItem s l.ownStage

theorem launchComplete_queue {s : State} {id q pk : Nat} {l : Launch} (hl : s.launch? id = some l) (hdone : l.done = false)
    (hended : l.units.length ≤ l.count) (horigin : l.origin = .queue q pk) :
    launchComplete s id = packetDone (launchOver (addSsem (vaWrite s l.ctx l.crec (recordOf s id l)) l.ctx l.ssem l.sinc) id l) q pk := by
  unfold launchComplete
  rw [hl]
  dsimp only
  rw [if_neg (by simp [hdone, Nat.not_lt.mpr hended])]
  split
  · next h =>
    rw [horigin] at h
    obtain ⟨rfl, rfl⟩ := Origin.queue.inj h
    rfl
  · next h => rw [horigin] at h; contradiction
  · next h => rw [horigin] at h; contradiction

/-- What it leaves: memory's bytes and the contexts, the queues and the count of jobs. -/
structure LaunchOver (s t : State) (id : Nat) (l : Launch) : Prop where
  cells : t.mem.cells = s.mem.cells
  ctxs : t.ctxs = s.ctxs
  queues : t.host.queues = s.host.queues
  jobcnt : t.host.jobcnt = s.host.jobcnt
  launch : t.launch? id = some { l with done := true, binds := [] }

theorem launchOver_over (s : State) (id : Nat) (l : Launch) : LaunchOver s (launchOver s id l) id l := by
  obtain ⟨e, he⟩ := foldl_esc (f := fun s (x : RemoteBind × Nat) => s.sendOut (.bound x.1.chip x.1.id false)) (fun s _ => ⟨_, rfl⟩) l.binds s
  unfold launchOver
  rw [he]
  dsimp only
  unfold stageItem
  split
  · exact ⟨rfl, rfl, rfl, rfl, kfind_kset_same _ _ _⟩
  · exact ⟨rfl, rfl, rfl, rfl, kfind_kset_same _ _ _⟩

/-- A packet's completion is counted once, and only the queues and that count differ. -/
theorem packetDone_spec (s : State) (q pk : Nat) : (packetDone s q pk).mem = s.mem ∧ (packetDone s q pk).ctxs = s.ctxs ∧
    (packetDone s q pk).host.launches = s.host.launches ∧
    (pk ∈ (s.queue q).active → kget 0 (packetDone s q pk).host.jobcnt (s.queue q).job = kget 0 s.host.jobcnt (s.queue q).job + 1) := by
  unfold packetDone
  dsimp only
  split
  · exact ⟨rfl, rfl, rfl, fun _ => kget_kset_same _ _ _ _⟩
  · next h => exact ⟨rfl, rfl, rfl, fun hpk => absurd (by simpa using hpk) h⟩

theorem addSsem_spec (s : State) (ctx ssem sinc : Nat) : (addSsem s ctx ssem sinc).mem = s.mem ∧ (addSsem s ctx ssem sinc).host = s.host ∧
    (ssem / 2 ^ 15 % 2 = 1 → (((addSsem s ctx ssem sinc).ctx ctx).sem (ssem % 1024)).val = ((s.ctx ctx).sem (ssem % 1024)).val + BitVec.ofNat 32 sinc) := by
  unfold addSsem
  split
  · refine ⟨rfl, rfl, fun _ => ?_⟩
    unfold semAdd State.modCtx State.setCtx State.ctx Ctx.sem
    dsimp only
    rw [kget_kset_same]
    unfold kupd
    rw [kget_kset_same]
  · next h => exact ⟨rfl, rfl, fun h' => absurd h' h⟩

/-- Settles O47: a start that a queue's packet makes in a state that reads the same, and the record written through the context's tables. -/
theorem launchesStartAndComplete : Obligations.LaunchesStartAndComplete := by
  refine ⟨launchesStart, ?_⟩
  intro id q pk pa l s
  dsimp only
  intro hcanon hl hdone hended hcrec hpa hfree hinj hasync horigin
  obtain ⟨t, hwoken, hwrite⟩ := vaWrite_line (length_recordOf hasync) hcrec hpa hfree hinj (d := recordOf s id l)
  have hhost := (unitsStand_vaWrite s l.ctx l.crec (recordOf s id l)).1
  have hwritten : (vaWrite s l.ctx l.crec (recordOf s id l)).mem.cells = Cells.write s.mem.cells pa (recordOf s id l) ∧
      (vaWrite s l.ctx l.crec (recordOf s id l)).ctxs = s.ctxs := by
    obtain ⟨f, rfl, -⟩ := hwoken
    rw [hwrite, putBytes_cells, putBytes_ctxs]
    exact ⟨rfl, rfl⟩
  obtain ⟨hcells, hctxs⟩ := hwritten
  refine ⟨_, congrArg Host.Outcome.next (launchComplete_queue hl hdone hended horigin), ?_⟩
  generalize vaWrite s l.ctx l.crec (recordOf s id l) = w at *
  obtain ⟨haddMem, haddHost, haddSem⟩ := addSsem_spec w l.ctx l.ssem l.sinc
  have hover := launchOver_over (addSsem w l.ctx l.ssem l.sinc) id l
  obtain ⟨hmem, hdoneCtxs, hlaunches, hcount⟩ := packetDone_spec (launchOver (addSsem w l.ctx l.ssem l.sinc) id l) q pk
  have hqueue : (launchOver (addSsem w l.ctx l.ssem l.sinc) id l).queue q = s.queue q :=
    queue_congr (hover.queues.trans (by rw [haddHost, hhost])) q
  have hstored : Stored s (packetDone (launchOver (addSsem w l.ctx l.ssem l.sinc) id l) q pk) pa (recordOf s id l) := by
    refine stored_of_cells hcanon ?_
    rw [hmem, hover.cells, haddMem, hcells]
  refine ⟨(launch?_congr hlaunches id).trans hover.launch, ?_, fun hssem => ?_, fun hpk => ?_⟩
  · rw [recordOf, completionBytes, hasync, statusOf_eq] at hstored
    exact hstored
  · have hsame : ∀ {a b : State}, a.ctxs = b.ctxs → a.ctx = b.ctx := fun h => by unfold State.ctx; rw [h]
    rw [hsame (hdoneCtxs.trans hover.ctxs), haddSem hssem, hsame hctxs]
  · rw [hqueue] at hcount
    rw [hcount hpk, hover.jobcnt, haddHost, hhost]

end Sys2Proof.KernelMachine

namespace Sys2Proof.KernelMachine

open Sys2Proof Sys2Proof.Machine Sys2Proof.Claims

/-! ### A launch ID held twice (20 R326, R339) -/

/-- A graph run of slot 0 and context 0 with one node, not started. -/
def oneNodeRun : GraphRun :=
  { slot := 0, ctx := 0, image := [1, 0], patches := [], started := [], ended := [], faults := [], refused := [], count := 0, origin := none
    stage := none, job := 0, first := none, killed := false, cancel := false, async := none, done := false }

/-- The launch of run `j`'s node, with one unit that waits. -/
def nodeLaunch (j : Nat) : Launch := { addressedLaunch with units := [(0, .waiting)], origin := .graph j 0 }

/-- Runs 1 and 2 of slot 0; the host's table holds ID 5 twice, first for run 2's launch, then for run 1's. -/
def sharedIdState : State :=
  { State.reset with host := { HostState.reset with
      runs := [(1, oneNodeRun), (2, oneNodeRun)], launches := [(5, nodeLaunch 2), (5, nodeLaunch 1)] } }

/-- CANCEL of the runs of context 0's slot 0 (20 R339). -/
def cancelSlot0 : BitVec 64 := 0x4000000000000000

theorem sharedIdState_runEnded : ¬ RunEnded sharedIdState 2 oneNodeRun := by
  intro h
  rcases h 0 (by decide) with hended | ⟨l, hl, horigin, hcount⟩ | ⟨e, he, -⟩
  · exact absurd hended List.not_mem_nil
  · rcases List.mem_cons.mp hl with rfl | hl
    · exact absurd hcount (by decide)
    · obtain rfl := List.mem_singleton.mp hl
      exact absurd horigin (by decide)
  · exact absurd he List.not_mem_nil

/-- The cancel of run 1 ends the last unit of the launch that ID 5 finds, which is run 2's: so run 2 stands. -/
theorem sharedIdState_stands : (kfind (cancelAt sharedIdState 1 cancelSlot0).host.runs 2).map (·.cancel) = some false := by decide +kernel

/-- Refutes O49: the statement holds for every state, also one whose table of launches has an ID twice, where a run that the word names is
not cancelled. Each run's cancel goes by the IDs of its launches, and an ID finds the first launch that has it: in `sharedIdState` the cancel of run 1
finds run 2's launch, whose only unit ends so, and run 2, whose last node has then ended, stands. -/
theorem not_cancelReachesItsLevel : ¬ Obligations.CancelReachesItsLevel := by
  intro h
  obtain ⟨-, hreach⟩ := h 1 .cancelGraph cancelSlot0 sharedIdState (.inr (.inl ⟨rfl, rfl⟩))
  obtain ⟨t, hexec, -, hruns, -⟩ := hreach (by decide)
  obtain ⟨r', hr', hcancel, -⟩ := hruns 2 oneNodeRun ⟨rfl, rfl, rfl, .inl ⟨rfl, rfl⟩, sharedIdState_runEnded⟩
  have ht : cancelAt sharedIdState 1 cancelSlot0 = t := by injection hexec
  have hstands := sharedIdState_stands
  rw [ht, hr', Option.map_some, hcancel] at hstands
  exact absurd hstands (by decide)

end Sys2Proof.KernelMachine

/-! PROOFS. The word of an instruction decodes to it (02 R31, R32, R40–R47): the fields that the encoding spells are what the
grid of its class reads. -/

namespace Sys2Proof.Encoding

/-! ### The class grids read what is spelt

The split over the instruction leaves those of the class: `h` then holds the opcode, the reserved zeros, and each operand as a
field of the word. -/

theorem decodeG_of_spells {x : W32} {i : Instr} (h : Spells x i) (hclass : (fld x 29 3).toNat = 7) : decodeG x = .ok i := by
  cases i
  all_goals simp [Spells, encode.eq_def, hclass] at h
  all_goals simp only [HasField] at h
  all_goals simp [decodeG, cell, h]

theorem decodeA_of_spells {x : W32} {i : Instr} (h : Spells x i) (hclass : (fld x 29 3).toNat = 1) : decodeA x = .ok i := by
  cases i
  all_goals simp [Spells, encode.eq_def, hclass] at h
  all_goals simp only [HasField] at h
  all_goals simp [decodeA, cell, h]

theorem decodeV_of_spells {x : W32} {i : Instr} (h : Spells x i) (hclass : (fld x 29 3).toNat = 2) : decodeV x = .ok i := by
  cases i
  all_goals simp [Spells, encode.eq_def, hclass] at h
  all_goals simp only [HasField] at h
  all_goals simp [decodeV, cell, h]

theorem decodeM_of_spells {x : W32} {i : Instr} (h : Spells x i) (hclass : (fld x 29 3).toNat = 3) : decodeM x = .ok i := by
  cases i
  all_goals simp [Spells, encode.eq_def, hclass] at h
  all_goals simp only [HasField] at h
  all_goals simp [decodeM, cell, h]

theorem decodeK_of_spells {x : W32} {i : Instr} (h : Spells x i) (hclass : (fld x 29 3).toNat = 4) : decodeK x = .ok i := by
  cases i
  all_goals simp [Spells, encode.eq_def, hclass] at h
  all_goals simp only [HasField] at h
  all_goals simp [decodeK, cell, h]

theorem decodeS_of_spells {x : W32} {i : Instr} (h : Spells x i) (hclass : (fld x 29 3).toNat = 6) : decodeS x = .ok i := by
  cases i
  all_goals simp [Spells, encode.eq_def, hclass] at h
  all_goals simp only [HasField] at h
  all_goals simp [decodeS, cell, h]



/-- Bit 4 and the bits around it of the body, where RDV and RDV.end have their difference (02 R42). -/
theorem toNat_fld_of_rdv (x : W32) : (fld x 4 16).toNat = (fld x 5 15).toNat * 2 + (fld x 4 1).toNat ∧
    (fld x 0 20).toNat = (fld x 4 16).toNat * 16 + (fld x 0 4).toNat :=
  ⟨toNat_fld_add (m := 15) (n := 1), toNat_fld_add (m := 16) (n := 4)⟩

/-- RDV of A, V, M or K has the class and the opcode of C's RDV: its stream tells them apart. -/
theorem decodeC_of_spells {x : W32} {i : Instr} (h : Spells x i) (hclass : (fld x 29 3).toNat = 0)
    (hi : ∀ w, i ≠ .rdvStream w) : decodeC x = .ok i := by
  obtain ⟨hhigh, hbody⟩ := toNat_fld_of_rdv x
  cases i
  case rdvStream w => exact absurd rfl (hi w)
  all_goals simp [Spells, encode.eq_def, hclass] at h
  all_goals simp only [HasField] at h
  case rdv =>
    obtain ⟨⟨⟨-, -⟩, hzero⟩, -⟩ := id h
    have hbit : (fld x 4 1).toNat = 0 := by omega
    have hrest : (fld x 5 15).toNat = 0 := by omega
    simp [decodeC, cell, h, hbit, hrest]
  case rdvEnd =>
    obtain ⟨-, hend⟩ := id h
    have hlow := (fld x 0 4).isLt
    have hbit := (fld x 4 1).isLt
    have hone : (fld x 4 1).toNat = 1 := by omega
    have hrest : (fld x 5 15).toNat = 0 := by omega
    have hzero : (fld x 0 4).toNat = 0 := by omega
    simp [decodeC, cell, h, hone, hrest, hzero]
  all_goals simp [decodeC, cell, h]

theorem decodeCell_rdvStream {x : W32} {w : BitVec 3} (h : Spells x (.rdvStream w)) (p : Bool) :
    decodeCell ⟨.A, p⟩ x = .ok (.rdvStream w) := by
  simp [Spells, encode.eq_def] at h
  simp only [HasField] at h
  simp [decodeCell, decodeRdvStream, cell, h]

theorem class_ne_five {x : W32} {i : Instr} (h : Spells x i) : (fld x 29 3).toNat ≠ 5 := by
  intro hclass
  cases i <;> simp [Spells, encode.eq_def, hclass] at h

theorem decodeCell_of_common {x : W32} (env : DecodeEnv) (hclass : (fld x 29 3).toNat = 7) : decodeCell env x = decodeG x := by
  simp [decodeCell, hclass]

/-- Each class decodes in its own stream, S in a privileged C (02 R32). -/
theorem decodeCell_of_spells {x : W32} {i : Instr} (h : Spells x i) : ∃ e, decodeCell ⟨e, true⟩ x = .ok i := by
  by_cases hrdv : ∃ w, i = .rdvStream w
  · obtain ⟨w, rfl⟩ := hrdv
    exact ⟨.A, decodeCell_rdvStream h true⟩
  have hi : ∀ w, i ≠ .rdvStream w := fun w hw => hrdv ⟨w, hw⟩
  have hlt : (fld x 29 3).toNat < 8 := (fld x 29 3).isLt
  match hclass : (fld x 29 3).toNat with
  | 0 => exact ⟨.C, by simp [decodeCell, hclass, decodeC_of_spells h hclass hi]⟩
  | 1 => exact ⟨.A, by simp [decodeCell, hclass, decodeA_of_spells h hclass]⟩
  | 2 => exact ⟨.V, by simp [decodeCell, hclass, decodeV_of_spells h hclass]⟩
  | 3 => exact ⟨.M, by simp [decodeCell, hclass, decodeM_of_spells h hclass]⟩
  | 4 => exact ⟨.K, by simp [decodeCell, hclass, decodeK_of_spells h hclass]⟩
  | 5 => exact absurd hclass (class_ne_five h)
  | 6 => exact ⟨.C, by simp [decodeCell, hclass, decodeS_of_spells h hclass]⟩
  | 7 => exact ⟨.C, by rw [decodeCell_of_common _ hclass, decodeG_of_spells h hclass]⟩
  | n + 8 => omega

/-- Settles O58: the word of an instruction spells it, the class grid reads what is spelt, and the fields of a well-formed one pass the checks. -/
theorem encodedWordsDecode : Obligations.EncodedWordsDecode := by
  intro i x hwf hencode
  have hspells : Spells x i := spells_iff.mpr hencode
  constructor
  · obtain ⟨e, hcell⟩ := decodeCell_of_spells hspells
    exact ⟨e, decodeWord_eq_ok_iff.mpr ⟨hcell, hwf⟩⟩
  · intro hcommon env
    have hclass : (fld x 29 3).toNat = 7 := by rw [hcommon]; rfl
    refine decodeWord_eq_ok_iff.mpr ⟨?_, hwf⟩
    rw [decodeCell_of_common env hclass, decodeG_of_spells hspells hclass]

/-- Settles O56: the decoder run on each word. -/
theorem sampleWordsDecode : Obligations.SampleWordsDecode := by
  unfold Obligations.SampleWordsDecode
  decide +kernel

end Sys2Proof.Encoding

/-! PROOFS. A step runs the word that its stream has decoded (02 R30, R32; 21 R347, R349): what `step` does with each head of the
agenda, and what a fetch answers, branch by branch. -/

namespace Sys2Proof.KernelMachine

open Sys2Proof Sys2Proof.Machine Sys2Proof.Claims

/-! ### A step by the head of the agenda -/

theorem step_nil {s : State} (hpow : s.fleet.powered = true) (h : s.agenda = []) : step s = .next (refill s) := by
  simp [step, hpow, h]

theorem step_event {s : State} {i : Instr} {rest : List Agendum} (hpow : s.fleet.powered = true) (h : s.agenda = .event i :: rest) :
    step s = exec i { s with agenda := rest } := by
  simp [step, hpow, h]

theorem step_of_fetch_done {s t : State} {core : Nat} {e : Engine} {rest : List Agendum} (hpow : s.fleet.powered = true)
    (h : s.agenda = .issue core e :: rest) (hfetch : fetch { s with agenda := rest } core e = .done t) : step s = .next t := by
  simp [step, hpow, h, hfetch]

theorem step_of_fetch_word {s t : State} {core : Nat} {e : Engine} {i : Instr} {rest : List Agendum} (hpow : s.fleet.powered = true)
    (h : s.agenda = .issue core e :: rest) (hfetch : fetch { s with agenda := rest } core e = .word i t) : step s = exec i t := by
  simp [step, hpow, h, hfetch]

/-! ### A fetch, branch by branch

`u` is the state once A of the active bank has been woken where it goes on. -/

section
variable {s u : State} {core : Nat} {b : BankId} {e : Engine} {x : W32}

theorem fetch_of_stays (hb : s.activeBank core = b) (hu : wakeA s b e = u) (hmay : mayIssue u b e = false) :
    fetch s core e = .done u := by
  subst hb hu
  simp [fetch, hmay]

theorem fetch_of_refused {f : BankFault} (hb : s.activeBank core = b) (hu : wakeA s b e = u) (hmay : mayIssue u b e = true)
    (he : e = .A) (hf : refusedFor (u.bank b) = some f) :
    fetch s core e = .done (takeTrap (u.modBank b (fun k => { k with faults := k.faults.erase f })) b e
      (mkTrap .translationRefused f.va) ((u.bank b).stream e).pc) := by
  subst hb hu he
  simp [fetch, hmay, hf]

theorem refusal_none (hfree : e ≠ .A ∨ refusedFor (u.bank b) = none) : (if e = .A then refusedFor (u.bank b) else none) = none := by
  rcases hfree with he | hnone
  · rw [if_neg he]
  · simp [hnone]

theorem fetch_of_noWord (hb : s.activeBank core = b) (hu : wakeA s b e = u) (hmay : mayIssue u b e = true)
    (hfree : e ≠ .A ∨ refusedFor (u.bank b) = none) (hx : (u.bank b).wordAt ((u.bank b).stream e).pc = none) :
    fetch s core e = .done (takeTrap u b e (mkTrap .accessViolation ((u.bank b).stream e).pc) ((u.bank b).stream e).pc) := by
  have hnone := refusal_none hfree
  subst hb hu
  simp [fetch, hmay, hnone, hx]

theorem fetch_of_illFormed {c : Cause} (hb : s.activeBank core = b) (hu : wakeA s b e = u) (hmay : mayIssue u b e = true)
    (hfree : e ≠ .A ∨ refusedFor (u.bank b) = none) (hx : (u.bank b).wordAt ((u.bank b).stream e).pc = some x)
    (hc : decodeWord ⟨e, (u.ctxOf b).priv⟩ x = .error c) :
    fetch s core e = .done (takeTrap (armedAway u b e) b e (mkTrap c (x.setWidth 64)) ((u.bank b).stream e).pc) := by
  have hnone := refusal_none hfree
  subst hb hu
  simp [fetch, hmay, hnone, hx, hc]

theorem fetch_of_decoded {i : Instr} (hb : s.activeBank core = b) (hu : wakeA s b e = u) (hmay : mayIssue u b e = true)
    (hfree : e ≠ .A ∨ refusedFor (u.bank b) = none) (hx : (u.bank b).wordAt ((u.bank b).stream e).pc = some x)
    (hi : decodeWord ⟨e, (u.ctxOf b).priv⟩ x = .ok i) : fetch s core e = .word i { u with cur := ⟨b, e, x⟩ } := by
  have hnone := refusal_none hfree
  subst hb hu
  simp [fetch, hmay, hnone, hx, hi]

end

theorem wakeA_ctxOf (s : State) (b : BankId) (e : Engine) : (wakeA s b e).ctxOf b = s.ctxOf b := by
  simp only [wakeA]
  split
  · simp [State.ctxOf, Bank.ctxNum]
  · rfl

/-- An MGO or MMA that fails its checks takes the arming with it (07 R187). -/
theorem armedAway_of_word {s : State} {b : BankId} {e : Engine} {x : W32} (hx : (s.bank b).wordAt ((s.bank b).stream e).pc = some x) :
    armedAway s b e = if e = .M ∧ fld x 29 3 = 3 ∧ (fld x 20 6 = 5 ∨ fld x 20 6 = 7) then
      s.modBank b (fun k => { k with mEng := { k.mEng with armed := false } }) else s := by
  unfold armedAway
  by_cases he : e = .M
  · subst he
    have hm : (s.bank b).wordAt (s.bank b).m.pc = some x := hx
    simp [hm]
  · simp [he]

/-- Settles O54: by the head of the agenda, and for a stream that moves by the branches of its fetch. -/
theorem stepRunsDecodedWord : Obligations.StepRunsDecodedWord := by
  intro s core e rest hpow b v u k pc taken
  have hb : v.activeBank core = b := rfl
  have hu : wakeA v b e = u := by
    have hbank : v.bank b = s.bank b := rfl
    simp [wakeA, u, hbank, and_assoc]
  have hctx : (u.ctxOf b).priv = (s.ctxOf b).priv := by
    rw [← hu, wakeA_ctxOf]
    rfl
  refine ⟨fun h hmay => ?stays, fun h hmay => ⟨fun f he hf => ?refused, fun hfree => ⟨fun hnone => ?noWord,
    fun x hx => ⟨fun c hc => ?illFormed, fun i hi => ?decoded⟩⟩⟩, fun ev h => step_event hpow h, step_nil hpow⟩
  case stays => exact step_of_fetch_done hpow h (fetch_of_stays hb hu hmay)
  case refused => exact step_of_fetch_done hpow h (fetch_of_refused hb hu hmay he hf)
  case noWord => exact step_of_fetch_done hpow h (fetch_of_noWord hb hu hmay hfree hnone)
  case illFormed =>
    rw [← hctx] at hc
    have hfetch := fetch_of_illFormed hb hu hmay hfree hx hc
    rw [armedAway_of_word hx] at hfetch
    exact step_of_fetch_done hpow h hfetch
  case decoded =>
    rw [← hctx] at hi
    exact step_of_fetch_word hpow h (fetch_of_decoded hb hu hmay hfree hx hi)

end Sys2Proof.KernelMachine

/-! PROOFS. What leaves the bytes of memory as they are: one equation for each operation of the machine that moves no byte. The step lemma
of memory's canonical form rests on these and on the operations that write. -/

namespace Sys2Proof.KernelMachine

open Sys2Proof Sys2Proof.Machine

theorem ite_cells {c : Prop} [Decidable c] {s t : State} {l : List Host.Cell} (hs : s.mem.cells = l) (ht : t.mem.cells = l) :
    (if c then s else t).mem.cells = l := by
  split <;> assumption

/-! ### Slices, reads of a home -/

@[simp] theorem setSlice_cells (s : State) (n : Nat) (x : Slice) : (s.setSlice n x).mem.cells = s.mem.cells := by rfl

@[simp] theorem slretire_cells (s : State) (v : W64) : (slretire s v).mem.cells = s.mem.cells := by
  simp only [slretire]
  repeat' split
  all_goals simp

@[simp] theorem retireWaiting_cells (s : State) : (retireWaiting s).mem.cells = s.mem.cells := by
  simp [retireWaiting, foldl_cells]

@[simp] theorem fresh_cells (s : State) : (s.fresh).2.mem.cells = s.mem.cells := by rfl

@[simp] theorem msix_cells (s : State) (n : Nat) : (s.msix n).mem.cells = s.mem.cells := by rfl

@[simp] theorem homeRead_cells (s : State) (pa n : Nat) : (homeRead s pa n).2.2.mem.cells = s.mem.cells := by
  simp [homeRead]

@[simp] theorem channelRead_cells (s : State) (pa : Nat) (o : EccOutcome) : (channelRead s pa o).mem.cells = s.mem.cells := by
  simp only [channelRead]
  split <;> simp

@[simp] theorem queueOp_cells (s : State) (op : LateOp) (cls : Nat) : (queueOp s op cls).mem.cells = s.mem.cells := by rfl

@[simp] theorem noteMisses_cells (s : State) (n requester cls limit : Nat) : (noteMisses s n requester cls limit).mem.cells = s.mem.cells := by
  unfold noteMisses
  split <;> rfl

@[simp] theorem repliesBack_cells (s : State) (core : Nat) : (repliesBack s core).mem.cells = s.mem.cells := by
  simp only [repliesBack]
  split <;> simp [foldl_cells]

/-! ### How a word retires, waits or ends a unit -/

@[simp] theorem noteFailure_cells (s : State) (b : BankId) (c : Cause) : (s.noteFailure b c).mem.cells = s.mem.cells := by
  simp [State.noteFailure]

@[simp] theorem endUnit_cells (s : State) (b : BankId) (st : EndStatus) : (endUnit s b st).mem.cells = s.mem.cells := by rfl

@[simp] theorem enterHandler_cells (s : State) (b : BankId) (e : Engine) (tr : Trap) (pc : W64) :
    (enterHandler s b e tr pc).mem.cells = s.mem.cells := by rfl

@[simp] theorem noteBlock_cells (s : State) (k : BlockKind) (tv : W64) : (noteBlock s k tv).mem.cells = s.mem.cells := by rfl

@[simp] theorem interlocked_cells (s : State) (onA : Bool) : (interlocked s onA).mem.cells = s.mem.cells := by rfl

@[simp] theorem retireAt_cells (s : State) (w : BitVec 3) (pc : W64) (x : Nat) : (retireAt s w pc x).mem.cells = s.mem.cells := by rfl

@[simp] theorem retire_cells (s : State) (w : BitVec 3) : (retire s w).mem.cells = s.mem.cells := by rfl

@[simp] theorem wrReg_cells (s : State) (r : Reg) (v : W64) (l : Nat) : (wrReg s r v l).mem.cells = s.mem.cells := by
  simp only [wrReg]
  repeat' split
  all_goals rfl

@[simp] theorem redirectNo_cells (s : State) : (redirectNo s).2.mem.cells = s.mem.cells := by rfl

@[simp] theorem redirect_cells (s : State) (w : BitVec 3) (pc : W64) : (redirect s w pc).mem.cells = s.mem.cells := by rfl

@[simp] theorem acquire_cells (s : State) (b : BankId) : (acquire s b).mem.cells = s.mem.cells := by rfl

@[simp] theorem goTo_cells (s : State) (w : BitVec 3) (pc : W64) : (goTo s w pc).mem.cells = s.mem.cells := by
  unfold goTo
  split <;> rfl

/-! ### Rows and what is credited, kept or asked for -/

@[simp] theorem pendRow_cells (s : State) (i : Nat) (r : Row) (ready : Nat) (tiles : List Nat) :
    (pendRow s i r ready tiles).mem.cells = s.mem.cells := by rfl

@[simp] theorem touchRow_cells (s : State) (core idx : Nat) : (s.touchRow core idx).mem.cells = s.mem.cells := by rfl

@[simp] theorem State.takeRow_cells (s : State) (b : BankId) (q : Nat) : (s.takeRow b q).mem.cells = s.mem.cells := by rfl

@[simp] theorem takeRow_cells (s : State) (sp : Spec) (f : Nat) (idx : List (Nat × Nat)) : (takeRow s sp f idx).2.2.mem.cells = s.mem.cells := by
  simp only [takeRow]
  repeat' split
  all_goals rfl

@[simp] theorem sendOut_cells (s : State) (m : OutMsg) : (s.sendOut m).mem.cells = s.mem.cells := by rfl

@[simp] theorem credit_cells (s : State) (o : Option Sender) : (s.credit o).mem.cells = s.mem.cells := by
  unfold State.credit
  split <;> rfl

@[simp] theorem goToAt_cells (s : State) (w : BitVec 3) (pc : W64) (x : Nat) : (goToAt s w pc x).mem.cells = s.mem.cells := by
  unfold goToAt
  split <;> rfl

@[simp] theorem preemptUnit_cells (s : State) (b : BankId) (again atEnd : Bool) : (preemptUnit s b again atEnd).mem.cells = s.mem.cells := by rfl

@[simp] theorem safePoint_cells (s : State) (b : BankId) : (safePoint s b).mem.cells = s.mem.cells := by
  simp only [safePoint]
  repeat' split
  all_goals rfl

@[simp] theorem keepMark_cells (s : State) (m : Mark) (onA : Bool) : (keepMark s m onA).mem.cells = s.mem.cells := by rfl

@[simp] theorem wrIreg_cells (s : State) (r : Reg) (v : W64) (l : Nat) : (wrIreg s r v l).mem.cells = s.mem.cells := by
  unfold wrIreg
  split <;> rfl

@[simp] theorem wrInt_cells (s : State) (r : Reg) (v : W64) : (wrInt s r v).mem.cells = s.mem.cells := by
  simp only [wrInt]
  split <;> simp

@[simp] theorem releaseSender_cells (s : State) (b : BankId) (q : Nat) (x : Binding) : (releaseSender s b q x).mem.cells = s.mem.cells := by
  simp only [releaseSender]
  repeat' split
  all_goals rfl

@[simp] theorem waits_cells (s : State) : (s.waits).mem.cells = s.mem.cells := by rfl

@[simp] theorem postBind_cells (s : State) (n : Nat) (v : W64) (e : RankEntry) : (postBind s n v e).mem.cells = s.mem.cells := by rfl

/-! ### Requests of a bank, and what keeps an access waiting -/

@[simp] theorem requestWalk_cells (s : State) (die ctx : Nat) (va : W64) (src : Source) (write : Bool) :
    (requestWalk s die ctx va src write).mem.cells = s.mem.cells := by
  simp only [requestWalk]
  repeat' split
  all_goals rfl

@[simp] theorem meetsFirst_cells (s : State) (m : BankMem) (v : View) (ps : List (Nat × Nat)) :
    (meetsFirst s m v ps).mem.cells = s.mem.cells := by
  simp only [meetsFirst]
  split <;> simp [foldl_cells]

@[simp] theorem enqueueReq_cells (s : State) (b : BankId) (va : W64) (ps : List (Nat × Nat)) (kind : ReqKind) (dest : ReqDest)
    (rel : Option Nat) (acq : Bool) :
    (enqueueReq s b va ps kind dest rel acq).mem.cells = s.mem.cells := by rfl

@[simp] theorem popRow_cells (s : State) (b : BankId) (q : Nat) : (s.popRow b q).2.mem.cells = s.mem.cells := by
  simp [State.popRow]

@[simp] theorem storeAt_cells (s : State) (b : BankId) (row : Option (Nat × Bool)) (seq : Nat) (ps : List (Nat × Nat)) (data : List Byte) :
    (storeAt s b row seq ps data).mem.cells = s.mem.cells := by rfl

@[simp] theorem enqueueStore_cells (s : State) (b : BankId) (ps : List (Nat × Nat)) (data : List Byte) :
    (enqueueStore s b ps data).mem.cells = s.mem.cells := by rfl

@[simp] theorem claimReg_cells (s : State) (d : Reg) : (claimReg s d).mem.cells = s.mem.cells := by rfl

@[simp] theorem noteHeld_cells (s : State) (x : Asker) (pa : Nat) : (noteHeld s x pa).mem.cells = s.mem.cells := by
  simp [noteHeld]

@[simp] theorem served_cells (s : State) (x : Asker) (n : Nat) : (served s x n).mem.cells = s.mem.cells := by
  simp only [served]
  split <;> simp

@[simp] theorem walkMeet_cells (s : State) (ctx page : Nat) : (walkMeet s ctx page).mem.cells = s.mem.cells := by
  simp [walkMeet, foldl_cells]

theorem keptAt_cells {s t : State} {x : Asker} {ps : List (Nat × Nat)} (h : keptAt s x ps = some t) : t.mem.cells = s.mem.cells := by
  unfold keptAt at h
  split at h
  · cases h; simp
  · split at h
    · cases h; simp
    · cases h
  · cases h

theorem vaKept_cells {s t : State} {x : Asker} {ctx : Nat} {va : W64} {n : Nat} (h : vaKept s x ctx va n = some t) :
    t.mem.cells = s.mem.cells := by
  unfold vaKept at h
  split at h
  · cases h; simp
  · exact keptAt_cells h

theorem groupKept_cells {s t : State} {x : Asker} {ctx : Nat} {d : List Byte} (h : groupKept s x ctx d = some t) : t.mem.cells = s.mem.cells :=
  vaKept_cells h

theorem replayKept_cells {s t : State} {e : CollEntry} (h : replayKept s e = some t) : t.mem.cells = s.mem.cells := by
  simp only [replayKept] at h
  split at h
  · exact vaKept_cells h
  · cases h

@[simp] theorem vaMeet_cells (s : State) (ctx : Nat) (va : W64) (n : Nat) : (vaMeet s ctx va n).mem.cells = s.mem.cells := by
  unfold vaMeet
  refine foldl_cells _ (fun s p => ?_) _ s
  dsimp only
  split <;> simp

@[simp] theorem groupMeet_cells (s : State) (ctx : Nat) (d : List Byte) : (groupMeet s ctx d).mem.cells = s.mem.cells := by
  simp [groupMeet]

/-! ### Queues of work and semaphores -/

@[simp] theorem setQueue_cells (s : State) (q : Nat) (x : WorkQueue) : (s.setQueue q x).mem.cells = s.mem.cells := by rfl

@[simp] theorem packetDone_cells (s : State) (q pkt : Nat) : (packetDone s q pkt).mem.cells = s.mem.cells := by
  simp only [packetDone]
  split <;> rfl

@[simp] theorem semAdd_cells (s : State) (ctx n : Nat) (inc : BitVec 32) : (semAdd s ctx n inc).mem.cells = s.mem.cells := by rfl

@[simp] theorem addSsem_cells (s : State) (ctx ssem sinc : Nat) : (addSsem s ctx ssem sinc).mem.cells = s.mem.cells := by
  unfold addSsem
  split <;> rfl

@[simp] theorem stageItem_cells (s : State) (o : Option Nat) : (stageItem s o).mem.cells = s.mem.cells := by
  unfold stageItem
  split <;> rfl

@[simp] theorem prefetch_cells (s : State) (b : BankId) (va : W64) : (prefetch s b va).mem.cells = s.mem.cells := by
  unfold prefetch
  split <;> rfl

/-! ### Nests and operations of the engines -/

@[simp] theorem giveRow_cells (s : State) (sp : Spec) (bases : List Nat) (r : Row) (ready : Nat) (tiles : List Nat) :
    (giveRow s sp bases r ready tiles).mem.cells = s.mem.cells := by
  simp only [giveRow]
  split <;> simp [foldl_cells]

@[simp] theorem modShadow_cells (s : State) (f : NestTable → NestTable) : (modShadow s f).mem.cells = s.mem.cells := by rfl

@[simp] theorem bankLoadStart_cells (s : State) (b : BankId) : (bankLoadStart s b).mem.cells = s.mem.cells := by
  simp only [bankLoadStart]
  repeat' split
  all_goals rfl

@[simp] theorem finishNest_cells (fuel : Nat) (s : State) (b : BankId) : (finishNest fuel s b).mem.cells = s.mem.cells := by
  induction fuel generalizing s with
  | zero => rfl
  | succ fuel ih =>
    simp only [finishNest]
    split
    · rfl
    · split
      · rfl
      · split
        · rw [ih]; rfl
        · rfl

@[simp] theorem disarmWritten_cells (s : State) (b : BankId) (o : KOp) : (disarmWritten s b o).mem.cells = s.mem.cells := by
  simp only [disarmWritten]
  repeat' split
  all_goals rfl

@[simp] theorem endOp_cells (s : State) (b : BankId) (o : KOp) : (endOp s b o).mem.cells = s.mem.cells := by
  simp only [endOp]
  split <;> simp

@[simp] theorem failOp_cells (s : State) (b : BankId) (f : Failure) : (failOp s b f).mem.cells = s.mem.cells := by rfl

@[simp] theorem modOp_cells (s : State) (b : BankId) (f : KOp → KOp) : (modOp s b f).mem.cells = s.mem.cells := by rfl

@[simp] theorem popFor_cells (s : State) (b : BankId) (sp : Spec) (n : Nat) : (popFor s b sp n).2.mem.cells = s.mem.cells := by
  induction n generalizing s with
  | zero => rfl
  | succ n ih =>
    simp only [popFor]
    rw [ih]
    split
    · simp
    · split <;> rfl
    · rfl

@[simp] theorem takePort_cells (s : State) (b : BankId) (p : RowPort) : (takePort s b p).2.mem.cells = s.mem.cells := by
  simp only [takePort]
  repeat' split
  all_goals simp

@[simp] theorem givePort_cells (s : State) (b : BankId) (p : RowPort) (r : Row) : (givePort s b p r).mem.cells = s.mem.cells := by
  simp only [givePort]
  split <;> simp

@[simp] theorem commitOp_cells (s : State) (b : BankId) (o : KOp) : (commitOp s b o).mem.cells = s.mem.cells := by rfl

@[simp] theorem advanceOp_cells (fuel : Nat) (s : State) (b : BankId) : (advanceOp fuel s b).mem.cells = s.mem.cells := by
  induction fuel generalizing s with
  | zero => rfl
  | succ fuel ih =>
    simp only [advanceOp]
    repeat' split
    all_goals simp [ih]

/-! ### Translations, way changes and what a unit leaves -/

@[simp] theorem dropTranslations_cells (s : State) (e : BitVec 2) (ctx : Nat) (v : W64) :
    (dropTranslations s e ctx v).mem.cells = s.mem.cells := by rfl

@[simp] theorem startSplit_cells (s : State) (slice : Nat) (mask : BitVec 16) (unit at_ : Nat) :
    (startSplit s slice mask unit at_).mem.cells = s.mem.cells := by rfl

@[simp] theorem applySplits_cells (s : State) (b : BankId) (at_ : Nat) : (applySplits s b at_).mem.cells = s.mem.cells := by
  simp [applySplits, foldl_cells]

@[simp] theorem clearTags_cells (s : State) (id : Nat) : (clearTags s id).mem.cells = s.mem.cells := by rfl

@[simp] theorem unbindRemote_cells (s : State) (b : BankId) : (unbindRemote s b).mem.cells = s.mem.cells := by
  unfold unbindRemote
  refine foldl_cells _ (fun s q => ?_) _ s
  dsimp only
  repeat' split
  all_goals rfl

@[simp] theorem freeSenders_cells (s : State) (b : BankId) : (freeSenders s b).mem.cells = s.mem.cells := by rfl

@[simp] theorem forgetSources_cells (s : State) (p : Source → Bool) : (forgetSources s p).mem.cells = s.mem.cells := by rfl

@[simp] theorem VLate.reads_cells (l : VLate) (s : State) (b : BankId) : (VLate.reads l s b).mem.cells = s.mem.cells := by
  simp only [VLate.reads]
  split <;> simp [foldl_cells]

@[simp] theorem stopSource_cells (s : State) (id : Nat) (va : W64) (src : Source) : (stopSource s id va src).mem.cells = s.mem.cells := by
  unfold stopSource
  split <;> rfl

@[simp] theorem noteForbidden_cells (s : State) (page : Nat) (reqs : List WalkReq) : (noteForbidden s page reqs).mem.cells = s.mem.cells := by
  unfold noteForbidden
  refine foldl_cells _ (fun s r => ?_) _ s
  repeat' split
  all_goals rfl

@[simp] theorem tlbInstall_cells (s : State) (core : Nat) (e : TlbEntry) : (tlbInstall s core e).mem.cells = s.mem.cells := by rfl

@[simp] theorem installFor_cells (s : State) (reqs : List WalkReq) (e : TlbEntry) : (installFor s reqs e).mem.cells = s.mem.cells := by
  unfold installFor
  refine foldl_cells _ (fun s r => ?_) _ s
  split
  · simp
  · rfl

@[simp] theorem noteMiss_cells (s : State) (requester cls limit : Nat) : (noteMiss s requester cls limit).mem.cells = s.mem.cells := by
  simp [noteMiss]

/-! ### Rows of streams, fills and drains -/

@[simp] theorem loadReturn_cells (s : State) (b : BankId) (n : Nat) : (loadReturn s b n).mem.cells = s.mem.cells := by
  simp only [loadReturn]
  repeat' split
  all_goals simp

@[simp] theorem streamFault_cells (s : State) (b : BankId) (n : Nat) (t : Trap) : (streamFault s b n t).mem.cells = s.mem.cells := by rfl

@[simp] theorem putRun_cells (s : State) (b : BankId) (n : Nat) (r : StreamRun) : (putRun s b n r).mem.cells = s.mem.cells := by rfl

theorem reachRow_cells {s t : State} {b : BankId} {n : Nat} {src : Source} {a : Access} {va : W64} {i : Nat}
    (h : reachRow s b n src a va i = .stop t) : t.mem.cells = s.mem.cells := by
  induction i with
  | zero => cases h
  | succ i ih =>
    simp only [reachRow] at h
    split at h
    · cases h; rfl
    · split at h
      · cases h; rfl
      · cases h; rfl
      · cases h; simp
      · split at h
        · cases h
        · next hstop => cases h; exact ih hstop

@[simp] theorem rowAsk_cells (s : State) (b : BankId) (n : Nat) (r : StreamRun) : (rowAsk s b n r).mem.cells = s.mem.cells := by
  simp only [rowAsk]
  split
  · rfl
  · split
    · next h => exact reachRow_cells h
    · rfl

@[simp] theorem touchIssued_cells (s : State) (pa n : Nat) : (touchIssued s pa n).mem.cells = s.mem.cells := by
  simp [touchIssued, foldl_cells]

@[simp] theorem fillLine_cells (s : State) (b : BankId) (issued : Bool) (l : Nat) : (fillLine s b issued l).mem.cells = s.mem.cells := by
  simp only [fillLine]
  repeat' split
  all_goals simp

@[simp] theorem streamLine_cells (s : State) (b : BankId) (n l : Nat) : (streamLine s b n l).mem.cells = s.mem.cells := by
  simp only [streamLine]
  repeat' split
  all_goals simp

@[simp] theorem rowRead_cells (s : State) (b : BankId) (n : Nat) (r : StreamRun) : (rowRead s b n r).mem.cells = s.mem.cells := by
  simp only [rowRead]
  repeat' split
  all_goals simp [foldl_cells]

@[simp] theorem rowsBack_cells (s : State) (b : BankId) (n : Nat) (r : StreamRun) : (rowsBack s b n r).mem.cells = s.mem.cells := by
  simp [rowsBack, foldl_cells]

@[simp] theorem streamRowFetch_cells (s : State) (b : BankId) (n : Nat) : (streamRowFetch s b n).mem.cells = s.mem.cells := by
  simp only [streamRowFetch]
  repeat' split
  all_goals simp

@[simp] theorem putMove_cells (s : State) (b : BankId) (m : Move) : (putMove s b m).mem.cells = s.mem.cells := by rfl

@[simp] theorem feedDrain_cells (fuel : Nat) (s : State) (b : BankId) (n : Nat) : (feedDrain fuel s b n).mem.cells = s.mem.cells := by
  induction fuel generalizing s with
  | zero => rfl
  | succ fuel ih =>
    simp only [feedDrain]
    repeat' split
    all_goals simp [ih]

@[simp] theorem settleDrains_cells (s : State) (b : BankId) (n : Nat) : (settleDrains s b n).mem.cells = s.mem.cells := by
  simp only [settleDrains]
  repeat' split
  all_goals rfl

@[simp] theorem streamRowStore_cells (s : State) (b : BankId) (n : Nat) : (streamRowStore s b n).mem.cells = s.mem.cells := by
  simp only [streamRowStore]
  split
  · rfl
  · split
    · simp
    · split
      · simp
      · split
        · simp
        · split
          · next h => exact (reachRow_cells h).trans (feedDrain_cells _ _ _ _)
          · exact ite_cells (by simp) (by simp)

@[simp] theorem fillRow_cells (s : State) (b : BankId) (t : Nat) : (fillRow s b t).mem.cells = s.mem.cells := by
  simp only [fillRow]
  repeat' split
  all_goals rfl

@[simp] theorem dirtyLineDrain_cells (s : State) (b : BankId) : (dirtyLineDrain s b).mem.cells = s.mem.cells := by
  simp only [dirtyLineDrain]
  repeat' split
  all_goals rfl

@[simp] theorem homeAck_cells (s : State) (b : BankId) : (homeAck s b).mem.cells = s.mem.cells := by
  simp only [homeAck]
  repeat' split
  all_goals simp

/-! ### Messages between units, and barriers -/

@[simp] theorem semsigIncrement_cells (s : State) (b : BankId) (e : Engine) : (semsigIncrement s b e).mem.cells = s.mem.cells := by
  simp only [semsigIncrement]
  repeat' split
  all_goals rfl

@[simp] theorem enqrArrival_cells (s : State) (b : BankId) : (enqrArrival s b).mem.cells = s.mem.cells := by
  simp only [enqrArrival]
  repeat' split
  all_goals rfl

@[simp] theorem boundRowArrival_cells (s : State) (b : BankId) (q : Nat) (ext : Option Row) :
    (boundRowArrival s b q ext).mem.cells = s.mem.cells := by
  simp only [boundRowArrival]
  repeat' split
  all_goals simp

@[simp] theorem creditReturn_cells (s : State) (b : BankId) (q : Nat) : (creditReturn s b q).mem.cells = s.mem.cells := by
  simp only [creditReturn]
  repeat' split
  all_goals rfl

@[simp] theorem setStage_cells (s : State) (b : BankId) (q : Nat) (st : BindStage) : (setStage s b q st).mem.cells = s.mem.cells := by rfl

@[simp] theorem claimQueue_cells (s : State) (p : BankId) (q : Nat) (y : Sender) : (claimQueue s p q y).2.mem.cells = s.mem.cells := by
  simp only [claimQueue]
  repeat' split
  all_goals rfl

@[simp] theorem ownBind_cells (s : State) (b : BankId) (q : Nat) : (ownBind s b q).mem.cells = s.mem.cells := by
  simp only [ownBind]
  repeat' split
  all_goals simp

@[simp] theorem freeRemote_cells (s : State) (r : RemoteBind) : (freeRemote s r).mem.cells = s.mem.cells := by rfl

@[simp] theorem answerBind_cells (s : State) (p : BankId) (r : RemoteBind) (q : Nat) : (answerBind s p r q).mem.cells = s.mem.cells := by
  simp [answerBind]

@[simp] theorem remoteBind_cells (s : State) (r : RemoteBind) (q : Nat) : (remoteBind s r q).mem.cells = s.mem.cells := by
  simp only [remoteBind]
  repeat' split
  all_goals simp

@[simp] theorem bindRequest_cells (s : State) (b : BankId) (q : Nat) (r : Option RemoteBind) :
    (bindRequest s b q r).mem.cells = s.mem.cells := by
  simp only [bindRequest]
  split <;> simp

@[simp] theorem bindAck_cells (s : State) (b : BankId) (q : Nat) (ok : Bool) : (bindAck s b q ok).mem.cells = s.mem.cells := by
  simp only [bindAck]
  repeat' split
  all_goals rfl

@[simp] theorem gbarCompletion_cells (s : State) (b : BankId) : (gbarCompletion s b).mem.cells = s.mem.cells := by
  simp only [gbarCompletion]
  split <;> simp

/-! ### Steps of the matrix engine -/

@[simp] theorem bankLoadFinish_cells (s : State) (b : BankId) : (bankLoadFinish s b).mem.cells = s.mem.cells := by
  simp only [bankLoadFinish]
  repeat' split
  all_goals simp [foldl_cells]

@[simp] theorem endStep_cells (s : State) (b : BankId) (n : Nest) : (endStep s b n).mem.cells = s.mem.cells := by
  unfold endStep
  split <;> rfl

@[simp] theorem failStep_cells (s : State) (b : BankId) (n : Nest) (f : Failure) : (failStep s b n f).mem.cells = s.mem.cells := by rfl

theorem popIf_cells (c : Bool) (s : State) (b : BankId) (sp : Spec) (n : Nat) :
    (if c then ([], s) else popFor s b sp n : List Row × State).2.mem.cells = s.mem.cells := by
  split
  · rfl
  · exact popFor_cells s b sp n

@[simp] theorem startStep_cells (s : State) (b : BankId) (n : Nest) : (startStep s b n).mem.cells = s.mem.cells := by
  have hwaited : ∀ s : State, (match n.waiting with
      | some (c, _) => s.modBank b (fun x => { x with mEng := x.mEng.count 5 (s.cycle - c) })
      | none => s).mem.cells = s.mem.cells := by
    intro s
    split <;> rfl
  unfold startStep
  rcases n.at_ n.pos with ⟨off, bk, cv⟩
  dsimp only
  split
  · exact (failStep_cells _ _ _ _).trans (hwaited s)
  · exact ite_cells rfl rfl
  · split
    · rfl
    · split
      · exact (failStep_cells _ _ _ _).trans (hwaited s)
      · have htaken : ∀ (c : Bool) (k : Nat) (t : State) (rows : List Nat), t.mem.cells = s.mem.cells →
            (rows.foldl (fun s i => s.touchRow b.core i) (if c then ([], t) else popFor t b n.aSpec k).2).mem.cells = s.mem.cells :=
          fun c k t rows ht => (foldl_cells _ (fun s i => touchRow_cells s b.core i) _ _).trans ((popIf_cells c t b n.aSpec k).trans ht)
        refine ite_cells ((failStep_cells _ _ _ _).trans ?_) ?_
        · exact ite_cells (htaken _ _ _ _ (hwaited s)) (htaken _ _ _ _ (hwaited s))
        · exact ite_cells (htaken _ _ _ _ (hwaited s)) (htaken _ _ _ _ (hwaited s))

@[simp] theorem nestStep_cells (s : State) (b : BankId) : (nestStep s b).mem.cells = s.mem.cells := by
  simp only [nestStep]
  repeat' split
  all_goals simp

@[simp] theorem kRunWriteback_cells (s : State) (b : BankId) : (kRunWriteback s b).mem.cells = s.mem.cells := by
  have h : ∀ (rows : List (Nat × Row)) (s : State), (rows.foldl (fun s r => s.putRow b.core r.1 r.2) s).mem.cells = s.mem.cells :=
    foldl_cells _ (fun _ _ => rfl)
  simp only [kRunWriteback]
  repeat' split
  all_goals simp [h]

/-! ### Units in their banks -/

@[simp] theorem armedAway_cells (s : State) (b : BankId) (e : Engine) : (armedAway s b e).mem.cells = s.mem.cells := by
  simp only [armedAway]
  repeat' split
  all_goals rfl

@[simp] theorem unplace_cells (s : State) (b : BankId) : (unplace s b).mem.cells = s.mem.cells := by rfl

@[simp] theorem dropReads_cells (s : State) (q : Nat) : (dropReads s q).mem.cells = s.mem.cells := by
  simp only [dropReads]
  split <;> rfl

@[simp] theorem closeStage_cells (s : State) (q : Nat) : (closeStage s q).mem.cells = s.mem.cells := by
  simp only [closeStage]
  split <;> rfl

@[simp] theorem disableQueue_cells (s : State) (q : Nat) : (disableQueue s q).mem.cells = s.mem.cells := by
  simp [disableQueue]

@[simp] theorem textTouch_cells (s : State) (b : BankId) (ctx : Nat) (va : W64) (n : Nat) :
    (textTouch s b ctx va n).mem.cells = s.mem.cells := by
  rw [textTouch, served_cells]
  refine foldl_cells _ (fun s p => ?_) _ s
  split
  · simp
  · rfl

@[simp] theorem answerHeld_cells (s : State) (id u : Nat) (p : BankId) : (answerHeld s id u p).mem.cells = s.mem.cells := by
  simp only [answerHeld]
  split <;> simp [foldl_cells]

@[simp] theorem bankSwitch_cells (s : State) (core : Nat) : (bankSwitch s core).mem.cells = s.mem.cells := by
  simp only [bankSwitch]
  repeat' split
  all_goals rfl

@[simp] theorem wfiWake_cells (s : State) (b : BankId) : (wfiWake s b).mem.cells = s.mem.cells := by
  simp only [wfiWake]
  repeat' split
  all_goals rfl

@[simp] theorem copyEnds_cells (s : State) (b : BankId) : (copyEnds s b).mem.cells = s.mem.cells := by
  simp only [copyEnds]
  split <;> rfl

/-! ### Records of a channel, and collectives -/

@[simp] theorem checkRecords_cells (s : State) (b : BankId) : (checkRecords s b).mem.cells = s.mem.cells := by
  unfold checkRecords
  split <;> rfl

@[simp] theorem reply_cells (s : State) (core c n limit : Nat) : (s.reply core c n limit).mem.cells = s.mem.cells := by rfl

@[simp] theorem putRunning_cells (s : State) (b : BankId) (ch : Nat) (r : Accepted) : (putRunning s b ch r).mem.cells = s.mem.cells := by rfl

@[simp] theorem resent_cells (s : State) (b : BankId) (ch : Nat) (r : Accepted) : (resent s b ch r).mem.cells = s.mem.cells := by rfl

@[simp] theorem modEntry_cells (s : State) (p : CollId) (f : CollEntry → CollEntry) : (s.modEntry p f).mem.cells = s.mem.cells := by rfl

@[simp] theorem collectiveTakeUp_cells (s : State) (p : CollId) : (collectiveTakeUp s p).mem.cells = s.mem.cells := by
  simp only [collectiveTakeUp]
  repeat' split
  all_goals rfl

@[simp] theorem ticketStart_cells (s : State) (p : CollId) : (ticketStart s p).mem.cells = s.mem.cells := by
  simp only [ticketStart]
  repeat' split
  all_goals rfl

/-! ### Packets, launches and graphs -/

@[simp] theorem ioTouch_cells (s : State) (ctx : Nat) (va : W64) (n : Nat) : (ioTouch s ctx va n).mem.cells = s.mem.cells := by
  unfold ioTouch
  refine foldl_cells _ (fun s p => ?_) _ s
  split
  · simp
  · rfl

@[simp] theorem takeEarly_cells (s : State) (id : Nat) : (takeEarly s id).mem.cells = s.mem.cells := by
  simp [takeEarly, foldl_cells]

@[simp] theorem begin_cells (s : State) (q : Nat) : (begin s q).mem.cells = s.mem.cells := by rfl

@[simp] theorem beginRun_cells (s : State) (slot ctx : Nat) (image : List Byte) (patches : List (Nat × Nat × W64))
    (origin : Option (Nat × Nat)) (stage : Option Nat) (job : Nat) :
    (beginRun s slot ctx image patches origin stage job).mem.cells = s.mem.cells := by rfl

@[simp] theorem timedRelease_cells (s : State) (q : Nat) : (timedRelease s q).mem.cells = s.mem.cells := by
  simp only [timedRelease]
  repeat' split
  all_goals rfl

@[simp] theorem cancelsDone_cells (s : State) (q : Nat) : (cancelsDone s q).mem.cells = s.mem.cells := by
  simp [cancelsDone, foldl_cells]

@[simp] theorem cancelLaunch_cells (s : State) (id : Nat) : (cancelLaunch s id).mem.cells = s.mem.cells := by
  simp only [cancelLaunch]
  split
  · rfl
  · split
    · rfl
    · rw [State.setLaunch_mem, foldl_cells, foldl_cells _ unplace_cells]
      exact fun _ _ => rfl

@[simp] theorem discardTo_cells (s : State) (q : Nat) (p : W64) : (discardTo s q p).mem.cells = s.mem.cells := by
  simp [discardTo]

@[simp] theorem cancelQueues_cells (s : State) (v : W64) : (cancelQueues s v).mem.cells = s.mem.cells := by
  simp only [cancelQueues]
  split <;> simp [foldl_cells]

@[simp] theorem noteStarted_cells (s : State) (run node : Nat) : (noteStarted s run node).mem.cells = s.mem.cells := by rfl

@[simp] theorem endHold_cells (s : State) (h : PastHold) : (endHold s h).mem.cells = s.mem.cells := by rfl

/-! ### Power, time and the domain -/

@[simp] theorem rebuildWriteback_cells (s : State) (addr : Nat) : (rebuildWriteback s addr).mem.cells = s.mem.cells := by
  simp only [rebuildWriteback]
  split <;> simp

@[simp] theorem powerWake_cells (s : State) (p : PowerPart) : (powerWake s p).mem.cells = s.mem.cells := by
  simp only [powerWake]
  repeat' split
  all_goals rfl

@[simp] theorem timedPrewake_cells (s : State) (q : Nat) : (timedPrewake s q).mem.cells = s.mem.cells := by
  simp only [timedPrewake]
  repeat' split
  all_goals rfl

@[simp] theorem tickAdvance_cells (s : State) (n : Nat) : (tickAdvance s n).mem.cells = s.mem.cells := by rfl

@[simp] theorem atsAnswer_cells (iova : Nat) (ans : Option Nat) (s : State) : (atsAnswer iova ans s).mem.cells = s.mem.cells := by
  simp only [atsAnswer]
  repeat' split
  all_goals simp

@[simp] theorem atsInvalidation_cells (s : State) (iova : Nat) : (atsInvalidation s iova).mem.cells = s.mem.cells := by
  simp only [atsInvalidation]
  repeat' split
  all_goals rfl

@[simp] theorem preemptRequest_cells (s : State) (b : BankId) : (preemptRequest s b).mem.cells = s.mem.cells := by
  simp only [preemptRequest]
  split <;> rfl

@[simp] theorem unitResume_cells (s : State) (b : BankId) : (unitResume s b).mem.cells = s.mem.cells := by
  simp only [unitResume]
  repeat' split
  all_goals rfl

@[simp] theorem startReset_cells (s : State) (core : Nat) : (startReset s core).mem.cells = s.mem.cells := by
  unfold startReset
  split <;> rfl

@[simp] theorem dropMatch_cells (s : State) (p : CollId) : (dropMatch s p).mem.cells = s.mem.cells := by rfl

@[simp] theorem domainJoin_cells (s : State) (chip : BitVec 16) (tick : W64) (ptp : Bool) (members : List (Nat × Nat))
    (horizon route : Nat) (port : PtpPort) :
    (domainJoin s chip tick ptp members horizon route port).mem.cells = s.mem.cells := by
  unfold domainJoin
  split <;> rfl

@[simp] theorem alignmentMarker_cells (s : State) (ahead : ℤ) : (alignmentMarker s ahead).mem.cells = s.mem.cells := by
  unfold alignmentMarker
  split <;> rfl

@[simp] theorem linkRetry_cells (s : State) (port : Nat) (late : Bool) : (linkRetry s port late).mem.cells = s.mem.cells := by
  simp only [linkRetry]
  repeat' split
  all_goals rfl

@[simp] theorem raiseAlarm_cells (s : State) : (raiseAlarm s).mem.cells = s.mem.cells := by
  unfold raiseAlarm
  split <;> rfl

@[simp] theorem ptpSync_cells (s : State) (offset : ℤ) : (ptpSync s offset).mem.cells = s.mem.cells := by
  simp only [ptpSync]
  repeat' split
  all_goals simp

@[simp] theorem ptpSyncLoss_cells (s : State) : (ptpSyncLoss s).mem.cells = s.mem.cells := by
  unfold ptpSyncLoss
  split <;> rfl

/-! ### Registers and queues of the host -/

@[simp] theorem fringRegister_cells (s : State) (v : W64) : (fringRegister s v).mem.cells = s.mem.cells := by
  simp only [fringRegister]
  split <;> rfl

@[simp] theorem dlbRegister_cells (s : State) (c : Nat) (v : W64) : (dlbRegister s c v).mem.cells = s.mem.cells := by
  simp only [dlbRegister]
  split <;> rfl

@[simp] theorem pcapRegister_cells (s : State) (v : W64) : (pcapRegister s v).mem.cells = s.mem.cells := by
  simp only [pcapRegister]
  split <;> rfl

@[simp] theorem mirrorRegister_cells (s : State) (off : Nat) (v : W64) : (mirrorRegister s off v).mem.cells = s.mem.cells := by
  unfold mirrorRegister
  split
  · rfl
  · split <;> rfl

@[simp] theorem queueRegister_cells (s : State) (off : Nat) (v : W64) : (queueRegister s off v).mem.cells = s.mem.cells := by
  unfold queueRegister
  refine ite_cells rfl ?_
  split <;> rfl

@[simp] theorem registerWrite_cells (s : State) (off : Nat) (v : W64) (size : Nat) : (registerWrite s off v size).mem.cells = s.mem.cells := by
  simp only [registerWrite]
  repeat' split
  all_goals simp

@[simp] theorem gtrig_cells (s : State) (v : W64) : (gtrig s v).mem.cells = s.mem.cells := by
  simp only [gtrig]
  repeat' split
  all_goals rfl

@[simp] theorem gupload_cells (s : State) (v : W64) : (gupload s v).mem.cells = s.mem.cells := by
  unfold gupload
  split <;> rfl

@[simp] theorem graphUploadDone_cells (s : State) : (graphUploadDone s).mem.cells = s.mem.cells := by
  simp only [graphUploadDone]
  split
  · rfl
  · split
    · next h => exact vaKept_cells h
    · repeat' split
      all_goals simp

@[simp] theorem queueEnable_cells (s : State) (q : Nat) (v : W64) : (queueEnable s q v).mem.cells = s.mem.cells := by
  simp only [queueEnable]
  repeat' split
  all_goals simp

@[simp] theorem queueDisable_cells (s : State) (q : Nat) (v : W64) : (queueDisable s q v).mem.cells = s.mem.cells := by
  simp only [queueDisable]
  split <;> simp

@[simp] theorem queueConfigure_cells (s : State) (q : Nat) (v : W64) : (queueConfigure s q v).mem.cells = s.mem.cells := by
  unfold queueConfigure
  split <;> rfl

@[simp] theorem queueReset_cells (s : State) (q : Nat) : (queueReset s q).mem.cells = s.mem.cells := by
  simp only [queueReset]
  split <;> simp

@[simp] theorem answered_cells (s : State) (b : BankId) : (answered s b).mem.cells = s.mem.cells := by
  unfold answered
  split <;> rfl

@[simp] theorem retrySource_cells (s : State) (id : Nat) (src : Source) : (retrySource s id src).mem.cells = s.mem.cells := by
  simp only [retrySource]
  repeat' split
  all_goals simp

@[simp] theorem markRefused_cells (s : State) (b : BankId) (id : Nat) : (markRefused s b id).mem.cells = s.mem.cells := by rfl

@[simp] theorem dropPages_cells (s : State) (ctx : Nat) (ps : List Nat) : (dropPages s ctx ps).mem.cells = s.mem.cells := by rfl

/-! ### The memory and the management of the module -/

@[simp] theorem retirementDone_cells (s : State) : (retirementDone s).mem.cells = s.mem.cells := by
  simp only [retirementDone]
  split <;> simp

@[simp] theorem rehashReply_cells (s : State) : (rehashReply s).mem.cells = s.mem.cells := by
  unfold rehashReply
  split <;> rfl

@[simp] theorem faqpop_cells (s : State) : (faqpop s).mem.cells = s.mem.cells := by rfl

@[simp] theorem bpretire_cells (s : State) (v : W64) : (bpretire s v).mem.cells = s.mem.cells := by rfl

@[simp] theorem protmap_cells (s : State) (i : Nat) (v : W64) : (protmap s i v).mem.cells = s.mem.cells := by
  unfold protmap
  split <;> rfl

@[simp] theorem mirror_cells (s : State) (j : Nat) (len : W64) : (mirror s j len).mem.cells = s.mem.cells := by
  unfold mirror
  split <;> rfl

@[simp] theorem ltolWrite_cells (s : State) (v : W64) : (ltolWrite s v).mem.cells = s.mem.cells := by rfl

@[simp] theorem memoryRead_cells (s : State) (addr : Nat) (o : EccOutcome) : (memoryRead s addr o).mem.cells = s.mem.cells := by
  simp only [memoryRead]
  split <;> simp

@[simp] theorem powerSample_cells (s : State) (mw : Nat) (maxTemp : ℤ) (strip : Nat) :
    (powerSample s mw maxTemp strip).mem.cells = s.mem.cells := by
  simp only [powerSample]
  repeat' split
  all_goals rfl

@[simp] theorem powerStateEntry_cells (s : State) (p : PowerPart) : (powerStateEntry s p).mem.cells = s.mem.cells := by
  simp only [powerStateEntry]
  repeat' split
  all_goals rfl

@[simp] theorem spadBankRetention_cells (s : State) (core bank : Nat) : (spadBankRetention s core bank).mem.cells = s.mem.cells := by
  simp only [spadBankRetention]
  split <;> rfl

@[simp] theorem monitorRead_cells (s : State) : (monitorRead s).mem.cells = s.mem.cells := by
  unfold monitorRead
  split <;> rfl

@[simp] theorem replanStep_cells (s : State) (strip : Nat) (a : ReplanAction) : (replanStep s strip a).mem.cells = s.mem.cells := by
  simp only [replanStep]
  repeat' split
  all_goals rfl

@[simp] theorem marginReplan_cells (s : State) (strip : Nat) (a : ReplanAction) : (marginReplan s strip a).mem.cells = s.mem.cells := by
  simp only [marginReplan]
  split <;> simp

@[simp] theorem fwstage_cells (s : State) (addr : W64) : (fwstage s addr).mem.cells = s.mem.cells := by
  unfold fwstage
  split <;> rfl

@[simp] theorem moduleReset_cells (s : State) : (moduleReset s).mem.cells = s.mem.cells := by rfl

@[simp] theorem answerSpdm_cells (s : State) (a : SpdmAnswer) : (s.answerSpdm a).mem.cells = s.mem.cells := by rfl

@[simp] theorem verifyDone_cells (s : State) (c : FirmwareCheck) : (verifyDone s c).mem.cells = s.mem.cells := by
  simp only [verifyDone]
  repeat' split
  all_goals rfl

@[simp] theorem coreRetest_cells (s : State) (core : Nat) (ok : Bool) : (coreRetest s core ok).mem.cells = s.mem.cells := by
  unfold coreRetest
  split <;> rfl

@[simp] theorem scrub_cells (s : State) (addr : Nat) (o : EccOutcome) : (scrub s addr o).mem.cells = s.mem.cells := by
  simp only [scrub]
  repeat' split
  all_goals simp

/-! ### A that waits for answers -/

@[simp] theorem wakeA_cells (s : State) (b : BankId) (e : Engine) : (wakeA s b e).mem.cells = s.mem.cells := by
  simp only [wakeA]
  split <;> rfl

end Sys2Proof.KernelMachine

/-! PROOFS. What writes bytes: each operation that may write keeps memory in its canonical form, from the writes of a home up to the
packets, the launches and the answers of the host. -/

namespace Sys2Proof.KernelMachine

open Sys2Proof Sys2Proof.Machine

/-! ### Canonical memory through choices and folds -/

theorem wf_of_cells {s t : State} (h : Memory.wf s.mem.cells) (ht : t.mem.cells = s.mem.cells) : Memory.wf t.mem.cells := by
  rwa [ht]

@[simp] theorem ite_wf {c : Prop} [Decidable c] {s t : State} (hs : Memory.wf s.mem.cells) (ht : Memory.wf t.mem.cells) :
    Memory.wf (if c then s else t).mem.cells := by
  split <;> assumption

@[simp] theorem foldl_wf {α : Type} {f : State → α → State} (hf : ∀ s x, Memory.wf s.mem.cells → Memory.wf (f s x).mem.cells)
    (l : List α) {s : State} (h : Memory.wf s.mem.cells) : Memory.wf (l.foldl f s).mem.cells := by
  induction l generalizing s with
  | nil => exact h
  | cons x l ih => exact ih (hf s x h)

theorem foldl_proj_wf {α β : Type} {p : β → State} {f : β → α → β}
    (hf : ∀ x a, Memory.wf (p x).mem.cells → Memory.wf (p (f x a)).mem.cells) (l : List α) {x : β} (h : Memory.wf (p x).mem.cells) :
    Memory.wf (p (l.foldl f x)).mem.cells := by
  induction l generalizing x with
  | nil => exact h
  | cons a l ih => exact ih (hf x a h)

/-! ### Writes of bytes -/

@[simp] theorem putBytes_wf {s : State} (h : Memory.wf s.mem.cells) (pa : Nat) (d : List Byte) : Memory.wf (putBytes s pa d).mem.cells :=
  putBytes_memWf h pa d

@[simp] theorem cxlPerform_wf {s : State} (h : Memory.wf s.mem.cells) (addr n : Nat) (data : Option (List Byte)) :
    Memory.wf (cxlPerform s addr n data).mem.cells := by
  simp only [cxlPerform]
  split <;> simp [h]

@[simp] theorem write_wf {s : State} (h : Memory.wf s.mem.cells) (pa : Nat) (data : List Byte) : Memory.wf (s.write pa data).mem.cells := by
  simp only [State.write]
  split <;> simp [h]

@[simp] theorem registerContext_wf {s : State} (h : Memory.wf s.mem.cells) (n : Nat) (addr : W64) :
    Memory.wf (registerContext s n addr).mem.cells := by
  simp only [registerContext]
  split <;> simp [h]

@[simp] theorem LateOp.perform_wf {s : State} (h : Memory.wf s.mem.cells) (o : LateOp) : Memory.wf (LateOp.perform o s).mem.cells := by
  simp only [LateOp.perform]
  split <;> simp [h]

@[simp] theorem flushOne_wf {s : State} (h : Memory.wf s.mem.cells) (w : Waiting) : Memory.wf (flushOne s w).mem.cells := by
  simp only [flushOne]
  split <;> simp [h]

@[simp] theorem flushWaiting_wf {s : State} (h : Memory.wf s.mem.cells) : Memory.wf (flushWaiting s).mem.cells := by
  simp +contextual [flushWaiting, h]

@[simp] theorem refill_wf {s : State} (h : Memory.wf s.mem.cells) : Memory.wf (refill s).mem.cells := by
  simp +contextual [refill, h]

/-! ### Records of errors, traps and the end of a unit -/

@[simp] theorem errorRecord_wf {s : State} (h : Memory.wf s.mem.cells) (ctx : Nat) (bytes : List Byte) :
    Memory.wf (s.errorRecord ctx bytes).mem.cells := by
  simp [State.errorRecord, h]

@[simp] theorem unitError_wf {s : State} (h : Memory.wf s.mem.cells) (b : BankId) (source : Nat) (tr : Trap) (pc : W64) :
    Memory.wf (s.unitError b source tr pc).mem.cells := by
  simp [State.unitError, h]

@[simp] theorem busyBy_wf {s : State} (h : Memory.wf s.mem.cells) (ctx : Nat) (d : ℤ) (segs : List Nat) :
    Memory.wf (busyBy s ctx d segs).mem.cells := by
  simp +contextual [busyBy, h]

@[simp] theorem dropChains_wf {s : State} (h : Memory.wf s.mem.cells) (b : BankId) : Memory.wf (dropChains s b).mem.cells := by
  simp [dropChains, h]

@[simp] theorem failUnit_wf {s : State} (h : Memory.wf s.mem.cells) (b : BankId) (source : Nat) (tr : Trap) (pc : W64) :
    Memory.wf (failUnit s b source tr pc).mem.cells := by
  simp [failUnit, h]

@[simp] theorem handleTrap_wf {s : State} (h : Memory.wf s.mem.cells) (b : BankId) (e : Engine) (tr : Trap) (pc : W64) :
    Memory.wf (handleTrap s b e tr pc).mem.cells := by
  simp only [handleTrap]
  split <;> simp [h]

@[simp] theorem takeTrap_wf {s : State} (h : Memory.wf s.mem.cells) (b : BankId) (e : Engine) (tr : Trap) (pc : W64) :
    Memory.wf (takeTrap s b e tr pc).mem.cells := by
  simp only [takeTrap]
  repeat' split
  all_goals simp [h]

@[simp] theorem softTrap_wf {s : State} (h : Memory.wf s.mem.cells) (c : Cause) (i : BitVec 20) : Memory.wf (softTrap c i s).mem.cells := by
  simp [softTrap, h]

@[simp] theorem leaveParts_wf {s : State} (h : Memory.wf s.mem.cells) (e : CollEntry) : Memory.wf (leaveParts s e).mem.cells := by
  simp only [leaveParts]
  split
  · refine ite_wf h ?_
    split
    · refine ite_wf h (foldl_wf (fun s x hs => ite_wf (putBytes_wf hs _ _) hs) _ ?_)
      simp [h]
    · exact h
  · exact h

@[simp] theorem vaWrite_wf {s : State} (h : Memory.wf s.mem.cells) (ctx : Nat) (va : W64) (d : List Byte) :
    Memory.wf (vaWrite s ctx va d).mem.cells := by
  refine foldl_proj_wf (p := Prod.fst) (fun x p hx => ?_) _ h
  dsimp only
  split <;> simp [hx]

@[simp] theorem runDone_wf {s : State} (h : Memory.wf s.mem.cells) (n : Nat) (r : GraphRun) : Memory.wf (runDone s n r).mem.cells := by
  simp only [runDone]
  split <;> simp [h]

@[simp] theorem nodeDone_wf {s : State} (h : Memory.wf s.mem.cells) (run node : Nat) (first : Option Cause) :
    Memory.wf (nodeDone s run node first).mem.cells := by
  simp only [nodeDone]
  repeat' split
  all_goals simp [h]

@[simp] theorem freeEntry_wf {s : State} (h : Memory.wf s.mem.cells) (e : CollEntry) (first : Option Cause) :
    Memory.wf (freeEntry s e first).mem.cells := by
  simp only [freeEntry]
  split <;> simp [h]

@[simp] theorem abortEntry_wf {s : State} (h : Memory.wf s.mem.cells) (e : CollEntry) (reason : BitVec 8) (gen : Nat) :
    Memory.wf (abortEntry s e reason gen).mem.cells := by
  refine errorRecord_wf (freeEntry_wf (ite_wf ?_ ?_) _ _) _ _ <;> simp [h]

@[simp] theorem postCommand_wf {s : State} (h : Memory.wf s.mem.cells) (ctx : Nat) (d : List Byte) (launch unit : Nat) (origin : Origin)
    (stage : Option Nat) (place : Option (BankId × Nat)) :
    Memory.wf (postCommand s ctx d launch unit origin stage place).mem.cells := by
  simp only [postCommand]
  split <;> simp [h]

@[simp] theorem returnFromTrap_wf {s : State} (h : Memory.wf s.mem.cells) (b : BankId) : Memory.wf (returnFromTrap s b).mem.cells := by
  simp only [returnFromTrap]
  repeat' split
  all_goals simp [h]

@[simp] theorem asyncReport.atJob_wf {s : State} (h : Memory.wf s.mem.cells) (ctx : Nat) (mk : Nat → List Byte) (l : Launch) :
    Memory.wf (asyncReport.atJob ctx mk s l).mem.cells := by
  unfold asyncReport.atJob
  split <;> simp [h]

@[simp] theorem asyncReport.atStage_wf {s : State} (h : Memory.wf s.mem.cells) (ctx : Nat) (mk : Nat → List Byte) (l : Launch) :
    Memory.wf (asyncReport.atStage ctx mk s l).mem.cells := by
  unfold asyncReport.atStage
  repeat' split
  all_goals simp [h]

@[simp] theorem asyncReport_wf {s : State} (h : Memory.wf s.mem.cells) (ctx launch : Nat) (mk : Nat → List Byte) :
    Memory.wf (asyncReport s ctx launch mk).mem.cells := by
  have h0 := errorRecord_wf h ctx (mk 0)
  simp only [asyncReport]
  generalize s.errorRecord ctx (mk 0) = t at h0 ⊢
  split
  · exact h0
  · refine ite_wf (by simp [h0]) ?_
    split
    · exact ite_wf (by simp [h0]) (by simp [h0])
    · simp [h0]

@[simp] theorem reportUndelivered_wf {s : State} (h : Memory.wf s.mem.cells) (b : BankId) : Memory.wf (reportUndelivered s b).mem.cells := by
  simp only [reportUndelivered]
  repeat' split
  all_goals simp [h]

@[simp] theorem unitEnds_wf {s : State} (h : Memory.wf s.mem.cells) (b : BankId) (st : EndStatus) : Memory.wf (unitEnds s b st).mem.cells := by
  simp [unitEnds, h]

@[simp] theorem tryEnd_wf {s : State} (h : Memory.wf s.mem.cells) (b : BankId) : Memory.wf (tryEnd s b).mem.cells := by
  simp only [tryEnd]
  repeat' split
  all_goals simp [h]

/-! ### Late reads and walks -/

@[simp] theorem readAll_wf {s : State} (h : Memory.wf s.mem.cells) (b : BankId) (l : List VLate) : Memory.wf (readAll b l s).mem.cells := by
  induction l generalizing s with
  | nil => exact h
  | cons l ls ih =>
    simp only [readAll]
    split
    · exact ih (by simp [h])
    · split <;> simp [h]

@[simp] theorem lateReads_wf {s : State} (h : Memory.wf s.mem.cells) (b : BankId) : Memory.wf (lateReads s b).mem.cells := by
  simp only [lateReads]
  split <;> simp [h]

@[simp] theorem raiseFault_wf {s : State} (h : Memory.wf s.mem.cells) (ctx page : Nat) (reqs : List WalkReq) :
    Memory.wf (raiseFault s ctx page reqs).mem.cells := by
  simp only [raiseFault]
  split <;> simp +contextual [h]

@[simp] theorem pageWalk_wf {s : State} (h : Memory.wf s.mem.cells) (die n : Nat) : Memory.wf (pageWalk die n s).mem.cells := by
  simp only [pageWalk]
  split
  · exact h
  · refine ite_wf h ?_
    split
    · next hk => exact wf_of_cells h (keptAt_cells hk)
    · repeat' split
      all_goals simp [h]

/-! ### Writes and reads at the homes -/

@[simp] theorem plainWrite_wf {s : State} (h : Memory.wf s.mem.cells) (ctx : Nat) (id : Option (Nat × Nat × Nat)) (pa : Nat) (data : List Byte) :
    Memory.wf (plainWrite s ctx id pa data).mem.cells := by
  simp only [plainWrite]
  split
  · simp [h]
  · refine ite_wf (by simp [h]) (foldl_wf (fun s p hs => ?_) _ h)
    split <;> simp [hs]

@[simp] theorem ownWrite_wf {s : State} (h : Memory.wf s.mem.cells) (b : BankId) (id : Option (Nat × Nat × Nat)) (seq pa : Nat) (d : List Byte) :
    Memory.wf (ownWrite s b id seq pa d).mem.cells := by
  simp only [ownWrite]
  split <;> simp [h]

@[simp] theorem bankWrite_wf {s : State} (h : Memory.wf s.mem.cells) (b : BankId) (id : Option (Nat × Nat × Nat)) (shown : Bool)
    (seq pa : Nat) (d : List Byte) :
    Memory.wf (bankWrite s b id shown seq pa d).mem.cells := by
  simp only [bankWrite]
  split <;> simp [h]

@[simp] theorem homeWrite1_wf {s : State} (h : Memory.wf s.mem.cells) (b : BankId) : Memory.wf (homeWrite1 s b).mem.cells := by
  simp only [homeWrite1]
  repeat' split
  all_goals simp [h]

@[simp] theorem performReq_wf {s : State} (h : Memory.wf s.mem.cells) (b : BankId) (r : MemReq) : Memory.wf (performReq s b r).2.mem.cells := by
  simp only [performReq]
  split
  · rw [foldl_cells _ (fun s p => fillLine_cells s b true _)]
    exact h
  · exact foldl_wf (fun s p hs => by simp [hs]) _ h
  · exact foldl_proj_wf (p := Prod.snd) (fun x p hx => by simp [hx]) _ h
  · split
    · split <;> simp [h]
    · exact h
  · exact foldl_wf (fun s p hs => by simp [hs]) _ h

@[simp] theorem homeRead1_wf {s : State} (h : Memory.wf s.mem.cells) (b : BankId) : Memory.wf (homeRead1 s b).mem.cells := by
  simp only [homeRead1]
  repeat' split
  all_goals simp [h]

@[simp] theorem zeroWays_wf {s : State} (h : Memory.wf s.mem.cells) (slice : Nat) (mask : BitVec 16) :
    Memory.wf (zeroWays s slice mask).mem.cells := zeroWays_memWf h slice mask

@[simp] theorem endChange_wf {s : State} (h : Memory.wf s.mem.cells) (slice : Nat) (c : SplitChange) :
    Memory.wf (endChange s slice c).mem.cells := by
  simp [endChange, h]

@[simp] theorem splitChangeEnd_wf {s : State} (h : Memory.wf s.mem.cells) (slice : Nat) : Memory.wf (splitChangeEnd s slice).mem.cells := by
  simp only [splitChangeEnd]
  repeat' split
  all_goals simp [h]

/-! ### What a unit that ends leaves behind -/

@[simp] theorem strayStore_wf {s : State} (h : Memory.wf s.mem.cells) (b : BankId) (e : StoreEntry) :
    Memory.wf (strayStore s b e).mem.cells := by
  refine foldl_wf (fun s g hs => ?_) _ (by simp [h])
  split <;> simp [hs]

@[simp] theorem strayWrite_wf {s : State} (h : Memory.wf s.mem.cells) (b : BankId) (ps : List (Nat × Nat)) (d : List Byte) :
    Memory.wf (strayWrite s b ps d).mem.cells := by
  simp +contextual [strayWrite, h]

@[simp] theorem strayRuns_wf {s : State} (h : Memory.wf s.mem.cells) (b : BankId) (ch : Nat) : Memory.wf (strayRuns s b ch).mem.cells := by
  unfold strayRuns
  split
  · refine foldl_wf (fun s i hs => ?_) _ (foldl_wf (fun s o hs => by simp [hs]) _ h)
    dsimp only
    split <;> simp [hs]
  · exact h

@[simp] theorem strayReq_wf {s : State} (h : Memory.wf s.mem.cells) (b : BankId) (r : MemReq) : Memory.wf (strayReq s b r).mem.cells := by
  simp only [strayReq]
  repeat' split
  all_goals simp [h]

@[simp] theorem strayRows_wf {s : State} (h : Memory.wf s.mem.cells) (b : BankId) (n : Nat) : Memory.wf (strayRows s b n).mem.cells := by
  unfold strayRows
  split
  · refine ite_wf (foldl_wf (fun s x hs => ?_) _ h) h
    split <;> simp [hs]
  · exact h

@[simp] theorem dropRecords_wf {s : State} (h : Memory.wf s.mem.cells) (ctx : Nat) (rs : List Accepted) :
    Memory.wf (dropRecords s ctx rs).mem.cells := by
  simp [dropRecords, h]

@[simp] theorem abandonBank_wf {s : State} (h : Memory.wf s.mem.cells) (b : BankId) : Memory.wf (abandonBank s b).mem.cells := by
  simp +contextual [abandonBank, h]

theorem killStrays_wf {s : State} (h : Memory.wf s.mem.cells) (b : BankId) :
    Memory.wf (abandonBank ((List.range 8).foldl (fun s n => strayRows s b n) ((s.bank b).mem.reqs.foldl (fun s r => strayReq s b r)
      (((s.bank b).mem.dirty ++ (s.bank b).mem.sent).foldl (fun s e => strayStore s b e)
        ((List.range 4).foldl (fun s c => strayRuns s b c) s)))) b).mem.cells :=
  abandonBank_wf (foldl_wf (fun _ n hs => strayRows_wf hs b n) _ (foldl_wf (fun _ r hs => strayReq_wf hs b r) _
    (foldl_wf (fun _ e hs => strayStore_wf hs b e) _ (foldl_wf (fun _ c hs => strayRuns_wf hs b c) _ h)))) b

@[simp] theorem killBank_wf {s : State} (h : Memory.wf s.mem.cells) (b : BankId) : Memory.wf (killBank s b).mem.cells := by
  simp only [killBank]
  refine ite_wf ?_ ?_
  · rw [unplace_cells]
    exact killStrays_wf h b
  · exact unitEnds_wf (killStrays_wf h b) b _

@[simp] theorem dropNodes_wf {s : State} (h : Memory.wf s.mem.cells) (run : Nat) : Memory.wf (dropNodes s run).mem.cells := by
  simp only [dropNodes]
  split <;> simp +contextual [h]

@[simp] theorem killCtx_wf {s : State} (h : Memory.wf s.mem.cells) (n reason : Nat) : Memory.wf (killCtx s n reason).mem.cells := by
  refine errorRecord_wf (foldl_wf (fun _ q hs => by simp [hs]) _ (foldl_wf (fun _ r hs => dropNodes_wf hs _) _ ?_)) _ _
  refine foldl_wf (fun _ e hs => abortEntry_wf (by simp [hs]) e _ _) _ (foldl_wf (fun _ b hs => killBank_wf hs b) _ ?_)
  simp [h]

@[simp] theorem preemptBudgetExpiry_wf {s : State} (h : Memory.wf s.mem.cells) (b : BankId) : Memory.wf (preemptBudgetExpiry s b).mem.cells := by
  simp only [preemptBudgetExpiry]
  split <;> simp [h]

@[simp] theorem failDispatch_wf {s : State} (h : Memory.wf s.mem.cells) (b : BankId) (l : Launch) (c : Cause) (tv : W64) :
    Memory.wf (failDispatch s b l c tv).mem.cells := by
  simp [failDispatch, h]

/-! ### Dispatch -/

theorem readText_cells {s t : State} {b : BankId} {ctx : Nat} {va : W64} {f n : Nat} {acc : List Byte}
    (h : readText s b ctx va f n acc = .stop t) : t.mem.cells = s.mem.cells := by
  induction f generalizing va n acc with
  | zero => cases h
  | succ f ih =>
    simp only [readText] at h
    split at h
    · cases h
    · split at h
      · cases h
      · cases h; rfl
      · cases h; simp
      · split at h
        · next hk => cases h; exact keptAt_cells hk
        · split at h
          · cases h; simp
          · split at h
            · cases h
            · exact ih h

@[simp] theorem dispatch_wf {s : State} (h : Memory.wf s.mem.cells) (b : BankId) (id u : Nat) : Memory.wf (dispatch s b id u).mem.cells := by
  simp only [dispatch]
  split
  · exact h
  · next l _ =>
    refine ite_wf h (ite_wf h (ite_wf h ?_))
    split
    all_goals
      refine ite_wf (by simp [h]) ?_
      split
      · simp [h]
      · split
        · simp [h]
        · split
          · exact wf_of_cells h ((readText_cells (by assumption)).trans (by simp))
          · simp [h]
          · simp [h]

@[simp] theorem loseUnit_wf {s : State} (h : Memory.wf s.mem.cells) (b : BankId) : Memory.wf (loseUnit s b).mem.cells := by
  simp only [loseUnit]
  refine ite_wf (by simp [h]) (unitEnds_wf (unitError_wf ?_ _ _ _ _) _ _)
  simp [h]

@[simp] theorem coreResetDone_wf {s : State} (h : Memory.wf s.mem.cells) (core : Nat) : Memory.wf (coreResetDone s core).mem.cells := by
  simp only [coreResetDone]
  split <;> simp [h]

/-! ### Records of a channel -/

@[simp] theorem failChannel_wf {s : State} (h : Memory.wf s.mem.cells) (b : BankId) (ch : Nat) (f : Failure) :
    Memory.wf (failChannel s b ch f).mem.cells := by
  simp only [failChannel]
  split <;> simp [h]

@[simp] theorem takeRecord_wf {s : State} (h : Memory.wf s.mem.cells) (b : BankId) (ch : Nat) (c : Chain) (hs : List Chain) (a : Ask)
    (ps : List (Nat × Nat)) :
    Memory.wf (takeRecord s b ch c hs a ps).mem.cells := by
  simp only [takeRecord]
  have hr : Memory.wf (ps.foldl (fun x p => (x.1 ++ (homeRead x.2.2 p.1 p.2).1, x.2.1 || (homeRead x.2.2 p.1 p.2).2.1, (homeRead x.2.2 p.1 p.2).2.2))
    (([] : List Byte), false, (unasked s (walkerOf b ch)).reply b.core (s.cycle + homeTimes s.mem b.core ps) ps.length a.limit)).2.2.mem.cells :=
    foldl_proj_wf (p := fun x : List Byte × Bool × State => x.2.2) (fun x p hx => by simp [hx]) _ (by simp [h])
  generalize List.foldl _ _ ps = x at hr ⊢
  repeat' split
  all_goals simp [hr]

theorem reachCopy_cells {s t : State} {b : BankId} {ch : Nat} {a : Access} {l : List (W64 × Nat)} (h : reachCopy s b ch a l = .stop t) :
    t.mem.cells = s.mem.cells := by
  induction l with
  | nil => cases h
  | cons x l ih =>
    simp only [reachCopy] at h
    split at h
    · cases h
    · split at h
      · cases h
      · cases h
      · cases h; simp
      · split at h
        · cases h
        · exact ih h

@[simp] theorem chainWalk_wf {s : State} (h : Memory.wf s.mem.cells) (b : BankId) (ch : Nat) : Memory.wf (chainWalk s b ch).mem.cells := by
  simp only [chainWalk]
  split
  · exact h
  · refine ite_wf h ?_
    split
    · exact h
    · exact h
    · next hr => exact wf_of_cells h (reachCopy_cells hr)
    · simp [h]
    · exact h
    · refine ite_wf h ?_
      split
      · next hk => exact wf_of_cells h (keptAt_cells hk)
      · simp [h]

@[simp] theorem failRecord_wf {s : State} (h : Memory.wf s.mem.cells) (b : BankId) (ch : Nat) (r : Accepted) (f : Failure) :
    Memory.wf (failRecord s b ch r f).mem.cells := by
  simp [failRecord, h]

@[simp] theorem copyWrite_wf {s : State} (h : Memory.wf s.mem.cells) (b : BankId) (seq pa : Nat) (d : List Byte) :
    Memory.wf (copyWrite s b seq pa d).mem.cells := by
  simp [copyWrite, h]

@[simp] theorem writeRun_wf {s : State} (h : Memory.wf s.mem.cells) (b : BankId) (seq : Nat) (o : OutRun) (d : List Byte) :
    Memory.wf (writeRun s b seq o d).mem.cells := by
  simp +contextual [writeRun, h]

@[simp] theorem flushOut_wf {s : State} (h : Memory.wf s.mem.cells) (b : BankId) (seq : Nat) (l : List OutRun) :
    Memory.wf (flushOut s b seq l).1.mem.cells := by
  induction l generalizing s with
  | nil => exact h
  | cons o l ih =>
    simp only [flushOut]
    split
    · exact ih (by simp [h])
    · split
      · exact foldl_wf (fun s p hs => by simp [hs]) _ (by simp [h])
      · exact ih (writeRun_wf (foldl_wf (fun s p hs => by simp [hs]) _ (by simp [h])) _ _ _ _)

/-- The state in which the writing of a record's runs ends. -/
@[simp] def outState : OutEnd → State
  | .wait s => s
  | .done s _ => s

theorem writeOut_wf {s : State} (h : Memory.wf s.mem.cells) (b : BankId) (ch : Nat) (r : Accepted) :
    Memory.wf (outState (writeOut s b ch r)).mem.cells := by
  simp only [writeOut]
  split
  · exact h
  · split
    · simp [outState, h]
    · split
      · next hk => exact wf_of_cells h (keptAt_cells hk)
      · simp [outState, h]

@[simp] theorem failAfter_wf {s : State} (h : Memory.wf s.mem.cells) (b : BankId) (ch : Nat) (r : Accepted) (f : Failure) (n : Nat) :
    Memory.wf (failAfter s b ch r f n).mem.cells := by
  have hw := writeOut_wf h b ch r
  simp only [failAfter]
  refine ite_wf (failRecord_wf (ite_wf h (by simp [h])) _ _ _ _) ?_
  split
  · next hr => rwa [hr] at hw
  · next hr =>
    rw [hr] at hw
    exact failRecord_wf (ite_wf hw (by simpa using hw)) _ _ _ _

@[simp] theorem finishRecord_wf {s : State} (h : Memory.wf s.mem.cells) (b : BankId) (ch : Nat) (r : Accepted) :
    Memory.wf (finishRecord s b ch r).mem.cells := by
  have hw := writeOut_wf h b ch r
  simp only [finishRecord]
  split
  · exact h
  · next hr => exact wf_of_cells h (reachCopy_cells hr)
  · simp [h]
  · split
    · split
      · next hr => rwa [hr] at hw
      · next hr => rw [hr] at hw; exact failRecord_wf hw _ _ _ _
      · next hr => rw [hr] at hw; simpa using hw
    · refine ite_wf h (ite_wf (by simp [h]) ?_)
      split
      · next hk => exact wf_of_cells h (keptAt_cells hk)
      · split <;> simp [h]

/-- The state in which a run ends. -/
@[simp] def runState : RunEnd → State
  | .done s _ _ => s
  | .stop s => s
  | .fails s _ _ => s

theorem copyRun_cells (s : State) (b : BankId) (ch : Nat) (r : Accepted) : (runState (copyRun s b ch r)).mem.cells = s.mem.cells := by
  simp only [copyRun]
  split
  · rfl
  · exact reachCopy_cells (by assumption)
  · rfl
  · rfl
  · exact reachCopy_cells (by assumption)
  · rfl
  · split
    · split <;> rfl
    · split
      · rfl
      · split
        · simp [runState]
        · split
          · next hk => exact keptAt_cells hk
          · split <;> simp [runState, foldl_cells]

@[simp] theorem copyRuns_wf {s : State} (h : Memory.wf s.mem.cells) (n : Nat) (b : BankId) (ch : Nat) :
    Memory.wf (copyRuns n s b ch).mem.cells := by
  induction n generalizing s with
  | zero => exact h
  | succ n ih =>
    simp only [copyRuns]
    split
    · exact h
    · next r _ =>
      have hc := copyRun_cells s b ch r
      refine ite_wf (by simp [h]) ?_
      split
      · next hr => rw [hr] at hc; exact wf_of_cells h hc
      · next hr => rw [hr] at hc; exact failAfter_wf (wf_of_cells h hc) _ _ _ _ _
      · next hr => rw [hr] at hc; exact ih (by simpa using wf_of_cells h hc)

/-! ### Collectives -/

@[simp] theorem sendAbort_wf {s : State} (h : Memory.wf s.mem.cells) (p : CollId) (reason : BitVec 8) :
    Memory.wf (sendAbort s p reason).mem.cells := by
  simp only [sendAbort]
  split <;> simp [h]

@[simp] theorem noticeArrives_wf {s : State} (h : Memory.wf s.mem.cells) (m : NoticeMsg) : Memory.wf (noticeArrives s m).mem.cells := by
  simp only [noticeArrives]
  repeat' split
  all_goals simp [h]

@[simp] theorem ticketArrives_wf {s : State} (h : Memory.wf s.mem.cells) (m : TicketMsg) : Memory.wf (ticketArrives s m).mem.cells := by
  simp only [ticketArrives]
  repeat' split
  all_goals simp [h]

@[simp] theorem collectiveWatchdog_wf {s : State} (h : Memory.wf s.mem.cells) (p : CollId) : Memory.wf (collectiveWatchdog s p).mem.cells := by
  simp only [collectiveWatchdog]
  repeat' split
  all_goals simp [h]

@[simp] theorem orderOf_wf {s : State} (h : Memory.wf s.mem.cells) (e : CollEntry) (x : Contributions) :
    Memory.wf (orderOf s e x).2.mem.cells := by
  simp only [Machine.orderOf]
  repeat' split
  all_goals simp [h]

@[simp] theorem scatter_wf {s : State} (h : Memory.wf s.mem.cells) (f z : Nat) (seen : List Nat) (l : List (Nat × Nat)) (i : Nat) :
    Memory.wf (scatter s f z seen l i).mem.cells := by
  induction l generalizing s seen i with
  | nil => exact h
  | cons x l ih => exact ih (ite_wf h (by simp [h])) _ _

@[simp] theorem moveData_wf {s : State} (h : Memory.wf s.mem.cells) (e : CollEntry) (me : Nat) (x : Contributions) (sa da : List Nat) :
    Memory.wf (moveData s e me x sa da).mem.cells := by
  have ht : Memory.wf (sa.foldl (fun s a => touchBytes s a (cSize e.cmd)) s).mem.cells := foldl_wf (fun s a hs => by simp [hs]) _ h
  simp only [moveData]
  generalize List.foldl _ s sa = t at ht ⊢
  split
  · simp [ht]
  · split
    · simp [ht]
    · split
      · next hk => exact wf_of_cells ht (replayKept_cells hk)
      · have ho := orderOf_wf ht e x
        generalize orderOf t e x = o at ho ⊢
        repeat' split
        all_goals simp [ho]

theorem reachSide_cells {s t : State} {p : CollId} {a : Access} {l : List W64}
    (h : reachSide s p a l = .stop t) : t.mem.cells = s.mem.cells := by
  induction l with
  | nil => cases h
  | cons va l ih =>
    simp only [reachSide] at h
    split at h
    · cases h
    · cases h
    · next hr =>
      cases h
      simp only [reachColl] at hr
      repeat' split at hr
      all_goals cases hr
      simp
    · split at h
      · cases h
      · exact ih h

@[simp] theorem transfer_wf {s : State} (h : Memory.wf s.mem.cells) (p : CollId) (ty : Nat) (x : Contributions) :
    Memory.wf (transfer s p ty x).mem.cells := by
  simp only [transfer]
  split
  · refine ite_wf h (ite_wf (by simp [h]) (ite_wf (by simp [h]) ?_))
    split
    · simp [h]
    · exact wf_of_cells h ((reachSide_cells (by assumption)).trans (by simp))
    · simp [h]
    · simp [h]
    · exact wf_of_cells h ((reachSide_cells (by assumption)).trans (by simp))
    · simp [h]
    · refine ite_wf (by simp [h]) ?_
      split
      · next hk => exact wf_of_cells h ((keptAt_cells hk).trans (by simp))
      · simp [h]
  · exact h

@[simp] theorem collectiveDone_wf {s : State} (h : Memory.wf s.mem.cells) (p : CollId) : Memory.wf (collectiveDone s p).mem.cells := by
  simp only [collectiveDone]
  repeat' split
  all_goals simp [h]

/-! ### Packets, launches and graphs -/

@[simp] theorem queueError_wf {s : State} (h : Memory.wf s.mem.cells) (q code ty : Nat) (rejected : W64) :
    Memory.wf (queueError s q code ty rejected).mem.cells := by
  simp [queueError, h]

theorem ioPieces_cells {s t : State} {src : Source} {ctx : Nat} {l : List (W64 × Nat)} (h : ioPieces s src ctx l = .stop t) :
    t.mem.cells = s.mem.cells := by
  induction l with
  | nil => cases h
  | cons x l ih =>
    simp only [ioPieces] at h
    split at h
    · cases h
    · split at h
      · cases h; simp
      · split at h
        · split at h
          · next hk => cases h; exact keptAt_cells hk
          · split at h
            · cases h; simp
            · split at h
              · cases h
              · split at h
                · cases h
                · exact ih h
        · cases h; rfl
        · cases h

theorem IoRead.then_keeps {α : Type} {P : α → Prop} {r : IoRead} {stop : State → α} {bad : α} {f : List Byte → α}
    (hs : ∀ t, r = .stop t → P (stop t)) (hb : P bad) (hf : ∀ d, P (f d)) : P (r.then stop bad f) := by
  cases r with
  | ok d => exact hf d
  | stop t => exact hs t rfl
  | bad => exact hb

theorem packet_wf {s : State} (h : Memory.wf s.mem.cells) (q : Nat) (ty : Nat → Bool) {f : State → WorkQueue → List Byte → State}
    (hf : ∀ s x p, Memory.wf s.mem.cells → Memory.wf (f s x p).mem.cells) : Memory.wf (packet s q ty f).mem.cells := by
  simp only [packet]
  refine ite_wf h (ite_wf (by simp [h]) ?_)
  refine IoRead.then_keeps (P := fun t : State => Memory.wf t.mem.cells) (fun t ht => wf_of_cells h (ioPieces_cells ht)) (by simp [h]) (fun p => ?_)
  repeat' split
  all_goals simp [h, hf]

@[simp] theorem takeSlice_wf {s : State} (h : Memory.wf s.mem.cells) (id : Nat) (x : Nat × BitVec 16) :
    Memory.wf (takeSlice s id x).mem.cells := by
  simp [takeSlice, h]

@[simp] theorem beginLaunch_wf {s : State} (h : Memory.wf s.mem.cells) (l : Launch) (sems : List (List Byte)) :
    Memory.wf (beginLaunch s l sems).1.mem.cells := by
  simp +contextual [beginLaunch, h]

/-- The states that starting a launch can end in. -/
@[simp] def startWf : LaunchStart → Prop
  | .started s _ => Memory.wf s.mem.cells
  | .stop s => Memory.wf s.mem.cells
  | _ => True

theorem startWf_started {r : LaunchStart} {t : State} {id : Nat} (h : r = .started t id) (hr : startWf r) : Memory.wf t.mem.cells := by
  rwa [h] at hr

theorem startWf_stop {r : LaunchStart} {t : State} (h : r = .stop t) (hr : startWf r) : Memory.wf t.mem.cells := by
  rwa [h] at hr

theorem readGbt_cells {s t : State} {src : Source} {ctx n : Nat} {va : W64} {acc : List Group} (h : readGbt s src ctx n va acc = .stop t) :
    t.mem.cells = s.mem.cells := by
  revert h
  induction n generalizing va acc with
  | zero =>
    unfold readGbt
    refine IoRead.then_keeps (P := fun r : GbtRead => r = .stop t → _) (fun u hu h => ?_) nofun (fun d h => ?_)
    · cases h; exact ioPieces_cells hu
    · dsimp only at h
      repeat' split at h
      all_goals cases h
  | succ n ih =>
    unfold readGbt
    refine IoRead.then_keeps (P := fun r : GbtRead => r = .stop t → _) (fun u hu h => ?_) nofun (fun d => ?_)
    · cases h; exact ioPieces_cells hu
    · dsimp only
      split
      · split <;> nofun
      · split
        · nofun
        · refine IoRead.then_keeps (P := fun r : GbtRead => r = .stop t → _) (fun u hu h => ?_) nofun (fun e => ?_)
          · cases h; exact ioPieces_cells hu
          · split
            · exact ih
            · nofun

theorem ioRead_startWf {s : State} (h : Memory.wf s.mem.cells) {src : Source} {ctx n : Nat} {va : W64} {f : List Byte → LaunchStart}
    (hf : ∀ d, startWf (f d)) : startWf ((ioRead s src ctx va n).then .stop .bad f) :=
  IoRead.then_keeps (P := startWf) (fun _ ht => wf_of_cells h (ioPieces_cells ht)) trivial hf

theorem startLaunch_wf {s : State} (h : Memory.wf s.mem.cells) (src : Source) (ctx : Nat) (p : List Byte) (patch : List (Nat × W64))
    (origin : Origin) (stage : Option Nat) (job : Nat) : startWf (startLaunch s src ctx p patch origin stage job) := by
  unfold startLaunch
  refine ioRead_startWf h (fun d => ioRead_startWf h (fun pr => ?_))
  split
  · trivial
  · refine ioRead_startWf h (fun ue => ioRead_startWf h (fun td => ioRead_startWf h (fun sd => ioRead_startWf h (fun md =>
      ioRead_startWf h (fun plan => ?_)))))
    split
    · next hg => exact wf_of_cells h (readGbt_cells hg)
    · trivial
    · trivial
    · dsimp only
      generalize launchOf' _ _ _ _ _ _ _ _ _ _ _ _ = l
      split
      · exact h
      · split
        all_goals
          split
          · refine beginLaunch_wf ?_ _ _
            simp [foldl_cells, h]
          · trivial

@[simp] theorem launchPacket_wf {s : State} (h : Memory.wf s.mem.cells) (q : Nat) : Memory.wf (launchPacket s q).mem.cells := by
  refine packet_wf h q _ (fun s x p hs => ?_)
  dsimp only
  split
  · next hl => exact startWf_stop hl (startLaunch_wf hs _ _ _ _ _ _ _)
  · simp [hs]
  · simp [hs]
  · next hl => simpa using startWf_started hl (startLaunch_wf hs _ _ _ _ _ _ _)

@[simp] theorem graphPacket_wf {s : State} (h : Memory.wf s.mem.cells) (q : Nat) : Memory.wf (graphPacket s q).mem.cells := by
  refine packet_wf h q _ (fun s x p hs => ?_)
  dsimp only
  split
  · simp [hs]
  · refine IoRead.then_keeps (P := fun t : State => Memory.wf t.mem.cells) (fun t ht => wf_of_cells hs (ioPieces_cells ht)) (by simp [hs])
      (fun pd => ?_)
    split <;> simp [hs]

@[simp] theorem semwaitPacket_wf {s : State} (h : Memory.wf s.mem.cells) (q : Nat) : Memory.wf (semwaitPacket s q).mem.cells :=
  packet_wf h q _ (fun s x p hs => by simp [hs])

@[simp] theorem semwaitRelease_wf {s : State} (h : Memory.wf s.mem.cells) (q : Nat) : Memory.wf (semwaitRelease s q).mem.cells := by
  simp only [semwaitRelease]
  repeat' split
  all_goals simp [h]

@[simp] theorem semsigPacket_wf {s : State} (h : Memory.wf s.mem.cells) (q : Nat) : Memory.wf (semsigPacket s q).mem.cells :=
  packet_wf h q _ (fun s x p hs => by simp [hs])

@[simp] theorem timedPacket_wf {s : State} (h : Memory.wf s.mem.cells) (q : Nat) : Memory.wf (timedPacket s q).mem.cells := by
  refine packet_wf h q _ (fun s x p hs => ?_)
  simp only [packetDone_cells, setQueue_cells]
  split <;> simp [hs]

@[simp] theorem abortThose_wf {s : State} (h : Memory.wf s.mem.cells) (f : CollEntry → Bool) : Memory.wf (abortThose s f).mem.cells := by
  simp +contextual [abortThose, h]

@[simp] theorem cancelRun_wf {s : State} (h : Memory.wf s.mem.cells) (run : Nat) : Memory.wf (cancelRun s run).mem.cells := by
  simp only [cancelRun]
  split
  · exact h
  · exact ite_wf h (dropNodes_wf (abortThose_wf (foldl_wf (fun s l hs => by simp [hs]) _ (by simp [h])) _) _)

@[simp] theorem cancelWord_wf {s : State} (h : Memory.wf s.mem.cells) (v : W64) : Memory.wf (cancelWord s v).mem.cells := by
  simp only [cancelWord, cancelQueues_cells]
  exact abortThose_wf (foldl_wf (fun s l hs => by simp [hs]) _ (foldl_wf (fun s r hs => cancelRun_wf hs _) _ h)) _

@[simp] theorem cancelPacket_wf {s : State} (h : Memory.wf s.mem.cells) (q : Nat) : Memory.wf (cancelPacket s q).mem.cells :=
  packet_wf (by simp [h]) q _ (fun s x p hs => by simp [hs])

@[simp] theorem collectivePacket_wf {s : State} (h : Memory.wf s.mem.cells) (q : Nat) : Memory.wf (collectivePacket s q).mem.cells := by
  refine packet_wf h q _ (fun s x p hs => ?_)
  dsimp only
  split
  · next hk => exact wf_of_cells hs (groupKept_cells hk)
  · split <;> simp [hs]

@[simp] theorem launchComplete_wf {s : State} (h : Memory.wf s.mem.cells) (id : Nat) : Memory.wf (launchComplete s id).mem.cells := by
  simp only [launchComplete]
  split
  · exact h
  · next l _ =>
    refine ite_wf h ?_
    have hv := vaWrite_wf h l.ctx l.crec
    split
    · simp [foldl_cells, hv]
    · refine nodeDone_wf ?_ _ _ _
      simp [foldl_cells, hv]
    · simp [foldl_cells, hv]

@[simp] theorem graphNodeStart_wf {s : State} (h : Memory.wf s.mem.cells) (run node : Nat) :
    Memory.wf (graphNodeStart s run node).mem.cells := by
  simp only [graphNodeStart]
  split
  · exact h
  · next r _ =>
    refine ite_wf h ?_
    split
    · split
      · next hl => simpa using startWf_started hl (startLaunch_wf h _ _ _ _ _ _ _)
      · next hl => exact startWf_stop hl (startLaunch_wf h _ _ _ _ _ _ _)
      · exact h
    · split
      · next hk => exact wf_of_cells h (groupKept_cells hk)
      · split <;> simp [h]

/-! ### Answers of the host, contexts and the module -/

@[simp] theorem refuseChannel_wf {s : State} (h : Memory.wf s.mem.cells) (b : BankId) (c : Nat) (va : W64) :
    Memory.wf (refuseChannel s b c va).mem.cells := by
  simp only [refuseChannel]
  repeat' split
  all_goals simp [h]

@[simp] theorem refuseUnrecorded_wf {s : State} (h : Memory.wf s.mem.cells) (va : W64) (src : Source) :
    Memory.wf (refuseUnrecorded s va src).mem.cells := by
  simp only [refuseUnrecorded]
  split <;> simp [h]

@[simp] theorem prgResponse_wf {s : State} (h : Memory.wf s.mem.cells) (iova : Nat) (ok : Bool) :
    Memory.wf (prgResponse s iova ok).mem.cells := by
  simp only [prgResponse]
  refine ite_wf (by simp [h]) (foldl_wf (fun s x hs => foldl_wf (fun s r hs => by simp [hs]) _ hs) _ (by simp [h]))

@[simp] theorem abortArrives_wf {s : State} (h : Memory.wf s.mem.cells) (m : AbortMsg) : Memory.wf (abortArrives s m).mem.cells := by
  simp only [abortArrives]
  repeat' split
  all_goals simp [h]

@[simp] theorem withoutPower_wf {s : State} (h : Memory.wf s.mem.cells) : Memory.wf (withoutPower s).mem.cells := Cells.wf_filter h _

@[simp] theorem powerOn_wf {s : State} (h : Memory.wf s.mem.cells) : Memory.wf (powerOn s).mem.cells := by
  simp +contextual [powerOn, h]

@[simp] theorem domainLeave_wf {s : State} (h : Memory.wf s.mem.cells) : Memory.wf (domainLeave s).mem.cells := by
  simp only [domainLeave]
  split <;> simp +contextual [h]

@[simp] theorem cancelAt_wf {s : State} (h : Memory.wf s.mem.cells) (l : Nat) (v : W64) : Memory.wf (cancelAt s l v).mem.cells := by
  simp only [cancelAt]
  split <;> simp [h]

@[simp] theorem doorbell_wf {s : State} (h : Memory.wf s.mem.cells) (q : Nat) (w : W64) : Memory.wf (doorbell s q w).mem.cells := by
  simp only [doorbell]
  repeat' split
  all_goals simp [h]

@[simp] theorem contextRegister_wf {s : State} (h : Memory.wf s.mem.cells) (addr : W64) : Memory.wf (contextRegister s addr).mem.cells := by
  simp only [contextRegister]
  repeat' split
  all_goals simp [h]

@[simp] theorem contextUnregister_wf {s : State} (h : Memory.wf s.mem.cells) : Memory.wf (contextUnregister s).mem.cells := by
  simp only [contextUnregister]
  split <;> simp [h]

@[simp] theorem ctxkill_wf {s : State} (h : Memory.wf s.mem.cells) (v : W64) : Memory.wf (ctxkill s v).mem.cells := by
  simp only [ctxkill]
  split <;> simp [h]

@[simp] theorem refuseSource_wf {s : State} (h : Memory.wf s.mem.cells) (id : Nat) (va : W64) (src : Source) :
    Memory.wf (refuseSource s id va src).mem.cells := by
  simp only [refuseSource]
  repeat' split
  all_goals simp [h]

@[simp] theorem answerFault_wf {s : State} (h : Memory.wf s.mem.cells) (f : PendingFault) (retry : Bool) :
    Memory.wf (answerFault s f retry).mem.cells := by
  simp only [answerFault]
  split <;> simp +contextual [h]

@[simp] theorem fanswer_wf {s : State} (h : Memory.wf s.mem.cells) (v : W64) (retry : Bool) : Memory.wf (fanswer s v retry).mem.cells := by
  simp only [fanswer]
  repeat' split
  all_goals simp [h]

@[simp] theorem clearValid_wf {s : State} (h : Memory.wf s.mem.cells) (ctx page : Nat) : Memory.wf (clearValid s ctx page).mem.cells := by
  simp only [clearValid]
  split <;> simp [h]

@[simp] theorem migdst_wf {s : State} (h : Memory.wf s.mem.cells) (v : W64) : Memory.wf (migdst s v).mem.cells := by
  simp only [migdst]
  repeat' split
  all_goals simp +contextual [h]

@[simp] theorem copyCells_wf {s : State} (h : Memory.wf s.mem.cells) (src dst n : Nat) : Memory.wf (copyCells s src dst n).mem.cells :=
  copyCells_memWf h src dst n

@[simp] theorem movePage_wf {s : State} (h : Memory.wf s.mem.cells) (ctx dst i page : Nat) :
    Memory.wf (movePage s ctx dst i page).mem.cells := by
  simp only [movePage]
  repeat' split
  all_goals simp [h]

@[simp] theorem migrationComplete_wf {s : State} (h : Memory.wf s.mem.cells) : Memory.wf (migrationComplete s).mem.cells := by
  simp only [migrationComplete]
  split
  · exact h
  · refine ite_wf h (ite_wf (by simp [h, foldl_cells]) ?_)
    refine foldl_wf (fun s f hs => answerFault_wf hs _ _) _ ?_
    refine write_wf (foldl_wf (fun s p hs => movePage_wf hs _ _ _ _) _ (foldl_wf (fun s x hs => ?_) _ h)) _ _
    split <;> simp [hs]

@[simp] theorem cxlMemAccess_wf {s : State} (h : Memory.wf s.mem.cells) (addr len : Nat) (data : Option (List Byte)) :
    Memory.wf (cxlMemAccess s addr len data).mem.cells := by
  simp only [cxlMemAccess]
  repeat' split
  all_goals simp [h]

@[simp] theorem thermtrip_wf {s : State} (h : Memory.wf s.mem.cells) (junction : ℤ) : Memory.wf (thermtrip s junction).mem.cells := by
  unfold thermtrip
  split
  · exact h
  · exact keepOutside_wf h

@[simp] theorem modulePowerOff_wf {s : State} (h : Memory.wf s.mem.cells) : Memory.wf (modulePowerOff s).mem.cells := by
  simp +contextual [modulePowerOff, h]

end Sys2Proof.KernelMachine

/-! PROOFS. Meanings of words: each ends in a state, or in a stop that names a state, whose memory is canonical. -/

namespace Sys2Proof.KernelMachine

open Sys2Proof Sys2Proof.Machine

/-- How a word's meaning may end: in a value with `P`, or in a stop that leaves memory canonical in the state it names. -/
def EndsIn {α : Type} (P : α → Prop) : Res α → Prop
  | .ok a => P a
  | .error (.trapIn _ t) => Memory.wf t.mem.cells
  | .error _ => True

/-- A check whose stops leave memory canonical. -/
abbrev StopsWf {α : Type} (r : Res α) : Prop := EndsIn (fun _ => True) r

/-- The meaning of a word that leaves memory canonical. -/
abbrev KeepsWf (r : Res State) : Prop := EndsIn (fun t => Memory.wf t.mem.cells) r

section
variable {α β : Type} {P : α → Prop} {Q : β → Prop}

@[simp] theorem endsIn_ok {a : α} : EndsIn P (.ok a) ↔ P a := Iff.rfl
@[simp] theorem endsIn_trap {t : Trap} : EndsIn P (.error (.trap t)) ↔ True := Iff.rfl
@[simp] theorem endsIn_trapIn {t : Trap} {s : State} : EndsIn P (.error (.trapIn t s)) ↔ Memory.wf s.mem.cells := Iff.rfl
@[simp] theorem endsIn_block {k : BlockKind} {v : W64} : EndsIn P (.error (.block k v)) ↔ True := Iff.rfl
@[simp] theorem endsIn_interlock {b : Bool} : EndsIn P (.error (.interlock b)) ↔ True := Iff.rfl
@[simp] theorem endsIn_wordTrap {s : State} {c : Cause} : EndsIn P (wordTrap s c) ↔ True := Iff.rfl
@[simp] theorem endsIn_valTrap {c : Cause} {v : W64} : EndsIn P (valTrap c v) ↔ True := Iff.rfl

@[simp] theorem endsIn_ite {c : Prop} [Decidable c] {x y : Res α} : EndsIn P (if c then x else y) ↔ (c → EndsIn P x) ∧ (¬c → EndsIn P y) := by
  split <;> simp [*]

@[simp] theorem endsIn_ok_bind {a : α} {f : α → Res β} : EndsIn Q (Except.ok a >>= f) ↔ EndsIn Q (f a) := Iff.rfl

/-- After a check that names no value, what follows it is left to show. -/
@[simp] theorem endsIn_bind {x : Res α} {f : α → Res β} (hx : StopsWf x) : EndsIn Q (x >>= f) ↔ ∀ a, x = .ok a → EndsIn Q (f a) := by
  match x, hx with
  | .ok a, _ => simp
  | .error (.trap t), _ => exact ⟨nofun, fun _ => trivial⟩
  | .error (.trapIn t s), h => exact ⟨nofun, fun _ => h⟩
  | .error (.block k v), _ => exact ⟨nofun, fun _ => trivial⟩
  | .error (.interlock b), _ => exact ⟨nofun, fun _ => trivial⟩

theorem EndsIn.bind {x : Res α} {f : α → Res β} (hx : EndsIn P x) (hf : ∀ a, P a → EndsIn Q (f a)) : EndsIn Q (x >>= f) := by
  match x, hx with
  | .ok a, h => exact hf a h
  | .error (.trap t), _ => trivial
  | .error (.trapIn t s), h => exact h
  | .error (.block k v), _ => trivial
  | .error (.interlock b), _ => trivial

end

/-! ### The checks of a word -/

@[simp] theorem trapIf_stopsWf (b : Bool) (s : State) (c : Cause) : StopsWf (trapIf b s c) := by
  unfold trapIf
  split <;> trivial

@[simp] theorem waitIf_stopsWf (b a : Bool) : StopsWf (waitIf b a) := by
  unfold waitIf
  split <;> trivial

@[simp] theorem rd_stopsWf (s : State) (r : Reg) : StopsWf (rd s r) := by
  unfold rd
  repeat' split
  all_goals trivial

@[simp] theorem freeWait_stopsWf (s : State) (sp : Spec) (t : Nat) : StopsWf (freeWait s sp t) := by
  unfold freeWait
  split <;> simp

@[simp] theorem needReady_stopsWf (s : State) (sp : Spec) : StopsWf (needReady s sp) := by
  unfold needReady
  repeat' split
  all_goals trivial

@[simp] theorem checkTiles_stopsWf (s : State) (ts : List Nat) : StopsWf (checkTiles s ts) := trapIf_stopsWf _ _ _

@[simp] theorem checkFootprints_stopsWf (s : State) (ops : List Spec) : StopsWf (checkFootprints s ops) := checkTiles_stopsWf _ _

@[simp] theorem canTake_stopsWf (s : State) (sp : Spec) (n : Nat) : StopsWf (canTake s sp n) := by
  simp only [canTake]
  repeat' split
  all_goals trivial

@[simp] theorem canGive_stopsWf (s : State) (sp : Spec) (n : Nat) : StopsWf (canGive s sp n) := by
  simp only [canGive]
  repeat' split
  all_goals trivial

@[simp] theorem checkRows_stopsWf (s : State) (rows : List Nat) : StopsWf (checkRows s rows) := trapIf_stopsWf _ _ _

@[simp] theorem noLift_stopsWf (s : State) : StopsWf (noLift s) := trapIf_stopsWf _ _ _

@[simp] theorem memGate_stopsWf (s : State) (n : Nat) : StopsWf (memGate s n) := by
  simp [memGate]

@[simp] theorem vecOk_stopsWf (s : State) (sp : Spec) (n : Nat) : StopsWf (vecOk s sp n) := by
  unfold vecOk
  split <;> simp

@[simp] theorem imageOk_stopsWf (s : State) (sp : Spec) (n : Nat) : StopsWf (imageOk s sp n) := by
  unfold imageOk
  split <;> simp

@[simp] theorem peekHeader_stopsWf (s : State) (sp : Spec) (idx : List (Nat × Nat)) : StopsWf (peekHeader s sp idx) := by
  unfold peekHeader
  split <;> simp

@[simp] theorem kReps_stopsWf (s : State) (reads : List Spec) : StopsWf (kReps s reads) := by
  simp only [kReps]
  split <;> simp

@[simp] theorem moveCopies_stopsWf (s : State) (t k rows : Nat) (write : Bool) : StopsWf (moveCopies s t k rows write) := by
  simp only [moveCopies]
  repeat' split
  all_goals simp

@[simp] theorem forM_stopsWf {α : Type} {f : α → Res Unit} (hf : ∀ a, StopsWf (f a)) (l : List α) : StopsWf (forM l f) := by
  induction l with
  | nil => trivial
  | cons a l ih => exact (hf a).bind fun _ _ => ih

section
variable {s : State} (h : Memory.wf s.mem.cells)
include h

@[simp] theorem checkEcc_stopsWf (rows : List Nat) : StopsWf (checkEcc s rows) := by
  simp only [checkEcc]
  split <;> simp [h]

@[simp] theorem deliver_stopsWf : StopsWf (deliver s) := by
  unfold deliver
  split <;> simp [h]

@[simp] theorem mgoWait_stopsWf (reach : List Bool) : StopsWf (mgoWait s reach) := by
  simp only [mgoWait]
  split <;> simp [h]

@[simp] theorem kGate_stopsWf (keeps : Bool) (ops : List Spec) : StopsWf (kGate s keeps ops) := by
  simp only [kGate]
  split <;> simp [h]

theorem conclude_wf {r : Res State} (hr : KeepsWf r) : Memory.wf (conclude s r).mem.cells := by
  match r, hr with
  | .ok t, ht => exact ht
  | .error (.trap tr), _ => exact takeTrap_wf h _ _ _ _
  | .error (.trapIn tr t), ht => exact takeTrap_wf ht _ _ _ _
  | .error (.block k v), _ => exact h
  | .error (.interlock b), _ => exact h

variable {f : State → Res State} (hf : ∀ u, Memory.wf u.mem.cells → KeepsWf (f u))
include hf

theorem outcomeOf_keepsWf : KeepsWf (outcomeOf s f) := by
  have hs := hf s h
  have hm := hf (s.modMe (fun x => { x with stallctl := x.stallctl &&& ~~~ 1#64 })) h
  unfold outcomeOf
  split
  · split
    · unfold stillWaits
      split
      · trivial
      · trivial
      · trivial
      · next ht =>
        rw [ht] at hm
        split
        · exact hm
        · trivial
    · trivial
  · exact hs

/-- A word whose meaning leaves memory canonical leaves it so when it runs. -/
theorem run_wf : ∀ t, run s f = .next t → Memory.wf t.mem.cells := by
  rintro t ⟨⟩
  exact conclude_wf (by simpa using h) (outcomeOf_keepsWf (by simpa using h) hf)

theorem runNow_wf : ∀ t, runNow s f = .next t → Memory.wf t.mem.cells := by
  rintro t ⟨⟩
  exact conclude_wf (by simpa using h) (hf _ (by simpa using h))
end

/-! ### What the meanings of words are made of -/

section
variable {s : State} (h : Memory.wf s.mem.cells)
include h

@[simp] theorem dropReq_keepsWf (n : Nat) (y : BindReq) : KeepsWf (dropReq s n y) := by
  unfold dropReq
  split
  · dsimp only
    split <;> split <;> simp [h]
  · trivial

@[simp] theorem settleTags_keepsWf (td : Spec) (ws : List Nat) : KeepsWf (settleTags s td ws) := by
  simp only [settleTags]
  split <;> simp [h]

@[simp] theorem startOp_keepsWf (w : BitVec 3) (ops : List Spec) (reads : Bool) (flags : Nat) (todo : List KTodo) :
    KeepsWf (startOp s w ops reads flags todo) := by
  simp [startOp, h]

@[simp] theorem readOut_keepsWf (w : BitVec 3) (p : Spec) (v : List Nat) (fl cycles : Nat) (reads : Bool) :
    KeepsWf (readOut s w p v fl cycles reads) := by
  simp [readOut, h]

theorem reach_keepsWf {b : BankId} {src : Source} {a : Access} {l : List (W64 × Nat)} {r : Res State}
    (hr : reach s b src a l = .stop r) : KeepsWf r := by
  induction l with
  | nil => cases hr
  | cons x l ih =>
    simp only [reach] at hr
    split at hr
    · cases hr; exact h
    · split at hr
      · cases hr; trivial
      · cases hr; trivial
      · cases hr; simp [h]
      · split at hr
        · cases hr
        · next hl => cases hr; exact ih hl

@[simp] theorem withMem_keepsWf {va : W64} {n : Nat} {a : Access} {v : View} {f : State → List (Nat × Nat) → Res State}
    (hf : ∀ u l, Memory.wf u.mem.cells → KeepsWf (f u l)) : KeepsWf (withMem s va n a v f) := by
  simp only [withMem]
  refine (memGate_stopsWf s _).bind fun _ _ => ?_
  split
  · simp [h, hf]
  · next hr => exact reach_keepsWf h hr

@[simp] theorem readRows_keepsWf {t : State} (ht : Memory.wf t.mem.cells) {rows tiles : List Nat} {f : Nat → State → State}
    (hf : ∀ n u, Memory.wf u.mem.cells → Memory.wf (f n u).mem.cells) : KeepsWf (readRows s t rows tiles f) := by
  simp only [readRows]
  refine (waitIf_stopsWf _ _).bind fun _ _ => ?_
  split
  · simp [h, ht, hf]
  · simp [h, ht, hf, foldl_cells]

theorem stealFrom_wf {launch : BitVec 32} {l : List BankId} {v : W64} {t : State} (ht : stealFrom s launch l = some (v, t)) :
    Memory.wf t.mem.cells := by
  induction l with
  | nil => cases ht
  | cons p l ih =>
    simp only [stealFrom] at ht
    split at ht
    · cases ht; exact h
    · exact ih ht

/-- The checks of a nest's start stop in the state in which the arming is taken. -/
theorem startNest_keepsWf (w : BitVec 3) (td ta : Spec) (tab : NestTable) (isMma : Bool) : KeepsWf (startNest s w td ta tab isMma) := by
  unfold startNest
  refine (needReady_stopsWf _ _).bind fun _ _ => ?_
  refine (needReady_stopsWf _ _).bind fun _ _ => ?_
  extract_lets fresh s1 bad at_ reach core total ls p aOk p' ws aRows
  have h1 : Memory.wf s1.mem.cells := by simpa [s1] using h
  have hbad : ∀ c x, StopsWf (bad c x) := by
    intro c x
    unfold bad
    split
    · exact h1
    · trivial
  clear_value fresh s1 bad at_ reach core total ls p aOk p' ws aRows
  refine (hbad _ _).bind fun _ _ => ?_
  split
  · extract_lets ct cOk afterTags
    refine (hbad _ _).bind fun _ _ => ?_
    refine (hbad _ _).bind fun _ _ => ?_
    refine (hbad _ _).bind fun _ _ => ?_
    refine (hbad _ _).bind fun _ _ => ?_
    have hTags : ∀ t, Memory.wf t.mem.cells → KeepsWf (afterTags t) := by
      intro t ht
      unfold afterTags
      refine (hbad _ _).bind fun _ _ => (hbad _ _).bind fun _ _ => ?_
      simp [ht]
    refine (hbad _ _).bind fun _ _ => ?_
    have hs := settleTags_keepsWf h1 td ws
    generalize settleTags s1 td ws = r at hs ⊢
    split
    · exact hTags _ hs
    · exact h1
  · exact (hbad _ _).bind fun _ _ => h1

/-- A V word's checks, then its states in the order in which it makes them. The meaning is one `do` block with a continuation after each
of its checks that stands under a choice: `after…` names what follows that check, and its lemma is proved where it is made. -/
theorem vword_keepsWf (w : BitVec 3) (lat : Nat) (o : VOps) (okf : State → Bool) (fc : State → Nat) (rounds : State → Bool) (f : State → VFn) :
    KeepsWf (vword w lat o okf fc rounds f s) := by
  unfold vword
  refine (forM_stopsWf (needReady_stopsWf s) _).bind fun _ _ => ?_
  refine (trapIf_stopsWf _ _ _).bind fun _ _ => ?_
  extract_lets ws s0 tiles afterReg
  have hReg : ∀ x, KeepsWf (afterReg x) := by
    intro x
    unfold afterReg
    clear afterReg
    extract_lets afterTags
    have hTags : ∀ t, Memory.wf t.mem.cells → KeepsWf (afterTags t) := by
      intro s hs
      unfold afterTags
      clear afterTags
      extract_lets r idx fcv ca sa fn fixed afterRoom afterFootprint
      have hRoom : ∀ x, KeepsWf (afterRoom x) := by
        intro x
        unfold afterRoom
        clear afterRoom afterFootprint
        clear_value r idx fcv ca sa fn fixed
        dsimp -zeta only
        extract_lets cb cd scRows rows bases wr wake e s3 owed s4 inp out ready s4' s5 dests s6 s7 late s7' s8 s8' afterEcc
        clear_value cb cd scRows rows bases wr wake e
        have hs3 : Memory.wf s3.mem.cells := by
          unfold s3
          repeat' split
          all_goals simp [hs]
        clear_value s3
        have hs4 : Memory.wf s4.mem.cells := by simp [s4, foldl_cells, hs3]
        clear_value s4
        have hs4' : Memory.wf s4'.mem.cells := by
          unfold s4'
          split <;> exact hs4
        clear_value s4'
        have hs5 : Memory.wf s5.mem.cells := by
          unfold s5
          split <;> simp [hs4']
        clear_value s5
        have hs6 : Memory.wf s6.mem.cells := by
          unfold s6
          split <;> simp [foldl_cells, hs5]
        clear_value s6
        have hs7 : Memory.wf s7'.mem.cells := by
          unfold s7'
          split <;> exact hs6
        clear_value s7'
        have hs8 : Memory.wf s8.mem.cells := by
          unfold s8
          split <;> exact hs7
        clear_value s8
        have hs8' : Memory.wf s8'.mem.cells := by
          unfold s8'
          split <;> exact hs8
        clear_value s8'
        have hEcc : ∀ x, KeepsWf (afterEcc x) := by
          intro x
          unfold afterEcc
          repeat' split
          all_goals simp [hs8']
        refine (trapIf_stopsWf _ _ _).bind fun _ _ => ?_
        refine (checkRows_stopsWf _ _).bind fun _ _ => ?_
        exact endsIn_ite.mpr ⟨fun _ => (checkEcc_stopsWf h _).bind fun _ _ => hEcc (), fun _ => hEcc ()⟩
      have hFootprint : ∀ x, KeepsWf (afterFootprint x) := by
        intro x
        unfold afterFootprint
        clear afterFootprint
        refine (forM_stopsWf (fun sp => canTake_stopsWf s sp _) _).bind fun _ _ => ?_
        split <;> simp [hRoom]
      split <;> simp [hFootprint]
    split
    · refine EndsIn.bind (P := fun t => Memory.wf t.mem.cells) ?_ fun t ht => hTags t ht
      split <;> simp [h]
    · simp [hTags, h]
  split <;> simp [hReg]

theorem aluR_keepsWf (f : W64 → W64 → W64) (l : Nat) (w : BitVec 3) (d a b : Reg) : KeepsWf (aluR f l w d a b s) := by
  simp [aluR, h]

theorem aluI_keepsWf (f : W64 → W64 → W64) (w : BitVec 3) (d a : Reg) (k : W64) : KeepsWf (aluI f w d a k s) := by
  simp [aluI, h]

theorem branchIf_keepsWf (p : W64 → W64 → Bool) (w : BitVec 3) (a b : Reg) (o : BitVec 10) : KeepsWf (branchIf p w a b o s) := by
  simp [branchIf, h]

theorem fork_keepsWf (e : Engine) (w : BitVec 3) (d : Reg) (o : BitVec 15) : KeepsWf (fork e w d o s) := by
  simp [fork, h]

theorem load_keepsWf (kind : ReqKind) (signed acq : Bool) (w : BitVec 3) (d a b : Reg) (z : BitVec 2) :
    KeepsWf (load kind signed acq w d a b z s) := by
  simp +contextual [load, h]

theorem store_keepsWf (rel : Bool) (w : BitVec 3) (d a b : Reg) (z : BitVec 2) : KeepsWf (store rel w d a b z s) := by
  simp +contextual [store, h]

theorem atomic_keepsWf (op : AtomicOp) (w : BitVec 3) (d a b : Reg) (o : BitVec 2) (x : BitVec 1) : KeepsWf (atomic op w d a b o x s) := by
  simp only [atomic]
  split <;> simp +contextual [h]

theorem paired_wf {f : State → Res State} (ta : Spec) (hf : ∀ u, Memory.wf u.mem.cells → KeepsWf (f u)) :
    ∀ t, paired s ta f = .next t → Memory.wf t.mem.cells := by
  unfold paired
  split
  · split
    · rintro t ⟨⟩
      have hs := hf s h
      split
      · split
        · next hr => rwa [hr] at hs
        · exact h
      · exact h
    · exact run_wf h hf
  · exact run_wf h hf
end

end Sys2Proof.KernelMachine

/-! PROOFS. Every instruction and event, and so every step, keeps memory canonical (log entry 3); canonical memories that read the same are
the same. -/

namespace Sys2Proof.KernelMachine

open Sys2Proof Sys2Proof.Machine

/-! ### Words with a meaning of their own -/

section
variable {s t : State} (h : Memory.wf s.mem.cells)
include h

theorem execEnqr_wf (w : BitVec 3) (a b : Reg) (ht : execEnqr w a b s = .next t) : Memory.wf t.mem.cells := by
  refine run_wf h (fun u hu => ?_) t ht
  refine (rd_stopsWf _ _).bind fun _ _ => (rd_stopsWf _ _).bind fun _ _ => (trapIf_stopsWf _ _ _).bind fun _ _ => ?_
  dsimp only
  repeat' split
  all_goals simp [hu]

theorem execCmdpop_wf (w : BitVec 3) (d : Reg) (ht : execCmdpop w d s = .next t) : Memory.wf t.mem.cells := by
  refine run_wf h (fun u hu => ?_) t ht
  split <;> simp [hu]

theorem execCmdsteal_wf (w : BitVec 3) (d : Reg) (ht : execCmdsteal w d s = .next t) : Memory.wf t.mem.cells := by
  refine run_wf h (fun u hu => ?_) t ht
  split
  · simp [hu]
  · split
    · next hv => simp [stealFrom_wf hu hv]
    · simp [hu]

theorem execQbind_wf (w : BitVec 3) (q : Spec) (r : Reg) (ht : execQbind w q r s = .next t) : Memory.wf t.mem.cells := by
  refine run_wf h (fun u hu => ?_) t ht
  refine (noLift_stopsWf _).bind fun _ _ => (rd_stopsWf _ _).bind fun _ _ => ?_
  dsimp only
  refine (trapIf_stopsWf _ _ _).bind fun _ _ => ?_
  repeat' split
  all_goals simp [hu]

theorem execJoin_wf (w : BitVec 3) (ht : execJoin w s = .next t) : Memory.wf t.mem.cells := by
  refine run_wf h (fun u hu => ?_) t ht
  split <;> simp [hu]

theorem execTdesc_wf (w : BitVec 3) (p q : Spec) (r : Reg) (ht : execTdesc w p q r s = .next t) : Memory.wf t.mem.cells := by
  refine run_wf h (fun u hu => (rd_stopsWf _ _).bind fun _ _ => ?_) t ht
  dsimp only
  repeat' split
  all_goals simp [hu]

theorem execTstate_wf (w : BitVec 3) (p : Spec) (r : Reg) (ht : execTstate w p r s = .next t) : Memory.wf t.mem.cells := by
  refine run_wf h (fun u hu => ?_) t ht
  split <;> simp [hu]

theorem execMgo_wf (w : BitVec 3) (ht : execMgo w s = .next t) : Memory.wf t.mem.cells := by
  refine run_wf h (fun u hu => (mgoWait_stopsWf hu _).bind fun _ _ => ?_) t ht
  split
  · exact startNest_keepsWf hu _ _ _ _ _
  · exact hu

theorem execMma_wf (w : BitVec 3) (p q : Spec) (ht : execMma w p q s = .next t) : Memory.wf t.mem.cells :=
  run_wf h (fun _ hu => (mgoWait_stopsWf hu _).bind fun _ _ => startNest_keepsWf hu _ _ _ _ _) t ht

theorem execSkrow_wf (w : BitVec 3) (p : Spec) (r : Reg) (ht : execSkrow w p r s = .next t) : Memory.wf t.mem.cells := by
  refine run_wf h (fun u hu => ?_) t ht
  refine (kGate_stopsWf hu _ _).bind fun _ _ => (rd_stopsWf _ _).bind fun _ _ => (trapIf_stopsWf _ _ _).bind fun _ _ => ?_
  exact readOut_keepsWf hu _ _ _ _ _ _

theorem execTlbinv_wf (w : BitVec 3) (a : Reg) (e : BitVec 2) (ht : execTlbinv w a e s = .next t) : Memory.wf t.mem.cells := by
  refine runNow_wf h (fun u hu => (rd_stopsWf _ _).bind fun _ _ => ?_) t ht
  dsimp only
  split <;> simp [hu]

theorem execWfi_wf (w : BitVec 3) (ht : execWfi w s = .next t) : Memory.wf t.mem.cells := by
  refine run_wf h (fun u hu => ?_) t ht
  split <;> simp [hu]

theorem execEccinj_wf (w : BitVec 3) (a : Reg) (e : BitVec 3) (ht : execEccinj w a e s = .next t) : Memory.wf t.mem.cells := by
  refine run_wf h (fun u hu => (rd_stopsWf _ _).bind fun _ _ => ?_) t ht
  dsimp only
  repeat' split
  all_goals simp [hu]

theorem execPostc_wf (w : BitVec 3) (a : Reg) (ht : execPostc w a s = .next t) : Memory.wf t.mem.cells := by
  refine run_wf h (fun u hu => (rd_stopsWf _ _).bind fun _ _ => ?_) t ht
  refine endsIn_ite.mpr ⟨fun _ => trivial, fun _ => (waitIf_stopsWf _ _).bind fun _ _ => (waitIf_stopsWf _ _).bind fun _ _ => ?_⟩
  split
  · exact withMem_keepsWf hu fun _ _ hv => by simp [hv]
  · split
    · next hk => simpa using wf_of_cells hu (groupKept_cells hk)
    · simp [hu]

/-! ### Watchdogs and steps of records -/

@[simp] theorem blockWatchdog_wf {u : State} (hu : Memory.wf u.mem.cells) (b : BankId) (e : Engine) (kind : BlockKind) (c : Cause) :
    Memory.wf ((blockWatchdog s b e kind c).getD u).mem.cells := by
  simp only [blockWatchdog]
  repeat' split
  all_goals simp [h, hu]

@[simp] theorem recordStart_wf (b : BankId) (ch : Nat) : Memory.wf (recordStart s b ch).mem.cells := by
  simp only [recordStart]
  repeat' split
  all_goals simp [h]

@[simp] theorem recordComplete_wf (b : BankId) (ch : Nat) : Memory.wf (recordComplete s b ch).mem.cells := by
  simp only [recordComplete]
  repeat' split
  all_goals simp [h]

omit h in
@[simp] theorem recordedWait_cells (s : State) (b : BankId) (e : Engine) : (recordedWait s b e).mem.cells = s.mem.cells := by
  simp only [recordedWait]
  repeat' split
  all_goals simp

omit h in
theorem next_wf (h : Memory.wf s.mem.cells) (ht : (.next s : Out) = .next t) : Memory.wf t.mem.cells := by
  cases ht
  exact h

/-! ### Every instruction and event -/

theorem exec_wf {i : Instr} (ht : exec i s = .next t) : Memory.wf t.mem.cells := by
  cases i with
  | add | sub | and | or | xor | shl | shr | sra | mul | mulh | mulhu | div | divu | rem | min | max | minu | maxu | slt | sltu =>
    exact run_wf h (fun _ hu => aluR_keepsWf hu _ _ _ _ _ _) t ht
  | addi | andi | ori | xori | shli | shri | srai | slti =>
    exact run_wf h (fun _ hu => aluI_keepsWf hu _ _ _ _ _) t ht
  | li | lsh | csrr | csrw | tick | tickwait | jal | jalr | semwait | semsig | fence | nop | lcall | rdv | rdvEnd | rdvStream | safept |
    unitid | param | role | qdepth | split | stdim | stbase | stgo | strst | ldq | stq | cpyst | pref | mnest | mbind | mbank | mring |
    mwait | mstat | mclr | skcfg | skclr | skfold | skshrink | skrank | sken | skenclr | skrdu | skrdv | skmrg | skscl | sksave | skload |
    scsrr | scsrw | tret | ctxbank | halt | errpop =>
    exact run_wf h (fun _ hu => by simp [hu]) t ht
  | beq | bne | blt | bge | bltu | bgeu =>
    exact run_wf h (fun _ hu => branchIf_keepsWf hu _ _ _ _ _) t ht
  | brk | trap | pageWalk | loadReturn | streamRowFetch | streamRowStore | fillRow | dirtyLineDrain | homeAck | homeRequest |
    semsigIncrement | enqrArrival | boundRowArrival | creditReturn | bindRequest | bindAck | gbarCompletion | splitChangeEnd |
    bankLoadStart | bankLoadFinish | nestStep | kRunWriteback | kOperationComplete | tileWatchdog | queueWatchdog | semWatchdog |
    preemptBudgetExpiry | dispatch | bankSwitch | coreResetDone | wfiWake | chainWalk | recordStart | recordComplete | collectiveTakeUp |
    notice | ticket | ticketStart | collectiveWatchdog | allreduce | reduce | broadcast | allgather | reducescatter | collectiveDone |
    launch | graph | semwaitPacket | semwaitPacketRelease | semsigPacket | timed | timedRelease | cancelPacket | collectivePacket |
    launchComplete | graphNodeStart | rebuildWriteback | powerWake | timedPrewake | tickAdvance | atsTranslationResponse | prgResponse |
    atsInvalidation | preemptRequest | unitResume | controlStateError | abort | powerOn | domainJoin | domainLeave | alignmentMarker |
    linkRetry | ptpSync | ptpSyncLoss | registerWrite | gtrig | gupload | graphUploadDone | cancelLaunch | cancelGraph | cancelStage |
    cancelJob | doorbell | queueEnable | queueDisable | queueConfigure | queueReset | contextRegister | contextUnregister | ctxkill |
    fanswerRetry | fanswerRefuse | migdst | migrationComplete | corerst | slretire | retirementWritebackDone | rehashReply | faqpop |
    bpretire | protmap | mirror | ltol | memoryRead | cxlMemAccess | powerSample | thermtrip | powerStateEntry | spadBankRetention |
    monitorRead | marginReplan | fwstage | moduleReset | getVersion | getCapabilities | negotiateAlgorithms | getDigests | getCertificate |
    challenge | getMeasurements | firmwareVerifyDone | coreRetest | scrub | modulePowerOff =>
    exact next_wf (by simp [h]) ht
  | readyWrite => exact next_wf (tryEnd_wf (ite_wf (by simp [h]) (by simp [h])) _) ht
  | lret | ltag | lidx | brb | gbar | tfill | tdrain | tfree | cpyhd | cpywait | vrow | vnext | mloadb | skpanel | skrds =>
    refine run_wf h (fun u hu => ?_) t ht
    dsimp only
    repeat' split
    all_goals simp [hu]
  | join => exact execJoin_wf h _ ht
  | forkA | forkV | forkM | forkK =>
    exact run_wf h (fun _ hu => fork_keepsWf hu _ _ _ _) t ht
  | enqr => exact execEnqr_wf h _ _ _ ht
  | cmdpop => exact execCmdpop_wf h _ _ ht
  | cmdsteal => exact execCmdsteal_wf h _ _ ht
  | qbind => exact execQbind_wf h _ _ _ ht
  | tdesc => exact execTdesc_wf h _ _ _ _ ht
  | tstate => exact execTstate_wf h _ _ _ ht
  | ld | ldu | ldl | ldacq =>
    exact run_wf h (fun _ hu => load_keepsWf hu _ _ _ _ _ _ _ _) t ht
  | st | strel =>
    exact run_wf h (fun _ hu => store_keepsWf hu _ _ _ _ _ _) t ht
  | aadd | aand | aor | axor | amin | amax | aminu | amaxu | aswp | acas =>
    exact run_wf h (fun _ hu => atomic_keepsWf hu _ _ _ _ _ _ _) t ht
  | postc => exact execPostc_wf h _ _ ht
  | vadd | vsub | vmul | vfma | vfms | vmin | vmax | vdiv | vabs | vneg | vrcp | vrsq | vexp2 | vlog2 | vcmp | vsel | vand | vor | vxor |
    vnot | vshl | vshr | vsra | vadds | vmuls | vqadd | vqsub | vqmul | vqabs | vbcst | vperm | vrot |
    vbmax | vrsum | vrmax | vrmin | vmov | vrng =>
    exact run_wf h (fun _ hu => vword_keepsWf hu _ _ _ _ _ _ _) t ht
  | vcvt | vbq =>
    exact paired_wf h _ (fun _ hu => vword_keepsWf hu _ _ _ _ _ _ _) t ht
  | mgo => exact execMgo_wf h _ ht
  | mma => exact execMma_wf h _ _ _ ht
  | skrow => exact execSkrow_wf h _ _ _ ht
  | tlbinv => exact execTlbinv_wf h _ _ _ ht
  | wfi => exact execWfi_wf h _ ht
  | eccinj => exact execEccinj_wf h _ _ _ ht
end

/-! ### A step -/

/-- The states that a fetch ends in keep memory canonical. -/
theorem fetch_done_wf {s t : State} (h : Memory.wf s.mem.cells) {core : Nat} {e : Engine} (hf : fetch s core e = .done t) :
    Memory.wf t.mem.cells := by
  simp only [fetch] at hf
  split at hf
  · cases hf; simpa using h
  · split at hf
    · cases hf; simp [h]
    · split at hf
      · cases hf; simp [h]
      · split at hf
        · cases hf; simp [h]
        · cases hf

theorem fetch_word_wf {s t : State} (h : Memory.wf s.mem.cells) {core : Nat} {e : Engine} {i : Instr} (hf : fetch s core e = .word i t) :
    Memory.wf t.mem.cells := by
  simp only [fetch] at hf
  split at hf
  · cases hf
  · split at hf
    · cases hf
    · split at hf
      · cases hf
      · split at hf
        · cases hf
        · cases hf; simpa using h

theorem step_wf {s t : State} (h : Memory.wf s.mem.cells) (ht : step s = .next t) : Memory.wf t.mem.cells := by
  have hrest (rest : List Agendum) : Memory.wf ({ s with agenda := rest } : State).mem.cells := h
  unfold step at ht
  split at ht
  · split at ht
    · cases ht; exact refill_wf h
    · exact exec_wf (hrest _) ht
    · split at ht
      · next hf => cases ht; exact fetch_done_wf (hrest _) hf
      · next hf => exact exec_wf (fetch_word_wf (hrest _) hf) ht
  · split at ht
    · exact exec_wf (hrest _) ht
    · cases ht

/-! ### Canonical memories that read the same are the same -/

theorem get_head (k : Nat) (v : Byte) (l : List Host.Cell) : Cells.get ((k, v) :: l) k = v := by
  simp [Cells.get]

theorem get_tail {k a : Nat} (h : k < a) (v : Byte) (l : List Host.Cell) : Cells.get ((k, v) :: l) a = Cells.get l a := by
  simp [Cells.get, h.ne, h.not_gt]

/-- The first cell of a canonical memory is listed because it reads as something else than an unlisted byte. -/
theorem head_listed {lo : Option Nat} {k : Nat} {v : Byte} {l : List Host.Cell} (h : Cells.wfFrom lo ((k, v) :: l) = true) : v ≠ unlisted := by
  simp only [Cells.wfFrom, Bool.and_eq_true, bne_iff_ne] at h
  exact h.1.2

theorem tail_above {lo : Option Nat} {k : Nat} {v : Byte} {l : List Host.Cell} (h : Cells.wfFrom lo ((k, v) :: l) = true) :
    Cells.wfFrom (some k) l = true := by
  simp only [Cells.wfFrom, Bool.and_eq_true] at h
  exact h.2

/-- A cell that starts one memory is not below the start of another that reads the same. -/
theorem head_le {lo : Option Nat} {k j : Nat} {v w : Byte} {l m : List Host.Cell} (hl : Cells.wfFrom lo ((k, v) :: l) = true)
    (h : ∀ a, Cells.get ((k, v) :: l) a = Cells.get ((j, w) :: m) a) : j ≤ k := by
  by_contra hlt
  have hk := h k
  rw [get_head, Cells.get, if_neg (by omega), if_pos (by omega)] at hk
  exact head_listed hl hk

theorem eq_of_get_eq {l m : List Host.Cell} {lo lo' : Option Nat} (hl : Cells.wfFrom lo l = true) (hm : Cells.wfFrom lo' m = true)
    (h : ∀ a, Cells.get l a = Cells.get m a) : l = m := by
  induction l generalizing m lo lo' with
  | nil =>
    cases m with
    | nil => rfl
    | cons y m => exact absurd ((h y.1).trans (get_head _ _ _)).symm (head_listed hm)
  | cons x l ih =>
    obtain ⟨k, v⟩ := x
    cases m with
    | nil => exact absurd ((get_head _ _ _).symm.trans (h k)) (head_listed hl)
    | cons y m =>
      obtain ⟨j, w⟩ := y
      obtain rfl : k = j := le_antisymm (head_le hm fun a => (h a).symm) (head_le hl h)
      obtain rfl : v = w := by simpa [get_head] using h k
      congr 1
      refine ih (tail_above hl) (tail_above hm) fun a => ?_
      rcases Nat.lt_or_ge k a with hka | hka
      · simpa only [get_tail hka] using h a
      · rw [Cells.get_below (tail_above hl) hka, Cells.get_below (tail_above hm) hka]

/-- Settles O60: each operation of the machine leaves the bytes or puts them by operations that keep their form, each word's meaning and
each event is made of those, and so is a step; two canonical lists that read the same agree cell by cell. -/
theorem memoryStaysCanonical : Obligations.MemoryStaysCanonical :=
  ⟨fun _ _ => step_wf, fun _ _ => eq_of_get_eq⟩

end Sys2Proof.KernelMachine

/-! PROOFS. The control words (04 R86–R91, R97) -/

namespace Sys2Proof.KernelMachine

open Sys2Proof Sys2Proof.Machine Sys2Proof.Claims

/-! ### Control registers, the tick (03 R62; 04 R86–R91, R97) -/

section
variable {s : State} {w : BitVec 3} {d a : Reg} {n : BitVec 15}

/-- Each user control register reads as the state holds it (04 R87). -/
theorem readUcr_of_mem {c : BitVec 15 × (Bank → Stream → W64)} (hc : c ∈ controlRegisters) (k : Bank) (x : Stream) :
    readUcr k x c.1.toNat = c.2 k x := by
  simp only [controlRegisters, List.mem_cons, List.not_mem_nil, or_false] at hc
  rcases hc with rfl | rfl | rfl | rfl | rfl | rfl <;> rfl

/-- To put the bits of `v` that a mask names into `x` is to flip those in which they differ. -/
theorem merge_eq_flip (x v m : W64) : (x &&& ~~~m) ||| (v &&& m) = x ^^^ ((x ^^^ v) &&& m) := by
  ext i
  simp only [BitVec.getElem_or, BitVec.getElem_and, BitVec.getElem_not, BitVec.getElem_xor]
  cases x[i] <;> cases v[i] <;> cases m[i] <;> rfl

/-- Each user control register takes what its row of 04 R87–R89 says. -/
theorem writeUcr_of_mem {c : BitVec 15 × (Stream → W64 → Stream)} (hc : c ∈ controlWrites) (x : Stream) (v : W64) :
    writeUcr x c.1.toNat v = c.2 x v := by
  simp only [controlWrites, List.mem_cons, List.not_mem_nil, or_false] at hc
  rcases hc with rfl | rfl | rfl | rfl | rfl | rfl
  · rfl
  · rfl
  · change { x with rndctl := (x.rndctl &&& ~~~rndMask) ||| (v &&& rndMask) } = _
    rw [merge_eq_flip]; rfl
  · rfl
  · rfl
  · change { x with stallctl := (x.stallctl &&& ~~~1) ||| (v &&& 1) } = _
    rw [merge_eq_flip]

theorem csrr_of_quiet (hq : Quiet (issueState s)) : ∃ t, exec (.csrr w d n) s = .next t ∧
    RegisterWord s t w d (readUcr (issueState s).myBank (issueState s).me n.toNat) 1 :=
  registerWord_of_ok rfl (by simp only [waitIf_quiet hq, Except.bind_ok'])

theorem csrw_of_quiet (hq : Quiet (issueState s)) (hd : Readable (issueState s) d) : ∃ t, exec (.csrw w d n) s = .next t ∧
    BankWord s t w ((issueState s).myBank.setStream (issueState s).cur.engine
      (writeUcr (issueState s).me n.toNat ((issueState s).me.get d))) := by
  refine bankWord_of_mod (g := fun k => k.setStream (issueState s).cur.engine
    (writeUcr (issueState s).me n.toNat ((issueState s).me.get d))) rfl ?_
  simp only [waitIf_quiet hq, rd_of_readable hd, Except.bind_ok', modMe_eq_modMyBank]
  rfl

theorem csr_waits (hq : ¬ Quiet (issueState s)) : Waits s (.csrr w d n) ∧ Waits s (.csrw w d n) := by
  refine ⟨waits_of_error ((issueState s).myBank.waitsOnA (issueState s).cur.engine) rfl ?_,
    waits_of_error ((issueState s).myBank.waitsOnA (issueState s).cur.engine) rfl ?_⟩
  all_goals simp only [waitIf_not_quiet hq, Except.bind_error']

theorem tickwait_reached (ha : Readable (issueState s) a) (h : ((issueState s).me.get a).toNat ≤ (issueState s).time.tick.toNat) :
    ∃ t, exec (.tickwait w a) s = .next t ∧ BankWord s t w (issueState s).myBank := by
  have hult : (issueState s).time.tick.ult ((issueState s).me.get a) = false := by simpa [BitVec.ult] using h
  refine bankWord_of_ok rfl ?_ (onlyBank_refl _ _)
  simp only [rd_of_readable ha, Except.bind_ok', hult, Bool.false_eq_true, if_false]

theorem tickwait_below (ha : Readable (issueState s) a) (h : ¬ ((issueState s).me.get a).toNat ≤ (issueState s).time.tick.toNat) :
    Blocks s (.tickwait w a) .tick 0 := by
  have hult : (issueState s).time.tick.ult ((issueState s).me.get a) = true := by simpa [BitVec.ult] using h
  refine blocks_of_error rfl ?_
  simp only [rd_of_readable ha, Except.bind_ok', hult, if_true]

end

/-- Settles O4: each word's one effect, or its wait, read in the state it issues in. -/
theorem controlWordsComplete : Obligations.ControlWordsComplete := by
  intro w d a s
  dsimp only
  refine ⟨fun c hc hq => ?_, fun c hc hq hd => ?_, fun n => csr_waits, registerWord_of_ok rfl rfl, fun ha => ?_,
    bankWord_of_ok rfl rfl (onlyBank_refl _ _)⟩
  · rw [← readUcr_of_mem hc]; exact csrr_of_quiet hq
  · rw [← writeUcr_of_mem hc]; exact csrw_of_quiet hq hd
  · split
    · next h => exact tickwait_reached ha h
    · next h => exact tickwait_below ha h

end Sys2Proof.KernelMachine

/-! PROOFS. What the statement on the steps of a nest says of formats that no nest takes (07 R176, R183). -/

namespace Sys2Proof.KernelMachine

open Sys2Proof Sys2Proof.Machine Sys2Proof.Claims

/-! ### A min-plus step over an A vector of INT8 (07 R176, R183) -/

/-- An A vector of INT8 whose last element is 8, the others 0. -/
def int8Vector : AVec := ⟨fmtI8, 8 <<< (8 * 255), List.replicate 8 (some 0)⟩

/-- The accumulators at +∞, the identity of min-plus. -/
def infinite512 : MAcc := ⟨List.replicate 512 0x7F800000, 0, 0, []⟩

/-- An empty bank has its 512 columns. -/
theorem bankWhole_reset : BankWhole CimBank.reset :=
  ⟨fun _ _ h => by simp [CimBank.reset, kfind] at h, fun _ => List.length_replicate⟩

/-- The model widens each element of the vector as an FP32 code, 0 or 8, so that column 0 is the least of them. -/
theorem minPlus_int8Vector : (mStep 1 int8Vector CimBank.reset infinite512).acc.getD 0 0 = 0 := by decide +kernel

/-- As a number of the tables of 03, which have no line for INT8, the last element is no number. -/
theorem numOf_int8Vector_last : numOf int8Vector.fmt (int8Vector.code 255) = .nan := by decide +kernel

/-- A term whose A element is NaN leaves the canonical NaN. -/
theorem code_of_tropicalTerm_nan {less : Bool} {y : Claims.Num} {acc : Nat} {r : Rnd} (h : TropicalTerm less .nan y acc r) : r.code = canonicalNan 0 := by
  obtain ⟨a, b, z, ha, -, hz, rfl⟩ := h
  have hnan : numOf 0 (canonicalNan 0) = .nan := by decide
  obtain rfl : a = isNanCode 0 := ha
  have hzcode : z = isNanCode 0 := by
    cases less <;> simpa only [isNanCode, hnan, Bool.false_eq_true, if_true, if_false, SumOf, ProductOf] using hz
  have hznan : numOf 0 z.code = .nan := by rw [hzcode]; exact hnan
  exact if_pos (.inr hznan)

/-- Refutes O25: of min-plus and max-times the statement values A's elements as numbers of the vector's format, whatever that is, and the tables of 03
that it values them by (`numOf`) take a format they do not list for E2M1, where the model takes it for FP32 (`ffOf`). Min-plus has no INT8
(07 R176), so that no nest makes such a step, but the statement holds of every vector. Over `int8Vector` the model's step leaves 0 in column 0, the
statement the canonical NaN. -/
theorem not_matrixEngineRuns : ¬ Obligations.MatrixEngineRuns := by
  rintro ⟨-, -, ⟨hstep, -⟩, -⟩
  obtain ⟨-, -, htropical, -⟩ := hstep 1 int8Vector CimBank.reset infinite512 List.length_replicate bankWhole_reset
  obtain ⟨s, hends, hterms, -⟩ := htropical (.inl rfl)
  obtain ⟨-, hlast⟩ := hends 0 (by decide)
  have hterm := hterms 0 (by decide) 255 (by decide)
  rw [if_neg (by decide +kernel), numOf_int8Vector_last] at hterm
  rw [minPlus_int8Vector, code_of_tropicalTerm_nan hterm] at hlast
  exact absurd hlast (by decide)

end Sys2Proof.KernelMachine

/-! PROOFS. What the statement on K's read-outs says of a stream that stands between two repetitions (09 R218; 10 R236, R237). -/

namespace Sys2Proof.KernelMachine

open Sys2Proof Sys2Proof.Machine Sys2Proof.Claims

/-! ### A read-out into a tile whose tags the stream remembers (10 R236, R237) -/

/-- A tile of one FP32 element at row 0, ready and untagged, with a dormant stride of 256 bytes at level 0. -/
def strideTile : Tile := { Tile.null with rows := 1, len := 1, state := .ready, lift := Tile.null.lift.set 0 ⟨false, 256, none⟩ }

/-- K's stream under a lift of two, between two repetitions of a word that found tile 0 tagged at level 0. -/
def betweenStream : Stream := { Stream.reset with status := .running, lift := [⟨2, 0, BitVec.allOnes 256⟩], lrep := 1, xset := [(0, [0])] }

/-- A pair of one column each, 1.0 and 0. -/
def onePair : KPair := { KPair.reset with k := 1, u := [[0x3F800000]], v := [[0]] }

def betweenBank : Bank :=
  { Bank.reset with tiles := Bank.reset.tiles.set 0 strideTile, k := betweenStream, kEng := { KEngine.reset with pair := onePair } }

def betweenState : State :=
  { State.reset with cores := [(0, { Core.reset with bank0 := betweenBank })], cur := { State.reset.cur with engine := .K } }

/-- Nothing of the stream is due: the word issues in the state as it stands. -/
theorem betweenState_issue : issueState betweenState = betweenState := rfl

theorem betweenState_free : SketchFree betweenState true [0] := by
  unfold SketchFree
  refine ⟨rfl, rfl, fun _ => rfl, fun sp hsp n hn => ?_⟩
  obtain rfl := List.mem_singleton.mp hsp
  cases hn
  rfl

theorem betweenState_pair : PairOk betweenState.myBank.kEng.pair := by
  unfold PairOk
  decide +kernel

/-- Row 1 of core 0 as an outcome leaves it. -/
def rowOneAfter : Out → Option Row
  | .next t => some ((t.core 0).row 1)
  | _ => none

/-- SKRDU of column 0 writes it to row 1 as well. -/
theorem betweenState_skrdu : rowOneAfter (exec (.skrdu 0 0 0) betweenState) = some 0x3F800000 := by decide +kernel

/-- Refutes O26: a read-out into a tile goes to the tile's copies along the tags that the word found before its first repetition (10 R236), which
the stream remembers while it stands between two; the statement has them along the tags that the tile has now, and none in this case. No K word
leaves its stream so, but the statement holds of every state. In `betweenState` the tile is untagged, so that by the statement row 1, which is none
of the tile, stands at 0, and SKRDU writes the column's 1.0 there. -/
theorem not_foldsAndReadouts : ¬ Obligations.FoldsAndReadouts := by
  rintro ⟨-, hreadouts, -⟩
  have hread := hreadouts 0 0 0 betweenState
  dsimp only at hread
  rw [betweenState_issue] at hread
  obtain ⟨hcolumn, -⟩ := hread rfl betweenState_free betweenState_pair (fun y hy => by cases hy)
  obtain ⟨t, fl, hexec, -, -, hgiven, -⟩ := hcolumn (.inl rfl) (by decide +kernel)
    ⟨by decide +kernel, by decide +kernel, .inl ⟨0, by decide +kernel, by decide +kernel, by decide +kernel, by decide +kernel⟩⟩
  obtain ⟨-, hstand⟩ := hgiven (by decide +kernel)
  have hrow : (t.core 0).row 1 = (betweenState.core 0).row 1 := hstand 1 (by decide +kernel)
  have hwritten := betweenState_skrdu
  rw [hexec, rowOneAfter, hrow] at hwritten
  exact absurd hwritten (by decide +kernel)

end Sys2Proof.KernelMachine

/-! PROOFS. What V computes in each lane (03; 06 R152–R167). First the lanes of a row, and the integers that an element holds. -/

namespace Sys2Proof.Numbers

open Sys2Proof Sys2Proof.Machine Sys2Proof.Claims

/-! ### Lanes of a row (03 R57) -/

@[simp] theorem one_shiftLeft_eq (n : Nat) : 1 <<< n = 2 ^ n := Nat.one_shiftLeft n

theorem laneOf_eq (r : Row) (w i : Nat) : laneOf r w i = r.toNat / 2 ^ (w * i) % 2 ^ w := by
  rw [laneOf, Nat.shiftRight_eq_div_pow, one_shiftLeft_eq]

theorem laneOf_lt (r : Row) (w i : Nat) : laneOf r w i < 2 ^ w := by
  rw [laneOf_eq]; exact Nat.mod_lt _ (by positivity)

theorem packLanes_cons (w x : Nat) (l : List Nat) : packLanes w (x :: l) = x % 2 ^ w + 2 ^ w * packLanes w l := by
  rw [packLanes, one_shiftLeft_eq, Nat.shiftLeft_eq, Nat.mul_comm]

theorem packLanes_lt (w : Nat) (l : List Nat) : packLanes w l < 2 ^ (w * l.length) := by
  induction l with
  | nil => exact Nat.two_pow_pos _
  | cons x l ih =>
    have hx : x % 2 ^ w < 2 ^ w := Nat.mod_lt _ (by positivity)
    rw [packLanes_cons, List.length_cons, Nat.mul_succ, Nat.pow_add, Nat.mul_comm (2 ^ (w * l.length))]
    calc x % 2 ^ w + 2 ^ w * packLanes w l < 2 ^ w * (packLanes w l + 1) := by rw [Nat.mul_succ]; omega
      _ ≤ 2 ^ w * 2 ^ (w * l.length) := Nat.mul_le_mul_left _ ih

/-- Digit `i` of packed lanes is element `i` of the list, 0 past its end. -/
theorem packLanes_digit (w : Nat) (l : List Nat) (i : Nat) : packLanes w l / 2 ^ (w * i) % 2 ^ w = l.getD i 0 % 2 ^ w := by
  induction l generalizing i with
  | nil => simp [packLanes]
  | cons x l ih =>
    rw [packLanes_cons]
    cases i with
    | zero => simp
    | succ i =>
      have hx : x % 2 ^ w < 2 ^ w := Nat.mod_lt _ (by positivity)
      rw [Nat.mul_succ, Nat.add_comm (w * i), Nat.pow_add, ← Nat.div_div_eq_div_mul, Nat.add_mul_div_left _ _ (by positivity),
        Nat.div_eq_of_lt hx, Nat.zero_add, ih, List.getD_cons_succ]

theorem toNat_ofNat_of_lt {n k x : Nat} (hx : x < 2 ^ k) (hk : k ≤ n) : (BitVec.ofNat n x).toNat = x := by
  rw [BitVec.toNat_ofNat, Nat.mod_eq_of_lt (hx.trans_le (Nat.pow_le_pow_right Nat.two_pos hk))]

/-- A row that is long enough for its lanes holds each of them. -/
theorem laneOf_packLanes {w : Nat} {l : List Nat} (h : l.length * w ≤ 2048) (i : Nat) :
    laneOf (BitVec.ofNat 2048 (packLanes w l)) w i = l.getD i 0 % 2 ^ w := by
  rw [laneOf_eq, toNat_ofNat_of_lt (packLanes_lt w l) (by rwa [Nat.mul_comm]), packLanes_digit]

/-- A bit of the union of flags is a bit of one of them. -/
theorem testBit_foldl_or {α : Type} (g : α → Nat) (l : List α) (f j : Nat) :
    (l.foldl (fun a x => a ||| g x) f).testBit j = true ↔ f.testBit j = true ∨ ∃ x ∈ l, (g x).testBit j = true := by
  induction l generalizing f with
  | nil => simp
  | cons x l ih => simp [ih, or_assoc]

theorem laneOf_lanes {n w : Nat} (h : n * w ≤ 2048) (g : Nat → Rnd) (i : Nat) :
    laneOf (lanes n w g).row w i = if i < n then (g i).code % 2 ^ w else 0 := by
  rw [lanes, laneOf_packLanes (by simpa using h)]
  split
  · next hi => simp [hi]
  · next hi => simp [List.getD_eq_getElem?_getD, hi]

/-- A word that gives each lane its own result, which fits the lane. -/
theorem lanesAre_lanes {n w : Nat} (h : n * w ≤ 2048) {g : Nat → Rnd} {P : Nat → Rnd → Prop} (hfit : ∀ i < n, (g i).code < 2 ^ w)
    (hP : ∀ i < n, P i (g i)) : LanesAre (lanes n w g) n w P := by
  refine ⟨g, fun i hi => ⟨?_, hP i hi⟩, fun j => ?_, fun i hi _ => ?_⟩
  · rw [laneOf_lanes h, if_pos hi, Nat.mod_eq_of_lt (hfit i hi)]
  · simp [lanes, testBit_foldl_or]
  · rw [laneOf_lanes h, if_neg (Nat.not_lt.mpr hi)]

/-! ### Integers (03 R61) -/

theorem isInt_cases {f : Nat} (h : isInt f = true) : f = 8 ∨ f = 9 ∨ f = 10 ∨ f = 11 := by
  simp only [isInt, Bool.and_eq_true, decide_eq_true_eq] at h; omega

theorem isInt_not_isFloat {f : Nat} (h : isInt f = true) : isFloat f = false := by
  rcases isInt_cases h with rfl | rfl | rfl | rfl <;> rfl

theorem wrapTo_eq (w : Nat) (i : Int) : wrapTo w i = (i % 2 ^ w).toNat := by
  rw [wrapTo, one_shiftLeft_eq]; push_cast; rfl

theorem wrapTo_lt (w : Nat) (i : Int) : wrapTo w i < 2 ^ w := by
  rw [wrapTo_eq]
  have := Int.emod_lt_of_pos i (show (0 : Int) < 2 ^ w by positivity)
  zify
  rw [Int.toNat_of_nonneg (Int.emod_nonneg _ (by positivity))]
  exact this

/-- The element whose low bits are those of an integer in the range of its format holds that integer. -/
theorem intOf_wrapTo {f : Nat} (h : isInt f = true) {i : Int} (hmin : intMinOf f ≤ i) (hmax : i ≤ intMaxOf f) :
    intOf f (wrapTo (fmtBits f) i) = i := by
  rw [wrapTo_eq]
  rcases isInt_cases h with rfl | rfl | rfl | rfl <;>
    simp [intOf, intMinOf, intMaxOf, isSigned, fmtBits, sgn] at hmin hmax ⊢ <;> omega

theorem intOf_range {f : Nat} (h : isInt f = true) {c : Nat} (hc : c < 2 ^ fmtBits f) : intMinOf f ≤ intOf f c ∧ intOf f c ≤ intMaxOf f := by
  rcases isInt_cases h with rfl | rfl | rfl | rfl <;>
    simp [intOf, intMinOf, intMaxOf, isSigned, fmtBits, sgn] at hc ⊢ <;> omega

theorem intMin_le_max {f : Nat} (h : isInt f = true) : intMinOf f ≤ intMaxOf f := by
  rcases isInt_cases h with rfl | rfl | rfl | rfl <;> decide

/-- A clamped integer lies in the range of its format. -/
theorem clamp_range {f : Nat} (h : isInt f = true) (i : Int) :
    intMinOf f ≤ max (intMinOf f) (min (intMaxOf f) i) ∧ max (intMinOf f) (min (intMaxOf f) i) ≤ intMaxOf f :=
  ⟨le_max_left _ _, max_le (intMin_le_max h) (min_le_left _ _)⟩

theorem clampTo_code_lt (f : Nat) (i : Int) (fl : Nat) : (clampTo f i fl).code < 2 ^ fmtBits f := wrapTo_lt _ _

theorem intOf_clampTo {f : Nat} (h : isInt f = true) (i : Int) (fl : Nat) :
    intOf f (clampTo f i fl).code = max (intMinOf f) (min (intMaxOf f) i) :=
  intOf_wrapTo h (clamp_range h i).1 (clamp_range h i).2

end Sys2Proof.Numbers

namespace Sys2Proof.Numbers

open Sys2Proof Sys2Proof.Machine Sys2Proof.Claims

/-! ### The integer lanes (06 R152–R159) -/

section
variable {v : VIn} {i : Nat}

/-- An element of an integer format lies in its range. -/
theorem intOf_lane_range (h : isInt v.f = true) (r : Row) : intMinOf v.f ≤ intOf v.f (laneOf r v.w i) ∧ intOf v.f (laneOf r v.w i) ≤ intMaxOf v.f :=
  intOf_range h (laneOf_lt _ _ _)

theorem arith_lane (h : isInt v.f = true) (hl : v.l * v.w ≤ 2048) (hi : i < v.l) (fl : Fv → Fv → ValF) (int : Int → Int → Int) :
    laneOf (vArith fl int v).row v.w i = wrapTo v.w (int (intOf v.f (v.ea i)) (intOf v.f (v.eb i))) := by
  rw [vArith, if_neg (by simp [isInt_not_isFloat h]), laneOf_lanes hl, if_pos hi]
  exact Nat.mod_eq_of_lt (wrapTo_lt _ _)

theorem unary_lane (h : isInt v.f = true) (hl : v.l * v.w ≤ 2048) (hi : i < v.l) (fl : Fv → ValF) (int : Int → Int) :
    laneOf (vUnary fl int v).row v.w i = wrapTo v.w (int (intOf v.f (v.ea i))) := by
  rw [vUnary, if_neg (by simp [isInt_not_isFloat h]), laneOf_lanes hl, if_pos hi]
  exact Nat.mod_eq_of_lt (wrapTo_lt _ _)

theorem scalar_lane (h : isInt v.f = true) (hl : v.l * v.w ≤ 2048) (hi : i < v.l) (fl : Fv → Fv → ValF) (int : Int → Int → Int) :
    laneOf (vScalarF fl int v).row v.w i = wrapTo v.w (int (intOf v.f (v.ea i)) v.x.toInt) := by
  rw [vScalarF, if_neg (by simp [isInt_not_isFloat h]), laneOf_lanes hl, if_pos hi]
  exact Nat.mod_eq_of_lt (wrapTo_lt _ _)

theorem fma_lane (h : isInt v.f = true) (hl : v.l * v.w ≤ 2048) (hi : i < v.l) (sub : Bool) :
    laneOf (vFmaF sub v).row v.w i = wrapTo v.w (intOf v.f (v.ed i) +
      if sub then -(intOf v.f (v.ea i) * intOf v.f (v.eb i)) else intOf v.f (v.ea i) * intOf v.f (v.eb i)) := by
  rw [vFmaF, if_neg (by simp [isInt_not_isFloat h]), laneOf_lanes hl, if_pos hi]
  exact Nat.mod_eq_of_lt (wrapTo_lt _ _)

theorem sat_lane (h : isInt v.f = true) (hl : v.l * v.w ≤ 2048) (hi : i < v.l) (int : Int → Int → Int) :
    intOf v.f (laneOf (vSatF int v).row v.w i) =
      max (intMinOf v.f) (min (intMaxOf v.f) (int (intOf v.f (v.ea i)) (intOf v.f (v.eb i)))) := by
  rw [vSatF, laneOf_lanes hl, if_pos hi, Nat.mod_eq_of_lt (b := 2 ^ v.w) (clampTo_code_lt _ _ _), intOf_clampTo h]

/-- An operation that stays in the range of the format gives its result as it is. -/
theorem intOf_wrapTo_lane (h : isInt v.f = true) {x : Int} (hx : intMinOf v.f ≤ x ∧ x ≤ intMaxOf v.f) : intOf v.f (wrapTo v.w x) = x :=
  intOf_wrapTo h hx.1 hx.2

theorem cmp_lane (hl : v.l * v.w ≤ 2048) (hi : i < v.l) (c : BitVec 2) :
    laneOf (vCmpF c v).row v.w i = if vCond c v.f (v.ea i) (v.eb i) then 2 ^ v.w - 1 else 0 := by
  rw [vCmpF, laneOf_lanes hl, if_pos hi, exactCode, one_shiftLeft_eq]
  split
  · exact Nat.mod_eq_of_lt (Nat.sub_lt (Nat.two_pow_pos _) Nat.one_pos)
  · exact Nat.zero_mod _

theorem sel_lane (hl : v.l * v.w ≤ 2048) (hi : i < v.l) :
    laneOf (vSelF v).row v.w i = if v.ed i ≠ 0 then v.ea i else v.eb i := by
  rw [vSelF, laneOf_lanes hl, if_pos hi, exactCode]
  split <;> exact Nat.mod_eq_of_lt (laneOf_lt _ _ _)

end

theorem integerLanesAreExact : Claims.IntegerLanesAreExact := by
  intro v i h hl
  dsimp only
  split
  · next hi =>
    have hx := intOf_lane_range (i := i) h v.a
    have hy := intOf_lane_range (i := i) h v.b
    simp only [← wrapTo_eq]
    refine ⟨?_, ?_, ?_, ?_, ?_, ?_, ?_, ?_, ?_, sat_lane h hl hi _, sat_lane h hl hi _, sat_lane h hl hi _, ?_, sel_lane hl hi⟩
    · rw [vAddF, arith_lane h hl hi]
    · rw [vSubF, arith_lane h hl hi]
    · rw [vMulF, arith_lane h hl hi]
    · rw [vMinF, arith_lane h hl hi]
      exact intOf_wrapTo_lane h ⟨le_min hx.1 hy.1, (min_le_left _ _).trans hx.2⟩
    · rw [vMaxF, arith_lane h hl hi]
      exact intOf_wrapTo_lane h ⟨hx.1.trans (le_max_left _ _), max_le hx.2 hy.2⟩
    · rw [fma_lane h hl hi]; rfl
    · rw [fma_lane h hl hi, if_pos rfl, ← sub_eq_add_neg]
    · rw [vNegF, unary_lane h hl hi]
    · rw [scalar_lane h hl hi]
    · rw [cmp_lane hl hi]
      simp [vCond, isInt_not_isFloat h]
  · next hi =>
    intro _
    refine ⟨?_, ?_, ?_⟩
    · rw [vAddF, vArith, if_neg (by simp [isInt_not_isFloat h]), laneOf_lanes hl, if_neg hi]
    · rw [vSatF, laneOf_lanes hl, if_neg hi]
    · rw [vCmpF, laneOf_lanes hl, if_neg hi]

end Sys2Proof.Numbers

namespace Sys2Proof.Numbers

open Sys2Proof Sys2Proof.Machine Sys2Proof.Claims

/-! ### Exact magnitudes as real numbers (03 R65, R66)

The statements compare an exact magnitude with fractions; the model computes a significand, an exponent and a sticky bit. Both are related to
one real number. -/

/-- An exact magnitude is the real number `x`. -/
def Measures (t : Exact) (x : ℝ) : Prop :=
  ∀ p q : ℕ, 0 < q → (t.ge p q = true ↔ (p : ℝ) / q ≤ x) ∧ (t.gt p q = true ↔ (p : ℝ) / q < x)

theorem measures_fraction {n d : ℕ} (hd : 0 < d) : Measures (fraction n d) ((n : ℝ) / d) := by
  intro p q hq
  have hd' : (0 : ℝ) < d := by exact_mod_cast hd
  have hq' : (0 : ℝ) < q := by exact_mod_cast hq
  simp only [fraction, decide_eq_true_eq, div_le_div_iff₀ hq' hd', div_lt_div_iff₀ hq' hd']
  exact ⟨by exact_mod_cast Iff.rfl, by exact_mod_cast Iff.rfl⟩

theorem measures_inverseRoot {n : ℕ} (hn : 0 < n) (u : ℕ) : Measures (inverseRoot n u) (√(2 ^ (3 * u) / n)) := by
  intro p q hq
  have hn' : (0 : ℝ) < n := by exact_mod_cast hn
  have hq' : (0 : ℝ) < q := by exact_mod_cast hq
  have hpq : (0 : ℝ) ≤ (p : ℝ) / q := by positivity
  have hroot : (0 : ℝ) ≤ 2 ^ (3 * u) / n := by positivity
  simp only [inverseRoot, decide_eq_true_eq, Real.le_sqrt hpq hroot, Real.lt_sqrt hpq, div_pow,
    div_le_div_iff₀ (pow_pos hq' 2) hn', div_lt_div_iff₀ (pow_pos hq' 2) hn']
  constructor
  · rw [← Nat.cast_le (α := ℝ)]; push_cast; ring_nf
  · rw [← Nat.cast_lt (α := ℝ)]; push_cast; ring_nf

/-- `Nearest` of a real number among real values. -/
def NearestReal (v : ℕ → ℝ) (m : Mode) (x : ℝ) (k : ℕ) : Prop :=
  match m with
  | .rtz => v k ≤ x ∧ x < v (k + 1)
  | .rne => (if k % 2 = 0 then x ≤ (v k + v (k + 1)) / 2 else x < (v k + v (k + 1)) / 2) ∧
      (k = 0 ∨ if k % 2 = 0 then (v (k - 1) + v k) / 2 ≤ x else (v (k - 1) + v k) / 2 < x)
  | .sr d => ∃ j f : ℕ, v j ≤ x ∧ x < v (j + 1) ∧ f < 65536 ∧ v j + f / 65536 * (v (j + 1) - v j) ≤ x ∧
      x < v j + (f + 1) / 65536 * (v (j + 1) - v j) ∧ k = j + (if 65536 ≤ f + d then 1 else 0)

section
variable {v : ℕ → ℕ} {m : Mode} {t : Exact} {x : ℝ} {k : ℕ}

theorem ge_iff (h : Measures t x) {p q : ℕ} (hq : 0 < q) : t.ge p q = true ↔ (p : ℝ) / q ≤ x := (h p q hq).1
theorem gt_iff (h : Measures t x) {p q : ℕ} (hq : 0 < q) : t.gt p q = true ↔ (p : ℝ) / q < x := (h p q hq).2
theorem ge_false_iff (h : Measures t x) {p q : ℕ} (hq : 0 < q) : t.ge p q = false ↔ x < (p : ℝ) / q := by
  rw [← Bool.not_eq_true, ge_iff h hq, not_le]
theorem gt_false_iff (h : Measures t x) {p q : ℕ} (hq : 0 < q) : t.gt p q = false ↔ x ≤ (p : ℝ) / q := by
  rw [← Bool.not_eq_true, gt_iff h hq, not_lt]

/-- A draw's threshold between two neighbours, as the statements write it. -/
theorem cast_between {a b : ℕ} (h : a ≤ b) (f : ℕ) : ((65536 * a + f * (b - a) : ℕ) : ℝ) / (65536 : ℕ) = a + f / 65536 * ((b : ℝ) - a) := by
  push_cast [Nat.cast_sub h]; ring

theorem nearest_iff (hv : Monotone v) (h : Measures t x) : Nearest v m t k ↔ NearestReal (fun i => (v i : ℝ)) m x k := by
  have hmid (a b : ℕ) : ((a + b : ℕ) : ℝ) / (2 : ℕ) = ((a : ℝ) + b) / 2 := by push_cast; ring
  cases m with
  | rtz => simp only [Nearest, NearestReal, ge_iff h Nat.one_pos, ge_false_iff h Nat.one_pos, Nat.cast_one, div_one]
  | rne =>
    simp only [Nearest, NearestReal, ge_iff h Nat.two_pos, gt_iff h Nat.two_pos, ge_false_iff h Nat.two_pos, gt_false_iff h Nat.two_pos, hmid]
  | sr d =>
    have hq : 0 < 65536 := by decide
    simp only [Nearest, NearestReal, ge_iff h Nat.one_pos, ge_false_iff h Nat.one_pos, ge_iff h hq, ge_false_iff h hq, Nat.cast_one, div_one,
      cast_between (hv (Nat.le_add_right _ 1))]
    simp only [Nat.cast_add, Nat.cast_one]

end

/-- A mode whose draw has 16 bits. -/
def ModeOk : Mode → Prop
  | .sr d => d < 65536
  | _ => True

/-! ### Rounding to an integer -/

/-- A significand with its lowest `sh` bits rounded away, as `roundInt` and `FF.roundMag` round. -/
def roundShift (mo : Mode) (m sh : ℕ) : ℕ :=
  if mo.up (m >>> sh) (m - (m >>> sh) <<< sh) sh then m >>> sh + 1 else m >>> sh

/-- Nothing is rounded away where no bits are. -/
theorem roundShift_zero {mo : Mode} (hmo : ModeOk mo) (m : ℕ) : roundShift mo m 0 = m := by
  cases mo with
  | rtz => simp [roundShift, Mode.up]
  | rne => simp [roundShift, Mode.up]
  | sr d =>
    have hd : ¬ 65536 ≤ d := Nat.not_le.mpr hmo
    simp [roundShift, Mode.up, hd]

theorem roundInt_eq {mo : Mode} (hmo : ModeOk mo) (m : ℕ) (e : ℤ) : roundInt mo m e = roundShift mo (m * 2 ^ e.toNat) (-e).toNat := by
  rw [roundInt]
  split
  · next h =>
    rw [show (-e).toNat = 0 by omega, roundShift_zero hmo, Nat.shiftLeft_eq]
  · next h =>
    rw [show e.toNat = 0 by omega, pow_zero, mul_one]
    rfl

/-- `m / 2^sh` stands for `y`: it compares with every 65536th part as `y` does. -/
def Agrees (y : ℝ) (m sh : ℕ) : Prop :=
  ∀ p : ℕ, ((p : ℝ) / 65536 ≤ y ↔ p * 2 ^ sh ≤ 65536 * m) ∧ ((p : ℝ) / 65536 < y ↔ p * 2 ^ sh < 65536 * m)

theorem agrees_of_eq {y : ℝ} {m sh : ℕ} (h : y = m / 2 ^ sh) : Agrees y m sh := by
  intro p
  subst h
  rw [div_le_div_iff₀ (by norm_num) (by positivity), div_lt_div_iff₀ (by norm_num) (by positivity), mul_comm (m : ℝ)]
  exact ⟨by exact_mod_cast Iff.rfl, by exact_mod_cast Iff.rfl⟩

/-- A sticky bit stands for what lies beyond a 65536th part. -/
theorem agrees_of_sticky {y : ℝ} {m sh : ℕ} (hsh : 17 ≤ sh) (hodd : m % 2 = 1) (hlo : (m : ℝ) - 1 < y * 2 ^ sh) (hhi : y * 2 ^ sh < m + 1) :
    Agrees y m sh := by
  obtain ⟨r, rfl⟩ : ∃ r, sh = r + 17 := ⟨sh - 17, by omega⟩
  intro p
  have hpow : (2 : ℝ) ^ (r + 17) = 65536 * (2 * 2 ^ r) := by rw [pow_add]; norm_num; ring
  have hnat : p * 2 ^ (r + 17) = 65536 * (2 * (p * 2 ^ r)) := by rw [pow_add]; norm_num; ring
  have hscale : (0 : ℝ) < 65536 * (2 * 2 ^ r) := by positivity
  have hcast : (p : ℝ) / 65536 * (65536 * (2 * 2 ^ r)) = ((2 * (p * 2 ^ r) : ℕ) : ℝ) := by push_cast; ring
  rw [hpow] at hlo hhi
  rw [hnat, Nat.mul_le_mul_left_iff (by norm_num), Nat.mul_lt_mul_left (by norm_num), ← mul_le_mul_iff_left₀ hscale,
    ← mul_lt_mul_iff_left₀ hscale, hcast]
  generalize p * 2 ^ r = c at *
  have hm : ((m - 1 : ℕ) : ℝ) = m - 1 := by rw [Nat.cast_sub (by omega)]; simp
  have hup (h : ((2 * c : ℕ) : ℝ) ≤ y * (65536 * (2 * 2 ^ r))) : 2 * c < m := by
    have : ((2 * c : ℕ) : ℝ) < ((m + 1 : ℕ) : ℝ) := by push_cast at *; linarith
    have : 2 * c < m + 1 := by exact_mod_cast this
    omega
  have hdown (h : 2 * c ≤ m) : ((2 * c : ℕ) : ℝ) < y * (65536 * (2 * 2 ^ r)) := by
    have : ((2 * c : ℕ) : ℝ) ≤ ((m - 1 : ℕ) : ℝ) := by exact_mod_cast (show 2 * c ≤ m - 1 by omega)
    rw [hm] at this
    linarith
  exact ⟨⟨fun h => (hup h).le, fun h => (hdown h).le⟩, ⟨fun h => hup h.le, fun h => hdown h.le⟩⟩

section
variable {mo : Mode} {y : ℝ} {m sh : ℕ}

/-- The whole part and the remainder of the significand. -/
theorem shift_split (m sh : ℕ) : m >>> sh * 2 ^ sh + (m - (m >>> sh) <<< sh) = m ∧ m - (m >>> sh) <<< sh < 2 ^ sh := by
  rw [Nat.shiftRight_eq_div_pow, Nat.shiftLeft_eq]
  have h := Nat.div_add_mod m (2 ^ sh)
  have hlt : m % 2 ^ sh < 2 ^ sh := Nat.mod_lt _ (by positivity)
  rw [mul_comm] at h
  omega

/-- The 16 bits below the last place that a draw is added to. -/
theorem sixteenBits_eq (rem sh : ℕ) : (if 16 ≤ sh then rem >>> (sh - 16) else rem <<< (16 - sh)) = 65536 * rem / 2 ^ sh := by
  split
  · next h =>
    obtain ⟨r, rfl⟩ := Nat.exists_eq_add_of_le h
    rw [Nat.add_sub_cancel_left, Nat.shiftRight_eq_div_pow, pow_add, show (2 : ℕ) ^ 16 = 65536 by norm_num,
      Nat.mul_div_mul_left _ _ (by norm_num)]
  · next h =>
    obtain ⟨r, hr⟩ := Nat.exists_eq_add_of_le (show sh ≤ 16 by omega)
    rw [Nat.shiftLeft_eq, show (65536 : ℕ) = 2 ^ sh * 2 ^ r by rw [← pow_add, ← hr]; norm_num, show 16 - sh = r by omega, mul_assoc,
      Nat.mul_div_cancel_left _ (by positivity), mul_comm]

/-- What a significand stands for lies between its whole part and the next integer. -/
theorem agrees_floor (h : Agrees y m sh) : ((m >>> sh : ℕ) : ℝ) ≤ y ∧ y < (m >>> sh : ℕ) + 1 := by
  obtain ⟨hsplit, hrem⟩ := shift_split m sh
  have hpos : 0 < 2 ^ sh := by positivity
  generalize m - (m >>> sh) <<< sh = rem at *
  generalize m >>> sh = s at *
  have hlo := (h (65536 * s)).1.mpr (by rw [← hsplit]; nlinarith)
  have hhi := not_le.mp ((h (65536 * (s + 1))).1.not.mpr (by rw [← hsplit]; nlinarith))
  push_cast at hlo hhi
  constructor <;> linarith

/-- And it compares with the midpoint as its remainder does with half the last place. -/
theorem agrees_half (h : Agrees y m sh) :
    (((m >>> sh : ℕ) : ℝ) + 1 / 2 ≤ y ↔ 2 ^ sh ≤ 2 * (m - (m >>> sh) <<< sh)) ∧ (((m >>> sh : ℕ) : ℝ) + 1 / 2 < y ↔ 2 ^ sh < 2 * (m - (m >>> sh) <<< sh)) := by
  obtain ⟨hsplit, -⟩ := shift_split m sh
  generalize m - (m >>> sh) <<< sh = rem at *
  generalize m >>> sh = s at *
  obtain ⟨hge, hgt⟩ := h (65536 * s + 32768)
  rw [show ((65536 * s + 32768 : ℕ) : ℝ) / 65536 = s + 1 / 2 by push_cast; ring] at hge hgt
  rw [hge, hgt, ← hsplit]
  refine ⟨⟨fun h => ?_, fun h => ?_⟩, ⟨fun h => ?_, fun h => ?_⟩⟩ <;> nlinarith

/-- The model rounds to the integer that the mode asks for. -/
theorem nearestReal_roundShift (hmo : ModeOk mo) (h : Agrees y m sh) : NearestReal Nat.cast mo y (roundShift mo m sh) := by
  obtain ⟨hsplit, hrem⟩ := shift_split m sh
  obtain ⟨hfloor, hceil⟩ := agrees_floor h
  obtain ⟨hhalf_ge, hhalf_gt⟩ := agrees_half h
  set s := m >>> sh with hs
  set rem := m - s <<< sh with hr
  have hpos : 0 < 2 ^ sh := by positivity
  cases mo with
  | rtz => exact ⟨hfloor, by simpa [roundShift, Mode.up, ← hs] using hceil⟩
  | rne =>
    have hup : Mode.rne.up s rem sh = true ↔ 2 ^ sh < 2 * rem ∨ (2 * rem = 2 ^ sh ∧ s % 2 = 1) := by simp [Mode.up]
    rw [roundShift, ← hs, ← hr]
    split
    · next hu =>
      have hcase := hup.mp hu
      refine ⟨?_, .inr ?_⟩
      · split <;> push_cast <;> linarith
      · have hle : (s : ℝ) + 1 / 2 ≤ y := hhalf_ge.mpr (by omega)
        split
        · simp only [Nat.add_sub_cancel]; push_cast; linarith
        · next hodd =>
          have hlt : (s : ℝ) + 1 / 2 < y := hhalf_gt.mpr (by omega)
          simp only [Nat.add_sub_cancel]; push_cast; linarith
    · next hu =>
      have hcase := hup.not.mp hu
      refine ⟨?_, ?_⟩
      · split
        · have : y ≤ s + 1 / 2 := not_lt.mp (hhalf_gt.not.mpr (by omega))
          push_cast; linarith
        · next hodd =>
          have : y < s + 1 / 2 := not_le.mp (hhalf_ge.not.mpr (by omega))
          push_cast; linarith
      · rcases Nat.eq_zero_or_pos s with h0 | h0
        · exact .inl h0
        · have : ((s - 1 : ℕ) : ℝ) = s - 1 := by rw [Nat.cast_sub h0]; simp
          right
          simp only [this]
          split <;> linarith
  | sr d =>
    have hup : (Mode.sr d).up s rem sh = decide (65536 ≤ 65536 * rem / 2 ^ sh + d) := by rw [Mode.up, sixteenBits_eq]
    rw [roundShift, ← hs, ← hr, hup]
    have hdiv := Nat.div_add_mod (65536 * rem) (2 ^ sh)
    have hmod : 65536 * rem % 2 ^ sh < 2 ^ sh := Nat.mod_lt _ hpos
    set f := 65536 * rem / 2 ^ sh with hf
    have hlt : f < 65536 := Nat.div_lt_of_lt_mul (by nlinarith)
    have hle := (h (65536 * s + f)).1.mpr (by rw [← hsplit]; nlinarith [Nat.zero_le (65536 * rem % 2 ^ sh)])
    have hgt' := not_le.mp ((h (65536 * s + (f + 1))).1.not.mpr (by rw [← hsplit]; nlinarith))
    refine ⟨s, f, hfloor, by push_cast; exact hceil, hlt, ?_, ?_, ?_⟩
    · push_cast at hle ⊢; linarith
    · push_cast at hgt' ⊢; linarith
    · split <;> simp_all

theorem nearestReal_roundInt (hmo : ModeOk mo) {e : ℤ} (h : Agrees y (m * 2 ^ e.toNat) (-e).toNat) :
    NearestReal Nat.cast mo y (roundInt mo m e) := by
  rw [roundInt_eq hmo]; exact nearestReal_roundShift hmo h

end

end Sys2Proof.Numbers

namespace Sys2Proof.Numbers

open Sys2Proof Sys2Proof.Machine Sys2Proof.Claims

/-! ### The values of a format's codes (03 R58) -/

/-- Within a binade, and below the first, the values are multiples of its last place. -/
theorem magnitude_grid {f Q s : ℕ} (hlo : 0 < Q → 2 ^ fracBits f ≤ s) (hhi : s ≤ 2 ^ (fracBits f + 1)) :
    magnitude f (Q * 2 ^ fracBits f + s) = s * 2 ^ Q := by
  have hP : 0 < 2 ^ fracBits f := by positivity
  rw [pow_succ] at hhi
  simp only [magnitude]
  generalize 2 ^ fracBits f = P at *
  rw [Nat.mul_comm Q P, Nat.mul_add_div hP, Nat.mul_add_mod]
  rcases Nat.lt_or_ge s P with h | h
  · obtain rfl : Q = 0 := by omega
    simp [Nat.div_eq_of_lt h, Nat.mod_eq_of_lt h]
  obtain ⟨r, rfl⟩ := Nat.exists_eq_add_of_le h
  have hdiv : (P + r) / P = 1 + r / P := by rw [Nat.add_div_left _ hP, Nat.add_comm]
  rw [hdiv, Nat.add_mod_left, if_neg (show Q + (1 + r / P) ≠ 0 by generalize r / P = z; omega)]
  rcases Nat.lt_or_ge r P with h' | h'
  · rw [Nat.div_eq_of_lt h', Nat.mod_eq_of_lt h', show Q + (1 + 0) - 1 = Q by omega]
  · obtain rfl : r = P := by omega
    rw [Nat.div_self hP, Nat.mod_self, show Q + (1 + 1) - 1 = Q + 1 by omega, pow_succ]
    ring

/-- The place of a code in its binade. -/
theorem code_split (f k : ℕ) : ∃ Q s, k = Q * 2 ^ fracBits f + s ∧ (0 < Q → 2 ^ fracBits f ≤ s) ∧ s < 2 ^ (fracBits f + 1) := by
  have hP : 0 < 2 ^ fracBits f := by positivity
  rw [pow_succ]
  generalize 2 ^ fracBits f = P at *
  have hsplit := Nat.div_add_mod k P
  have hmod : k % P < P := Nat.mod_lt _ hP
  rcases Nat.eq_zero_or_pos (k / P) with h | h
  · exact ⟨0, k % P, by rw [h] at hsplit; omega, by omega, by omega⟩
  · obtain ⟨Q, hQ⟩ : ∃ Q, k / P = Q + 1 := ⟨k / P - 1, by omega⟩
    refine ⟨Q, P + k % P, ?_, by omega, by omega⟩
    rw [hQ] at hsplit
    nlinarith

theorem magnitude_strictMono (f : ℕ) : StrictMono (magnitude f) := by
  refine strictMono_nat_of_lt_succ fun k => ?_
  obtain ⟨Q, s, rfl, hlo, hhi⟩ := code_split f k
  rw [magnitude_grid hlo hhi.le, add_assoc, magnitude_grid (fun h => (hlo h).trans (by omega)) hhi]
  exact Nat.mul_lt_mul_of_pos_right (Nat.lt_succ_self s) (by positivity)

theorem magnitude_zero (f : ℕ) : magnitude f 0 = 0 := by
  simpa using magnitude_grid (f := f) (Q := 0) (s := 0) (by omega) (Nat.zero_le _)

theorem magnitude_eq_zero_iff {f k : ℕ} : magnitude f k = 0 ↔ k = 0 := by
  refine ⟨fun h => (magnitude_strictMono f).injective (h.trans (magnitude_zero f).symm), ?_⟩
  rintro rfl
  exact magnitude_zero f

/-! ### Rounding among values that are multiples of a last place -/

section
variable {v : ℕ → ℝ} {mo : Mode} {x y U : ℝ} {k s a b B : ℕ}

/-- What is rounded stands between its neighbours. -/
theorem nearestReal_bounds (hmo : ModeOk mo) (hlo : (a : ℝ) ≤ y) (hhi : y < b) (h : NearestReal Nat.cast mo y s) : a ≤ s ∧ s ≤ b := by
  have hcast {m n : ℕ} (h : (m : ℝ) < n + 1) : m ≤ n := by
    have : (m : ℝ) < ((n + 1 : ℕ) : ℝ) := by push_cast; exact h
    have : m < n + 1 := by exact_mod_cast this
    omega
  cases mo with
  | rtz =>
    obtain ⟨h1, h2⟩ := h
    push_cast at h1 h2
    exact ⟨hcast (by linarith), hcast (by linarith)⟩
  | rne =>
    obtain ⟨h1, h2⟩ := h
    have hup : y ≤ s + 1 / 2 := by split at h1 <;> push_cast at h1 <;> linarith
    refine ⟨hcast (by linarith), ?_⟩
    rcases h2 with rfl | h2
    · exact Nat.zero_le _
    rcases Nat.eq_zero_or_pos s with rfl | h0
    · exact Nat.zero_le _
    have hpred : ((s - 1 : ℕ) : ℝ) = s - 1 := by rw [Nat.cast_sub h0]; simp
    have hdown : s - 1 / 2 ≤ y := by simp only [hpred] at h2; split at h2 <;> linarith
    exact hcast (by linarith)
  | sr d =>
    obtain ⟨j, f, h1, h2, -, -, -, rfl⟩ := h
    push_cast at h2
    have ha : a ≤ j := hcast (by linarith)
    have hb : j < b := by exact_mod_cast lt_of_le_of_lt h1 hhi
    split <;> omega

/-- Rounding among multiples of `U` is rounding to an integer, where even places hold even multiples. -/
theorem nearestReal_scale (hv : StrictMono v) (hU : 0 < U) (hB : B % 2 = 0) (hgrid : ∀ s, a ≤ s → s ≤ b → v (B + s) = s * U)
    (hlo : (a : ℝ) ≤ y) (hhi : y < b) (hmo : ModeOk mo) (h : NearestReal Nat.cast mo y s) : NearestReal v mo (y * U) (B + s) := by
  obtain ⟨hs1, hs2⟩ := nearestReal_bounds hmo hlo hhi h
  cases mo with
  | rtz =>
    obtain ⟨h1, h2⟩ := h
    push_cast at h1 h2
    have hsb : s < b := by exact_mod_cast lt_of_le_of_lt h1 hhi
    rw [NearestReal, add_assoc, hgrid s hs1 hs2, hgrid (s + 1) (by omega) hsb, mul_le_mul_iff_left₀ hU, mul_lt_mul_iff_left₀ hU]
    push_cast
    exact ⟨h1, h2⟩
  | rne =>
    obtain ⟨h1, h2⟩ := h
    have hpar : (B + s) % 2 = s % 2 := by omega
    have hk := hgrid s hs1 hs2
    simp only [NearestReal, hpar, hk]
    constructor
    · rcases hs2.lt_or_eq with hsb | rfl
      · have hnext := hgrid (s + 1) (by omega) hsb
        rw [← add_assoc] at hnext
        rw [hnext, ← add_mul, mul_div_right_comm, mul_le_mul_iff_left₀ hU, mul_lt_mul_iff_left₀ hU]
        exact h1
      · have hmono := hv (Nat.lt_succ_self (B + s))
        rw [hk, Nat.succ_eq_add_one] at hmono
        have hlt : y * U < s * U := mul_lt_mul_of_pos_right hhi hU
        split <;> linarith
    · rcases Nat.eq_zero_or_pos (B + s) with h0 | h0
      · exact .inl h0
      right
      rcases hs1.lt_or_eq with has | rfl
      · have hprev := hgrid (s - 1) (by omega) (by omega)
        rw [show B + s - 1 = B + (s - 1) by omega, hprev, ← add_mul, mul_div_right_comm, mul_le_mul_iff_left₀ hU, mul_lt_mul_iff_left₀ hU]
        exact h2.resolve_left (by omega)
      · have hmono := hv (show B + a - 1 < B + a by omega)
        rw [hk] at hmono
        have hle : a * U ≤ y * U := mul_le_mul_of_nonneg_right hlo hU.le
        split <;> linarith
  | sr d =>
    obtain ⟨j, f, h1, h2, hf, h3, h4, rfl⟩ := h
    push_cast at h2 h3 h4
    have hjb : j < b := by exact_mod_cast lt_of_le_of_lt h1 hhi
    have haj : a ≤ j := by
      have : (a : ℝ) < ((j + 1 : ℕ) : ℝ) := by push_cast; linarith
      have : a < j + 1 := by exact_mod_cast this
      omega
    have hnext := hgrid (j + 1) (by omega) hjb
    rw [← add_assoc] at hnext
    push_cast at hnext
    refine ⟨B + j, f, ?_, ?_, hf, ?_, ?_, by omega⟩
    all_goals simp only [hgrid j haj hjb.le, hnext]
    · exact mul_le_mul_of_nonneg_right h1 hU.le
    · exact mul_lt_mul_of_pos_right h2 hU
    · calc (j : ℝ) * U + f / 65536 * ((j + 1) * U - j * U) = (j + f / 65536 * (j + 1 - j)) * U := by ring
        _ ≤ y * U := mul_le_mul_of_nonneg_right h3 hU.le
    · calc y * U < (j + (f + 1) / 65536 * (j + 1 - j)) * U := mul_lt_mul_of_pos_right h4 hU
        _ = j * U + (f + 1) / 65536 * ((j + 1) * U - j * U) := by ring

/-- A value is its own rounding, by every mode. -/
theorem nearestReal_self (hv : StrictMono v) (hmo : ModeOk mo) : NearestReal v mo (v k) k := by
  have hnext (i : ℕ) : v i < v (i + 1) := hv (Nat.lt_succ_self i)
  have hk := hnext k
  cases mo with
  | rtz => exact ⟨le_rfl, hk⟩
  | rne =>
    refine ⟨by split <;> linarith, ?_⟩
    cases k with
    | zero => exact .inl rfl
    | succ r =>
      have hr := hnext r
      right
      simp only [Nat.add_sub_cancel]
      split <;> linarith
  | sr d =>
    have hd : ¬ 65536 ≤ 0 + d := by rw [Nat.zero_add]; exact Nat.not_le.mpr hmo
    refine ⟨k, 0, le_rfl, hk, by norm_num, ?_, ?_, by rw [if_neg hd, Nat.add_zero]⟩
    · simp
    · have := mul_pos (show (0 : ℝ) < (((0 : ℕ) : ℝ) + 1) / 65536 by norm_num) (sub_pos.mpr hk)
      linarith

/-- And no other is. -/
theorem nearestReal_unique_of_eq (hv : StrictMono v) (hmo : ModeOk mo) (h : NearestReal v mo (v k) s) : s = k := by
  have hle {i : ℕ} (h : v i ≤ v k) : i ≤ k := hv.le_iff_le.mp h
  have hlt {i : ℕ} (h : v k < v i) : k < i := hv.lt_iff_lt.mp h
  have hnext (i : ℕ) : v i < v (i + 1) := hv (Nat.lt_succ_self i)
  cases mo with
  | rtz =>
    obtain ⟨h1, h2⟩ := h
    have := hle h1; have := hlt h2; omega
  | rne =>
    obtain ⟨h1, h2⟩ := h
    have hup : v k ≤ (v s + v (s + 1)) / 2 := by split at h1 <;> linarith
    rcases lt_trichotomy s k with hsk | hsk | hsk
    · have := hv.monotone (show s + 1 ≤ k from hsk); have := hnext s; linarith
    · exact hsk
    · obtain ⟨r, rfl⟩ : ∃ r, s = r + 1 := ⟨s - 1, by omega⟩
      have h3 := h2.resolve_left (by omega)
      have hdown : (v r + v (r + 1)) / 2 ≤ v k := by
        simp only [Nat.add_sub_cancel] at h3
        split at h3 <;> linarith
      have := hv.monotone (show k ≤ r by omega); have := hnext r; linarith
  | sr d =>
    obtain ⟨j, f, h1, h2, hf, h3, h4, rfl⟩ := h
    obtain rfl : j = k := by have := hle h1; have := hlt h2; omega
    have hzero : f = 0 := by
      by_contra h0
      have hpos : (0 : ℝ) < f := by exact_mod_cast Nat.pos_of_ne_zero h0
      have := mul_pos (div_pos hpos (by norm_num : (0 : ℝ) < 65536)) (sub_pos.mpr (hnext j))
      linarith
    have hd : ¬ 65536 ≤ f + d := by rw [hzero, Nat.zero_add]; exact Nat.not_le.mpr hmo
    rw [if_neg hd, Nat.add_zero]

end

end Sys2Proof.Numbers

namespace Sys2Proof.Numbers

open Sys2Proof Sys2Proof.Machine Sys2Proof.Claims

/-! ### The model's formats are those of the tables (03 R58) -/

section
variable {f : ℕ}

theorem ffOf_mant (hf : f < 5) : (ffOf f).mant = fracBits f := by interval_cases f <;> rfl
theorem ffOf_bias (hf : f < 5) : (ffOf f).bias = biasOf f := by interval_cases f <;> rfl
theorem ffOf_wid (hf : f < 5) : (ffOf f).wid = codeBits f := by interval_cases f <;> rfl
theorem ffOf_top (hf : f < 5) : (ffOf f).top = largestOf f := by interval_cases f <;> rfl
theorem ffOf_inf (hf : f < 5) : (ffOf f).inf = infinityOf f := by interval_cases f <;> rfl
theorem ffOf_nan (hf : f < 5) : (ffOf f).nan = canonicalNan f := by interval_cases f <;> rfl
theorem ffOf_sat (hf : f < 5) : (ffOf f).sat = decide (codeBits f ≤ 8) := by interval_cases f <;> rfl
theorem codeBits_eq_fmtBits (hf : f < 5) : codeBits f = fmtBits f := by interval_cases f <;> rfl
theorem biasOf_pos (f : ℕ) : 1 ≤ biasOf f := by unfold biasOf; split_ifs <;> omega
theorem fracBits_pos (f : ℕ) : 1 ≤ fracBits f := by unfold fracBits; split_ifs <;> omega
theorem fracBits_le (f : ℕ) : fracBits f ≤ 23 := by unfold fracBits; split_ifs <;> omega
theorem codeBits_pos (f : ℕ) : 0 < codeBits f := by unfold codeBits; split_ifs <;> omega

theorem ffOf_sign (hf : f < 5) (neg : Bool) : (ffOf f).sign neg = if neg then 2 ^ (codeBits f - 1) else 0 := by
  rw [FF.sign, ffOf_wid hf, one_shiftLeft_eq]

theorem sign_add (hf : f < 5) (neg : Bool) (k : ℕ) : (ffOf f).sign neg + k = signed f neg k := by
  rw [ffOf_sign hf, signed]; cases neg <;> simp

end

/-! ### Rounding a magnitude (03 R65) -/

/-- `m · 2^e` stands for `x`: it is `x`, or `m` is wide and its lowest bit, which is set, sticky. -/
def Approx (x : ℝ) (m : ℕ) (e : ℤ) : Prop :=
  x = m * (2 : ℝ) ^ e ∨ (2 ^ 42 ≤ m ∧ m % 2 = 1 ∧ ((m : ℝ) - 1) * (2 : ℝ) ^ e < x ∧ x < ((m : ℝ) + 1) * (2 : ℝ) ^ e)

section
variable {x y : ℝ} {m : ℕ} {e q : ℤ}

theorem two_zpow_pos (e : ℤ) : (0 : ℝ) < (2 : ℝ) ^ e := zpow_pos (by norm_num) e

/-- A power of two with its exponent split at 0, as `roundInt` splits it. -/
theorem zpow_toNat (e : ℤ) : (2 : ℝ) ^ e = 2 ^ e.toNat / 2 ^ (-e).toNat := by
  rcases le_total 0 e with h | h
  · obtain ⟨n, rfl⟩ := Int.eq_ofNat_of_zero_le h
    simp
  · obtain ⟨n, rfl⟩ := Int.exists_eq_neg_ofNat h
    simp

theorem agrees_of_approx (h : Approx x m e) (hq : e + Nat.log2 m ≤ q + 23) : Agrees (x / (2 : ℝ) ^ q) (m * 2 ^ (e - q).toNat) (-(e - q)).toNat := by
  have hscale (c : ℝ) : c * (2 : ℝ) ^ e / (2 : ℝ) ^ q = c * (2 ^ (e - q).toNat / 2 ^ (-(e - q)).toNat) := by
    rw [← zpow_toNat, zpow_sub₀ (by norm_num), mul_div_assoc]
  rcases h with rfl | ⟨hwide, hodd, hlo, hhi⟩
  · refine agrees_of_eq ?_
    rw [hscale]; push_cast; ring
  · have hlog : 42 ≤ Nat.log2 m := (Nat.le_log2 (by omega)).mpr hwide
    have hshift : (2 : ℝ) ^ (-(e - q)).toNat * (2 : ℝ) ^ e = (2 : ℝ) ^ q := by
      rw [← zpow_natCast, ← zpow_add₀ (by norm_num)]; congr 1; omega
    have hx (c : ℝ) : c * (2 : ℝ) ^ e / (2 : ℝ) ^ q * 2 ^ (-(e - q)).toNat = c := by
      rw [← hshift]; have := two_zpow_pos e; field_simp
    have hpos : (0 : ℝ) < 2 ^ (-(e - q)).toNat / (2 : ℝ) ^ q := div_pos (by positivity) (two_zpow_pos q)
    rw [show (e - q).toNat = 0 by omega, pow_zero, mul_one]
    refine agrees_of_sticky (by omega) hodd ?_ ?_
    · calc (m : ℝ) - 1 = ((m : ℝ) - 1) * (2 : ℝ) ^ e / (2 : ℝ) ^ q * 2 ^ (-(e - q)).toNat := (hx _).symm
        _ < x / (2 : ℝ) ^ q * 2 ^ (-(e - q)).toNat := by rw [div_mul_eq_mul_div, div_mul_eq_mul_div, mul_div_assoc, mul_div_assoc]; exact mul_lt_mul_of_pos_right hlo hpos
    · calc x / (2 : ℝ) ^ q * 2 ^ (-(e - q)).toNat < ((m : ℝ) + 1) * (2 : ℝ) ^ e / (2 : ℝ) ^ q * 2 ^ (-(e - q)).toNat := by
            rw [div_mul_eq_mul_div, div_mul_eq_mul_div, mul_div_assoc, mul_div_assoc]; exact mul_lt_mul_of_pos_right hhi hpos
        _ = (m : ℝ) + 1 := hx _

/-- What a significand stands for has its leading bit. -/
theorem approx_lead (hm : 0 < m) (h : Approx x m e) : (2 : ℝ) ^ (e + Nat.log2 m) ≤ x ∧ x < (2 : ℝ) ^ (e + Nat.log2 m + 1) := by
  have hlo : 2 ^ Nat.log2 m ≤ m := Nat.log2_self_le (by omega)
  have hhi : m < 2 ^ (Nat.log2 m + 1) := Nat.lt_log2_self
  have hpos := two_zpow_pos e
  have hlead (n : ℕ) : (2 : ℝ) ^ (e + n) = ((2 ^ n : ℕ) : ℝ) * (2 : ℝ) ^ e := by
    rw [zpow_add₀ (by norm_num), zpow_natCast]; push_cast; ring
  have hlead' := hlead (Nat.log2 m + 1)
  rw [show e + ((Nat.log2 m + 1 : ℕ) : ℤ) = e + Nat.log2 m + 1 by push_cast; ring] at hlead'
  rw [hlead, hlead']
  rcases h with rfl | ⟨hwide, hodd, hl, hh⟩
  · exact ⟨mul_le_mul_of_nonneg_right (by exact_mod_cast hlo) hpos.le, mul_lt_mul_of_pos_right (by exact_mod_cast hhi) hpos⟩
  · have hlog : 42 ≤ Nat.log2 m := (Nat.le_log2 (by omega)).mpr hwide
    have heven : 2 ^ Nat.log2 m % 2 = 0 := by
      rw [show Nat.log2 m = (Nat.log2 m - 1) + 1 by omega, pow_succ]; omega
    have hlo' : ((2 ^ Nat.log2 m : ℕ) : ℝ) ≤ (m : ℝ) - 1 := by
      have : 2 ^ Nat.log2 m + 1 ≤ m := by omega
      have : ((2 ^ Nat.log2 m + 1 : ℕ) : ℝ) ≤ m := by exact_mod_cast this
      push_cast at this ⊢; linarith
    have hhi' : (m : ℝ) + 1 ≤ ((2 ^ (Nat.log2 m + 1) : ℕ) : ℝ) := by exact_mod_cast hhi
    exact ⟨(mul_le_mul_of_nonneg_right hlo' hpos.le).trans hl.le, hh.trans_le (mul_le_mul_of_nonneg_right hhi' hpos.le)⟩

end

section
variable {f : ℕ} {mo : Mode} {x : ℝ} {m : ℕ} {e : ℤ}

/-- The exponent of the last place of a number with leading bit `lead`. -/
def lastPlace (f : ℕ) (lead : ℤ) : ℤ := max lead (1 - (biasOf f : ℤ)) - fracBits f

/-- The code to which a magnitude rounds, its exponent unbounded. -/
def roundedCode (f : ℕ) (mo : Mode) (m : ℕ) (e : ℤ) : ℕ :=
  (lastPlace f (e + Nat.log2 m) + unitOf f).toNat * 2 ^ fracBits f + roundInt mo m (e - lastPlace f (e + Nat.log2 m))

theorem lastPlace_nonneg (f : ℕ) (lead : ℤ) : 0 ≤ lastPlace f lead + unitOf f := by
  have := biasOf_pos f
  unfold lastPlace unitOf
  omega

theorem magnitude_real_strictMono (f : ℕ) : StrictMono (fun k => (magnitude f k : ℝ)) :=
  fun _ _ hab => Nat.cast_lt.mpr (magnitude_strictMono f hab)

theorem roundedCode_nearest (hmo : ModeOk mo) (hm : 0 < m) (h : Approx x m e) :
    NearestReal (fun k => (magnitude f k : ℝ)) mo (x * 2 ^ unitOf f) (roundedCode f mo m e) := by
  have hfrac := fracBits_pos f
  have hbias := biasOf_pos f
  have hunit : (unitOf f : ℤ) = biasOf f + fracBits f - 1 := by unfold unitOf; omega
  obtain ⟨hlead1, hlead2⟩ := approx_lead hm h
  have hq := lastPlace_nonneg f (e + Nat.log2 m)
  have hqdef : lastPlace f (e + Nat.log2 m) = max (e + Nat.log2 m) (1 - (biasOf f : ℤ)) - fracBits f := rfl
  have hround : Agrees _ _ _ := agrees_of_approx h (q := lastPlace f (e + Nat.log2 m)) (by have := fracBits_le f; omega)
  rw [roundedCode]
  set q := lastPlace f (e + Nat.log2 m) with hqq
  obtain ⟨Q, hQ⟩ := Int.eq_ofNat_of_zero_le hq
  rw [hQ, Int.toNat_natCast]
  have hU : (2 : ℝ) ^ Q = (2 : ℝ) ^ q * 2 ^ unitOf f := by
    rw [← zpow_natCast, ← zpow_natCast, ← zpow_add₀ (by norm_num), hQ]
  have hx : x * 2 ^ unitOf f = x / (2 : ℝ) ^ q * 2 ^ Q := by
    rw [hU]; have := two_zpow_pos q; field_simp
  rw [hx]
  have hmono := magnitude_real_strictMono f
  refine nearestReal_scale (a := if Q = 0 then 0 else 2 ^ fracBits f) (b := 2 ^ (fracBits f + 1)) hmono (by positivity) ?_ ?_ ?_ ?_ hmo
    (nearestReal_roundInt hmo hround)
  · obtain ⟨r, hr⟩ : ∃ r, fracBits f = r + 1 := ⟨fracBits f - 1, by omega⟩
    rw [hr, pow_succ, ← mul_assoc, Nat.mul_mod_left]
  · intro s ha hb
    rw [magnitude_grid (fun hpos => by simpa [hpos.ne'] using ha) hb]
    push_cast; rfl
  · rw [le_div_iff₀ (two_zpow_pos q)]
    split
    · have := (two_zpow_pos (e + Nat.log2 m)).le.trans hlead1
      simpa using this
    · next h0 =>
      refine le_trans (le_of_eq ?_) hlead1
      push_cast
      rw [← zpow_natCast, ← zpow_add₀ (by norm_num)]
      congr 1
      omega
  · rw [div_lt_iff₀ (two_zpow_pos q)]
    refine lt_of_lt_of_le hlead2 ?_
    push_cast
    rw [← zpow_natCast, ← zpow_add₀ (by norm_num)]
    refine zpow_le_zpow_right₀ (by norm_num) ?_
    push_cast
    omega

/-- The magnitude that an overflow gives (03 R63, R65). -/
theorem overflowCode_eq (hf : f < 5) :
    (match infinityOf f with | some i => if (decide (codeBits f ≤ 8) || decide (mo = .rtz)) = true then largestOf f else i | none => largestOf f) =
      if mo = .rtz ∨ codeBits f ≤ 8 then largestOf f else (infinityOf f).getD 0 := by
  by_cases h : mo = .rtz <;> interval_cases f <;> simp [h, infinityOf, codeBits, largestOf]

theorem roundMag_eq (hf : f < 5) (neg : Bool) : (ffOf f).roundMag mo neg m e =
    if roundedCode f mo m e ≤ largestOf f then ⟨signed f neg (roundedCode f mo m e), 0⟩
    else ⟨signed f neg (if mo = .rtz ∨ codeBits f ≤ 8 then largestOf f else (infinityOf f).getD 0), 2⟩ := by
  have hbias := biasOf_pos f
  have hsig : (if lastPlace f (e + Nat.log2 m) ≤ e then m <<< (e - lastPlace f (e + Nat.log2 m)).toNat
      else roundShift mo m (lastPlace f (e + Nat.log2 m) - e).toNat) = roundInt mo m (e - lastPlace f (e + Nat.log2 m)) := by
    rw [roundInt]
    split
    · next h => rw [if_pos (by omega)]
    · next h => rw [if_neg (by omega), show (lastPlace f (e + Nat.log2 m) - e).toNat = (-(e - lastPlace f (e + Nat.log2 m))).toNat by omega]; rfl
  have hcode : roundedCode f mo m e =
      (lastPlace f (e + Nat.log2 m) + fracBits f + biasOf f - 1).toNat <<< fracBits f +
        roundInt mo m (e - lastPlace f (e + Nat.log2 m)) := by
    rw [roundedCode, Nat.shiftLeft_eq]
    congr 3
    unfold unitOf; omega
  rw [hcode, ← hsig]
  simp only [FF.roundMag, ffOf_mant hf, ffOf_bias hf, ffOf_top hf, ffOf_inf hf, ffOf_sat hf, sign_add hf]
  exact if_congr Iff.rfl rfl (congrArg (fun c => (⟨signed f neg c, 2⟩ : Rnd)) (overflowCode_eq hf))

/-- A value rounded once, as the model encodes it (03 R65). -/
theorem enc_fin_rounded (hf : f < 5) (hmo : ModeOk mo) {neg : Bool} {t : Exact} (h : Approx x m e) (hm : m = 0 → x = 0)
    (ht : Measures t (x * 2 ^ unitOf f)) : Rounded f mo neg t ((ffOf f).enc mo (.fin neg m e)) := by
  have hmono : Monotone (magnitude f) := (magnitude_strictMono f).monotone
  have hreal := magnitude_real_strictMono f
  rw [FF.enc]
  split
  · next h0 =>
    have hself : NearestReal (fun k => (magnitude f k : ℝ)) mo (x * 2 ^ unitOf f) 0 := by
      rw [hm h0, zero_mul]
      simpa [magnitude_zero] using nearestReal_self (k := 0) hreal hmo
    exact ⟨0, (nearest_iff hmono ht).mpr hself, by rw [if_pos (Nat.zero_le _), ← sign_add hf, Nat.add_zero]⟩
  · next h0 =>
    exact ⟨roundedCode f mo m e, (nearest_iff hmono ht).mpr (roundedCode_nearest hmo (Nat.pos_of_ne_zero h0) h), roundMag_eq hf neg⟩

end

end Sys2Proof.Numbers

namespace Sys2Proof.Numbers

open Sys2Proof Sys2Proof.Machine Sys2Proof.Claims

/-! ### What a code stands for (03 R58) -/

/-- A value of the model and a number of the statements are the same. -/
inductive Means : Fv → Claims.Num → Prop
  | nan : Means .nan .nan
  | inf (n : Bool) : Means (.inf n) (.inf n)
  | fin (n : Bool) {m a d : ℕ} {e : ℤ} (hd : 0 < d) (h : (m : ℝ) * (2 : ℝ) ^ e = a / d) : Means (.fin n m e) (.fin n a d)

section
variable {f : ℕ}

/-- The top bit of a code. -/
theorem topBit_eq (f c : ℕ) : (c / 2 ^ (codeBits f - 1) % 2 == 1) = isNegative f c := by
  rw [isNegative]
  obtain ⟨w, hw⟩ : ∃ w, codeBits f = w + 1 := ⟨codeBits f - 1, by have := codeBits_pos f; omega⟩
  rw [hw, Nat.add_sub_cancel, pow_succ, Nat.mod_mul, Bool.eq_iff_iff]
  have hlt : c % 2 ^ w < 2 ^ w := Nat.mod_lt _ (by positivity)
  simp only [beq_iff_eq, decide_eq_true_eq]
  rcases Nat.mod_two_eq_zero_or_one (c / 2 ^ w) with h | h <;> rw [h] <;> simp [hlt]

/-- The value that the model reads in a code. -/
theorem dec_eq (hf : f < 5) (c : ℕ) : (ffOf f).dec c =
    if largestOf f < bareCode f c then (if infinityOf f = some (bareCode f c) then .inf (isNegative f c) else .nan)
    else if bareCode f c / 2 ^ fracBits f = 0 then .fin (isNegative f c) (bareCode f c % 2 ^ fracBits f) (1 - (biasOf f : ℤ) - fracBits f)
    else .fin (isNegative f c) (bareCode f c % 2 ^ fracBits f + 2 ^ fracBits f)
      (((bareCode f c / 2 ^ fracBits f : ℕ) : ℤ) - biasOf f - fracBits f) := by
  simp only [FF.dec, ffOf_wid hf, ffOf_mant hf, ffOf_bias hf, ffOf_top hf, ffOf_inf hf, one_shiftLeft_eq, Nat.shiftRight_eq_div_pow, topBit_eq]
  rfl

/-- A magnitude over its unit, as a significand times a power of two. -/
theorem magnitude_div_unit (f k : ℕ) : (magnitude f k : ℝ) / ((2 ^ unitOf f : ℕ) : ℝ) =
    if k / 2 ^ fracBits f = 0 then ((k % 2 ^ fracBits f : ℕ) : ℝ) * (2 : ℝ) ^ (1 - (biasOf f : ℤ) - fracBits f)
    else ((k % 2 ^ fracBits f + 2 ^ fracBits f : ℕ) : ℝ) * (2 : ℝ) ^ (((k / 2 ^ fracBits f : ℕ) : ℤ) - biasOf f - fracBits f) := by
  have hunit : ((2 ^ unitOf f : ℕ) : ℝ) = (2 : ℝ) ^ (unitOf f : ℤ) := by rw [zpow_natCast]; push_cast; rfl
  have hbias := biasOf_pos f
  rw [hunit, div_eq_mul_inv, ← zpow_neg, magnitude]
  split
  · congr 2
    unfold unitOf; omega
  · next h =>
    generalize k / 2 ^ fracBits f = x at *
    rw [Nat.cast_mul, Nat.cast_pow, Nat.cast_ofNat, ← zpow_natCast (2 : ℝ) (x - 1), mul_assoc, ← zpow_add₀ (by norm_num),
      Nat.add_comm (2 ^ fracBits f)]
    congr 2
    unfold unitOf; omega

/-- The significand and the exponent of a finite code. -/
theorem dec_of_finite (hf : f < 5) {c : ℕ} (h : bareCode f c ≤ largestOf f) :
    ∃ m e, (ffOf f).dec c = .fin (isNegative f c) m e ∧ m < 2 ^ (fracBits f + 1) ∧
      (m : ℝ) * (2 : ℝ) ^ e = magnitude f (bareCode f c) / ((2 ^ unitOf f : ℕ) : ℝ) := by
  have hfrac : bareCode f c % 2 ^ fracBits f < 2 ^ fracBits f := Nat.mod_lt _ (by positivity)
  rw [dec_eq hf, if_neg (Nat.not_lt.mpr h), magnitude_div_unit, pow_succ]
  split
  · exact ⟨_, _, rfl, by omega, rfl⟩
  · exact ⟨_, _, rfl, by omega, rfl⟩

theorem dec_means (hf : f < 5) (c : ℕ) : Means ((ffOf f).dec c) (numOf f c) := by
  rw [numOf]
  split
  · next h =>
    obtain ⟨m, e, hdec, -, hval⟩ := dec_of_finite hf h
    rw [hdec]
    exact .fin _ (by positivity) hval
  · next h =>
    rw [dec_eq hf, if_pos (Nat.not_le.mp h)]
    split
    · exact .inf _
    · exact .nan

theorem means_neg {x : Fv} {a : Claims.Num} (h : Means x a) : Means x.neg a.minus := by
  cases h with
  | nan => exact .nan
  | inf n => exact .inf _
  | fin n hd h => exact .fin _ hd h

/-- A significand is 0 where its number is. -/
theorem significand_eq_zero_iff {m a d : ℕ} {e : ℤ} (hd : 0 < d) (h : (m : ℝ) * (2 : ℝ) ^ e = a / d) : m = 0 ↔ a = 0 := by
  have hd' : (d : ℝ) ≠ 0 := by exact_mod_cast hd.ne'
  have he := (two_zpow_pos e).ne'
  constructor
  · rintro rfl
    have : (a : ℝ) / d = 0 := by rw [← h]; simp
    have : (a : ℝ) = 0 := by simpa [hd'] using this
    exact_mod_cast this
  · rintro rfl
    have : (m : ℝ) * (2 : ℝ) ^ e = 0 := by rw [h]; simp
    have : (m : ℝ) = 0 := by simpa [he] using this
    exact_mod_cast this

end

/-! ### One rounding of an exact value -/

section
variable {f : ℕ} {mo : Mode} {m : ℕ} {e : ℤ} {n : Bool}

theorem enc_ratio_rounded (hf : f < 5) (hmo : ModeOk mo) {a d : ℕ} (hd : 0 < d) (h : (m : ℝ) * (2 : ℝ) ^ e = a / d) :
    Rounded f mo n (fraction (a * 2 ^ unitOf f) d) ((ffOf f).enc mo (.fin n m e)) := by
  refine enc_fin_rounded hf hmo (x := a / d) (.inl h.symm) (fun h0 => by rw [← h, h0]; simp) ?_
  have := measures_fraction (n := a * 2 ^ unitOf f) hd
  push_cast at this
  rwa [mul_div_right_comm] at this

theorem signed_lt (f : ℕ) {k : ℕ} (hk : k < 2 ^ (codeBits f - 1)) (neg : Bool) : signed f neg k < 2 ^ codeBits f := by
  obtain ⟨w, hw⟩ : ∃ w, codeBits f = w + 1 := ⟨codeBits f - 1, by have := codeBits_pos f; omega⟩
  rw [hw, Nat.add_sub_cancel] at hk
  rw [signed, hw, Nat.add_sub_cancel, pow_succ]
  split <;> omega

theorem largestOf_lt (hf : f < 5) : largestOf f < 2 ^ (codeBits f - 1) := by interval_cases f <;> decide
theorem infinityOf_getD_lt (hf : f < 5) : (infinityOf f).getD 0 < 2 ^ (codeBits f - 1) := by interval_cases f <;> decide
theorem canonicalNan_lt (hf : f < 5) : canonicalNan f < 2 ^ codeBits f := by interval_cases f <;> decide
theorem codeBits_pred_pos (f : ℕ) : 0 < 2 ^ (codeBits f - 1) := by positivity

theorem bareCode_signed (f : ℕ) {k : ℕ} (hk : k < 2 ^ (codeBits f - 1)) (neg : Bool) : bareCode f (signed f neg k) = k := by
  rw [bareCode, signed]
  cases neg
  · exact Nat.mod_eq_of_lt hk
  · rw [if_pos rfl, Nat.add_mod_left, Nat.mod_eq_of_lt hk]

theorem isNegative_signed (f : ℕ) {k : ℕ} (hk : k < 2 ^ (codeBits f - 1)) (neg : Bool) : isNegative f (signed f neg k) = neg := by
  rw [isNegative, Nat.mod_eq_of_lt (signed_lt f hk neg), signed]
  cases neg
  · simpa using hk
  · simp

theorem numOf_signed (f : ℕ) {k : ℕ} (hk : k < 2 ^ (codeBits f - 1)) (neg : Bool) (hfin : k ≤ largestOf f) :
    numOf f (signed f neg k) = .fin neg (magnitude f k) (2 ^ unitOf f) := by
  simp only [numOf, bareCode_signed f hk, isNegative_signed f hk, if_pos hfin]

/-- The number that a finite value of the model is, as a signed real. -/
noncomputable def signedValue (n : Bool) (m : ℕ) (e : ℤ) : ℝ := (if n then -1 else 1) * ((m : ℝ) * (2 : ℝ) ^ e)

/-- The magnitude of a signed value. -/
theorem magnitude_of_signedValue {N : ℤ} {D : ℕ} (hD : 0 < D) (h : signedValue n m e = N / D) : (m : ℝ) * (2 : ℝ) ^ e = (N.natAbs : ℝ) / D := by
  have hD' : (0 : ℝ) < D := by exact_mod_cast hD
  have hval : (0 : ℝ) ≤ (m : ℝ) * (2 : ℝ) ^ e := mul_nonneg (Nat.cast_nonneg _) (two_zpow_pos e).le
  have habs := congrArg abs h
  rw [signedValue, abs_mul, abs_of_nonneg hval, abs_div, abs_of_pos hD'] at habs
  rw [Nat.cast_natAbs, Int.cast_abs, ← habs]
  cases n <;> simp

/-- The sign of a signed value that is not 0. -/
theorem sign_of_signedValue {N : ℤ} {D : ℕ} (hD : 0 < D) (hN : N ≠ 0) (h : signedValue n m e = N / D) : n = decide (N < 0) := by
  have hD' : (0 : ℝ) < D := by exact_mod_cast hD
  have hm : m ≠ 0 := (significand_eq_zero_iff hD (magnitude_of_signedValue hD h)).not.mpr (by simpa using hN)
  have hpos : (0 : ℝ) < (m : ℝ) * (2 : ℝ) ^ e := mul_pos (by exact_mod_cast Nat.pos_of_ne_zero hm) (two_zpow_pos e)
  have hN' : (N : ℝ) = (if n then -1 else 1) * ((m : ℝ) * (2 : ℝ) ^ e) * D := by rw [← signedValue, h]; field_simp
  have hmul := mul_pos hpos hD'
  cases n
  · have : (0 : ℝ) < N := by rw [hN']; simpa [mul_assoc] using hmul
    have : 0 < N := by exact_mod_cast this
    simp; omega
  · have : (N : ℝ) < 0 := by rw [hN']; simp only [if_true]; linarith
    have : N < 0 := by exact_mod_cast this
    simpa using this

theorem enc_roundedInt (hf : f < 5) (hmo : ModeOk mo) {N : ℤ} {D : ℕ} (hD : 0 < D) (h : signedValue n m e = N / D) :
    RoundedInt f mo N D ((ffOf f).enc mo (.fin n m e)) := by
  have habs := magnitude_of_signedValue hD h
  rw [RoundedInt]
  split
  · next hN =>
    obtain rfl : m = 0 := (significand_eq_zero_iff hD habs).mpr (by rw [hN]; rfl)
    have hsign : (ffOf f).enc mo (.fin n 0 e) = ⟨signed f n 0, 0⟩ := by rw [FF.enc, if_pos rfl, ← sign_add hf, Nat.add_zero]
    rw [hsign]
    exact ⟨rfl, signed_lt f (codeBits_pred_pos f) n, bareCode_signed f (codeBits_pred_pos f) n⟩
  · next hN =>
    rw [← sign_of_signedValue hD hN h]
    exact enc_ratio_rounded hf hmo hD habs

end

end Sys2Proof.Numbers

namespace Sys2Proof.Numbers

open Sys2Proof Sys2Proof.Machine Sys2Proof.Claims

/-! ### The operations on values (03 R60, R63, R65) -/

section
variable {f : ℕ} {mo : Mode} {x y z : Fv} {a b c : Claims.Num}

@[simp] theorem fin_exact (k : FF) (mo : Mode) (v : Fv) : k.fin mo ⟨v, 0⟩ = k.enc mo v := by simp [FF.fin]
theorem enc_nan (hf : f < 5) : (ffOf f).enc mo .nan = isNanCode f := by rw [FF.enc, ffOf_nan hf, isNanCode]
theorem fin_invalid (hf : f < 5) : (ffOf f).fin mo ⟨.nan, 1⟩ = invalidNan f := by rw [FF.fin, enc_nan hf, isNanCode, invalidNan, Nat.zero_or]
theorem enc_zero (hf : f < 5) (n : Bool) (e : ℤ) : (ffOf f).enc mo (.fin n 0 e) = ⟨signed f n 0, 0⟩ := by
  rw [FF.enc, if_pos rfl, ← sign_add hf, Nat.add_zero]

/-- FP32 and BF16 have infinities. -/
theorem infinityOf_wide (hf : f < 2) : infinityOf f = some ((infinityOf f).getD 0) := by interval_cases f <;> rfl
theorem enc_inf (hf : f < 2) (n : Bool) : (ffOf f).enc mo (.inf n) = infiniteCode f n := by
  have hinf := (ffOf_inf (f := f) (by omega)).trans (infinityOf_wide hf)
  simp only [FF.enc, hinf, sign_add (f := f) (by omega), infiniteCode]

theorem withSign_value {m a d : ℕ} {e : ℤ} (n : Bool) (h : (m : ℝ) * (2 : ℝ) ^ e = a / d) : signedValue n m e = (withSign n a : ℤ) / d := by
  rw [signedValue, h, withSign]; cases n <;> simp [neg_div]

theorem scaled_value (n : Bool) (m : ℕ) {e k : ℤ} (h : k ≤ e) : (scaled n m e k : ℝ) * (2 : ℝ) ^ k = signedValue n m e := by
  have hpow : (2 : ℝ) ^ e = 2 ^ (e - k).toNat * (2 : ℝ) ^ k := by
    rw [← zpow_natCast, ← zpow_add₀ (by norm_num)]; congr 1; omega
  rw [scaled, signedValue, hpow, Nat.shiftLeft_eq]
  cases n <;> simp <;> ring

/-- An integer as sign and magnitude. -/
theorem signedValue_int (i k : ℤ) : signedValue (decide (i < 0)) i.natAbs k = i * (2 : ℝ) ^ k := by
  rw [signedValue, Nat.cast_natAbs, Int.cast_abs]
  by_cases h : i < 0
  · have : (i : ℝ) < 0 := by exact_mod_cast h
    simp [h, abs_of_neg this]
  · have : (0 : ℝ) ≤ i := by exact_mod_cast not_lt.mp h
    simp [h, abs_of_nonneg this]

/-- The sum of finite values is exact. -/
theorem add_finite (n m e n' m' e') : ∃ p s k, (Fv.fin n m e).add (.fin n' m' e') = ⟨.fin p s k, 0⟩ ∧
    signedValue p s k = signedValue n m e + signedValue n' m' e' := by
  have hzero (n : Bool) (e : ℤ) : signedValue n 0 e = 0 := by simp [signedValue]
  rw [Fv.add]
  split
  · next h =>
    simp only [Bool.and_eq_true, decide_eq_true_eq] at h
    obtain ⟨rfl, rfl⟩ := h
    exact ⟨_, _, _, rfl, by simp [hzero]⟩
  · split
    · next h => subst h; exact ⟨_, _, _, rfl, by simp [hzero]⟩
    · split
      · next h => subst h; exact ⟨_, _, _, rfl, by simp [hzero]⟩
      · refine ⟨_, _, _, rfl, ?_⟩
        rw [signedValue_int, Int.cast_add, add_mul, scaled_value n m (min_le_left e e'), scaled_value n' m' (min_le_right e e')]

theorem fin_add (hf : f < 2) (hmo : ModeOk mo) (hx : Means x a) (hy : Means y b) : SumOf f mo a b ((ffOf f).fin mo (x.add y)) := by
  have hf' : f < 5 := by omega
  cases hx with
  | nan => exact (fin_exact ..).trans (enc_nan hf')
  | inf n =>
    cases hy with
    | nan => exact (fin_exact ..).trans (enc_nan hf')
    | inf n' =>
      rw [Fv.add, SumOf]
      split
      · exact (fin_exact ..).trans (enc_inf hf n)
      · exact fin_invalid hf'
    | fin n' hd h => exact (fin_exact ..).trans (enc_inf hf n)
  | fin n hd h =>
    cases hy with
    | nan => exact (fin_exact ..).trans (enc_nan hf')
    | inf n' => exact (fin_exact ..).trans (enc_inf hf n')
    | @fin n' m' a' d' e' hd' h' =>
      obtain ⟨p, s, k, hadd, hval⟩ := add_finite n _ _ n' m' e'
      rw [hadd, fin_exact, SumOf]
      refine enc_roundedInt hf' hmo (Nat.mul_pos hd hd') ?_
      rw [hval, withSign_value n h, withSign_value n' h']
      have hdr : (0 : ℝ) < d' := by exact_mod_cast hd'
      have := Nat.cast_pos (α := ℝ).mpr hd
      push_cast
      field_simp

/-- The product of finite values is exact. -/
theorem mul_finite {m a d m' a' d' : ℕ} {e e' : ℤ} (h : (m : ℝ) * (2 : ℝ) ^ e = a / d) (h' : (m' : ℝ) * (2 : ℝ) ^ e' = a' / d') :
    ((m * m' : ℕ) : ℝ) * (2 : ℝ) ^ (e + e') = ((a * a' : ℕ) : ℝ) / ((d * d' : ℕ) : ℝ) := by
  push_cast
  rw [zpow_add₀ (by norm_num), mul_mul_mul_comm, h, h', div_mul_div_comm]

theorem fin_mul (hf : f < 2) (hmo : ModeOk mo) (hx : Means x a) (hy : Means y b) : ProductOf f mo a b ((ffOf f).fin mo (x.mul y)) := by
  have hf' : f < 5 := by omega
  cases hx with
  | nan => exact (fin_exact ..).trans (enc_nan hf')
  | inf n =>
    cases hy with
    | nan => exact (fin_exact ..).trans (enc_nan hf')
    | inf n' => exact (fin_exact ..).trans (enc_inf hf _)
    | fin n' hd h =>
      rw [Fv.mul, ProductOf, if_congr (significand_eq_zero_iff hd h) rfl rfl]
      split
      · exact fin_invalid hf'
      · exact (fin_exact ..).trans (enc_inf hf _)
  | fin n hd h =>
    cases hy with
    | nan => exact (fin_exact ..).trans (enc_nan hf')
    | inf n' =>
      rw [Fv.mul, ProductOf, if_congr (significand_eq_zero_iff hd h) rfl rfl]
      split
      · exact fin_invalid hf'
      · exact (fin_exact ..).trans (by rw [enc_inf hf, bne_comm])
    | fin n' hd' h' =>
      rw [Fv.mul, fin_exact, ProductOf]
      exact enc_ratio_rounded hf' hmo (Nat.mul_pos hd hd') (mul_finite h h')

theorem isNan_eq (hx : Means x a) : x.isNan = decide (a = .nan) := by cases hx <;> rfl

/-- Where an operand is NaN so is x·y + z, without INV. -/
theorem fin_fma_nan (hf : f < 5) (h : a = .nan ∨ b = .nan ∨ c = .nan) (hx : Means x a) (hy : Means y b) (hz : Means z c) :
    (ffOf f).fin mo (x.fma y z) = isNanCode f := by
  have hnan : (x.isNan || y.isNan || z.isNan) = true := by rw [isNan_eq hx, isNan_eq hy, isNan_eq hz]; simpa [or_assoc] using h
  rw [Fv.fma, if_pos hnan, fin_exact, enc_nan hf]

/-- Otherwise it is the sum of the product and z, NaN with INV where the product is. -/
theorem fma_of_not_nan (hx : Means x a) (hy : Means y b) (hz : Means z c) (ha : a ≠ .nan) (hb : b ≠ .nan) (hc : c ≠ .nan) :
    x.fma y z = if (x.mul y).v.isNan then ⟨.nan, 1⟩ else (x.mul y).v.add z := by
  rw [Fv.fma, if_neg (by rw [isNan_eq hx, isNan_eq hy, isNan_eq hz]; simp [ha, hb, hc])]

theorem fusedOf_nan {r : Rnd} (h : a = .nan ∨ b = .nan ∨ c = .nan) : FusedOf f mo a b c r = (r = isNanCode f) := by
  rcases h with rfl | rfl | rfl
  · rfl
  · cases a <;> rfl
  · cases a <;> cases b <;> rfl

theorem fusedOf_fin_fin (p q : Bool) (i j k l : ℕ) (hc : c ≠ .nan) (r : Rnd) :
    FusedOf f mo (.fin p i k) (.fin q j l) c r = SumOf f mo (.fin (p != q) (i * j) (k * l)) c r := by
  cases c <;> simp_all [FusedOf]

theorem fusedOf_inf_inf (p q : Bool) (hc : c ≠ .nan) (r : Rnd) : FusedOf f mo (.inf p) (.inf q) c r = SumOf f mo (.inf (p != q)) c r := by
  cases c <;> simp_all [FusedOf]

theorem fusedOf_inf_fin (p q : Bool) (n d : ℕ) (hc : c ≠ .nan) (r : Rnd) :
    FusedOf f mo (.inf p) (.fin q n d) c r = if n = 0 then r = invalidNan f else SumOf f mo (.inf (p != q)) c r := by
  cases c <;> simp_all [FusedOf]

theorem fusedOf_fin_inf (p q : Bool) (n d : ℕ) (hc : c ≠ .nan) (r : Rnd) :
    FusedOf f mo (.fin q n d) (.inf p) c r = if n = 0 then r = invalidNan f else SumOf f mo (.inf (p != q)) c r := by
  cases c <;> simp_all [FusedOf]

theorem fin_fma (hf : f < 2) (hmo : ModeOk mo) (hx : Means x a) (hy : Means y b) (hz : Means z c) :
    FusedOf f mo a b c ((ffOf f).fin mo (x.fma y z)) := by
  have hf' : f < 5 := by omega
  by_cases hnan : a = .nan ∨ b = .nan ∨ c = .nan
  · rw [fin_fma_nan hf' hnan hx hy hz, fusedOf_nan hnan]
  simp only [not_or] at hnan
  obtain ⟨ha, hb, hc⟩ := hnan
  rw [fma_of_not_nan hx hy hz ha hb hc]
  cases hx with
  | nan => exact (ha rfl).elim
  | inf n =>
    cases hy with
    | nan => exact (hb rfl).elim
    | inf n' =>
      rw [fusedOf_inf_inf _ _ hc]
      exact fin_add hf hmo (.inf _) hz
    | fin n' hd h =>
      rw [fusedOf_inf_fin _ _ _ _ hc, Fv.mul, if_congr (significand_eq_zero_iff hd h) rfl rfl]
      split
      · exact fin_invalid hf'
      · exact fin_add hf hmo (.inf _) hz
  | fin n hd h =>
    cases hy with
    | nan => exact (hb rfl).elim
    | inf n' =>
      rw [fusedOf_fin_inf _ _ _ _ hc, Fv.mul, if_congr (significand_eq_zero_iff hd h) rfl rfl, bne_comm]
      split
      · exact fin_invalid hf'
      · exact fin_add hf hmo (.inf _) hz
    | fin n' hd' h' =>
      rw [fusedOf_fin_fin _ _ _ _ _ _ hc]
      exact fin_add hf hmo (.fin _ (Nat.mul_pos hd hd') (mul_finite h h')) hz

/-! ### Quotients and roots: a sticky bit stands for what is left (06 R156) -/

/-- A quotient with its sticky bit, which is set where something is left. -/
theorem approx_sticky {y : ℝ} {q st : ℕ} {e : ℤ} (hq : 2 ^ 41 ≤ q) (hlo : (q : ℝ) ≤ y) (hhi : y < q + 1) (hst : st = if (q : ℝ) = y then 0 else 1) :
    Approx (y * (2 : ℝ) ^ e) (2 * q + st) (e - 1) := by
  have hpos := two_zpow_pos e
  have hhalf : (2 : ℝ) ^ (e - 1) = (2 : ℝ) ^ e / 2 := by rw [zpow_sub_one₀ (by norm_num)]; ring
  by_cases h : (q : ℝ) = y
  · left
    rw [if_pos h] at hst
    rw [hst, hhalf, ← h]; push_cast; ring
  · right
    rw [if_neg h] at hst
    have hlt := lt_of_le_of_ne hlo h
    refine ⟨by omega, by omega, ?_, ?_⟩
    · rw [hst, hhalf]; push_cast; nlinarith
    · rw [hst, hhalf]; push_cast; nlinarith

/-- A quotient of integers and its whole part. -/
theorem whole_quotient (n : ℕ) {d : ℕ} (hd : 0 < d) : ((n / d : ℕ) : ℝ) ≤ n / d ∧ (n : ℝ) / d < (n / d : ℕ) + 1 ∧
    (((n / d : ℕ) : ℝ) = n / d ↔ n / d * d = n) := by
  have hd' : (0 : ℝ) < d := by exact_mod_cast hd
  refine ⟨Nat.cast_div_le, ?_, ?_⟩
  · rw [div_lt_iff₀ hd']
    exact_mod_cast Nat.lt_mul_of_div_lt (Nat.lt_succ_self _) hd
  · rw [eq_div_iff hd'.ne']
    exact_mod_cast Iff.rfl

/-- The quotient of finite values. -/
theorem div_finite {m m' : ℕ} (n n' : Bool) (e e' : ℤ) (hm : m ≠ 0) (hm' : m' ≠ 0) : ∃ s k, s ≠ 0 ∧
    (Fv.fin n m e).div (.fin n' m' e') = ⟨.fin (n != n') s k, 0⟩ ∧ Approx ((m : ℝ) * (2 : ℝ) ^ e / (m' * (2 : ℝ) ^ e')) s k := by
  have hpos := Nat.pos_of_ne_zero hm'
  obtain ⟨hlo, hhi, hexact⟩ := whole_quotient (m * 2 ^ (96 + Nat.log2 m')) hpos
  have hq : 2 ^ 41 ≤ m * 2 ^ (96 + Nat.log2 m') / m' := by
    have hlog : m' < 2 ^ (Nat.log2 m' + 1) := Nat.lt_log2_self
    have hm1 : 1 * 2 ^ (96 + Nat.log2 m') ≤ m * 2 ^ (96 + Nat.log2 m') := Nat.mul_le_mul_right _ (Nat.pos_of_ne_zero hm)
    rw [show 96 + Nat.log2 m' = 95 + (Nat.log2 m' + 1) by omega, pow_add 2 95] at hm1 ⊢
    rw [Nat.le_div_iff_mul_le hpos]
    omega
  have hvalue : (m : ℝ) * (2 : ℝ) ^ e / (m' * (2 : ℝ) ^ e') =
      ((m * 2 ^ (96 + Nat.log2 m') : ℕ) : ℝ) / m' * (2 : ℝ) ^ (e - e' - (96 + Nat.log2 m' : ℕ)) := by
    rw [zpow_sub₀ (by norm_num), zpow_sub₀ (by norm_num), zpow_natCast]
    push_cast
    field_simp
  rw [Fv.div, if_neg hm', if_neg hm]
  dsimp only
  rw [Nat.shiftLeft_eq]
  refine ⟨_, _, ?_, rfl, ?_⟩
  · have := Nat.two_pow_pos 41
    omega
  · rw [hvalue]
    exact approx_sticky hq hlo hhi (if_congr hexact rfl rfl).symm

theorem fin_div (hf : f < 2) (hmo : ModeOk mo) (hx : Means x a) (hy : Means y b) : QuotientOf f mo a b ((ffOf f).fin mo (x.div y)) := by
  have hf' : f < 5 := by omega
  cases hx with
  | nan => exact (fin_exact ..).trans (enc_nan hf')
  | inf n =>
    cases hy with
    | nan => exact (fin_exact ..).trans (enc_nan hf')
    | inf n' => exact fin_invalid hf'
    | fin n' hd h => exact (fin_exact ..).trans (enc_inf hf _)
  | @fin n m a d e hd h =>
    cases hy with
    | nan => exact (fin_exact ..).trans (enc_nan hf')
    | inf n' => exact (fin_exact ..).trans (enc_zero hf' _ _)
    | @fin n' m' b d' e' hd' h' =>
      have hm := significand_eq_zero_iff hd h
      have hm' := significand_eq_zero_iff hd' h'
      rw [QuotientOf]
      split
      · next hb =>
        rw [Fv.div, if_pos (hm'.mpr hb), if_congr hm rfl rfl]
        split
        · exact fin_invalid hf'
        · exact (fin_exact ..).trans (enc_inf hf _)
      · next hb =>
        have hpos : 0 < d * b := Nat.mul_pos hd (Nat.pos_of_ne_zero hb)
        have hratio := measures_fraction (n := a * d' * 2 ^ unitOf f) hpos
        have hquot : ((a * d' * 2 ^ unitOf f : ℕ) : ℝ) / ((d * b : ℕ) : ℝ) = m * (2 : ℝ) ^ e / (m' * (2 : ℝ) ^ e') * 2 ^ unitOf f := by
          rw [h, h', div_div_div_eq]; push_cast; ring
        rw [hquot] at hratio
        by_cases ha : m = 0
        · rw [Fv.div, if_neg (hm'.not.mpr hb), if_pos ha, fin_exact]
          exact enc_fin_rounded hf' hmo (.inl (by simp [ha])) (fun _ => by simp [ha]) hratio
        · obtain ⟨s, k, hs, hdiv, happrox⟩ := div_finite n n' e e' ha (hm'.not.mpr hb)
          rw [hdiv, fin_exact]
          exact enc_fin_rounded hf' hmo happrox (fun h0 => (hs h0).elim) hratio

/-- The bit-by-bit root stays below the root, and reaches it. -/
theorem isqrtFrom_bounds {n : ℕ} (i r : ℕ) (hlo : r * r ≤ n) (hhi : n < (r + 2 ^ (i + 1)) * (r + 2 ^ (i + 1))) :
    isqrtFrom n i r * isqrtFrom n i r ≤ n ∧ n < (isqrtFrom n i r + 1) * (isqrtFrom n i r + 1) := by
  induction i generalizing r with
  | zero =>
    rw [isqrtFrom]
    split
    · next h => exact ⟨h, hhi⟩
    · next h => exact ⟨hlo, Nat.not_le.mp h⟩
  | succ i ih =>
    rw [isqrtFrom, one_shiftLeft_eq]
    split
    · next h =>
      refine ih _ h ?_
      rwa [add_assoc, ← Nat.two_mul, ← pow_succ']
    · next h => exact ih _ hlo (Nat.not_le.mp h)

theorem isqrt_eq_sqrt (n : ℕ) : isqrt n = Nat.sqrt n := by
  rw [Nat.eq_sqrt, isqrt]
  refine isqrtFrom_bounds _ _ (Nat.zero_le _) ?_
  have hlog : n < 2 ^ (Nat.log2 n + 1) := Nat.lt_log2_self
  rw [Nat.zero_add, ← pow_add]
  exact hlog.trans_le (Nat.pow_le_pow_right Nat.two_pos (by omega))

/-- The root of a quotient and its whole part. -/
theorem whole_root (n : ℕ) {d : ℕ} (hd : 0 < d) : (Nat.sqrt (n / d) : ℝ) ≤ √(n / d) ∧ √((n : ℝ) / d) < Nat.sqrt (n / d) + 1 ∧
    ((Nat.sqrt (n / d) : ℝ) = √(n / d) ↔ Nat.sqrt (n / d) * Nat.sqrt (n / d) * d = n) := by
  have hd' : (0 : ℝ) < d := by exact_mod_cast hd
  have hquot : (0 : ℝ) ≤ n / d := by positivity
  obtain ⟨hlo, hhi, -⟩ := whole_quotient n hd
  set r := Nat.sqrt (n / d)
  have hr : (r : ℝ) * r ≤ (n / d : ℕ) := by exact_mod_cast Nat.sqrt_le (n / d)
  have hr' : ((n / d : ℕ) : ℝ) + 1 ≤ (r + 1) * (r + 1) := by exact_mod_cast Nat.succ_le_succ_sqrt (n / d)
  refine ⟨?_, ?_, ?_⟩
  · rw [Real.le_sqrt (by positivity) hquot, sq]; linarith
  · rw [Real.sqrt_lt' (by positivity), sq]; linarith
  · rw [eq_comm, Real.sqrt_eq_iff_mul_self_eq hquot (by positivity), div_eq_iff hd'.ne', eq_comm]
    exact_mod_cast Iff.rfl

/-- The inverse root of a finite value. -/
theorem rsqrt_finite {m : ℕ} (e : ℤ) (hm : m ≠ 0) : ∃ s k, s ≠ 0 ∧ (Fv.fin false m e).rsqrt = ⟨.fin false s k, 0⟩ ∧
    Approx (√(1 / ((m : ℝ) * (2 : ℝ) ^ e))) s k := by
  have hpos := Nat.pos_of_ne_zero hm
  obtain ⟨k, hk, hlog, heven⟩ : ∃ k : ℕ, k = Nat.log2 m + 192 + (if (e + (Nat.log2 m + 192 : ℕ)) % 2 = 0 then 0 else 1) ∧
      Nat.log2 m + 192 ≤ k ∧ (e + k) % 2 = 0 := by
    refine ⟨_, rfl, by omega, ?_⟩
    split <;> push_cast at * <;> omega
  obtain ⟨hlo, hhi, hexact⟩ := whole_root (2 ^ k) hpos
  have hr : 2 ^ 41 ≤ Nat.sqrt (2 ^ k / m) := by
    have hm1 : m < 2 ^ (Nat.log2 m + 1) := Nat.lt_log2_self
    rw [Nat.le_sqrt, Nat.le_div_iff_mul_le hpos, ← pow_add]
    calc 2 ^ (41 + 41) * m ≤ 2 ^ (41 + 41) * 2 ^ (Nat.log2 m + 1) := Nat.mul_le_mul_left _ hm1.le
      _ = 2 ^ (82 + (Nat.log2 m + 1)) := by rw [← pow_add]
      _ ≤ 2 ^ k := Nat.pow_le_pow_right Nat.two_pos (by omega)
  have hvalue : √(1 / ((m : ℝ) * (2 : ℝ) ^ e)) = √(((2 ^ k : ℕ) : ℝ) / m) * (2 : ℝ) ^ ((0 - e - k) / 2) := by
    have hroot : (2 : ℝ) ^ ((0 - e - k) / 2) = √((2 : ℝ) ^ (-e - k)) := by
      rw [eq_comm, Real.sqrt_eq_iff_mul_self_eq (two_zpow_pos _).le (two_zpow_pos _).le, ← zpow_add₀ (by norm_num)]
      congr 1; omega
    rw [hroot, ← Real.sqrt_mul (by positivity), zpow_sub₀ (by norm_num), zpow_neg, zpow_natCast]
    push_cast
    congr 1
    field_simp
  rw [Fv.rsqrt, if_neg hm, if_neg (by simp)]
  dsimp only
  rw [← hk, one_shiftLeft_eq, isqrt_eq_sqrt]
  refine ⟨_, _, ?_, rfl, ?_⟩
  · have := Nat.two_pow_pos 41
    omega
  · rw [hvalue]
    exact approx_sticky hr hlo hhi (if_congr hexact rfl rfl).symm

theorem fin_rsqrt (hf : f < 2) (hmo : ModeOk mo) (hx : Means x a) (hunit : ∀ n i d, a = .fin n i d → d = 2 ^ unitOf f) :
    InverseRootOf f mo a ((ffOf f).fin mo x.rsqrt) := by
  have hf' : f < 5 := by omega
  cases hx with
  | nan => exact (fin_exact ..).trans (enc_nan hf')
  | inf n =>
    rw [Fv.rsqrt, InverseRootOf]
    split
    · exact fin_invalid hf'
    · exact (fin_exact ..).trans (enc_zero hf' _ _)
  | @fin n m i d e hd h =>
    have hm := significand_eq_zero_iff hd h
    obtain rfl := hunit _ _ _ rfl
    rw [InverseRootOf]
    split
    · next hi =>
      rw [Fv.rsqrt, if_pos (hm.mpr hi)]
      exact (fin_exact ..).trans (enc_inf hf _)
    · next hi =>
      split
      · next hn =>
        rw [Fv.rsqrt, if_neg (hm.not.mpr hi), if_pos hn]
        exact fin_invalid hf'
      · next hn =>
        obtain rfl := Bool.eq_false_iff.mpr hn
        obtain ⟨s, k, hs, hroot, happrox⟩ := rsqrt_finite e (hm.not.mpr hi)
        rw [hroot, fin_exact]
        refine enc_fin_rounded hf' hmo happrox (fun h0 => (hs h0).elim) ?_
        have hmeasure := measures_inverseRoot (Nat.pos_of_ne_zero hi) (unitOf f)
        have hscale : √(1 / ((m : ℝ) * (2 : ℝ) ^ e)) * 2 ^ unitOf f = √(2 ^ (3 * unitOf f) / i) := by
          have hi' : (0 : ℝ) < i := by exact_mod_cast Nat.pos_of_ne_zero hi
          rw [h, ← Real.sqrt_sq (show (0 : ℝ) ≤ 2 ^ unitOf f by positivity), ← Real.sqrt_mul (by positivity)]
          congr 1
          push_cast
          field_simp
          ring
        rwa [hscale]

end

end Sys2Proof.Numbers

namespace Sys2Proof.Numbers

open Sys2Proof Sys2Proof.Machine Sys2Proof.Claims

/-! ### The float lanes (06 R152, R154–R156) -/

theorem mode_eq_drawnMode (d : Draws) (j : ℕ) : d.mode j = drawnMode d j := by
  have hbits (z : BitVec 32) : (z.extractLsb' 16 16).toNat = z.toNat / 65536 := by
    rw [BitVec.extractLsb'_toNat, Nat.shiftRight_eq_div_pow]
    exact Nat.mod_eq_of_lt (Nat.div_lt_of_lt_mul z.isLt)
  rw [Draws.mode, drawnMode, hbits]

theorem drawnMode_ok (d : Draws) (j : ℕ) : ModeOk (drawnMode d j) := by
  rw [drawnMode]
  split
  · trivial
  · split
    · exact Nat.div_lt_of_lt_mul (BitVec.isLt _)
    · trivial

theorem isFloat_lt {f : ℕ} (h : isFloat f = true) : f < 2 := by
  simp only [isFloat, Bool.or_eq_true, beq_iff_eq] at h; omega

theorem enc_code_lt {f : ℕ} (hf : f < 5) (mo : Mode) (x : Fv) : ((ffOf f).enc mo x).code < 2 ^ codeBits f := by
  have hlargest := largestOf_lt hf
  have hinf := infinityOf_getD_lt hf
  cases x with
  | nan => rw [enc_nan hf]; exact canonicalNan_lt hf
  | inf n =>
    rw [FF.enc, ffOf_inf hf]
    cases h : infinityOf f with
    | none => simpa only [sign_add hf, ffOf_top hf] using signed_lt f hlargest n
    | some i =>
      rw [h] at hinf
      simpa only [sign_add hf, Option.getD_some] using signed_lt f hinf n
  | fin n m e =>
    by_cases hm : m = 0
    · subst hm; rw [enc_zero hf]; exact signed_lt f (codeBits_pred_pos f) n
    · rw [FF.enc, if_neg hm, roundMag_eq hf]
      split
      · next hle => exact signed_lt f (hle.trans_lt hlargest) n
      · refine signed_lt f ?_ n
        split
        · exact hlargest
        · exact hinf

section
variable {v : VIn}

/-- A word that rounds a value in each lane. -/
theorem lanesAre_rounded (hf : isFloat v.f = true) (hl : v.l * v.w ≤ 2048) {x : ℕ → ValF} {P : ℕ → Rnd → Prop}
    (hP : ∀ i, P i ((ffOf v.f).fin (drawnMode v.rnd i) (x i))) :
    LanesAre (lanes v.l v.w (fun i => (ffOf v.f).fin (v.mode i) (x i))) v.l v.w P := by
  have hf' := isFloat_lt hf
  refine lanesAre_lanes hl (fun i _ => ?_) (fun i _ => ?_)
  · rw [VIn.w, ← codeBits_eq_fmtBits (by omega)]
    exact enc_code_lt (by omega) _ _
  · rw [VIn.mode, mode_eq_drawnMode]
    exact hP i

theorem numOf_unit {f c : ℕ} (n : Bool) (i d : ℕ) (h : numOf f c = .fin n i d) : d = 2 ^ unitOf f := by
  rw [numOf] at h
  split at h
  · cases h; rfl
  · split at h <;> cases h

theorem floatLanesRound : Claims.FloatLanesRound := by
  intro v hf hl
  have hf' := isFloat_lt hf
  have hmode (i : ℕ) := drawnMode_ok v.rnd i
  have hmeans (c : ℕ) : Means ((ffOf v.f).dec c) (numOf v.f c) := dec_means (by omega) c
  have hscalar : Means (f32 (v.x.toNat % 1 <<< 32)) (numOf 0 (v.x.toNat % 2 ^ 32)) := by
    rw [one_shiftLeft_eq]; exact dec_means (f := 0) (by omega) _
  have hone : Means (.fin false 1 0) (.fin false 1 1) := .fin _ Nat.one_pos (by simp)
  simp only [vAddF, vSubF, vMulF, vDivF, vRcpF, vRsqF, vArith, vUnary, vFmaF, vScalarF, if_pos hf]
  refine ⟨?_, ?_, ?_, ?_, ?_, ?_, ?_, ?_, ?_, ?_⟩
  all_goals refine lanesAre_rounded hf hl fun i => ?_
  · exact fin_add hf' (hmode i) (hmeans _) (hmeans _)
  · exact fin_add hf' (hmode i) (hmeans _) (means_neg (hmeans _))
  · exact fin_mul hf' (hmode i) (hmeans _) (hmeans _)
  · exact fin_fma hf' (hmode i) (hmeans _) (hmeans _) (hmeans _)
  · exact fin_fma hf' (hmode i) (means_neg (hmeans _)) (hmeans _) (hmeans _)
  · exact fin_div hf' (hmode i) (hmeans _) (hmeans _)
  · exact fin_div hf' (hmode i) hone (hmeans _)
  · exact fin_rsqrt hf' (hmode i) (hmeans _) numOf_unit
  · exact fin_add hf' (hmode i) (hmeans _) hscalar
  · exact fin_mul hf' (hmode i) (hmeans _) hscalar

end

end Sys2Proof.Numbers

namespace Sys2Proof.Numbers

open Sys2Proof Sys2Proof.Machine Sys2Proof.Claims

/-! ### A code and its value (03 R58, R60) -/

section
variable {f : ℕ} {mo : Mode} {c d : ℕ}

theorem signed_bareCode (hc : c < 2 ^ codeBits f) : signed f (isNegative f c) (bareCode f c) = c := by
  obtain ⟨w, hw⟩ : ∃ w, codeBits f = w + 1 := ⟨codeBits f - 1, by have := codeBits_pos f; omega⟩
  rw [isNegative, Nat.mod_eq_of_lt hc, bareCode, signed, hw, Nat.add_sub_cancel]
  rw [hw, pow_succ] at hc
  split
  · next h =>
    have h := of_decide_eq_true h
    rw [Nat.mod_eq_sub_mod h, Nat.mod_eq_of_lt (by omega)]
    omega
  · next h => exact Nat.mod_eq_of_lt (by simpa using h)

theorem bareCode_lt (f c : ℕ) : bareCode f c < 2 ^ (codeBits f - 1) := Nat.mod_lt _ (by positivity)

theorem bareCode_of_le (hf : f < 5) (h : c ≤ largestOf f) : bareCode f c = c := Nat.mod_eq_of_lt (h.trans_lt (largestOf_lt hf))

/-- What a code stands for, in the model and in the statements. -/
theorem code_cases (hf : f < 5) (c : ℕ) : ((ffOf f).dec c = .nan ∧ numOf f c = .nan) ∨
    (largestOf f < bareCode f c ∧ infinityOf f = some (bareCode f c) ∧ (ffOf f).dec c = .inf (isNegative f c) ∧ numOf f c = .inf (isNegative f c)) ∨
    (bareCode f c ≤ largestOf f ∧ numOf f c = .fin (isNegative f c) (magnitude f (bareCode f c)) (2 ^ unitOf f) ∧
      ∃ m e, (ffOf f).dec c = .fin (isNegative f c) m e ∧ m < 2 ^ (fracBits f + 1) ∧
        (m : ℝ) * (2 : ℝ) ^ e = magnitude f (bareCode f c) / ((2 ^ unitOf f : ℕ) : ℝ)) := by
  rcases Nat.lt_or_ge (largestOf f) (bareCode f c) with hfin | hfin
  · rw [dec_eq hf, numOf, if_pos hfin, if_neg (Nat.not_le.mpr hfin)]
    by_cases hinf : infinityOf f = some (bareCode f c)
    · exact .inr (.inl ⟨hfin, hinf, if_pos hinf, if_pos hinf⟩)
    · exact .inl ⟨if_neg hinf, if_neg hinf⟩
  · exact .inr (.inr ⟨hfin, if_pos hfin, dec_of_finite hf hfin⟩)

/-- A value that a code stands for is encoded by that code, by every mode. -/
theorem enc_exact (hf : f < 5) (hmo : ModeOk mo) {m k : ℕ} {e : ℤ} (n : Bool) (hk : k ≤ largestOf f)
    (h : (m : ℝ) * (2 : ℝ) ^ e = magnitude f k / ((2 ^ unitOf f : ℕ) : ℝ)) : (ffOf f).enc mo (.fin n m e) = ⟨signed f n k, 0⟩ := by
  obtain ⟨j, hj, hr⟩ := enc_ratio_rounded (n := n) hf hmo (Nat.two_pow_pos (unitOf f)) h
  have hcancel : ((magnitude f k * 2 ^ unitOf f : ℕ) : ℝ) / ((2 ^ unitOf f : ℕ) : ℝ) = magnitude f k := by
    rw [Nat.cast_mul, mul_div_cancel_right₀]; positivity
  have hmeasure := measures_fraction (n := magnitude f k * 2 ^ unitOf f) (Nat.two_pow_pos (unitOf f))
  rw [hcancel] at hmeasure
  have hnear := (nearest_iff (magnitude_strictMono f).monotone hmeasure).mp hj
  obtain rfl := nearestReal_unique_of_eq (magnitude_real_strictMono f) hmo hnear
  rw [hr, if_pos hk]

theorem enc_dec (hf : f < 5) (hmo : ModeOk mo) (hc : c < 2 ^ codeBits f) (h : numOf f c ≠ .nan) :
    (ffOf f).enc mo ((ffOf f).dec c) = ⟨c, 0⟩ := by
  rcases code_cases hf c with ⟨-, hnan⟩ | ⟨-, hinf, hdec, -⟩ | ⟨hfin, -, m, e, hdec, -, hval⟩
  · exact (h hnan).elim
  · simp only [hdec, FF.enc, ffOf_inf hf, hinf, sign_add hf, signed_bareCode hc]
  · rw [hdec, enc_exact hf hmo _ hfin hval, signed_bareCode hc]

theorem dec_signed (hf : f < 5) (n : Bool) (c : ℕ) : (ffOf f).dec (signed f n (bareCode f c)) =
    if isNegative f c = n then (ffOf f).dec c else ((ffOf f).dec c).neg := by
  have hneg : ∀ p q : Bool, p ≠ q → q = !p := by decide
  rw [dec_eq hf, bareCode_signed f (bareCode_lt f c), isNegative_signed f (bareCode_lt f c), dec_eq hf c]
  by_cases h : isNegative f c = n
  · rw [if_pos h, h]
  · rw [if_neg h, hneg _ _ h]
    split_ifs <;> rfl

theorem isNan_dec (hf : f < 5) (c : ℕ) : ((ffOf f).dec c).isNan = decide (numOf f c = .nan) := isNan_eq (dec_means hf c)

theorem isNeg_dec (hf : f < 5) (h : numOf f c ≠ .nan) : ((ffOf f).dec c).isNeg = isNegative f c := by
  rcases code_cases hf c with ⟨-, hnan⟩ | ⟨-, -, hdec, -⟩ | ⟨-, -, m, e, hdec, -⟩
  · exact (h hnan).elim
  · rw [hdec]; rfl
  · rw [hdec]; rfl

/-! ### The order of codes (03 R60; 06 R157) -/

/-- Signed magnitudes are ordered as their codes are. -/
theorem withSign_magnitude_lt (f : ℕ) (n p : Bool) (i j : ℕ) : withSign n (magnitude f i) < withSign p (magnitude f j) ↔ withSign n i < withSign p j := by
  have hmono := magnitude_strictMono f
  have hlt := hmono.lt_iff_lt (a := i) (b := j)
  have hgt := hmono.lt_iff_lt (a := j) (b := i)
  have hi := magnitude_eq_zero_iff (f := f) (k := i)
  have hj := magnitude_eq_zero_iff (f := f) (k := j)
  cases n <;> cases p <;> simp only [withSign, if_true, if_false, Bool.false_eq_true] <;> omega

theorem withSign_magnitude_eq (f : ℕ) (n p : Bool) (i j : ℕ) : withSign n (magnitude f i) = withSign p (magnitude f j) ↔ withSign n i = withSign p j := by
  have h := withSign_magnitude_lt f n p i j
  have h' := withSign_magnitude_lt f p n j i
  omega

theorem valueKey_eq (f c : ℕ) : valueKey f c = withSign (isNegative f c) (bareCode f c) := rfl

theorem finite_lt_iff (n m e n' m' e') : (Fv.fin n m e).lt (.fin n' m' e') = decide (signedValue n m e < signedValue n' m' e') := by
  rw [Fv.lt, ← scaled_value n m (min_le_left e e'), ← scaled_value n' m' (min_le_right e e')]
  simp only [mul_lt_mul_iff_left₀ (two_zpow_pos _), Int.cast_lt]

theorem finite_eqv_iff (n m e n' m' e') : (Fv.fin n m e).eqv (.fin n' m' e') = decide (signedValue n m e = signedValue n' m' e') := by
  rw [Fv.eqv, ← scaled_value n m (min_le_left e e'), ← scaled_value n' m' (min_le_right e e')]
  simp only [mul_left_inj' (two_zpow_pos _).ne', Int.cast_inj, Bool.beq_eq_decide_eq]

section
variable (hf : f < 5) (hc : numOf f c ≠ .nan) (hd : numOf f d ≠ .nan)
include hf hc hd

theorem lt_dec : ((ffOf f).dec c).lt ((ffOf f).dec d) = decide (valueKey f c < valueKey f d) := by
  have hunit : (0 : ℝ) < ((2 ^ unitOf f : ℕ) : ℝ) := by positivity
  rw [valueKey_eq, valueKey_eq]
  rcases code_cases hf c with ⟨-, hnan⟩ | ⟨hc1, hc2, hc3, -⟩ | ⟨hc1, -, m, e, hc2, -, hc3⟩
  · exact (hc hnan).elim
  · rcases code_cases hf d with ⟨-, hnan⟩ | ⟨hd1, hd2, hd3, -⟩ | ⟨hd1, -, m', e', hd2, -, hd3⟩
    · exact (hd hnan).elim
    · obtain heq : bareCode f c = bareCode f d := by simpa [hc2] using hd2
      rw [hc3, hd3, Fv.lt, heq]
      cases isNegative f c <;> cases isNegative f d <;> simp [withSign]
      omega
    · rw [hc3, hd2, Fv.lt]
      cases isNegative f c <;> cases isNegative f d <;> simp [withSign] <;> omega
  · rcases code_cases hf d with ⟨-, hnan⟩ | ⟨hd1, hd2, hd3, -⟩ | ⟨hd1, -, m', e', hd2, -, hd3⟩
    · exact (hd hnan).elim
    · rw [hc2, hd3, Fv.lt]
      cases isNegative f c <;> cases isNegative f d <;> simp [withSign] <;> omega
    · rw [hc2, hd2, finite_lt_iff, withSign_value _ hc3, withSign_value _ hd3]
      simp only [div_lt_div_iff_of_pos_right hunit, Int.cast_lt, withSign_magnitude_lt]

theorem eqv_dec : ((ffOf f).dec c).eqv ((ffOf f).dec d) = decide (valueKey f c = valueKey f d) := by
  have hunit : ((2 ^ unitOf f : ℕ) : ℝ) ≠ 0 := by positivity
  rw [valueKey_eq, valueKey_eq]
  rcases code_cases hf c with ⟨-, hnan⟩ | ⟨hc1, hc2, hc3, -⟩ | ⟨hc1, -, m, e, hc2, -, hc3⟩
  · exact (hc hnan).elim
  · rcases code_cases hf d with ⟨-, hnan⟩ | ⟨hd1, hd2, hd3, -⟩ | ⟨hd1, -, m', e', hd2, -, hd3⟩
    · exact (hd hnan).elim
    · obtain heq : bareCode f c = bareCode f d := by simpa [hc2] using hd2
      rw [hc3, hd3, Fv.eqv, heq]
      cases isNegative f c <;> cases isNegative f d <;> simp [withSign] <;> omega
    · rw [hc3, hd2, Fv.eqv]
      cases isNegative f c <;> cases isNegative f d <;> simp [withSign] <;> omega
  · rcases code_cases hf d with ⟨-, hnan⟩ | ⟨hd1, hd2, hd3, -⟩ | ⟨hd1, -, m', e', hd2, -, hd3⟩
    · exact (hd hnan).elim
    · rw [hc2, hd3, Fv.eqv]
      cases isNegative f c <;> cases isNegative f d <;> simp [withSign] <;> omega
    · rw [hc2, hd2, finite_eqv_iff, withSign_value _ hc3, withSign_value _ hd3]
      simp only [div_left_inj' hunit, Int.cast_inj, withSign_magnitude_eq]

theorem below_dec : ((ffOf f).dec c).below ((ffOf f).dec d) = decide (orderKey f c < orderKey f d) := by
  rw [Fv.below, lt_dec hf hc hd, eqv_dec hf hc hd, isNeg_dec hf hc, isNeg_dec hf hd, valueKey, valueKey, orderKey, orderKey]
  rw [Bool.eq_iff_iff]
  cases isNegative f c <;> cases isNegative f d <;> simp <;> omega

end

/-- The less of two codes. -/
theorem enc_min (hf : f < 5) (hmo : ModeOk mo) (hc : c < 2 ^ codeBits f) (hd : d < 2 ^ codeBits f) :
    (ffOf f).enc mo (((ffOf f).dec c).min ((ffOf f).dec d)) = if numOf f c = .nan ∨ numOf f d = .nan then isNanCode f
      else ⟨if orderKey f d < orderKey f c then d else c, 0⟩ := by
  rw [Fv.min, isNan_dec hf, isNan_dec hf]
  by_cases hnan : numOf f c = .nan ∨ numOf f d = .nan
  · rw [if_pos hnan, if_pos (by simpa using hnan), enc_nan hf]
  · obtain ⟨hcn, hdn⟩ := not_or.mp hnan
    rw [if_neg hnan, if_neg (by simpa using hnan), below_dec hf hdn hcn]
    simp only [decide_eq_true_eq]
    split
    · exact enc_dec hf hmo hd hdn
    · exact enc_dec hf hmo hc hcn

/-- The greater of two codes. -/
theorem enc_max (hf : f < 5) (hmo : ModeOk mo) (hc : c < 2 ^ codeBits f) (hd : d < 2 ^ codeBits f) :
    (ffOf f).enc mo (((ffOf f).dec c).max ((ffOf f).dec d)) = if numOf f c = .nan ∨ numOf f d = .nan then isNanCode f
      else ⟨if orderKey f c < orderKey f d then d else c, 0⟩ := by
  rw [Fv.max, isNan_dec hf, isNan_dec hf]
  by_cases hnan : numOf f c = .nan ∨ numOf f d = .nan
  · rw [if_pos hnan, if_pos (by simpa using hnan), enc_nan hf]
  · obtain ⟨hcn, hdn⟩ := not_or.mp hnan
    rw [if_neg hnan, if_neg (by simpa using hnan), below_dec hf hcn hdn]
    simp only [decide_eq_true_eq]
    split
    · exact enc_dec hf hmo hd hdn
    · exact enc_dec hf hmo hc hcn

end

end Sys2Proof.Numbers

namespace Sys2Proof.Numbers

open Sys2Proof Sys2Proof.Machine Sys2Proof.Claims

/-! ### Exact results, and how far a rounded one can lie (03 R71, R72) -/

section
variable {f : ℕ} {mo : Mode}

/-- Each significand of a format's width, at each exponent, is the magnitude of a code. -/
theorem exists_magnitude (f : ℕ) {s : ℕ} (j : ℕ) (hs : s < 2 ^ (fracBits f + 1)) : ∃ k, magnitude f k = s * 2 ^ j := by
  induction j generalizing s with
  | zero => exact ⟨0 * 2 ^ fracBits f + s, magnitude_grid (by omega) hs.le⟩
  | succ j ih =>
    rcases Nat.lt_or_ge s (2 ^ fracBits f) with h | h
    · obtain ⟨k, hk⟩ := ih (s := 2 * s) (by rw [pow_succ]; omega)
      exact ⟨k, by rw [hk, pow_succ]; ring⟩
    · exact ⟨(j + 1) * 2 ^ fracBits f + s, magnitude_grid (fun _ => h) hs.le⟩

theorem magnitude_signed_exact (hf : f < 5) (hmo : ModeOk mo) {n : Bool} {m k : ℕ} {e D : ℤ} (hk : k ≤ largestOf f) (hmag : magnitude f k = D.natAbs)
    (h : signedValue n m e = D / ((2 ^ unitOf f : ℕ) : ℝ)) :
    ∃ q y, numOf f ((ffOf f).enc mo (.fin n m e)).code = .fin q y (2 ^ unitOf f) ∧ withSign q y = D := by
  have hunit := Nat.two_pow_pos (unitOf f)
  have habs := magnitude_of_signedValue hunit h
  rw [← hmag] at habs
  refine ⟨n, magnitude f k, ?_, ?_⟩
  · rw [enc_exact hf hmo n hk habs]
    exact numOf_signed f (hk.trans_lt (largestOf_lt hf)) n hk
  · rw [hmag]
    by_cases hD : D = 0
    · subst hD; cases n <;> rfl
    · rw [sign_of_signedValue hunit hD h, withSign]
      split
      · next hneg => have := of_decide_eq_true hneg; omega
      · next hneg => have : ¬ D < 0 := by simpa using hneg
                     omega

/-- What is rounded to nearest passes no value that lies on its side. -/
theorem nearest_le {x : ℝ} {v : ℕ → ℝ} {k b : ℕ} (hv : StrictMono v) (h : NearestReal v .rne x k) (hb : x ≤ v b) : k ≤ b := by
  by_contra hkb
  obtain ⟨r, rfl⟩ : ∃ r, k = r + 1 := ⟨k - 1, by omega⟩
  have hlt : v r < v (r + 1) := hv (Nat.lt_succ_self r)
  have hle : v b ≤ v r := hv.monotone (by omega)
  have hmid := h.2.resolve_left (by omega)
  simp only [Nat.add_sub_cancel] at hmid
  split at hmid <;> linarith

theorem le_nearest {x : ℝ} {v : ℕ → ℝ} {k a : ℕ} (hv : StrictMono v) (h : NearestReal v .rne x k) (ha : v a ≤ x) : a ≤ k := by
  by_contra hak
  have hlt : v k < v (k + 1) := hv (Nat.lt_succ_self k)
  have hle : v (k + 1) ≤ v a := hv.monotone (by omega)
  have hmid := h.1
  split at hmid <;> linarith

/-- A positive value rounded to nearest between two powers of two is a code between them. -/
theorem rounded_between {n d a b : ℕ} {r : Rnd} (hd : 0 < d) (hb : b ≤ largestOf f) (hlo : magnitude f a * d ≤ n)
    (hhi : n ≤ magnitude f b * d) (h : Rounded f .rne false (fraction n d) r) : a ≤ r.code ∧ r.code ≤ b ∧ r.fl = 0 := by
  obtain ⟨k, hk, rfl⟩ := h
  have hd' : (0 : ℝ) < d := by exact_mod_cast hd
  have hmono := magnitude_real_strictMono f
  have hnear := (nearest_iff (magnitude_strictMono f).monotone (measures_fraction hd)).mp hk
  have hkb : k ≤ b := nearest_le hmono hnear (by rw [div_le_iff₀ hd']; exact_mod_cast hhi)
  have hak : a ≤ k := le_nearest hmono hnear (by rw [le_div_iff₀ hd']; exact_mod_cast hlo)
  rw [if_pos (hkb.trans hb)]
  exact ⟨hak, hkb, rfl⟩

theorem numOf_of_le (hf : f < 5) {c : ℕ} (hc : c ≤ largestOf f) : numOf f c = .fin false (magnitude f c) (2 ^ unitOf f) :=
  numOf_signed f (hc.trans_lt (largestOf_lt hf)) false hc

end

/-! ### The fused steps of a polynomial (03 R71, R72) -/

theorem f32_means (c : ℕ) : Means (f32 c) (numOf 0 c) := dec_means (f := 0) (by omega) c

theorem fma32_fusedOf (p x a : ℕ) : Fma32 p x a (fma32 p x a .rne).code :=
  ⟨_, fin_fma (f := 0) (by omega) trivial (f32_means p) (f32_means x) (f32_means a)⟩

theorem decimal32_decimal {n k : ℕ} (hfl : (ff32.fin .rne ((Fv.fin false n 0).div (.fin false (10 ^ k) 0))).fl = 0) : Decimal n k (decimal32 n k) := by
  have h := fin_div (f := 0) (mo := .rne) (by omega) trivial (.fin false Nat.one_pos (show (n : ℝ) * (2 : ℝ) ^ (0 : ℤ) = n / (1 : ℕ) by simp))
    (.fin false Nat.one_pos (show ((10 ^ k : ℕ) : ℝ) * (2 : ℝ) ^ (0 : ℤ) = (10 ^ k : ℕ) / (1 : ℕ) by simp))
  have h10 : 10 ^ k ≠ 0 := by positivity
  rw [QuotientOf, if_neg h10, Nat.mul_one, Nat.one_mul] at h
  have hr : ff32.fin .rne ((Fv.fin false n 0).div (.fin false (10 ^ k) 0)) = ⟨decimal32 n k, 0⟩ := by rw [decimal32, ← hfl]
  rwa [show ffOf 0 = ff32 from rfl, hr] at h

/-- A step with a factor of at most 1/2 whose addend is the greater: between which codes it stays. -/
theorem fma32_between {p x c i l a b y : ℕ} {q : Bool} (hx : numOf 0 x = .fin q y (2 ^ unitOf 0)) (hy : 2 * y ≤ 2 ^ unitOf 0) (hpl : p ≤ l)
    (hl : l ≤ largestOf 0) (hc : c ≤ largestOf 0) (hb : b ≤ largestOf 0) (hli : magnitude 0 l ≤ 2 * 2 ^ i) (hlo : magnitude 0 a + 2 ^ i ≤ magnitude 0 c)
    (hhi : magnitude 0 c + 2 ^ i ≤ magnitude 0 b) (hpos : 0 < magnitude 0 a) : a ≤ (fma32 p x c .rne).code ∧ (fma32 p x c .rne).code ≤ b := by
  have hp := hpl.trans hl
  have hpi := ((magnitude_strictMono 0).monotone hpl).trans hli
  obtain ⟨fl, h⟩ := fma32_fusedOf p x c
  generalize (fma32 p x c .rne).code = r at *
  rw [numOf_of_le (by omega) hp, numOf_of_le (by omega) hc, hx, fusedOf_fin_fin _ _ _ _ _ _ (by simp), SumOf] at h
  have hu := Nat.two_pow_pos (unitOf 0)
  rw [RoundedInt] at h
  generalize 2 ^ unitOf 0 = u at *
  generalize magnitude 0 p = P at *
  generalize magnitude 0 c = C at *
  generalize 2 ^ i = I at *
  have hprod : P * y ≤ I * u := by nlinarith
  set N := withSign (false != q) (P * y) * (u : ℤ) + withSign false C * ((u * u : ℕ) : ℤ) with hN
  have hbounds : ((magnitude 0 a * (u * u) : ℕ) : ℤ) ≤ N ∧ N ≤ ((magnitude 0 b * (u * u) : ℕ) : ℤ) := by
    have hlo' : magnitude 0 a * (u * u) + P * y * u ≤ C * (u * u) := by nlinarith
    have hhi' : C * (u * u) + P * y * u ≤ magnitude 0 b * (u * u) := by nlinarith
    zify at hlo' hhi'
    have hnonneg : (0 : ℤ) ≤ P * y * u := by positivity
    rw [hN]
    push_cast
    cases q
    · simp only [withSign, bne_self_eq_false, Bool.false_eq_true, if_false]
      push_cast
      constructor <;> linarith
    · simp only [withSign, Bool.false_bne, if_true, Bool.false_eq_true, if_false]
      push_cast
      constructor <;> linarith
  have hNpos : 0 < N := lt_of_lt_of_le (by positivity) hbounds.1
  rw [if_neg hNpos.ne', show decide (N < 0) = false by simpa using hNpos.le] at h
  have hbetween := rounded_between (a := a) (Nat.mul_pos (Nat.mul_pos hu hu) hu) hb ?_ ?_ h
  · exact ⟨hbetween.1, hbetween.2.1⟩
  · rw [← mul_assoc]
    exact Nat.mul_le_mul_right _ (by omega)
  · rw [← mul_assoc]
    exact Nat.mul_le_mul_right _ (by omega)

end Sys2Proof.Numbers

namespace Sys2Proof.Numbers

open Sys2Proof Sys2Proof.Machine Sys2Proof.Claims

/-! ### VEXP2 (03 R71) -/

section
variable {N r u : ℕ}

/-- What is left of a number beyond its nearest integer: at most a half, and no more than the number. -/
theorem residual_bounds (hu : 0 < u) (h : NearestReal Nat.cast .rne ((N : ℝ) / u) r) :
    (2 * ((N : ℤ) - r * u)).natAbs ≤ u ∧ ((2 * ((N : ℤ) - r * u)).natAbs = u → r % 2 = 0) ∧ ((N : ℤ) - r * u).natAbs ≤ N := by
  have hu' : (0 : ℝ) < u := by exact_mod_cast hu
  obtain ⟨h1, h2⟩ := h
  have hup : 2 * ((N : ℤ) - r * u) ≤ u ∧ (r % 2 ≠ 0 → 2 * ((N : ℤ) - r * u) < u) := by
    have hle : (N : ℝ) / u ≤ (r + (r + 1)) / 2 → 2 * ((N : ℤ) - r * u) ≤ u := by
      rw [div_le_div_iff₀ hu' two_pos]; intro h; rify; linarith
    have hlt : (N : ℝ) / u < (r + (r + 1)) / 2 → 2 * ((N : ℤ) - r * u) < u := by
      rw [div_lt_div_iff₀ hu' two_pos]; intro h; rify; linarith
    push_cast at h1
    split at h1
    · next heven => exact ⟨hle h1, fun hodd => (hodd heven).elim⟩
    · exact ⟨(hlt h1).le, fun _ => hlt h1⟩
  have hdown : -(u : ℤ) ≤ 2 * ((N : ℤ) - r * u) ∧ (r % 2 ≠ 0 → -(u : ℤ) < 2 * ((N : ℤ) - r * u)) := by
    rcases Nat.eq_zero_or_pos r with rfl | hr
    · simp; omega
    · have hpred : ((r - 1 : ℕ) : ℝ) = r - 1 := by rw [Nat.cast_sub hr]; simp
      have hle : ((r : ℝ) - 1 + r) / 2 ≤ (N : ℝ) / u → -(u : ℤ) ≤ 2 * ((N : ℤ) - r * u) := by
        rw [div_le_div_iff₀ two_pos hu']; intro h; rify; linarith
      have hlt : ((r : ℝ) - 1 + r) / 2 < (N : ℝ) / u → -(u : ℤ) < 2 * ((N : ℤ) - r * u) := by
        rw [div_lt_div_iff₀ two_pos hu']; intro h; rify; linarith
      have h3 := h2.resolve_left hr.ne'
      rw [hpred] at h3
      split at h3
      · next heven => exact ⟨hle h3, fun hodd => (hodd heven).elim⟩
      · exact ⟨(hlt h3).le, fun _ => hlt h3⟩
  have hself : r = 0 ∨ u ≤ r * u := by
    rcases Nat.eq_zero_or_pos r with h | h
    · exact .inl h
    · exact .inr (Nat.le_mul_of_pos_left _ h)
  refine ⟨by omega, fun h => by_contra fun hodd => ?_, ?_⟩
  · have := hup.2 hodd; have := hdown.2 hodd; omega
  · rcases hself with rfl | hself
    · simp
    · have hcast : (u : ℤ) ≤ (r * u : ℕ) := by exact_mod_cast hself
      push_cast at hcast
      omega

/-- It is a multiple of the number's last place. -/
theorem residual_grid {s Q U : ℕ} (hN : N = s * 2 ^ Q) (hhalf : (2 * ((N : ℤ) - r * (2 ^ U : ℕ))).natAbs ≤ 2 ^ U)
    (hle : ((N : ℤ) - r * (2 ^ U : ℕ)).natAbs ≤ N) : ∃ t ≤ s, ((N : ℤ) - r * (2 ^ U : ℕ)).natAbs = t * 2 ^ Q := by
  subst hN
  rcases le_total Q U with h | h
  · obtain ⟨v, rfl⟩ := Nat.exists_eq_add_of_le h
    have hfactor : ((s * 2 ^ Q : ℕ) : ℤ) - r * (2 ^ (Q + v) : ℕ) = (s - r * 2 ^ v) * (2 ^ Q : ℕ) := by rw [pow_add]; push_cast; ring
    rw [hfactor, Int.natAbs_mul, Int.natAbs_natCast] at hle ⊢
    exact ⟨_, Nat.le_of_mul_le_mul_right hle (by positivity), rfl⟩
  · obtain ⟨v, rfl⟩ := Nat.exists_eq_add_of_le h
    have hfactor : ((s * 2 ^ (U + v) : ℕ) : ℤ) - r * (2 ^ U : ℕ) = (s * 2 ^ v - r) * (2 ^ U : ℕ) := by rw [pow_add]; push_cast; ring
    rw [hfactor, Int.natAbs_mul, Int.natAbs_mul, Int.natAbs_natCast] at hhalf
    have hpos := Nat.two_pow_pos U
    have hzero : ((s : ℤ) * 2 ^ v - r).natAbs = 0 := by
      by_contra h0
      have := Nat.le_mul_of_pos_left (2 ^ U) (Nat.pos_of_ne_zero h0)
      rw [← mul_assoc, show (2 : ℤ).natAbs = 2 from rfl, mul_assoc] at hhalf
      omega
    rw [hfactor, Int.natAbs_mul, hzero]
    exact ⟨0, Nat.zero_le _, by simp⟩

theorem withSign_sub (n : Bool) (a b c : ℕ) : (withSign n a - withSign n b * (c : ℤ)).natAbs = ((a : ℤ) - b * c).natAbs := by
  cases n <;> simp only [withSign, if_true, if_false, Bool.false_eq_true]
  rw [← Int.natAbs_neg]; congr 1; ring

end

/-- The integer nearest a finite FP32 value, and the exact code of what is left. -/
theorem exp2_reduce {c m : ℕ} {e : ℤ} (hc : bareCode 0 c ≤ largestOf 0) (hval : (m : ℝ) * (2 : ℝ) ^ e = magnitude 0 (bareCode 0 c) / ((2 ^ unitOf 0 : ℕ) : ℝ)) :
    let n := isNegative 0 c
    let k := withSign n (roundInt .rne m e)
    let d := withSign n (magnitude 0 (bareCode 0 c)) - k * 2 ^ 149
    (2 * d).natAbs ≤ 2 ^ 149 ∧ ((2 * d).natAbs = 2 ^ 149 → k % 2 = 0) ∧
      ∃ q y, numOf 0 (ff32.fin .rne ((Fv.fin n m e).add (Fv.ofInt (-k)))).code = .fin q y (2 ^ 149) ∧ withSign q y = d := by
  intro n k d
  have hunit : 0 < 2 ^ unitOf 0 := Nat.two_pow_pos _
  have hnear : NearestReal Nat.cast .rne ((magnitude 0 (bareCode 0 c) : ℝ) / ((2 ^ unitOf 0 : ℕ) : ℝ)) (roundInt .rne m e) := by
    rw [← hval]
    refine nearestReal_roundInt (mo := .rne) trivial (agrees_of_eq ?_)
    rw [zpow_toNat]; push_cast; ring
  obtain ⟨hhalf, htie, hle⟩ := residual_bounds hunit hnear
  obtain ⟨Q, s, hcode, hlo, hs⟩ := code_split 0 (bareCode 0 c)
  have hN : magnitude 0 (bareCode 0 c) = s * 2 ^ Q := by rw [hcode]; exact magnitude_grid hlo hs.le
  obtain ⟨t, hts, ht⟩ := residual_grid hN hhalf hle
  have hd : d.natAbs = t * 2 ^ Q := by rw [← ht, ← withSign_sub n]; rfl
  have h2d : (2 * d).natAbs = (2 * ((magnitude 0 (bareCode 0 c) : ℤ) - roundInt .rne m e * (2 ^ unitOf 0 : ℕ))).natAbs := by
    rw [Int.natAbs_mul, Int.natAbs_mul, ← withSign_sub n]; rfl
  refine ⟨by rw [h2d]; exact hhalf, fun h => ?_, ?_⟩
  · have heven := htie (h2d ▸ h)
    simp only [k, withSign]
    split <;> omega
  · obtain ⟨k', hk'⟩ := exists_magnitude 0 Q (hts.trans_lt hs)
    have hk'le : k' ≤ largestOf 0 := by
      refine ((magnitude_strictMono 0).le_iff_le.mp ?_).trans hc
      rw [hk', hN]
      exact Nat.mul_le_mul_right _ hts
    obtain ⟨p, s', ke, hadd, hsum⟩ := add_finite n m e (decide (-k < 0)) (-k).natAbs 0
    rw [Fv.ofInt, hadd, fin_exact]
    refine magnitude_signed_exact (f := 0) (mo := .rne) (by omega) trivial hk'le (hk'.trans hd.symm) ?_
    rw [hsum, signedValue_int, withSign_value n hval]
    have : ((2 ^ unitOf 0 : ℕ) : ℝ) ≠ 0 := by positivity
    rw [div_add' _ _ _ this]
    congr 1
    simp only [d]
    push_cast
    rw [zpow_zero, show unitOf 0 = 149 from rfl]
    ring

/-- The polynomial of VEXP2. -/
def exp2Poly (x : ℕ) : ℕ :=
  [decimal32 133335581 11, decimal32 961812911 11, decimal32 555041086 10, decimal32 240226507 9, decimal32 693147182 9, 0x3F800000].foldl
    (fun p a => (fma32 p x a .rne).code) (decimal32 154035304 12)

theorem horner_foldl (x : ℕ) (l : List ℕ) (p : ℕ) : Horner x p l (l.foldl (fun p a => (fma32 p x a .rne).code) p) := by
  induction l generalizing p with
  | nil => exact rfl
  | cons a l ih => exact ⟨_, fma32_fusedOf p x a, ih _⟩

/-- It is a finite positive number. -/
theorem exp2Poly_le {x y : ℕ} {q : Bool} (hx : numOf 0 x = .fin q y (2 ^ unitOf 0)) (hy : 2 * y ≤ 2 ^ unitOf 0) : exp2Poly x ≤ largestOf 0 := by
  have h0 : decimal32 154035304 12 ≤ 0x39800000 := by decide
  have h1 := fma32_between (i := 136) (c := decimal32 133335581 11) (a := 0x3A800000) (b := 0x3B000000) hx hy h0
    (by decide) (by decide) (by decide) (by decide) (by decide) (by decide) (by decide)
  have h2 := fma32_between (i := 139) (c := decimal32 961812911 11) (a := 0x3C000000) (b := 0x3C800000) hx hy h1.2
    (by decide) (by decide) (by decide) (by decide) (by decide) (by decide) (by decide)
  have h3 := fma32_between (i := 142) (c := decimal32 555041086 10) (a := 0x3D000000) (b := 0x3E000000) hx hy h2.2
    (by decide) (by decide) (by decide) (by decide) (by decide) (by decide) (by decide)
  have h4 := fma32_between (i := 145) (c := decimal32 240226507 9) (a := 0x3E000000) (b := 0x3F000000) hx hy h3.2
    (by decide) (by decide) (by decide) (by decide) (by decide) (by decide) (by decide)
  have h5 := fma32_between (i := 147) (c := decimal32 693147182 9) (a := 0x3E800000) (b := 0x3F800000) hx hy h4.2
    (by decide) (by decide) (by decide) (by decide) (by decide) (by decide) (by decide)
  have h6 := fma32_between (i := 148) (c := 0x3F800000) (a := 0x3F000000) (b := 0x40000000) hx hy h5.2
    (by decide) (by decide) (by decide) (by decide) (by decide) (by decide) (by decide)
  exact h6.2.trans (by decide)

/-- A finite value of FP32 below a whole number. -/
theorem finite_lt_int {m c : ℕ} {e : ℤ} (n : Bool) (i : ℤ) (hval : (m : ℝ) * (2 : ℝ) ^ e = magnitude 0 c / ((2 ^ unitOf 0 : ℕ) : ℝ)) :
    (Fv.fin n m e).lt (Fv.ofInt i) = true ↔ withSign n (magnitude 0 c) < i * 2 ^ 149 := by
  have hunit : (0 : ℝ) < ((2 ^ unitOf 0 : ℕ) : ℝ) := by positivity
  rw [Fv.ofInt, finite_lt_iff, signedValue_int, withSign_value n hval, zpow_zero, mul_one, decide_eq_true_eq, div_lt_iff₀ hunit]
  exact_mod_cast Iff.rfl

theorem exp2Lane_nan {c : ℕ} (m : Mode) (h : f32 c = .nan) : exp2Lane c m = isNanCode 0 := by rw [exp2Lane, h]; rfl

theorem exp2Lane_inf {c : ℕ} {n : Bool} (m : Mode) (h : f32 c = .inf n) : exp2Lane c m = if n then ⟨0, 0⟩ else infiniteCode 0 false := by
  rw [exp2Lane, h]; cases n <;> rfl

theorem exp2Lane_fin {c mm : ℕ} {e : ℤ} {n : Bool} (m : Mode) (h : f32 c = .fin n mm e) : exp2Lane c m =
    if ¬ (Fv.fin n mm e).lt (Fv.ofInt 128) = true then ⟨if m = .rtz then 0x7F7FFFFF else 0x7F800000, 2⟩
    else if (Fv.fin n mm e).lt (Fv.ofInt (-151)) = true then ⟨0, 0⟩
    else scale32 (exp2Poly (ff32.fin .rne ((Fv.fin n mm e).add (Fv.ofInt (-withSign n (roundInt .rne mm e))))).code) (withSign n (roundInt .rne mm e)) m := by
  rw [exp2Lane, h]
  simp only [Bool.not_eq_true', Bool.not_eq_true]
  rfl

/-- A finite positive number times a power of two, rounded once. -/
theorem scale32_rounded {m : Mode} (hm : ModeOk m) {a : ℕ} (ha : a ≤ largestOf 0) (k : ℤ) :
    Rounded 0 m false (fraction (magnitude 0 a * 2 ^ k.toNat) (2 ^ (-k).toNat)) (scale32 a k m) := by
  obtain ⟨mm, e, hdec, -, hval⟩ := dec_of_finite (f := 0) (c := a) (by omega) (by rwa [bareCode_of_le (by omega) ha])
  have hneg : isNegative 0 a = false := by simpa [signed] using isNegative_signed 0 (ha.trans_lt (largestOf_lt (by omega))) false
  rw [bareCode_of_le (by omega) ha] at hval
  rw [hneg] at hdec
  rw [scale32, f32, show ff32 = ffOf 0 from rfl, hdec]
  refine enc_fin_rounded (x := magnitude 0 a / ((2 ^ unitOf 0 : ℕ) : ℝ) * (2 : ℝ) ^ k) (by omega) hm (.inl ?_) (fun h0 => ?_) ?_
  · rw [← hval, zpow_add₀ (by norm_num), mul_assoc]
  · rw [← hval, h0]; simp
  · have hmeasure := measures_fraction (n := magnitude 0 a * 2 ^ k.toNat) (Nat.two_pow_pos (-k).toNat)
    have hvalue : magnitude 0 a / ((2 ^ unitOf 0 : ℕ) : ℝ) * (2 : ℝ) ^ k * 2 ^ unitOf 0 =
        ((magnitude 0 a * 2 ^ k.toNat : ℕ) : ℝ) / ((2 ^ (-k).toNat : ℕ) : ℝ) := by
      rw [zpow_toNat]; push_cast; field_simp
    rwa [hvalue]

theorem exp2Lane_exp2Of {m : Mode} (hm : ModeOk m) (c : ℕ) : Exp2Of m c (exp2Lane c m) := by
  rcases code_cases (f := 0) (by omega) c with ⟨hdec, hnum⟩ | ⟨-, -, hdec, hnum⟩ | ⟨hc, hnum, mm, e, hdec, -, hval⟩
  · rw [Exp2Of, hnum]
    exact exp2Lane_nan m hdec
  · rw [Exp2Of, hnum]
    exact exp2Lane_inf m hdec
  · rw [Exp2Of, hnum, exp2Lane_fin m hdec]
    have hbig := (finite_lt_int (isNegative 0 c) 128 hval).not
    have hsmall := finite_lt_int (isNegative 0 c) (-151) hval
    rw [not_lt] at hbig
    rw [neg_mul] at hsmall
    obtain ⟨hhalf, htie, q, y, hx, hy⟩ := exp2_reduce hc hval
    dsimp only
    split
    · next h => rw [if_pos (hbig.mpr h)]
    · next h =>
      rw [if_neg (hbig.not.mpr h)]
      split
      · next h' => rw [if_pos (hsmall.mpr h')]
      · next h' =>
        rw [if_neg (hsmall.not.mpr h')]
        have hhalf' : 2 * y ≤ 2 ^ unitOf 0 := by
          rw [← hy, Int.natAbs_mul, withSign] at hhalf
          refine le_trans (le_of_eq ?_) hhalf
          cases q <;> simp
        have hpoly := exp2Poly_le hx hhalf'
        exact ⟨_, _, _, _, _, _, _, _, _, hhalf, htie, ⟨q, y, hx, hy⟩, decimal32_decimal (by decide), decimal32_decimal (by decide),
          decimal32_decimal (by decide), decimal32_decimal (by decide), decimal32_decimal (by decide), decimal32_decimal (by decide),
          horner_foldl _ _ _, bareCode_of_le (by omega) hpoly, hpoly, scale32_rounded hm hpoly _⟩

end Sys2Proof.Numbers

namespace Sys2Proof.Numbers

open Sys2Proof Sys2Proof.Machine Sys2Proof.Claims

/-! ### VLOG2 (03 R72) -/

theorem fadd32_add32 {m : Mode} (hm : ModeOk m) (x y : ℕ) : SumOf 0 m (numOf 0 x) (numOf 0 y) (fadd32 x y m) :=
  fin_add (f := 0) (by omega) hm (f32_means x) (f32_means y)
theorem fsub32_sub32 (x y : ℕ) : Sub32 x y (fsub32 x y .rne).code :=
  ⟨_, fin_add (f := 0) (by omega) trivial (f32_means x) (means_neg (f32_means y))⟩
theorem fmul32_mul32 (x y : ℕ) : Mul32 x y (fmul32 x y .rne).code := ⟨_, fin_mul (f := 0) (by omega) trivial (f32_means x) (f32_means y)⟩
theorem fdiv32_div32 (x y : ℕ) : Div32 x y (fdiv32 x y .rne).code := ⟨_, fin_div (f := 0) (by omega) trivial (f32_means x) (f32_means y)⟩

/-- The code of the significand of a positive number, from 1 to below 2. -/
theorem significand_code {mm : ℕ} (hmm : mm ≠ 0) (hwide : mm < 2 ^ (fracBits 0 + 1)) : ∃ g, 0x3F800000 ≤ g ∧ g < 0x40000000 ∧
    (ff32.enc .rne (.fin false mm (-(Nat.log2 mm : ℤ)))).code = g ∧ magnitude 0 g = mm * 2 ^ (149 - Nat.log2 mm) ∧ Nat.log2 mm ≤ 23 := by
  have hlo : 2 ^ Nat.log2 mm ≤ mm := Nat.log2_self_le hmm
  have hhi : mm < 2 ^ (Nat.log2 mm + 1) := Nat.lt_log2_self
  have hlog : Nat.log2 mm ≤ 23 := Nat.lt_succ_iff.mp ((Nat.log2_lt hmm).mpr hwide)
  obtain ⟨g, hg⟩ := exists_magnitude 0 (149 - Nat.log2 mm) hwide
  have hmono := magnitude_strictMono 0
  have hone : magnitude 0 0x3F800000 = 2 ^ Nat.log2 mm * 2 ^ (149 - Nat.log2 mm) := by
    rw [← pow_add, Nat.add_sub_cancel' (by omega)]; decide
  have htwo : magnitude 0 0x40000000 = 2 ^ (Nat.log2 mm + 1) * 2 ^ (149 - Nat.log2 mm) := by
    rw [← pow_add, show Nat.log2 mm + 1 + (149 - Nat.log2 mm) = 150 by omega]; decide
  have hglo : 0x3F800000 ≤ g := by
    rw [← hmono.le_iff_le, hg, hone]
    exact Nat.mul_le_mul_right _ hlo
  have hghi : g < 0x40000000 := by
    rw [← hmono.lt_iff_lt, hg, htwo]
    exact Nat.mul_lt_mul_of_pos_right hhi (by positivity)
  refine ⟨g, hglo, hghi, ?_, hg, hlog⟩
  have hlargest : g ≤ largestOf 0 := hghi.le.trans (by decide)
  have henc := enc_exact (f := 0) (mo := .rne) (m := mm) (e := -(Nat.log2 mm : ℤ)) (by omega) trivial false hlargest ?_
  · rw [show ff32 = ffOf 0 from rfl, henc]; rfl
  · rw [hg, zpow_neg, zpow_natCast, eq_div_iff (by positivity), show unitOf 0 = Nat.log2 mm + (149 - Nat.log2 mm) by rw [show unitOf 0 = 149 from rfl]; omega]
    push_cast
    rw [pow_add]
    field_simp

/-- The code of a small integer. -/
theorem integer_code {i : ℤ} (hi : i.natAbs < 2 ^ (fracBits 0 + 1)) : ∃ q y, numOf 0 (ff32.enc .rne (Fv.ofInt i)).code = .fin q y (2 ^ 149) ∧
    withSign q y = i * 2 ^ 149 := by
  obtain ⟨k, hk⟩ := exists_magnitude 0 149 hi
  have hlargest : k ≤ largestOf 0 := by
    rw [← (magnitude_strictMono 0).le_iff_le, hk]
    refine (Nat.mul_le_mul_right _ hi.le).trans ?_
    decide
  refine magnitude_signed_exact (f := 0) (mo := .rne) (by omega) trivial hlargest (by rw [hk, Int.natAbs_mul]; rfl) ?_
  rw [signedValue_int, show unitOf 0 = 149 from rfl]
  push_cast
  field_simp

/-- The polynomial of VLOG2. -/
def log2Poly (z : ℕ) : ℕ :=
  [decimal32 412198583 9, decimal32 577078016 9, decimal32 961796694 9, decimal32 288539008 8].foldl (fun p a => (fma32 p z a .rne).code) (decimal32 320598898 9)

theorem log2Lane_nan {c : ℕ} (m : Mode) (h : f32 c = .nan) : log2Lane c m = isNanCode 0 := by rw [log2Lane, h]; rfl

theorem log2Lane_inf {c : ℕ} {n : Bool} (m : Mode) (h : f32 c = .inf n) : log2Lane c m = if n then invalidNan 0 else infiniteCode 0 false := by
  rw [log2Lane, h]; cases n <;> rfl

theorem log2Lane_zero {c : ℕ} {e : ℤ} {n : Bool} (m : Mode) (h : f32 c = .fin n 0 e) : log2Lane c m = infiniteCode 0 true := by
  rw [log2Lane, h]; rfl

theorem log2Lane_negative {c mm : ℕ} {e : ℤ} (m : Mode) (hmm : mm ≠ 0) (h : f32 c = .fin true mm e) : log2Lane c m = invalidNan 0 := by
  rw [log2Lane, h]
  simp only [if_neg hmm]
  rfl

theorem log2Lane_positive {c mm g : ℕ} {e : ℤ} (m : Mode) (hmm : mm ≠ 0) (h : f32 c = .fin false mm e)
    (hg : (ff32.enc .rne (.fin false mm (-(Nat.log2 mm : ℤ)))).code = g) :
    let g' := if 0x3FB504F3 < g then g - 2 ^ 23 else g
    let e' := e + Nat.log2 mm + if 0x3FB504F3 < g then 1 else 0
    let t := (fdiv32 (fsub32 g' 0x3F800000 .rne).code (fadd32 g' 0x3F800000 .rne).code .rne).code
    log2Lane c m = fadd32 (ff32.enc .rne (Fv.ofInt e')).code (fmul32 (log2Poly (fmul32 t t .rne).code) t .rne).code m := by
  rw [log2Lane, h]
  simp only [if_neg hmm, hg, decide_eq_true_eq, gt_iff_lt, Bool.false_eq_true, if_false]
  rfl

/-- The exponent of an FP32 number is small. -/
theorem exponent_bounds {c m : ℕ} {e : ℤ} (hc : c ≤ largestOf 0) (hm : m ≠ 0) (hwide : m < 2 ^ (fracBits 0 + 1))
    (hval : (m : ℝ) * (2 : ℝ) ^ e = magnitude 0 c / ((2 ^ unitOf 0 : ℕ) : ℝ)) : -173 < e ∧ e < 128 := by
  have hcode : magnitude 0 c ≠ 0 := (significand_eq_zero_iff (Nat.two_pow_pos _) hval).not.mp hm
  have hm1 : (1 : ℝ) ≤ m := by exact_mod_cast Nat.pos_of_ne_zero hm
  have hm2 : (m : ℝ) < (2 : ℝ) ^ (24 : ℤ) := by exact_mod_cast hwide
  have hmag1 : (1 : ℝ) ≤ magnitude 0 c := by exact_mod_cast Nat.pos_of_ne_zero hcode
  have hmag2 : (magnitude 0 c : ℝ) < (2 : ℝ) ^ (24 : ℤ) * (2 : ℝ) ^ (253 : ℤ) := by
    have hle : magnitude 0 c ≤ magnitude 0 (largestOf 0) := (magnitude_strictMono 0).monotone hc
    exact_mod_cast hle.trans_lt (show magnitude 0 (largestOf 0) < 2 ^ 24 * 2 ^ 253 by decide)
  have hunit : ((2 ^ unitOf 0 : ℕ) : ℝ) = (2 : ℝ) ^ (149 : ℤ) := by norm_num [unitOf, biasOf, fracBits]
  rw [hunit, eq_div_iff (two_zpow_pos _).ne'] at hval
  have hpos := two_zpow_pos e
  have hpos' := two_zpow_pos 149
  constructor
  · have : (2 : ℝ) ^ (0 : ℤ) < (2 : ℝ) ^ (24 + e + 149) := by
      rw [zpow_add₀ (by norm_num), zpow_add₀ (by norm_num), zpow_zero]
      calc (1 : ℝ) ≤ m * (2 : ℝ) ^ e * (2 : ℝ) ^ (149 : ℤ) := by rw [hval]; exact hmag1
        _ < (2 : ℝ) ^ (24 : ℤ) * (2 : ℝ) ^ e * (2 : ℝ) ^ (149 : ℤ) := by gcongr
    have := (zpow_lt_zpow_iff_right₀ (by norm_num)).mp this
    omega
  · have : (2 : ℝ) ^ (e + 149) < (2 : ℝ) ^ ((24 : ℤ) + 253) := by
      rw [zpow_add₀ (by norm_num), zpow_add₀ (by norm_num)]
      calc (2 : ℝ) ^ e * (2 : ℝ) ^ (149 : ℤ) ≤ m * ((2 : ℝ) ^ e * (2 : ℝ) ^ (149 : ℤ)) := le_mul_of_one_le_left (by positivity) hm1
        _ = magnitude 0 c := by rw [← mul_assoc, hval]
        _ < _ := hmag2
    have := (zpow_lt_zpow_iff_right₀ (by norm_num)).mp this
    omega

/-- A number is its significand times a power of two. -/
theorem magnitude_split {c m g : ℕ} {e : ℤ} (hlog : Nat.log2 m ≤ 23) (hval : (m : ℝ) * (2 : ℝ) ^ e = magnitude 0 c / ((2 ^ unitOf 0 : ℕ) : ℝ))
    (hg : magnitude 0 g = m * 2 ^ (149 - Nat.log2 m)) :
    magnitude 0 c * 2 ^ (-(e + Nat.log2 m)).toNat = magnitude 0 g * 2 ^ (e + Nat.log2 m).toNat := by
  have hunit : ((2 ^ unitOf 0 : ℕ) : ℝ) = (2 : ℝ) ^ Nat.log2 m * 2 ^ (149 - Nat.log2 m) := by
    rw [← pow_add, Nat.add_sub_cancel' (by omega)]; norm_num [unitOf, biasOf, fracBits]
  have hc : (magnitude 0 c : ℝ) = magnitude 0 g * (2 : ℝ) ^ (e + Nat.log2 m) := by
    rw [eq_div_iff (by positivity), hunit] at hval
    rw [← hval, hg, zpow_add₀ (by norm_num), zpow_natCast]
    push_cast
    ring
  rw [zpow_toNat, mul_div_assoc', eq_div_iff (by positivity)] at hc
  exact_mod_cast hc

theorem log2Lane_log2Of {m : Mode} (hm : ModeOk m) (c : ℕ) : Log2Of m c (log2Lane c m) := by
  rcases code_cases (f := 0) (by omega) c with ⟨hdec, hnum⟩ | ⟨-, -, hdec, hnum⟩ | ⟨hc, hnum, mm, e, hdec, hwide, hval⟩
  · rw [Log2Of, hnum]
    exact log2Lane_nan m hdec
  · rw [Log2Of, hnum]
    exact log2Lane_inf m hdec
  · have hzero := significand_eq_zero_iff (Nat.two_pow_pos (unitOf 0)) hval
    rw [Log2Of, hnum]
    dsimp only
    split
    · next h0 =>
      obtain rfl := hzero.mpr h0
      exact log2Lane_zero m hdec
    · next h0 =>
      have hmm := hzero.not.mpr h0
      split
      · next hneg =>
        rw [hneg] at hdec
        exact log2Lane_negative m hmm hdec
      · next hneg =>
        rw [Bool.eq_false_iff.mpr hneg] at hdec
        obtain ⟨g, hglo, hghi, hgcode, hg, hlog⟩ := significand_code hmm hwide
        obtain ⟨helo, hehi⟩ := exponent_bounds hc hmm hwide hval
        rw [log2Lane_positive m hmm hdec hgcode]
        refine ⟨e + Nat.log2 mm, _, g, _, _, _, _, _, _, _, _, _, _, _, _, _, hglo, hghi, magnitude_split hlog hval hg, ?_, fsub32_sub32 _ _,
          ⟨_, fadd32_add32 (m := .rne) trivial _ _⟩, fdiv32_div32 _ _, fmul32_mul32 _ _, decimal32_decimal (by decide), decimal32_decimal (by decide), decimal32_decimal (by decide),
          decimal32_decimal (by decide), decimal32_decimal (by decide), horner_foldl _ _ _, integer_code ?_, fmul32_mul32 _ _, fadd32_add32 hm _ _⟩
        · split
          · exact ⟨rfl, rfl⟩
          · exact ⟨rfl, add_zero _⟩
        · rw [show 2 ^ (fracBits 0 + 1) = 16777216 from rfl]
          split <;> omega

/-! ### The float lanes that follow a table (03 R60, R71, R72; 06 R156) -/

section
variable {f c : ℕ}

theorem numOf_signed_eq_nan (f : ℕ) (n : Bool) (c : ℕ) : numOf f (signed f n (bareCode f c)) = .nan ↔ numOf f c = .nan := by
  rw [numOf, numOf, bareCode_signed f (bareCode_lt f c)]
  split_ifs <;> simp

theorem dec_eq_nan (hf : f < 5) (h : numOf f c = .nan) : (ffOf f).dec c = .nan := by
  have hmeans := dec_means hf c
  rw [h] at hmeans
  generalize (ffOf f).dec c = x at *
  cases hmeans; rfl

theorem abs_eq (x : Fv) : x.abs = if x.isNeg = false then x else x.neg := by
  cases x with
  | nan => rfl
  | inf n => cases n <;> rfl
  | fin n m e => cases n <;> rfl

/-- A code with a sign of its own. -/
theorem enc_dec_signed (hf : f < 5) {mo : Mode} (hmo : ModeOk mo) (h : numOf f c ≠ .nan) (n : Bool) :
    (ffOf f).enc mo (if isNegative f c = n then (ffOf f).dec c else ((ffOf f).dec c).neg) = ⟨signed f n (bareCode f c), 0⟩ := by
  rw [← dec_signed hf, enc_dec hf hmo (signed_lt f (bareCode_lt f c) n) ((numOf_signed_eq_nan f n c).not.mpr h)]

theorem enc_abs (hf : f < 5) {mo : Mode} (hmo : ModeOk mo) : (ffOf f).enc mo ((ffOf f).dec c).abs =
    if numOf f c = .nan then isNanCode f else ⟨bareCode f c, 0⟩ := by
  split
  · next h => rw [dec_eq_nan hf h]; exact enc_nan hf
  · next h => rw [abs_eq, isNeg_dec hf h, enc_dec_signed hf hmo h]; rfl

theorem enc_neg (hf : f < 5) {mo : Mode} (hmo : ModeOk mo) : (ffOf f).enc mo ((ffOf f).dec c).neg =
    if numOf f c = .nan then isNanCode f else ⟨if isNegative f c then bareCode f c else 2 ^ (codeBits f - 1) + bareCode f c, 0⟩ := by
  split
  · next h => rw [dec_eq_nan hf h]; exact enc_nan hf
  · next h =>
    have hturn := enc_dec_signed hf hmo h (!isNegative f c)
    rw [if_neg (by simp)] at hturn
    rw [hturn, signed]
    cases isNegative f c <;> rfl

end

theorem infiniteCode_lt (n : Bool) : (infiniteCode 0 n).code < 2 ^ 32 := by cases n <;> decide

theorem exp2Lane_code_lt (c : ℕ) (m : Mode) : (exp2Lane c m).code < 2 ^ 32 := by
  rcases code_cases (f := 0) (by omega) c with ⟨hdec, -⟩ | ⟨-, -, hdec, -⟩ | ⟨-, -, mm, e, hdec, -⟩
  · rw [exp2Lane_nan m hdec]; decide
  · rw [exp2Lane_inf m hdec]
    split
    · decide
    · exact infiniteCode_lt _
  · rw [exp2Lane_fin m hdec]
    split
    · dsimp only; split <;> decide
    · split
      · decide
      · exact enc_code_lt (f := 0) (by omega) _ _

theorem log2Lane_code_lt (c : ℕ) (m : Mode) : (log2Lane c m).code < 2 ^ 32 := by
  rcases code_cases (f := 0) (by omega) c with ⟨hdec, -⟩ | ⟨-, -, hdec, -⟩ | ⟨-, -, mm, e, hdec, -⟩
  · rw [log2Lane_nan m hdec]; decide
  · rw [log2Lane_inf m hdec]
    split
    · decide
    · exact infiniteCode_lt _
  · by_cases hmm : mm = 0
    · subst hmm
      rw [log2Lane_zero m hdec]; exact infiniteCode_lt _
    · cases hn : isNegative 0 c <;> rw [hn] at hdec
      · rw [log2Lane_positive m hmm hdec rfl]; exact enc_code_lt (f := 0) (by omega) _ _
      · rw [log2Lane_negative m hmm hdec]; decide

theorem floatLanesFollowTheirTables : Claims.FloatLanesFollowTheirTables := by
  intro v hf hl
  have hf' := isFloat_lt hf
  have hmode (i : ℕ) := drawnMode_ok v.rnd i
  have hlane (r : Row) (i : ℕ) : laneOf r v.w i < 2 ^ codeBits v.f := by
    rw [codeBits_eq_fmtBits (by omega)]; exact laneOf_lt _ _ _
  refine ⟨fun h0 => ?_, ?_, ?_, ?_, ?_⟩
  · have hw : v.l * 32 ≤ 2048 := by rwa [VIn.w, h0] at hl
    refine ⟨lanesAre_lanes hw (fun i _ => exp2Lane_code_lt _ _) (fun i _ => ?_), lanesAre_lanes hw (fun i _ => log2Lane_code_lt _ _) (fun i _ => ?_)⟩
    · rw [VIn.mode, mode_eq_drawnMode]; exact exp2Lane_exp2Of (hmode i) _
    · rw [VIn.mode, mode_eq_drawnMode]; exact log2Lane_log2Of (hmode i) _
  all_goals
    simp only [vMinF, vMaxF, vAbsF, vNegF, vArith, vUnary, if_pos hf]
    refine lanesAre_rounded hf hl fun i => ?_
    rw [fin_exact]
  · exact enc_min (by omega) (hmode i) (hlane v.a i) (hlane v.b i)
  · exact enc_max (by omega) (hmode i) (hlane v.a i) (hlane v.b i)
  · exact enc_abs (by omega) (hmode i)
  · exact enc_neg (by omega) (hmode i)

end Sys2Proof.Numbers

namespace Sys2Proof.Numbers

open Sys2Proof Sys2Proof.Machine Sys2Proof.Claims

/-! ### Lanes as they are (03 R77; 06 R157–R159, R164, R165, R167) -/

/-- A lane keeps the low bits of its result. -/
theorem lanesAre_lanes_low {n w : ℕ} (h : n * w ≤ 2048) {g : ℕ → Rnd} {P : ℕ → Rnd → Prop} (hP : ∀ i < n, P i ⟨(g i).code % 2 ^ w, (g i).fl⟩) :
    LanesAre (lanes n w g) n w P := by
  refine ⟨fun i => ⟨(g i).code % 2 ^ w, (g i).fl⟩, fun i hi => ⟨?_, hP i hi⟩, fun j => ?_, fun i hi _ => ?_⟩
  · rw [laneOf_lanes h, if_pos hi]
  · simp [lanes, testBit_foldl_or]
  · rw [laneOf_lanes h, if_neg (Nat.not_lt.mpr hi)]

theorem lanesAre_exact {n w : ℕ} (h : n * w ≤ 2048) {g g' : ℕ → ℕ} (hg : ∀ i < n, g i % 2 ^ w = g' i) :
    LanesAre (lanes n w (fun i => exactCode (g i))) n w (fun i r => r = ⟨g' i, 0⟩) :=
  lanesAre_lanes_low h fun i hi => by rw [exactCode, hg i hi]

/-! VCMP -/

section
variable {f x y : ℕ}

theorem lt_nan (hf : f < 5) (h : numOf f x = .nan ∨ numOf f y = .nan) : ((ffOf f).dec x).lt ((ffOf f).dec y) = false := by
  rcases h with h | h
  · rw [dec_eq_nan hf h, Fv.lt]
  · rw [dec_eq_nan hf h]; cases (ffOf f).dec x <;> rfl

theorem eqv_nan (hf : f < 5) (h : numOf f x = .nan ∨ numOf f y = .nan) : ((ffOf f).dec x).eqv ((ffOf f).dec y) = false := by
  rcases h with h | h
  · rw [dec_eq_nan hf h, Fv.eqv]
  · rw [dec_eq_nan hf h]; cases (ffOf f).dec x <;> rfl

theorem vCond_float (hf : isFloat f = true) (c : BitVec 2) : vCond c f x y = true ↔ Compares c f x y := by
  have hf' : f < 5 := by have := isFloat_lt hf; omega
  rw [vCond, if_pos hf, Compares]
  by_cases hnan : numOf f x = .nan ∨ numOf f y = .nan
  · simp only [lt_nan hf' hnan, eqv_nan hf' hnan, hf, hnan]
    obtain rfl | rfl | rfl | rfl : c = 0 ∨ c = 1 ∨ c = 2 ∨ c = 3 := by revert c; decide
    all_goals simp
  · obtain ⟨hx, hy⟩ := not_or.mp hnan
    simp only [lt_dec hf' hx hy, eqv_dec hf' hx hy, hf, hnan]
    obtain rfl | rfl | rfl | rfl : c = 0 ∨ c = 1 ∨ c = 2 ∨ c = 3 := by revert c; decide
    all_goals simp [le_iff_lt_or_eq]

theorem vCond_int (hf : isInt f = true) (c : BitVec 2) : vCond c f x y = true ↔ Compares c f x y := by
  have hfloat := isInt_not_isFloat hf
  rw [vCond, Compares, hfloat]
  obtain rfl | rfl | rfl | rfl : c = 0 ∨ c = 1 ∨ c = 2 ∨ c = 3 := by revert c; decide
  all_goals simp

theorem vCond_iff (hf : isFloat f = true ∨ isInt f = true) (c : BitVec 2) : vCond c f x y = true ↔ Compares c f x y :=
  hf.elim (fun h => vCond_float h c) (fun h => vCond_int h c)

end

/-! The shifts and VQABS -/

/-- An arithmetic shift by more than the width leaves the sign. -/
theorem intOf_shift {f c : ℕ} (h : isInt f = true) (hc : c < 2 ^ fmtBits f) (k : ℕ) :
    intOf f c >>> min k (fmtBits f) = intOf f c / 2 ^ k := by
  rw [Int.shiftRight_eq_div_pow]
  rcases le_total k (fmtBits f) with hk | hk
  · rw [min_eq_left hk]; push_cast; rfl
  · rw [min_eq_right hk]
    have hrange := intOf_range h hc
    have hw : intMaxOf f < 2 ^ fmtBits f ∧ -2 ^ fmtBits f ≤ intMinOf f := by
      rcases isInt_cases h with rfl | rfl | rfl | rfl <;> decide
    have hpow : (2 : ℤ) ^ fmtBits f ≤ 2 ^ k := pow_le_pow_right₀ (by norm_num) hk
    have hpos : (0 : ℤ) < 2 ^ fmtBits f := by positivity
    push_cast
    rcases le_or_gt 0 (intOf f c) with h0 | h0
    · rw [Int.ediv_eq_zero_of_lt h0 (by omega), Int.ediv_eq_zero_of_lt h0 (by omega)]
    · rw [Int.ediv_eq_neg_one_of_neg_of_le h0 (by omega), Int.ediv_eq_neg_one_of_neg_of_le h0 (by omega)]

/-- The magnitude of an integer, saturated. -/
theorem clampTo_abs {f c : ℕ} (h : isInt f = true) : clampTo f (intOf f c).natAbs flagSAT =
    if ((intOf f c).natAbs : ℤ) ≤ intMaxOf f then ⟨((intOf f c).natAbs : ℤ).toNat, 0⟩ else ⟨(intMaxOf f).toNat, 4⟩ := by
  have hmin : intMinOf f ≤ 0 := by rcases isInt_cases h with rfl | rfl | rfl | rfl <;> decide
  have hmax : 0 ≤ intMaxOf f ∧ intMaxOf f < 2 ^ fmtBits f := by rcases isInt_cases h with rfl | rfl | rfl | rfl <;> decide
  have hdecide (j i : ℤ) (fl : ℕ) : (⟨wrapTo (fmtBits f) j, if j = i then 0 else fl⟩ : Rnd) = ⟨(j % 2 ^ fmtBits f).toNat, if j = i then 0 else fl⟩ := by
    rw [wrapTo_eq]
  rw [clampTo, hdecide]
  by_cases hle : ((intOf f c).natAbs : ℤ) ≤ intMaxOf f
  · have hj : max (intMinOf f) (min (intMaxOf f) ((intOf f c).natAbs : ℤ)) = ((intOf f c).natAbs : ℤ) := by omega
    rw [if_pos hle, hj, if_pos rfl, Int.emod_eq_of_lt (by omega) (by omega)]
  · have hj : max (intMinOf f) (min (intMaxOf f) ((intOf f c).natAbs : ℤ)) = intMaxOf f := by omega
    rw [if_neg hle, hj, if_neg (by omega), Int.emod_eq_of_lt hmax.1 hmax.2]
    rfl

/-! Bits and bytes -/

theorem getLsbD_ofNat_mod (r : Row) (n i : ℕ) : (BitVec.ofNat 2048 (r.toNat % 2 ^ n)).getLsbD i = (decide (i < n) && r.getLsbD i) := by
  rw [BitVec.getLsbD_ofNat, Nat.testBit_mod_two_pow, BitVec.testBit_toNat]
  by_cases hi : i < 2048
  · simp [hi]
  · simp [hi, BitVec.getLsbD_of_ge r i (by omega)]

theorem getLsbD_vBytes (r : Row) (n i : ℕ) : (vBytes n r).getLsbD i = (decide (i < 8 * n) && r.getLsbD i) := by
  rw [vBytes, one_shiftLeft_eq, getLsbD_ofNat_mod]

theorem getLsbD_elemsOnly (tile : Bool) (v : VIn) (r : Row) (i : ℕ) :
    (elemsOnly tile v r).getLsbD i = (r.getLsbD i && (tile || decide (i < v.l * v.w))) := by
  cases tile
  · rw [elemsOnly, if_neg (by simp), one_shiftLeft_eq, getLsbD_ofNat_mod, Bool.false_or, Bool.and_comm]
  · rw [elemsOnly, if_pos rfl, Bool.true_or, Bool.and_true]

theorem packLanes_testBit {w : ℕ} (hw : 0 < w) (l : List ℕ) (i : ℕ) : (packLanes w l).testBit i = (l.getD (i / w) 0).testBit (i % w) := by
  have h := congrArg (fun n => Nat.testBit n (i % w)) (packLanes_digit w l (i / w))
  have hlt := Nat.mod_lt i hw
  simpa [Nat.testBit_mod_two_pow, hlt, Nat.testBit_div_two_pow, Nat.mod_add_div, Nat.div_add_mod, Nat.add_comm] using h

/-- A bitwise word, on the elements of rows that are no tile's. -/
theorem getLsbD_vBitF {v : VIn} {op : Row → Row → Row} {g : Bool → Bool → Bool}
    (hop : ∀ (a b : Row) (i : ℕ), i < 2048 → (op a b).getLsbD i = g (a.getLsbD i) (b.getLsbD i)) (hl : v.l * v.w ≤ 2048) (i : ℕ) :
    (vBitF op v).row.getLsbD i = (decide (i < 8 * ((v.l * v.w + 7) / 8)) &&
      g (v.a.getLsbD i && (v.ta || decide (i < v.l * v.w))) (v.b.getLsbD i && (v.tb || decide (i < v.l * v.w)))) := by
  rw [vBitF, getLsbD_vBytes, ← getLsbD_elemsOnly, ← getLsbD_elemsOnly, show rowLenBytes v.f v.l = (v.l * v.w + 7) / 8 from rfl]
  by_cases hi : i < 8 * ((v.l * v.w + 7) / 8)
  · rw [hop _ _ i (by omega)]
  · simp [hi]

/-- A row of 64 words, bit by bit. -/
theorem getLsbD_words (g : ℕ → BitVec 32) {i : ℕ} (hi : i < 2048) :
    (BitVec.ofNat 2048 (packLanes 32 ((List.range 64).map (fun i => (g i).toNat)))).getLsbD i = (g (i / 32)).getLsbD (i % 32) := by
  have hget : i / 32 < 64 := by omega
  rw [BitVec.getLsbD_ofNat, packLanes_testBit (by omega)]
  simp [hi, hget, BitVec.testBit_toNat]

theorem lanesMoveBitForBit : Claims.LanesMoveBitForBit := by
  intro v c n key hpos hl
  have hlane (r : Row) (i : ℕ) : laneOf r v.w i % 2 ^ v.w = laneOf r v.w i := Nat.mod_eq_of_lt (laneOf_lt _ _ _)
  have hdest : (if v.dt then rowLenBytes v.fd v.ld else 256) = if v.dt then (v.ld * fmtBits v.fd + 7) / 8 else 256 := rfl
  refine ⟨fun hf => ?_, ?_, fun hf => ⟨?_, ?_, ?_, ?_⟩, ⟨rfl, ?_⟩, ⟨rfl, ?_⟩, ⟨rfl, ?_⟩, ⟨rfl, ?_⟩, rfl, fun i => ?_, ?_, ?_, ?_, rfl, fun i hi => ?_⟩
  · refine lanesAre_lanes_low hl fun i _ => ?_
    simp only [← vCond_iff hf, exactCode, one_shiftLeft_eq]
    refine ⟨fun h => ?_, fun h => ?_⟩
    · rw [if_pos h, Nat.mod_eq_of_lt (Nat.sub_lt (Nat.two_pow_pos _) Nat.one_pos)]
    · rw [if_neg h, Nat.zero_mod]
  · exact lanesAre_exact hl fun i _ => by split <;> exact hlane _ _
  · refine lanesAre_exact hl fun i _ => ?_
    by_cases h : v.eb i < v.w
    · rw [if_neg (Nat.not_le.mpr h), if_pos h, Nat.shiftLeft_eq]
    · rw [if_pos (Nat.not_lt.mp h), if_neg h, Nat.zero_mod]
  · refine lanesAre_exact hl fun i _ => ?_
    by_cases h : v.eb i < v.w
    · rw [if_neg (Nat.not_le.mpr h), if_pos h, Nat.shiftRight_eq_div_pow]
      exact Nat.mod_eq_of_lt ((Nat.div_le_self _ _).trans_lt (laneOf_lt _ _ _))
    · rw [if_pos (Nat.not_lt.mp h), if_neg h, Nat.zero_mod]
  · refine lanesAre_exact hl fun i _ => ?_
    rw [Nat.mod_eq_of_lt (wrapTo_lt _ _), wrapTo_eq, VIn.w, intOf_shift (c := v.ea i) hf (laneOf_lt _ _ _)]
  · refine lanesAre_lanes hl (fun i _ => clampTo_code_lt _ _ _) fun i _ => clampTo_abs hf
  · exact getLsbD_vBitF (fun a b i _ => BitVec.getLsbD_and) hl
  · exact getLsbD_vBitF (fun a b i _ => BitVec.getLsbD_or) hl
  · exact getLsbD_vBitF (fun a b i _ => BitVec.getLsbD_xor) hl
  · exact getLsbD_vBitF (op := fun a _ => ~~~a) (g := fun x _ => !x) (fun a b i hi => by simp only [BitVec.getLsbD_not, hi, decide_true, Bool.true_and]) hl
  · rw [vMovF, getLsbD_vBytes, getLsbD_vBytes, hdest, ← Bool.and_assoc, Bool.decide_and]
  · exact lanesAre_exact hl fun i _ => by rw [one_shiftLeft_eq, Nat.mod_mod]
  · exact lanesAre_exact hl fun i _ => hlane _ _
  · exact lanesAre_exact hl fun i _ => hlane _ _
  · rw [vRngF, getLsbD_vBytes, hdest, getLsbD_words (fun i => mix key (v.x + BitVec.ofNat 64 i)) hi]

end Sys2Proof.Numbers

namespace Sys2Proof.Numbers

open Sys2Proof Sys2Proof.Machine Sys2Proof.Claims

/-! ### Conversions (03 R59, R67, R68; 06 R160) -/

theorem cvtFmt_cases {f : ℕ} (h : cvtFmt f = true) : isInt f = true ∨ (isInt f = false ∧ f < 5) := by
  cases hi : isInt f
  · simp only [cvtFmt, hi, Bool.or_false, decide_eq_true_eq] at h
    exact .inr ⟨rfl, by omega⟩
  · exact .inl rfl

section
variable {f : ℕ} {mo : Mode} {x : Fv} {a : Claims.Num}

/-- A conversion to a float format rounds, but for a NaN to E2M1, which has none. -/
theorem convertTo_float (hi : isInt f = false) (hf : f < 5) (mo : Mode) (x : Fv) :
    convertTo f mo x = if f = 4 ∧ x = .nan then ⟨0, 1⟩ else (ffOf f).enc mo x := by
  unfold convertTo
  rw [hi, if_neg (by simp), if_neg (show f ≠ fmtE8m0 by unfold fmtE8m0; omega), if_neg (show f ≠ fmtB1 by unfold fmtB1; omega)]
  by_cases h4 : f = 4
  · subst h4
    cases x <;> simp [fmtMxfp4, ffOf]
  · rw [if_neg (show f ≠ fmtMxfp4 from h4), if_neg (by simp [h4])]

theorem convertTo_ofInt (h : isInt f = true) (mo : Mode) (i : ℤ) : convertTo f mo (Fv.ofInt i) = clampTo f i 4 := by
  unfold convertTo
  rw [if_pos h, Fv.ofInt]
  have hround : roundInt mo i.natAbs 0 = i.natAbs := by simp [roundInt]
  simp only [hround, decide_eq_true_eq]
  congr 1
  split <;> omega

theorem convertTo_int (h : isInt f = true) (hmo : ModeOk mo) (hx : Means x a) : ConvertedTo f mo a (convertTo f mo x) := by
  unfold ConvertedTo convertTo
  rw [if_pos h, if_pos h]
  cases hx with
  | nan => rfl
  | inf n => dsimp only; rw [wrapTo_eq]
  | @fin n m a d e hd hval =>
    refine ⟨roundInt mo m e, (nearest_iff monotone_id (measures_fraction hd)).mpr ?_, ?_⟩
    · rw [← hval]
      refine nearestReal_roundInt hmo (agrees_of_eq ?_)
      rw [zpow_toNat]; push_cast; ring
    · simp only [clampTo, wrapTo_eq]
      rfl

theorem convertTo_convertedTo (hf : cvtFmt f = true) (hmo : ModeOk mo) (hx : Means x a) : ConvertedTo f mo a (convertTo f mo x) := by
  rcases cvtFmt_cases hf with hi | ⟨hi, hf'⟩
  · exact convertTo_int hi hmo hx
  · unfold ConvertedTo
    rw [if_neg (by simp [hi]), convertTo_float hi hf']
    cases hx with
    | nan =>
      by_cases h4 : f = 4
      · simp [h4]
      · simp [h4, enc_nan hf']
    | inf n =>
      cases hinf : infinityOf f <;>
        simp only [reduceCtorEq, and_false, if_false, FF.enc, ffOf_inf hf', hinf, sign_add hf', ffOf_top hf']
    | fin n hd hval =>
      rw [if_neg (by simp)]
      exact enc_ratio_rounded hf' hmo hd hval

theorem convertTo_code_lt (hf : cvtFmt f = true) (mo : Mode) (x : Fv) : (convertTo f mo x).code < 2 ^ fmtBits f := by
  rcases cvtFmt_cases hf with hi | ⟨hi, hf'⟩
  · unfold convertTo
    rw [if_pos hi]
    cases x with
    | nan => exact Nat.two_pow_pos _
    | inf n => exact wrapTo_lt _ _
    | fin n m e => exact clampTo_code_lt _ _ _
  · rw [convertTo_float hi hf', ← codeBits_eq_fmtBits hf']
    split
    · exact Nat.two_pow_pos _
    · exact enc_code_lt hf' _ _

/-! An element with its block's scale -/

/-- A value whose significand FP32 can hold. -/
def Narrow : Fv → Prop
  | .fin _ m _ => m < 2 ^ 24
  | _ => True

/-- The scale of a block multiplies by a power of two. -/
theorem scale_value {m n d : ℕ} {e : ℤ} (h : (m : ℝ) * (2 : ℝ) ^ e = n / d) (b : ℕ) :
    (m : ℝ) * (2 : ℝ) ^ (e + ((b : ℤ) - 127)) = ((n * 2 ^ b : ℕ) : ℝ) / ((d * 2 ^ 127 : ℕ) : ℝ) := by
  rw [zpow_add₀ (by norm_num), ← mul_assoc, h, zpow_sub₀ (by norm_num), div_mul_div_comm, zpow_natCast]
  norm_num

theorem srcValue_means {c : ℕ} (hf : cvtFmt f = true) (scal : Bool) (sc : Row) (i : ℕ) :
    Means (srcValue f scal sc c i) (sourceNum f c (if scal then some (laneOf sc 8 (i / 32)) else none)) := by
  unfold srcValue sourceNum
  rcases cvtFmt_cases hf with hi | ⟨hi, hf'⟩
  · rw [if_pos hi, if_pos hi]
    exact .fin _ Nat.one_pos (by simp)
  · simp only [hi, Bool.false_eq_true, if_false]
    have hdec := dec_means hf' c
    generalize (ffOf f).dec c = x at *
    generalize numOf f c = a at *
    cases scal with
    | false => simpa using hdec
    | true =>
      simp only [if_true, scaledBy]
      cases hdec with
      | nan => dsimp only; split <;> exact .nan
      | inf n => dsimp only; split <;> [exact .nan; exact .inf n]
      | fin n hd h => dsimp only; split <;> [exact .nan; exact .fin n (by positivity) (scale_value h _)]

/-- A float element keeps its significand under its scale. -/
theorem srcValue_narrow {c : ℕ} (hi : isInt f = false) (hf : f < 5) (scal : Bool) (sc : Row) (i : ℕ) : Narrow (srcValue f scal sc c i) := by
  have hdec : Narrow ((ffOf f).dec c) := by
    have hwide : 2 ^ (fracBits f + 1) ≤ 2 ^ 24 := Nat.pow_le_pow_right Nat.two_pos (by have := fracBits_le f; omega)
    rcases code_cases hf c with ⟨hdec, -⟩ | ⟨-, -, hdec, -⟩ | ⟨-, -, m, e, hdec, hm, -⟩ <;> rw [hdec]
    · trivial
    · trivial
    · exact hm.trans_le hwide
  unfold srcValue
  simp only [hi, Bool.false_eq_true, if_false, scaledBy]
  generalize (ffOf f).dec c = x at *
  split
  · split
    · trivial
    · cases x <;> exact hdec
  · exact hdec

/-- A narrow value below the range's end is at most FP32's largest finite value. -/
theorem narrow_le {m : ℕ} {e : ℤ} (hm : m < 2 ^ 24) (h : (m : ℝ) * (2 : ℝ) ^ e < (2 : ℝ) ^ (128 : ℤ)) :
    (m : ℝ) * (2 : ℝ) ^ e ≤ (2 ^ 24 - 1 : ℕ) * (2 : ℝ) ^ (104 : ℤ) := by
  rcases le_or_gt e 104 with he | he
  · have hm' : (m : ℝ) ≤ (2 ^ 24 - 1 : ℕ) := by exact_mod_cast Nat.le_pred_of_lt hm
    exact mul_le_mul hm' (zpow_le_zpow_right₀ (by norm_num) he) (two_zpow_pos e).le (Nat.cast_nonneg _)
  · obtain ⟨j, rfl⟩ : ∃ j : ℕ, e = j + 104 := ⟨(e - 104).toNat, by omega⟩
    rw [show (128 : ℤ) = (24 : ℕ) + 104 by norm_num, zpow_add₀ (by norm_num) (24 : ℕ), zpow_add₀ (by norm_num), ← mul_assoc, zpow_natCast, zpow_natCast] at *
    have hlt : m * 2 ^ j < 2 ^ 24 := by exact_mod_cast lt_of_mul_lt_mul_right h (two_zpow_pos 104).le
    have hle : ((m * 2 ^ j : ℕ) : ℝ) ≤ (2 ^ 24 - 1 : ℕ) := by exact_mod_cast Nat.le_pred_of_lt hlt
    push_cast at hle
    refine mul_le_mul_of_nonneg_right ?_ (two_zpow_pos 104).le
    push_cast
    exact hle

/-- A narrow value that leaves the range of FP32, and one that does not. -/
theorem enc32_narrow {n : Bool} {m a d : ℕ} {e : ℤ} (hd : 0 < d) (hval : (m : ℝ) * (2 : ℝ) ^ e = a / d) (hm : m < 2 ^ 24) :
    if d * 2 ^ 128 ≤ a then ff32.enc .rne (.fin n m e) = ⟨signed 0 n 0x7F800000, 2⟩ else (ff32.enc .rne (.fin n m e)).fl = 0 := by
  obtain ⟨k, hk, hr⟩ := enc_ratio_rounded (f := 0) (mo := .rne) (n := n) (by omega) trivial hd hval
  have hmono := magnitude_real_strictMono 0
  have hd' : (0 : ℝ) < d := by exact_mod_cast hd
  have hnear := (nearest_iff (magnitude_strictMono 0).monotone (measures_fraction hd)).mp hk
  have hvalue : ((a * 2 ^ unitOf 0 : ℕ) : ℝ) / d = m * (2 : ℝ) ^ e * 2 ^ unitOf 0 := by rw [hval]; push_cast; ring
  rw [show ff32 = ffOf 0 from rfl, hr]
  split
  · next hover =>
    have hle : largestOf 0 + 1 ≤ k := le_nearest hmono hnear (by
      rw [le_div_iff₀ hd']
      have : magnitude 0 (largestOf 0 + 1) * d ≤ a * 2 ^ unitOf 0 := by
        rw [show magnitude 0 (largestOf 0 + 1) = 2 ^ 128 * 2 ^ unitOf 0 by decide]
        calc 2 ^ 128 * 2 ^ unitOf 0 * d = d * 2 ^ 128 * 2 ^ unitOf 0 := by ring
          _ ≤ a * 2 ^ unitOf 0 := Nat.mul_le_mul_right _ hover
      exact_mod_cast this)
    rw [if_neg (by omega)]
    rfl
  · next hover =>
    have hle : k ≤ largestOf 0 := nearest_le hmono hnear (by
      have hbelow : (m : ℝ) * (2 : ℝ) ^ e < (2 : ℝ) ^ (128 : ℤ) := by
        rw [hval, div_lt_iff₀ hd', mul_comm]
        exact_mod_cast Nat.not_le.mp hover
      have hlargest : (magnitude 0 (largestOf 0) : ℝ) = (2 ^ 24 - 1 : ℕ) * (2 : ℝ) ^ (104 : ℤ) * 2 ^ unitOf 0 := by
        exact_mod_cast show magnitude 0 (largestOf 0) = (2 ^ 24 - 1) * 2 ^ 104 * 2 ^ unitOf 0 by decide
      rw [hvalue, hlargest]
      exact mul_le_mul_of_nonneg_right (narrow_le hm hbelow) (by positivity))
    rw [if_pos hle]

end

end Sys2Proof.Numbers

namespace Sys2Proof.Numbers

open Sys2Proof Sys2Proof.Machine Sys2Proof.Claims

/-! ### VCVT (06 R160; 03 R67) -/

/-- The conversion of an element with a block scale: what leaves the range of FP32 counts as infinite. -/
def convertScaled (f : ℕ) (mo : Mode) (x : Fv) : Rnd :=
  let y := ff32.enc .rne x
  let r := if y.fl = 0 then convertTo f mo x else convertTo f mo (f32 y.code)
  ⟨r.code, r.fl ||| y.fl⟩

section
variable {f : ℕ} {mo : Mode} {x : Fv} {a : Claims.Num}

theorem convertScaled_of_fits (h : (ff32.enc .rne x).fl = 0) : convertScaled f mo x = convertTo f mo x := by
  simp only [convertScaled, h, if_true, Nat.or_zero]

theorem enc32_fl_of_infinite (h : ∀ n m e, x ≠ .fin n m e) : (ff32.enc .rne x).fl = 0 := by
  cases x with
  | nan => rfl
  | inf n => rfl
  | fin n m e => exact (h n m e rfl).elim

theorem f32_infinity (n : Bool) : f32 (signed 0 n 0x7F800000) = .inf n := by cases n <;> decide

theorem convertScaled_scaledTo (hf : cvtFmt f = true) (hmo : ModeOk mo) (hx : Means x a) (hn : Narrow x) :
    ScaledTo f mo a (convertScaled f mo x) := by
  have hconvert := convertTo_convertedTo hf hmo hx
  cases hx with
  | nan => rwa [← convertScaled_of_fits (enc32_fl_of_infinite (by simp))] at hconvert
  | inf n => rwa [← convertScaled_of_fits (enc32_fl_of_infinite (by simp))] at hconvert
  | @fin n m a d e hd hval =>
    have henc := enc32_narrow (n := n) hd hval hn
    rw [ScaledTo]
    split
    · next hover =>
      rw [if_pos hover] at henc
      refine ⟨convertTo f mo (.inf n), convertTo_convertedTo hf hmo (.inf n), ?_⟩
      simp [convertScaled, henc, f32_infinity]
    · next hover =>
      rw [if_neg hover] at henc
      rwa [convertScaled_of_fits henc]

theorem enc32_convertedTo (hx : Means x a) : ConvertedTo 0 .rne a (ff32.enc .rne x) := by
  have h := convertTo_convertedTo (f := 0) (mo := .rne) rfl trivial hx
  rwa [convertTo_float rfl (by omega), if_neg (by simp)] at h

theorem enc32_scaledTo (hx : Means x a) (hn : Narrow x) : ScaledTo 0 .rne a (ff32.enc .rne x) := by
  have h := enc32_convertedTo hx
  cases hx with
  | nan => exact h
  | inf n => exact h
  | @fin n m a d e hd hval =>
    have henc := enc32_narrow (n := n) hd hval hn
    rw [ScaledTo]
    split
    · next hover =>
      rw [if_pos hover] at henc
      exact ⟨⟨signed 0 n 0x7F800000, 0⟩, rfl, by rw [henc, Nat.zero_or]⟩
    · exact h

end

section
variable {v : VIn} {i : ℕ}

/-- The value of an element of ta's row, zero at or beyond its length. -/
def sourceValue (v : VIn) (i : ℕ) : Fv := if i < v.la then srcValue v.fa v.scal v.sca (v.src i) i else .fin false 0 0

theorem sourceValue_means (hf : cvtFmt v.fa = true) (i : ℕ) : Means (sourceValue v i) (elementOf v i) := by
  unfold sourceValue elementOf VIn.src
  split
  · exact srcValue_means hf _ _ _
  · exact .fin _ Nat.one_pos (by simp)

theorem sourceValue_narrow (hf : cvtFmt v.fa = true) (hi : isInt v.fa = false) (i : ℕ) : Narrow (sourceValue v i) := by
  have hf' : v.fa < 5 := (cvtFmt_cases hf).resolve_left (by simp [hi]) |>.2
  unfold sourceValue
  split
  · exact srcValue_narrow hi hf' _ _ _
  · exact Nat.two_pow_pos 24

/-- An integer element is converted as its value is. -/
theorem cvtLane_eq (hscal : v.scal = true → isInt v.fa = false) :
    cvtLane v i = if v.scal then convertScaled v.fd (v.mode i) (sourceValue v i) else convertTo v.fd (v.mode i) (sourceValue v i) := by
  by_cases hint : isInt v.fa = true ∧ isInt v.fd = true
  · obtain ⟨ha, hd⟩ := hint
    have hplain : v.scal = false := by
      cases h : v.scal
      · rfl
      · exact absurd (hscal h) (by simp [ha])
    have hzero : Fv.fin false 0 0 = Fv.ofInt 0 := rfl
    have hvalue : sourceValue v i = Fv.ofInt (intOf v.fa (v.src i)) := by
      unfold sourceValue srcValue VIn.src
      split
      · rfl
      · rw [hzero]
        congr 1
        rcases isInt_cases ha with h | h | h | h <;> rw [h] <;> rfl
    rw [cvtLane, if_pos (by simp [ha, hd]), hplain, if_neg (by simp), hvalue, convertTo_ofInt hd]
    rfl
  · rw [cvtLane, if_neg (by simpa using hint)]
    rfl

theorem cvtLane_code_lt (hd : cvtFmt v.fd = true) (hscal : v.scal = true → isInt v.fa = false) : (cvtLane v i).code < 2 ^ fmtBits v.fd := by
  rw [cvtLane_eq hscal]
  split
  · unfold convertScaled
    dsimp only
    split <;> exact convertTo_code_lt hd _ _
  · exact convertTo_code_lt hd _ _

theorem vCvt_lanes (hl : v.ld * fmtBits v.fd ≤ 2048) (ha : cvtFmt v.fa = true) (hd : cvtFmt v.fd = true) (hscal : v.scal = true → isInt v.fa = false) :
    LanesAre (vCvtF v) v.ld (fmtBits v.fd) (fun i =>
      if v.scal then ScaledTo v.fd (drawnMode v.rnd i) (elementOf v i) else ConvertedTo v.fd (drawnMode v.rnd i) (elementOf v i)) := by
  refine lanesAre_lanes hl (fun i _ => cvtLane_code_lt hd hscal) fun i _ => ?_
  rw [cvtLane_eq hscal, VIn.mode, mode_eq_drawnMode]
  split
  · next h => exact convertScaled_scaledTo hd (drawnMode_ok _ _) (sourceValue_means ha i) (sourceValue_narrow ha (hscal h) i)
  · exact convertTo_convertedTo hd (drawnMode_ok _ _) (sourceValue_means ha i)

end

end Sys2Proof.Numbers

namespace Sys2Proof.Numbers

open Sys2Proof Sys2Proof.Machine Sys2Proof.Claims

/-! ### VBMAX (03 R73; 06 R161) -/

section
variable {f c : ℕ}

/-- What an element makes of the exponent of its block, as `blockEntry` folds it. -/
def entryStep (f : ℕ) (e : Option ℤ) (c : ℕ) : Option ℤ :=
  match (ffOf f).dec c with
  | .nan => some 1000
  | .inf _ => some 1000
  | .fin _ m k => if m = 0 then e else
    let t := k + (Nat.log2 m : ℤ)
    match e with
    | some y => some (max y t)
    | none => some t

theorem blockEntry_eq (f : ℕ) (xs : List ℕ) : blockEntry f xs = xs.foldl (entryStep f) none := rfl

/-- The value of a code in units of one. -/
noncomputable def codeValue (f c : ℕ) : ℝ := magnitude f (bareCode f c) / ((2 ^ unitOf f : ℕ) : ℝ)

theorem entryStep_special (hf : f < 5) (e : Option ℤ) (h : largestOf f < bareCode f c) : entryStep f e c = some 1000 := by
  unfold entryStep
  rcases code_cases hf c with ⟨hdec, -⟩ | ⟨-, -, hdec, -⟩ | ⟨hfin, -⟩
  · rw [hdec]
  · rw [hdec]
  · omega

theorem entryStep_zero (hf : f < 5) (e : Option ℤ) (h : bareCode f c = 0) : entryStep f e c = e := by
  obtain ⟨m, k, hdec, -, hval⟩ := dec_of_finite hf (c := c) (by rw [h]; exact Nat.zero_le _)
  have hm : m = 0 := (significand_eq_zero_iff (Nat.two_pow_pos _) hval).mpr (by rw [h, magnitude_zero])
  unfold entryStep
  rw [hdec]
  exact if_pos hm

/-- A finite element that is not zero enters with the exponent of its leading bit. -/
theorem entryStep_finite (hf : f < 5) (h : bareCode f c ≤ largestOf f) (h0 : bareCode f c ≠ 0) :
    ∃ t : ℤ, (2 : ℝ) ^ t ≤ codeValue f c ∧ codeValue f c < (2 : ℝ) ^ (t + 1) ∧
      ∀ e : Option ℤ, entryStep f e c = some (match e with | some y => max y t | none => t) := by
  obtain ⟨m, k, hdec, -, hval⟩ := dec_of_finite hf h
  have hm : m ≠ 0 := (significand_eq_zero_iff (Nat.two_pow_pos _) hval).not.mpr (magnitude_eq_zero_iff.not.mpr h0)
  obtain ⟨hlo, hhi⟩ := approx_lead (Nat.pos_of_ne_zero hm) (.inl hval.symm)
  refine ⟨k + Nat.log2 m, hlo, hhi, fun e => ?_⟩
  unfold entryStep
  rw [hdec]
  simp only [if_neg hm]
  cases e <;> rfl

/-- Its exponent stays far below that of NAN. -/
theorem exponent_small (hf : f < 2) (h : bareCode f c ≤ largestOf f) {t : ℤ} (ht : (2 : ℝ) ^ t ≤ codeValue f c) : t < 1000 := by
  have hle : magnitude f (bareCode f c) ≤ magnitude f (largestOf f) := (magnitude_strictMono f).monotone h
  have hlargest : magnitude f (largestOf f) < 2 ^ 128 * 2 ^ unitOf f := by interval_cases f <;> decide
  have hlt : codeValue f c < (2 : ℝ) ^ (128 : ℤ) := by
    rw [codeValue, div_lt_iff₀ (by positivity)]
    exact_mod_cast hle.trans_lt hlargest
  have := (zpow_lt_zpow_iff_right₀ (by norm_num : (1 : ℝ) < 2)).mp (ht.trans_lt hlt)
  omega

theorem foldl_entryStep_nan (hf : f < 2) (l : List ℕ) : l.foldl (entryStep f) (some 1000) = some 1000 := by
  induction l with
  | nil => rfl
  | cons c l ih =>
    rw [List.foldl_cons]
    have hstep : entryStep f (some 1000) c = some 1000 := by
      rcases Nat.lt_or_ge (largestOf f) (bareCode f c) with h | h
      · exact entryStep_special (by omega) _ h
      · by_cases h0 : bareCode f c = 0
        · exact entryStep_zero (by omega) _ h0
        · obtain ⟨t, hlo, -, hstep⟩ := entryStep_finite (by omega) h h0
          have := exponent_small hf h hlo
          rw [hstep]
          exact congrArg some (max_eq_left (by omega))
    rw [hstep, ih]

theorem foldl_entryStep_special (hf : f < 2) {l : List ℕ} (h : ∃ c ∈ l, largestOf f < bareCode f c) (e : Option ℤ) :
    l.foldl (entryStep f) e = some 1000 := by
  induction l generalizing e with
  | nil => obtain ⟨c, hc, -⟩ := h; cases hc
  | cons c l ih =>
    rw [List.foldl_cons]
    by_cases hc : largestOf f < bareCode f c
    · rw [entryStep_special (by omega) e hc, foldl_entryStep_nan hf]
    · obtain ⟨c', hmem, hc'⟩ := h
      rcases List.mem_cons.mp hmem with rfl | hmem
      · exact (hc hc').elim
      · exact ih ⟨c', hmem, hc'⟩ _

theorem foldl_entryStep_zero (hf : f < 5) {l : List ℕ} (h : ∀ c ∈ l, bareCode f c = 0) (e : Option ℤ) : l.foldl (entryStep f) e = e := by
  induction l with
  | nil => rfl
  | cons c l ih =>
    rw [List.foldl_cons, entryStep_zero hf e (h c List.mem_cons_self)]
    exact ih fun c hc => h c (List.mem_cons_of_mem _ hc)

theorem codeValue_of_zero (h : bareCode f c = 0) : codeValue f c = 0 := by rw [codeValue, h, magnitude_zero]; simp

/-- The exponent of a block of finite elements is that of the greatest. -/
theorem foldl_entryStep_finite (hf : f < 5) {l : List ℕ} (h : ∀ c ∈ l, bareCode f c ≤ largestOf f) (h0 : ∃ c ∈ l, bareCode f c ≠ 0) :
    ∃ x : ℤ, l.foldl (entryStep f) none = some x ∧ (∀ c ∈ l, codeValue f c < (2 : ℝ) ^ (x + 1)) ∧ ∃ c ∈ l, (2 : ℝ) ^ x ≤ codeValue f c := by
  induction l using List.reverseRecOn with
  | nil => obtain ⟨c, hc, -⟩ := h0; cases hc
  | append_singleton l c ih =>
    have hl (d : ℕ) (hd : d ∈ l) : bareCode f d ≤ largestOf f := h d (List.mem_append_left _ hd)
    have hc := h c (List.mem_append_right _ List.mem_cons_self)
    rw [List.foldl_append, List.foldl_cons, List.foldl_nil]
    simp only [List.mem_append, List.mem_singleton, or_imp, forall_and, forall_eq, or_and_right, exists_or, exists_eq_left] at h0 ⊢
    by_cases hz : bareCode f c = 0
    · obtain ⟨x, hx, hall, hsome⟩ := ih hl (h0.resolve_right (by simpa using hz))
      exact ⟨x, by rw [hx, entryStep_zero hf _ hz], ⟨hall, by rw [codeValue_of_zero hz]; exact two_zpow_pos _⟩, .inl hsome⟩
    · obtain ⟨t, hlo, hhi, hstep⟩ := entryStep_finite hf hc hz
      rw [hstep]
      by_cases hold : ∃ d ∈ l, bareCode f d ≠ 0
      · obtain ⟨x, hx, hall, d, hd, hxd⟩ := ih hl hold
        have hup {a b : ℤ} (hab : a ≤ b) : (2 : ℝ) ^ (a + 1) ≤ (2 : ℝ) ^ (b + 1) := zpow_le_zpow_right₀ (by norm_num) (by omega)
        refine ⟨max x t, by rw [hx], ⟨fun d hd => (hall d hd).trans_le (hup (le_max_left _ _)), hhi.trans_le (hup (le_max_right _ _))⟩, ?_⟩
        rcases max_choice x t with hmax | hmax <;> rw [hmax]
        · exact .inl ⟨d, hd, hxd⟩
        · exact .inr hlo
      · have hzero : ∀ d ∈ l, bareCode f d = 0 := by
          intro d hd
          by_contra hne
          exact hold ⟨d, hd, hne⟩
        refine ⟨t, by rw [foldl_entryStep_zero hf hzero], ⟨fun d hd => ?_, hhi⟩, .inr hlo⟩
        rw [codeValue_of_zero (hzero d hd)]; exact two_zpow_pos _

/-- A value against a power of two, in the integers of the statements. -/
theorem codeValue_lt_iff (f c : ℕ) (x : ℤ) : codeValue f c < (2 : ℝ) ^ x ↔ magnitude f (bareCode f c) * 2 ^ (-x).toNat < 2 ^ (unitOf f + x.toNat) := by
  rw [codeValue, zpow_toNat, div_lt_div_iff₀ (by positivity) (by positivity), pow_add, mul_comm (2 ^ unitOf f)]
  exact_mod_cast Iff.rfl

theorem le_codeValue_iff (f c : ℕ) (x : ℤ) : (2 : ℝ) ^ x ≤ codeValue f c ↔ 2 ^ (unitOf f + x.toNat) ≤ magnitude f (bareCode f c) * 2 ^ (-x).toNat := by
  rw [← not_lt, codeValue_lt_iff, not_lt]

theorem blockEntry_entryOf (hf : f < 2) (c : ℕ → ℕ) : EntryOf f c (blockEntry f ((List.range 32).map c)) := by
  have hall {P : ℕ → Prop} : (∀ d ∈ (List.range 32).map c, P d) ↔ ∀ i < 32, P (c i) := by simp
  have hsome {P : ℕ → Prop} : (∃ d ∈ (List.range 32).map c, P d) ↔ ∃ i < 32, P (c i) := by simp
  rw [blockEntry_eq]
  refine ⟨fun h => foldl_entryStep_special hf (hsome.mpr h) none, fun h => foldl_entryStep_zero (by omega) (hall.mpr h) none, fun h h0 => ?_⟩
  obtain ⟨x, hx, hlt, hle⟩ := foldl_entryStep_finite (by omega) (hall.mpr h) (hsome.mpr h0)
  refine ⟨x, hx, fun i hi => ?_, ?_⟩
  · have := (codeValue_lt_iff f (c i) (x + 1)).mp (hall.mp hlt i hi)
    rwa [show -(x + 1) = -1 - x by ring] at this
  · obtain ⟨i, hi, hxi⟩ := hsome.mp hle
    exact ⟨i, hi, (le_codeValue_iff f (c i) x).mp hxi⟩

end

/-! ### VBQ (03 R74; 06 R161) -/

/-- Lanes of exact codes, without flags. -/
theorem lanesAre_codes {o : VOut} {n w : ℕ} (h : n * w ≤ 2048) {g : ℕ → Rnd} {P : ℕ → Rnd → Prop} (hrow : o.row = (lanes n w g).row) (hfl : o.fl = 0)
    (hg : ∀ i < n, (g i).fl = 0) (hfit : ∀ i < n, (g i).code < 2 ^ w) (hP : ∀ i < n, P i (g i)) : LanesAre o n w P := by
  obtain ⟨r, hlane, -, hbeyond⟩ := lanesAre_lanes (P := fun i r => P i r ∧ r.fl = 0) h hfit fun i hi => ⟨hP i hi, hg i hi⟩
  rw [← hrow] at hlane hbeyond
  refine ⟨r, fun i hi => ⟨(hlane i hi).1, (hlane i hi).2.1⟩, fun j => ?_, hbeyond⟩
  rw [hfl]
  constructor
  · intro hj; simp at hj
  · rintro ⟨i, hi, hj⟩
    rw [(hlane i hi).2.2] at hj
    simp at hj

section
variable {v : VIn}

/-- The exponent that VBQ scales a block by. -/
def blockShift (v : VIn) (e : ℤ) : ℤ := max (-127) (min 127 (e - emaxOf v.fd))

/-- An element of VBQ. -/
def bqElement (v : VIn) (i : ℕ) : Rnd :=
  match v.sc.getD (i / 32) none with
  | none => exactCode 0
  | some e =>
    if e = 1000 then exactCode (ffOf v.fd).nan
    else match ((ffOf v.fa).dec (v.src i)).shift (-(blockShift v e)) with
      | .inf n => exactCode ((ffOf v.fd).sign n + (ffOf v.fd).top)
      | y => exactCode ((ffOf v.fd).enc (v.mode i) y).code

/-- The scale byte of a block. -/
def bqByte (v : VIn) (b : ℕ) : ℕ :=
  match v.sc.getD b none with
  | none => 0
  | some e => if e = 1000 then 0xFF else (blockShift v e + 127).toNat

theorem vBqF_eq (v : VIn) : vBqF v =
    ⟨(lanes v.ld (fmtBits v.fd) (bqElement v)).row, 0, some (BitVec.ofNat 2048 (packLanes 8 ((List.range ((v.ld + 31) / 32)).map (bqByte v)))), none⟩ := rfl

theorem bqByte_lt (v : VIn) (b : ℕ) : bqByte v b < 256 := by
  unfold bqByte
  split
  · omega
  · split
    · omega
    · unfold blockShift; omega

/-- The scale row holds a byte for each block. -/
theorem bq_scale (hl : v.ld ≤ 128) (b : ℕ) : laneOf (BitVec.ofNat 2048 (packLanes 8 ((List.range ((v.ld + 31) / 32)).map (bqByte v)))) 8 b =
    if 32 * b < v.ld then bqByte v b else 0 := by
  rw [laneOf_packLanes (by simp; omega)]
  split
  · next h =>
    have hb : b < (v.ld + 31) / 32 := by omega
    simp only [List.getD_eq_getElem?_getD, List.getElem?_map, List.getElem?_range hb, Option.map_some, Option.getD_some]
    exact Nat.mod_eq_of_lt (bqByte_lt v b)
  · next h =>
    have hb : (v.ld + 31) / 32 ≤ b := by omega
    simp [List.getD_eq_getElem?_getD, hb]

theorem bqElement_fl (v : VIn) (i : ℕ) : (bqElement v i).fl = 0 := by
  unfold bqElement
  split
  · rfl
  · split
    · rfl
    · split <;> rfl

theorem bqElement_code_lt (hd : v.fd < 5) (i : ℕ) : (bqElement v i).code < 2 ^ fmtBits v.fd := by
  rw [← codeBits_eq_fmtBits hd]
  unfold bqElement
  split
  · exact Nat.two_pow_pos _
  · split
    · rw [ffOf_nan hd]; exact canonicalNan_lt hd
    · split
      · rw [sign_add hd, ffOf_top hd]; exact signed_lt _ (largestOf_lt hd) _
      · exact enc_code_lt hd _ _

/-- A finite element of a scaled block is rounded once. -/
theorem bqElement_finite (ha : v.fa < 5) (hd : v.fd < 5) {i n d : ℕ} {e : ℤ} {p : Bool} (hsc : v.sc.getD (i / 32) none = some e) (he : e ≠ 1000)
    (hnum : numOf v.fa (v.src i) = .fin p n d) : ∃ y, Rounded v.fd (drawnMode v.rnd i) p
      (fraction (n * 2 ^ unitOf v.fd * 2 ^ (-blockShift v e).toNat) (d * 2 ^ (blockShift v e).toNat)) y ∧ bqElement v i = ⟨y.code, 0⟩ := by
  have hmeans := dec_means ha (v.src i)
  rw [hnum] at hmeans
  unfold bqElement
  rw [hsc]
  simp only [if_neg he]
  generalize (ffOf v.fa).dec (v.src i) = x at *
  cases hmeans with
  | @fin n m a d e' hpos hval =>
    refine ⟨_, ?_, rfl⟩
    have hvalue : (m : ℝ) * (2 : ℝ) ^ (e' + -blockShift v e) = ((n * 2 ^ (-blockShift v e).toNat : ℕ) : ℝ) / ((d * 2 ^ (blockShift v e).toNat : ℕ) : ℝ) := by
      rw [zpow_add₀ (by norm_num), ← mul_assoc, hval, zpow_toNat (-blockShift v e), neg_neg]
      push_cast
      rw [div_mul_div_comm]
    rw [mul_right_comm, VIn.mode, mode_eq_drawnMode]
    exact enc_ratio_rounded hd (drawnMode_ok _ _) (by positivity) hvalue

end

theorem vBmax_entries {v : VIn} (ha : isFloat v.fa = true) : ∀ b < 4, EntryOf v.fa (fun i => v.src (32 * b + i)) ((vbmaxEntries v).getD b none) := by
  intro b hb
  have hentry := blockEntry_entryOf (isFloat_lt ha) (fun i => v.src (32 * b + i))
  simpa [vbmaxEntries, hb] using hentry

theorem conversionsFollowTheirTables : Claims.ConversionsFollowTheirTables := by
  intro v hla hld
  refine ⟨fun ha hd hscal => vCvt_lanes hld ha hd hscal, fun ha => ⟨_, rfl, vBmax_entries ha⟩,
    fun ha hd hl => ⟨_, congrArg VOut.scale (vBqF_eq v), rfl, fun b _ => bq_scale hl b, ?_⟩⟩
  have hd' : v.fd < 5 := by omega
  have ha' : v.fa < 5 := by have := isFloat_lt ha; omega
  refine lanesAre_codes hld (by rw [vBqF_eq]) rfl (fun i _ => bqElement_fl v i) (fun i _ => bqElement_code_lt hd' i) fun i _ => ?_
  split
  · next hsc => unfold bqElement; rw [hsc]; rfl
  · next e hsc =>
    split
    · next he =>
      unfold bqElement
      rw [hsc]
      simp only [if_pos he, ffOf_nan hd']
      rfl
    · next he =>
      split
      · next p n d hnum => exact bqElement_finite ha' hd' hsc he hnum
      · trivial

end Sys2Proof.Numbers

namespace Sys2Proof.Numbers

open Sys2Proof Sys2Proof.Machine Sys2Proof.Claims

/-! ### Reductions of integers (03 R69; 06 R163) -/

theorem foldl_max_spec (l : List ℤ) (a : ℤ) : l.foldl max a ∈ a :: l ∧ ∀ x ∈ a :: l, x ≤ l.foldl max a := by
  induction l generalizing a with
  | nil => simp
  | cons b l ih =>
    obtain ⟨hmem, hle⟩ := ih (max a b)
    have hstart := hle _ List.mem_cons_self
    simp only [List.foldl_cons, List.mem_cons] at hmem hle hstart ⊢
    refine ⟨?_, fun x hx => ?_⟩
    · rcases hmem with h | h
      · rcases max_choice a b with hab | hab <;> rw [hab] at h
        · exact .inl (by rw [hab]; exact h)
        · exact .inr (.inl (by rw [hab]; exact h))
      · exact .inr (.inr h)
    · rcases hx with rfl | rfl | hx
      · exact (le_max_left _ _).trans hstart
      · exact (le_max_right _ _).trans hstart
      · exact hle x (.inr hx)

/-- The greatest of integers that reach a starting value. -/
theorem foldl_max_greatest {l : List ℤ} {a : ℤ} (hl : l ≠ []) (ha : ∀ x ∈ l, a ≤ x) : l.foldl max a ∈ l ∧ ∀ x ∈ l, x ≤ l.foldl max a := by
  obtain ⟨hmem, hle⟩ := foldl_max_spec l a
  refine ⟨?_, fun x hx => hle x (List.mem_cons_of_mem _ hx)⟩
  rcases List.mem_cons.mp hmem with h | h
  · obtain ⟨b, hb⟩ := List.exists_mem_of_ne_nil l hl
    have hba : b = l.foldl max a := le_antisymm (hle b (List.mem_cons_of_mem _ hb)) (by rw [h]; exact ha b hb)
    rwa [← hba]
  · exact h

theorem foldl_min_neg (l : List ℤ) (a : ℤ) : l.foldl min a = -((l.map (-·)).foldl max (-a)) := by
  induction l generalizing a with
  | nil => simp
  | cons b l ih => rw [List.foldl_cons, ih, List.map_cons, List.foldl_cons, max_neg_neg]

/-- The least of integers that stay below a starting value. -/
theorem foldl_min_least {l : List ℤ} {a : ℤ} (hl : l ≠ []) (ha : ∀ x ∈ l, x ≤ a) : l.foldl min a ∈ l ∧ ∀ x ∈ l, l.foldl min a ≤ x := by
  have hbound : ∀ x ∈ l.map (-·), -a ≤ x := by
    intro x hx
    obtain ⟨y, hy, rfl⟩ := List.mem_map.mp hx
    exact neg_le_neg (ha y hy)
  obtain ⟨hmem, hle⟩ := foldl_max_greatest (by simpa using hl) hbound
  rw [foldl_min_neg]
  refine ⟨?_, fun x hx => ?_⟩
  · obtain ⟨x, hx, hxe⟩ := List.mem_map.mp hmem
    rwa [← hxe, neg_neg]
  · have := hle (-x) (List.mem_map_of_mem hx)
    omega

/-- Every integer format lies within INT64. -/
theorem int64_range {f : ℕ} (h : isInt f = true) : -9223372036854775808 ≤ intMinOf f ∧ intMaxOf f ≤ 9223372036854775807 := by
  rcases isInt_cases h with rfl | rfl | rfl | rfl <;> decide

section
variable {v : VIn}

/-- The integers of a row. -/
def rowInts (v : VIn) : List ℤ := (List.range v.la).map (fun i => intOf v.fa (laneOf v.a (fmtBits v.fa) i))

theorem rowInts_eq (v : VIn) : (List.range v.la).map (fun i => intOf v.fa (v.src i)) = rowInts v :=
  List.map_congr_left fun i hi => by rw [VIn.src, if_pos (List.mem_range.mp hi)]

theorem rowInts_range (h : isInt v.fa = true) : ∀ x ∈ rowInts v, intMinOf v.fa ≤ x ∧ x ≤ intMaxOf v.fa := by
  intro x hx
  obtain ⟨i, -, rfl⟩ := List.mem_map.mp hx
  exact intOf_range h (laneOf_lt _ _ _)

theorem reduce_ints {kind : ℕ} (hkind : kind < 3) (hi : isInt v.fa = true) (hla : 0 < v.la) :
    (vReduceF kind v).fl = 0 ∧ ∃ r : ℤ, (vReduceF kind v).row = BitVec.ofNat 2048 (r % 2 ^ 64).toNat ∧ (kind = 0 → r = (rowInts v).sum) ∧
      (kind = 1 → r ∈ rowInts v ∧ ∀ x ∈ rowInts v, x ≤ r) ∧ (kind = 2 → r ∈ rowInts v ∧ ∀ x ∈ rowInts v, r ≤ x) := by
  have hne : rowInts v ≠ [] := by simp [rowInts]; omega
  have hrange := rowInts_range hi
  obtain ⟨hmin, hmax⟩ := int64_range hi
  unfold vReduceF
  simp only [hi, if_true, rowInts_eq, wrapTo_eq, true_and]
  refine ⟨_, rfl, ?_, ?_, ?_⟩ <;> rintro rfl
  · exact List.sum_eq_foldl.symm
  · exact foldl_max_greatest hne fun x hx => hmin.trans (hrange x hx).1
  · exact foldl_min_least hne fun x hx => (hrange x hx).2.trans hmax

/-! ### The tree (03 R69) -/

theorem ceilLog2_eq {n k : ℕ} (hn : 0 < n) (hle : n ≤ 2 ^ k) (hlt : k = 0 ∨ 2 ^ (k - 1) < n) : ceilLog2 n = k := by
  rw [ceilLog2]
  rcases Nat.eq_zero_or_pos k with rfl | hk
  · rw [pow_zero] at hle
    rw [if_pos hle]
  · obtain ⟨j, rfl⟩ : ∃ j, k = j + 1 := ⟨k - 1, by omega⟩
    have hlt := hlt.resolve_left (by omega)
    rw [Nat.add_sub_cancel] at hlt
    have hpos := Nat.two_pow_pos j
    rw [if_neg (by omega), Nat.add_right_cancel_iff, Nat.log2_eq_iff (by omega)]
    omega

theorem treeLevel_getD (op : ℕ → ℕ → ℕ → Rnd) (s : ℕ) (l : List ℕ) {i : ℕ} (hi : i < s) :
    (treeLevel op s l).1.getD i 0 = (op (s + i) (l.getD i 0) (l.getD (i + s) 0)).code := by
  simp [treeLevel, List.getD_eq_getElem?_getD, hi]

theorem treeLevel_flags (op : ℕ → ℕ → ℕ → Rnd) (s : ℕ) (l : List ℕ) (b : ℕ) :
    (treeLevel op s l).2.testBit b = true ↔ ∃ i < s, (op (s + i) (l.getD i 0) (l.getD (i + s) 0)).fl.testBit b = true := by
  simp [treeLevel, testBit_foldl_or]

/-- The levels of the tree, with the flags of their steps. -/
theorem treeReduce_levels (op : ℕ → ℕ → ℕ → Rnd) (k : ℕ) (l : List ℕ) (fl : ℕ) : ∃ T F : ℕ → ℕ → ℕ, (treeReduce op k l fl).code = T 0 0 ∧
    (∀ i, T k i = l.getD i 0) ∧ (∀ j < k, ∀ i < 2 ^ j, op (2 ^ j + i) (T (j + 1) i) (T (j + 1) (i + 2 ^ j)) = ⟨T j i, F j i⟩) ∧
    ∀ b, (treeReduce op k l fl).fl.testBit b = true ↔ fl.testBit b = true ∨ ∃ j < k, ∃ i < 2 ^ j, (F j i).testBit b = true := by
  induction k generalizing l fl with
  | zero => exact ⟨fun _ i => l.getD i 0, fun _ _ => 0, rfl, fun _ => rfl, by simp, by simp [treeReduce]⟩
  | succ k ih =>
    obtain ⟨T, F, hcode, htop, hstep, hflags⟩ := ih (treeLevel op (2 ^ k) l).1 (fl ||| (treeLevel op (2 ^ k) l).2)
    have hreduce : treeReduce op (k + 1) l fl = treeReduce op k (treeLevel op (2 ^ k) l).1 (fl ||| (treeLevel op (2 ^ k) l).2) := by
      rw [treeReduce, one_shiftLeft_eq]
    refine ⟨Function.update T (k + 1) (fun i => l.getD i 0),
      Function.update F k (fun i => (op (2 ^ k + i) (l.getD i 0) (l.getD (i + 2 ^ k) 0)).fl), ?_, ?_, ?_, ?_⟩
    · rw [hreduce, hcode, Function.update_of_ne (by omega)]
    · intro i; rw [Function.update_self]
    · intro j hj i hi
      rw [Function.update_of_ne (show j ≠ k + 1 by omega)]
      rcases Nat.lt_succ_iff_lt_or_eq.mp hj with hjk | rfl
      · rw [Function.update_of_ne (by omega), Function.update_of_ne (by omega)]
        exact hstep j hjk i hi
      · rw [Function.update_self, Function.update_self, htop, treeLevel_getD op _ l hi]
    · intro b
      rw [hreduce, hflags, Nat.testBit_or, Bool.or_eq_true, treeLevel_flags, or_assoc]
      refine or_congr_right ⟨?_, ?_⟩
      · rintro (⟨i, hi, hb⟩ | ⟨j, hj, i, hi, hb⟩)
        · exact ⟨k, by omega, i, hi, by rwa [Function.update_self]⟩
        · exact ⟨j, by omega, i, hi, by rwa [Function.update_of_ne (by omega)]⟩
      · rintro ⟨j, hj, i, hi, hb⟩
        rcases Nat.lt_succ_iff_lt_or_eq.mp hj with hjk | rfl
        · exact .inr ⟨j, hjk, i, hi, by rwa [Function.update_of_ne (by omega)] at hb⟩
        · exact .inl ⟨i, hi, by rwa [Function.update_self] at hb⟩

/-! ### Reductions of floats (03 R60, R69; 06 R163) -/

/-- What the tree does with two lanes. -/
def reduceStep (kind : ℕ) (v : VIn) (j a b : ℕ) : Rnd :=
  if kind = 0 then fadd32 a b (v.mode j)
  else if kind = 1 then ff32.enc .rne ((f32 a).max (f32 b)) else ff32.enc .rne ((f32 a).min (f32 b))

/-- What the lanes beyond the elements hold. -/
def reduceIdentity (kind : ℕ) : ℕ := if kind = 0 then 0x80000000 else if kind = 1 then 0xFF800000 else 0x7F800000

/-- An element widened to FP32. -/
def widened (v : VIn) (i : ℕ) : Rnd := ff32.enc .rne (sourceValue v i)

/-- The lanes that the tree starts from. -/
def reduceLanes (kind : ℕ) (v : VIn) (k : ℕ) : List ℕ :=
  ((List.range v.la).map (widened v)).map (·.code) ++ List.replicate (2 ^ k - v.la) (reduceIdentity kind)

theorem vReduceF_float {kind k : ℕ} (hi : isInt v.fa = false) (hk : ceilLog2 v.la = k) : vReduceF kind v =
    let r := treeReduce (reduceStep kind v) k (reduceLanes kind v k) (((List.range v.la).map (widened v)).foldl (fun a x => a ||| x.fl) 0)
    ⟨BitVec.ofNat 2048 r.code, r.fl, none, none⟩ := by
  have hwide : (List.range v.la).map (fun i => ff32.enc .rne (srcValue v.fa v.scal v.sca (v.src i) i)) = (List.range v.la).map (widened v) :=
    List.map_congr_left fun i hi => by rw [widened, sourceValue, if_pos (List.mem_range.mp hi)]
  unfold vReduceF
  rw [hi, if_neg (by simp), hk, hwide, one_shiftLeft_eq]
  rfl

theorem reduceLanes_getD {kind k : ℕ} (hle : v.la ≤ 2 ^ k) {i : ℕ} (hi : i < 2 ^ k) :
    (reduceLanes kind v k).getD i 0 = if i < v.la then (widened v i).code else reduceIdentity kind := by
  rw [reduceLanes, List.getD_eq_getElem?_getD]
  split
  · next h => rw [List.getElem?_append_left (by simpa using h)]; simp [h]
  · next h =>
    rw [List.getElem?_append_right (by simpa using h), List.getElem?_replicate, if_pos (by simp; omega)]
    rfl

theorem reduceStep_code_lt (kind : ℕ) (v : VIn) (j a b : ℕ) : (reduceStep kind v j a b).code < 2 ^ 32 := by
  unfold reduceStep
  split
  · exact enc_code_lt (f := 0) (by omega) _ _
  · split <;> exact enc_code_lt (f := 0) (by omega) _ _

theorem reduceLanes_lt {kind k : ℕ} (hle : v.la ≤ 2 ^ k) {i : ℕ} (hi : i < 2 ^ k) : (reduceLanes kind v k).getD i 0 < 2 ^ 32 := by
  rw [reduceLanes_getD hle hi]
  split
  · exact enc_code_lt (f := 0) (by omega) _ _
  · unfold reduceIdentity; split_ifs <;> omega

theorem reduceStep_reduceOp {kind : ℕ} (j : ℕ) {a b : ℕ} (ha : a < 2 ^ 32) (hb : b < 2 ^ 32) :
    reduceOp kind v.rnd j a b (reduceStep kind v j a b) := by
  unfold reduceOp reduceStep
  by_cases h0 : kind = 0
  · rw [if_pos h0, if_pos h0, VIn.mode, mode_eq_drawnMode]
    exact fadd32_add32 (drawnMode_ok _ _) a b
  · rw [if_neg h0, if_neg h0]
    by_cases h1 : kind = 1
    · rw [if_pos h1, if_pos h1]
      exact enc_max (f := 0) (mo := .rne) (by omega) trivial ha hb
    · rw [if_neg h1, if_neg h1]
      exact enc_min (f := 0) (mo := .rne) (by omega) trivial ha hb

theorem widened_of (hf : cvtFmt v.fa = true) (hi : isInt v.fa = false) (i : ℕ) :
    if v.scal then ScaledTo 0 .rne (elementOf v i) (widened v i) else ConvertedTo 0 .rne (elementOf v i) (widened v i) := by
  split
  · exact enc32_scaledTo (sourceValue_means hf i) (sourceValue_narrow hf hi i)
  · exact enc32_convertedTo (sourceValue_means hf i)

/-- The levels of the tree are those of the statement. -/
theorem reduce_tree {kind k : ℕ} (hle : v.la ≤ 2 ^ k) {T F : ℕ → ℕ → ℕ} (htop : ∀ i, T k i = (reduceLanes kind v k).getD i 0)
    (hstep : ∀ j < k, ∀ i < 2 ^ j, reduceStep kind v (2 ^ j + i) (T (j + 1) i) (T (j + 1) (i + 2 ^ j)) = ⟨T j i, F j i⟩) :
    TreeOf (reduceOp kind v.rnd) k (fun i => if i < v.la then (widened v i).code else reduceIdentity kind) T F := by
  have hlt (j : ℕ) (hj : j ≤ k) (i : ℕ) (hi : i < 2 ^ j) : T j i < 2 ^ 32 := by
    rcases hj.lt_or_eq with hjk | rfl
    · have hcode := congrArg Rnd.code (hstep j hjk i hi)
      rw [← show (⟨T j i, F j i⟩ : Rnd).code = T j i from rfl, ← hcode]
      exact reduceStep_code_lt _ _ _ _ _
    · rw [htop]; exact reduceLanes_lt hle hi
  refine ⟨fun i hi => by rw [htop, reduceLanes_getD hle hi], fun j hj i hi => ?_⟩
  rw [← hstep j hj i hi]
  have hdouble : 2 ^ (j + 1) = 2 ^ j + 2 ^ j := by rw [pow_succ, mul_two]
  exact reduceStep_reduceOp _ (hlt (j + 1) hj _ (by omega)) (hlt (j + 1) hj _ (by omega))

end

theorem reductionsFollowTheTree : Claims.ReductionsFollowTheTree := by
  intro v kind k hkind hf hpos hl hle hlt
  refine ⟨fun hi => reduce_ints hkind hi hpos, fun hi => ?_⟩
  obtain ⟨T, F, hcode, htop, hstep, hflags⟩ := treeReduce_levels (reduceStep kind v) k (reduceLanes kind v k)
    (((List.range v.la).map (widened v)).foldl (fun a x => a ||| x.fl) 0)
  rw [vReduceF_float hi (ceilLog2_eq hpos hle hlt)]
  refine ⟨T, F, widened v, congrArg (BitVec.ofNat 2048) hcode, fun i _ => widened_of hf hi i, reduce_tree hle htop hstep, fun b => ?_⟩
  rw [hflags b, testBit_foldl_or]
  simp

end Sys2Proof.Numbers

namespace Sys2Proof.Numbers

open Sys2Proof Sys2Proof.Machine Sys2Proof.Claims

/-- Settles O22, part by part: the integer lanes, the floats rounded once, the algorithms and the order, what moves bit for bit, the conversions, the
reductions. -/
theorem lanesAreComputed : Obligations.LanesAreComputed :=
  ⟨integerLanesAreExact, floatLanesRound, floatLanesFollowTheirTables, lanesMoveBitForBit, conversionsFollowTheirTables, reductionsFollowTheTree⟩

end Sys2Proof.Numbers


/-! PROOFS. The words of 04 that give a register a value: the integer words (04 R78–R82), branches and jumps (04 R83–R85). First what
a register result of any latency does to its stream, wherever the stream goes on. -/

namespace Sys2Proof.KernelMachine

open Sys2Proof Sys2Proof.Machine Sys2Proof.Claims

/-! ### A register result of any latency, and how its stream goes on (17 R293–R298) -/

/-- A stream that is given a register result: in the register, or on its way there (17 R293, R298). -/
def resultIn (cycle l : Nat) (d : Reg) (v : W64) (x : Stream) : Stream :=
  if d = 0 then x
  else if l ≤ 1 ∧ onWay x d = false then x.put d v
  else { x with pend := x.pend ++ [⟨effective x.pend (fun w => w.toReg d || w.toIreg d) (cycle + l), .reg d v, []⟩] }

/-- A stream whose word has issued and that goes on at `pc`, `x` extra cycles after its stall count (17 R296). -/
def movedOn (cycle : Nat) (w : BitVec 3) (pc : W64) (x : Nat) (y : Stream) : Stream :=
  { y with pc := pc, nextIssue := cycle + 1 + w.toNat + x, issued := y.issued + 1, block := none, lrep := 0, wait := none, lock := false }

/-- What the bank's memory side holds once register `d` has a new result. -/
def memAfter (u : State) (d : Reg) : BankMem := if u.cur.engine = .A ∧ d ≠ 0 then u.myBank.mem.forget d else u.myBank.mem

section
variable (u : State) (d : Reg) (v : W64) (l : Nat)

theorem wrReg_of_ne (hd : d ≠ 0) : wrReg u d v l = (wanted u d).modMe (resultIn u.cycle l d v) := by
  by_cases h : l ≤ 1 ∧ onWay u.me d = false
  · rw [wrReg_at_once hd h.1 h.2]
    exact modMe_congr (by rw [wanted_me, resultIn, if_neg hd, if_pos h])
  · have hlater : 1 < l ∨ onWay u.me d = true := by
      rw [not_and_or, Nat.not_le, Bool.not_eq_false] at h
      exact h
    rw [wrReg_later hd hlater]
    exact modMe_congr (by rw [wanted_me, resultIn, if_neg hd, if_neg h])

theorem onlyBank_wrReg : OnlyBank u.cur.bank u (wrReg u d v l) := by
  by_cases hd : d = 0
  · subst hd; rw [wrReg_zero]; exact onlyBank_refl _ _
  · rw [wrReg_of_ne u d v l hd]
    exact onlyBank_modMe (onlyBank_wanted (onlyBank_refl _ _) rfl d) (by rw [wanted_cur]) _

theorem wrReg_myBank :
    (wrReg u d v l).myBank = { u.myBank.setStream u.cur.engine (resultIn u.cycle l d v u.me) with mem := memAfter u d } := by
  by_cases hd : d = 0
  · subst hd
    rw [wrReg_zero, memAfter, if_neg (fun h => h.2 rfl), resultIn, if_pos rfl, State.me_eq]
    cases u.cur.engine <;> rfl
  · rw [wrReg_of_ne u d v l hd, State.myBank_modMe, wanted_me, wanted_cur, wanted_myBank, memAfter]
    simp only [hd, ne_eq, not_false_eq_true, and_true]
    cases u.cur.engine <;> rfl

theorem wrReg_me : (wrReg u d v l).me = resultIn u.cycle l d v u.me := by
  rw [State.me_eq, onlyBank_cur (onlyBank_wrReg u d v l), wrReg_myBank]
  cases u.cur.engine <;> rfl

theorem wrReg_pc : (wrReg u d v l).me.pc = u.me.pc := by
  rw [wrReg_me, resultIn]
  split
  · rfl
  split
  · exact Stream.put_pc _ _ _
  · rfl

/-- Of a stream that is given a result, and then goes on, only registers and results on their way differ (17 R296). -/
theorem movedOn_resultIn (cycle : Nat) (w : BitVec 3) (pc : W64) (e : Nat) (x : Stream) :
    let y := movedOn cycle w pc e (resultIn cycle l d v x)
    y = movedOn cycle w pc e { x with regs := y.regs, pend := y.pend } := by
  unfold resultIn Stream.put
  repeat' split
  all_goals rfl

theorem get_congr {x y : Stream} (h : x.regs = y.regs) (r : Reg) : x.get r = y.get r := by rw [Stream.get, Stream.get, h]

/-- A stream that has been given a result has it, whatever else of it has changed. -/
theorem delivered_of_result {t : State} {v : W64} (hregs : t.me.regs = (resultIn u.cycle l d v u.me).regs)
    (hpend : t.me.pend = (resultIn u.cycle l d v u.me).pend) : Delivered u t d v l := by
  unfold resultIn at hregs hpend
  rw [Delivered]
  split
  · next hd =>
    rw [if_pos hd] at hregs hpend
    exact ⟨hregs, hpend⟩
  next hd =>
  rw [if_neg hd] at hregs hpend
  split
  · next h =>
    rw [if_pos h] at hregs hpend
    refine ⟨hpend.trans (Stream.put_pend _ _ _), fun r => ?_⟩
    rw [get_congr hregs, Stream.get_put]
    exact if_congr (and_iff_left hd) rfl rfl
  · next h =>
    rw [if_neg h] at hregs hpend
    exact ⟨hregs, _, hpend, effective_le _ _ _, fun hnone => effective_of_none (f := fun w => w.toReg d || w.toIreg d) hnone⟩

/-- A word that gives register `d` a result and goes on at `pc`: `y` is the machine once it has done so, but that its stream has still to
go on. -/
theorem register_retireAt {y : State} (hcur : y.cur = u.cur) (hcycle : y.cycle = u.cycle) (hbank : y.myBank = (wrReg u d v l).myBank)
    (w : BitVec 3) (pc : W64) (x : Nat) :
    let t := retireAt y w pc x
    Delivered u t d v l ∧ GoesOn u t w pc x ∧ OnlyStream u t d := by
  rw [wrReg_myBank] at hbank
  have hme : (retireAt y w pc x).me = movedOn u.cycle w pc x (resultIn u.cycle l d v u.me) := by
    rw [retireAt, State.me_modMe, State.me_eq, hbank, hcur, hcycle]
    cases u.cur.engine <;> rfl
  have hmine : (retireAt y w pc x).myBank =
      { u.myBank.setStream u.cur.engine (retireAt y w pc x).me with mem := memAfter u d } := by
    rw [retireAt, State.myBank_modMe, State.me_modMe, hbank, hcur]
    cases u.cur.engine <;> rfl
  refine ⟨delivered_of_result u d l (by rw [hme]; rfl) (by rw [hme]; rfl), ?_, hmine⟩
  rw [GoesOn, hme]
  exact movedOn_resultIn d v l _ _ _ _ _

end

/-- A word that gives register `d` a value and goes on with the next word does that and nothing else. -/
theorem registerWord_wrReg (s : State) (w : BitVec 3) (d : Reg) (v : W64) (l : Nat) :
    RegisterWord s (retire (wrReg (issueState s) d v l) w) w d v l := by
  have hv := onlyBank_wrReg (issueState s) d v l
  have hretire : retire (wrReg (issueState s) d v l) w = retireAt (wrReg (issueState s) d v l) w ((issueState s).me.pc + 4) 0 := by
    rw [retire, wrReg_pc]
  have honly := onlyBank_retire hv (congrArg Current.bank (onlyBank_cur hv)) w
  rw [hretire] at honly ⊢
  obtain ⟨hgiven, hgoes, hstream⟩ :=
    register_retireAt (issueState s) d v l (onlyBank_cur hv) (onlyBank_cycle hv) rfl w ((issueState s).me.pc + 4) 0
  exact ⟨hgiven, hgoes, hstream, honly, fun a => (onlyBank_byteAt honly a).trans (issueState_byteAt s a)⟩

theorem registerWord_of_run {s : State} {i : Instr} {f : State → Res State} {w : BitVec 3} {d : Reg} {v : W64} {l : Nat} (hi : exec i s = run s f)
    (h : f (issueState s) = .ok (retire (wrReg (issueState s) d v l) w)) : ∃ t, exec i s = .next t ∧ RegisterWord s t w d v l :=
  ⟨_, next_of_ok hi h, registerWord_wrReg s w d v l⟩

/-! ### The integer arithmetic of 04 R79–R82 -/

theorem wrap_toInt (x : W64) : wrap x.toInt = x := BitVec.ofInt_toInt

theorem toNat_shiftCount (y : W64) : (y.extractLsb' 0 6).toNat = y.toNat % 64 := by simp [BitVec.extractLsb'_toNat]

theorem shiftLeft_eq_ofNat (x : W64) (n : Nat) : x <<< n = BitVec.ofNat 64 (x.toNat * 2 ^ n) := by
  apply BitVec.eq_of_toNat_eq
  simp [Nat.shiftLeft_eq]

theorem ushiftRight_eq_ofNat (x : W64) (n : Nat) : x >>> n = BitVec.ofNat 64 (x.toNat / 2 ^ n) := by
  apply BitVec.eq_of_toNat_eq
  rw [BitVec.toNat_ushiftRight, Nat.shiftRight_eq_div_pow, BitVec.toNat_ofNat, Nat.mod_eq_of_lt]
  exact Nat.lt_of_le_of_lt (Nat.div_le_self _ _) x.isLt

theorem sshiftRight_eq_wrap (x : W64) (n : Nat) : x.sshiftRight n = wrap (x.toInt / 2 ^ n) := by
  rw [← wrap_toInt (x.sshiftRight n), BitVec.toInt_sshiftRight, Int.shiftRight_eq_div_pow]
  norm_cast

theorem add_eq_wrap (x y : W64) : x + y = wrap (x.toInt + y.toInt) := by
  rw [wrap, BitVec.ofInt_add, BitVec.ofInt_toInt, BitVec.ofInt_toInt]

theorem mul_eq_wrap (x y : W64) : x * y = wrap (x.toInt * y.toInt) := by
  rw [wrap, BitVec.ofInt_mul, BitVec.ofInt_toInt, BitVec.ofInt_toInt]

theorem wrap_sub (i j : Int) : wrap (i - j) = wrap i - wrap j := by
  rw [wrap, Int.sub_eq_add_neg, BitVec.ofInt_add, BitVec.ofInt_neg]
  exact (BitVec.sub_eq_add_neg _ _).symm

theorem sub_eq_wrap (x y : W64) : x - y = wrap (x.toInt - y.toInt) := by
  rw [wrap_sub, wrap_toInt, wrap_toInt]

/-- The upper half of a double-width product is the product shifted down (04 R79). -/
theorem extract_ofInt_eq_wrap (z : Int) : (BitVec.ofInt 128 z).extractLsb' 64 64 = wrap (z / 2 ^ 64) := by
  apply BitVec.eq_of_toNat_eq
  rw [BitVec.extractLsb'_toNat, wrap, BitVec.toNat_ofInt, BitVec.toNat_ofInt, Nat.shiftRight_eq_div_pow]
  omega

theorem opMulh_eq (x y : W64) : opMulh x y = wrap (x.toInt * y.toInt / 2 ^ 64) := by
  rw [← extract_ofInt_eq_wrap, BitVec.ofInt_mul]; rfl

theorem opMulhu_eq (x y : W64) : opMulhu x y = BitVec.ofNat 64 (x.toNat * y.toNat / 2 ^ 64) := by
  apply BitVec.eq_of_toNat_eq
  have hx := x.isLt
  have hy := y.isLt
  have hlt : x.toNat * y.toNat < 2 ^ 128 := by
    calc x.toNat * y.toNat < 2 ^ 64 * 2 ^ 64 := Nat.mul_lt_mul'' hx hy
      _ = 2 ^ 128 := by norm_num
  rw [opMulhu, BitVec.extractLsb'_toNat, BitVec.toNat_mul, BitVec.toNat_setWidth, BitVec.toNat_setWidth,
    Nat.mod_eq_of_lt (by omega : x.toNat < 2 ^ 128), Nat.mod_eq_of_lt (by omega : y.toNat < 2 ^ 128), Nat.mod_eq_of_lt hlt,
    Nat.shiftRight_eq_div_pow, BitVec.toNat_ofNat]

theorem sdiv_eq_wrap (x y : W64) : x.sdiv y = wrap (x.toInt.tdiv y.toInt) := by
  apply BitVec.eq_of_toInt_eq
  rw [BitVec.toInt_sdiv, wrap, BitVec.toInt_ofInt]

theorem opDiv_eq (x y : W64) : opDiv x y = if y = 0 then BitVec.allOnes 64 else wrap (x.toInt.tdiv y.toInt) := by
  unfold opDiv
  split
  · rfl
  split
  · next h => obtain ⟨rfl, rfl⟩ := h; decide
  · exact sdiv_eq_wrap x y

theorem opDivu_eq (x y : W64) : opDivu x y = if y = 0 then BitVec.allOnes 64 else BitVec.ofNat 64 (x.toNat / y.toNat) := by
  unfold opDivu
  split
  · rfl
  · rw [← BitVec.toNat_udiv, BitVec.ofNat_toNat, BitVec.setWidth_eq]

theorem opRem_eq (x y : W64) : opRem x y = if y = 0 then x else wrap (x.toInt.tmod y.toInt) := by
  unfold opRem
  split
  · rfl
  split
  · next h => obtain ⟨rfl, rfl⟩ := h; decide
  · rw [Int.tmod_def, wrap_sub, wrap_toInt, wrap, BitVec.ofInt_mul, BitVec.ofInt_toInt, sdiv_eq_wrap, wrap]

theorem opShl_eq (x y : W64) : opShl x y = BitVec.ofNat 64 (x.toNat * 2 ^ (y.toNat % 64)) := by
  rw [opShl, toNat_shiftCount, shiftLeft_eq_ofNat]

theorem opShr_eq (x y : W64) : opShr x y = BitVec.ofNat 64 (x.toNat / 2 ^ (y.toNat % 64)) := by
  rw [opShr, toNat_shiftCount, ushiftRight_eq_ofNat]

theorem opSra_eq (x y : W64) : opSra x y = wrap (x.toInt / 2 ^ (y.toNat % 64)) := by
  rw [opSra, toNat_shiftCount, sshiftRight_eq_wrap]

/-- A choice by a comparison of words is one by the integers that they stand for. -/
theorem ite_slt {α : Type} (x y : W64) (p q : α) : (if x.slt y then p else q) = if x.toInt < y.toInt then p else q :=
  if_congr BitVec.slt_iff_toInt_lt rfl rfl

theorem ite_ult {α : Type} (x y : W64) (p q : α) : (if x.ult y then p else q) = if x.toNat < y.toNat then p else q :=
  if_congr BitVec.ult_iff_toNat_lt rfl rfl

/-- A constant below a word shifted left by its width (04 R82). -/
theorem shiftLeft_or_eq (x : W64) (i : BitVec 15) : (x <<< 15) ||| i.setWidth 64 = BitVec.ofNat 64 (x.toNat * 32768 + i.toNat) := by
  apply BitVec.eq_of_toNat_eq
  have hlow : i.toNat < 2 ^ 15 := i.isLt
  rw [BitVec.toNat_or, BitVec.toNat_shiftLeft, BitVec.toNat_setWidth, ← Nat.or_mod_two_pow, ← Nat.shiftLeft_add_eq_or_of_lt hlow,
    Nat.shiftLeft_eq, BitVec.toNat_ofNat]

theorem toInt_signExtend_ten (i : BitVec 10) : (i.signExtend 64).toInt = i.toInt := BitVec.toInt_signExtend_of_le (by decide)

theorem toNat_setWidth_six (i : BitVec 6) : (i.setWidth 64 : W64).toNat % 64 = i.toNat := by
  have hlt := i.isLt
  rw [BitVec.toNat_setWidth]
  omega

/-! ### The forms that run it -/

/-- Each register form computes its value of 04 R79, R80 with its latency. -/
theorem registerForm_runs {form : (BitVec 3 → Reg → Reg → Reg → Instr) × (W64 → W64 → W64) × Nat} (h : form ∈ registerForms) :
    ∃ f, (∀ x y, f x y = form.2.1 x y) ∧ ∀ w d a b s, exec (form.1 w d a b) s = run s (aluR f form.2.2 w d a b) := by
  simp only [registerForms, List.mem_cons, List.not_mem_nil, or_false] at h
  rcases h with rfl | rfl | rfl | rfl | rfl | rfl | rfl | rfl | rfl | rfl | rfl | rfl | rfl | rfl | rfl | rfl | rfl | rfl | rfl | rfl
  · exact ⟨_, add_eq_wrap, fun _ _ _ _ _ => rfl⟩
  · exact ⟨_, sub_eq_wrap, fun _ _ _ _ _ => rfl⟩
  · exact ⟨_, fun _ _ => rfl, fun _ _ _ _ _ => rfl⟩
  · exact ⟨_, fun _ _ => rfl, fun _ _ _ _ _ => rfl⟩
  · exact ⟨_, fun _ _ => rfl, fun _ _ _ _ _ => rfl⟩
  · exact ⟨_, opShl_eq, fun _ _ _ _ _ => rfl⟩
  · exact ⟨_, opShr_eq, fun _ _ _ _ _ => rfl⟩
  · exact ⟨_, opSra_eq, fun _ _ _ _ _ => rfl⟩
  · exact ⟨_, mul_eq_wrap, fun _ _ _ _ _ => rfl⟩
  · exact ⟨_, opMulh_eq, fun _ _ _ _ _ => rfl⟩
  · exact ⟨_, opMulhu_eq, fun _ _ _ _ _ => rfl⟩
  · exact ⟨_, opDiv_eq, fun _ _ _ _ _ => rfl⟩
  · exact ⟨_, opDivu_eq, fun _ _ _ _ _ => rfl⟩
  · exact ⟨_, opRem_eq, fun _ _ _ _ _ => rfl⟩
  · exact ⟨opMin, fun x y => ite_slt x y x y, fun _ _ _ _ _ => rfl⟩
  · exact ⟨opMax, fun x y => ite_slt x y y x, fun _ _ _ _ _ => rfl⟩
  · exact ⟨opMinu, fun x y => ite_ult x y x y, fun _ _ _ _ _ => rfl⟩
  · exact ⟨opMaxu, fun x y => ite_ult x y y x, fun _ _ _ _ _ => rfl⟩
  · exact ⟨opSlt, fun x y => ite_slt x y 1 0, fun _ _ _ _ _ => rfl⟩
  · exact ⟨opSltu, fun x y => ite_ult x y 1 0, fun _ _ _ _ _ => rfl⟩

/-- Each form with an immediate computes its value of 04 R81 from the sign-extended constant. -/
theorem immediateForm_runs {form : (BitVec 3 → Reg → Reg → BitVec 10 → Instr) × (W64 → Int → W64)} (h : form ∈ immediateForms) :
    ∃ f, (∀ (x : W64) (i : BitVec 10), f x (i.signExtend 64) = form.2 x i.toInt) ∧
      ∀ w d a i s, exec (form.1 w d a i) s = run s (aluI f w d a (i.signExtend 64)) := by
  simp only [immediateForms, List.mem_cons, List.not_mem_nil, or_false] at h
  rcases h with rfl | rfl | rfl | rfl | rfl
  · exact ⟨_, fun x i => by rw [← toInt_signExtend_ten]; exact add_eq_wrap _ _, fun _ _ _ _ _ => rfl⟩
  · exact ⟨_, fun _ _ => rfl, fun _ _ _ _ _ => rfl⟩
  · exact ⟨_, fun _ _ => rfl, fun _ _ _ _ _ => rfl⟩
  · exact ⟨_, fun _ _ => rfl, fun _ _ _ _ _ => rfl⟩
  · exact ⟨opSlt, fun x i => by rw [← toInt_signExtend_ten]; exact ite_slt _ _ _ _, fun _ _ _ _ _ => rfl⟩

/-- Each form with a shift amount computes its value of 04 R81. -/
theorem shiftForm_runs {form : (BitVec 3 → Reg → Reg → BitVec 6 → Instr) × (W64 → Nat → W64)} (h : form ∈ shiftForms) :
    ∃ f, (∀ (x : W64) (i : BitVec 6), f x (i.setWidth 64) = form.2 x i.toNat) ∧
      ∀ w d a i s, exec (form.1 w d a i) s = run s (aluI f w d a (i.setWidth 64)) := by
  simp only [shiftForms, List.mem_cons, List.not_mem_nil, or_false] at h
  rcases h with rfl | rfl | rfl
  · exact ⟨opShl, fun x i => by rw [opShl_eq, toNat_setWidth_six], fun _ _ _ _ _ => rfl⟩
  · exact ⟨opShr, fun x i => by rw [opShr_eq, toNat_setWidth_six], fun _ _ _ _ _ => rfl⟩
  · exact ⟨opSra, fun x i => by rw [opSra_eq, toNat_setWidth_six], fun _ _ _ _ _ => rfl⟩

theorem aluR_readable {u : State} {a b : Reg} (ha : Readable u a) (hb : Readable u b) (f : W64 → W64 → W64) (l : Nat) (w : BitVec 3) (d : Reg) :
    aluR f l w d a b u = .ok (retire (wrReg u d (f (u.me.get a) (u.me.get b)) l) w) := by
  simp only [aluR, rd_of_readable ha, rd_of_readable hb, Except.bind_ok']

theorem aluI_readable {u : State} {a : Reg} (ha : Readable u a) (f : W64 → W64 → W64) (w : BitVec 3) (d : Reg) (k : W64) :
    aluI f w d a k u = .ok (retire (wrReg u d (f (u.me.get a) k) 1) w) := by
  simp only [aluI, rd_of_readable ha, Except.bind_ok']

theorem registerFormsCompute : Claims.RegisterFormsCompute := by
  intro form hform w d a b s ha hb
  obtain ⟨f, hf, hruns⟩ := registerForm_runs hform
  rw [← hf]
  exact registerWord_of_run (hruns w d a b s) (aluR_readable ha hb f _ w d)

theorem immediateFormsCompute : Claims.ImmediateFormsCompute := by
  refine ⟨fun form hform w d a i s ha => ?_, fun form hform w d a i s ha => ?_⟩
  · obtain ⟨f, hf, hruns⟩ := immediateForm_runs hform
    rw [← hf]
    exact registerWord_of_ok (hruns w d a i s) (aluI_readable ha f w d _)
  · obtain ⟨f, hf, hruns⟩ := shiftForm_runs hform
    rw [← hf]
    exact registerWord_of_ok (hruns w d a i s) (aluI_readable ha f w d _)

theorem constantsLoad : Claims.ConstantsLoad := by
  refine fun w d i s => ⟨registerWord_of_ok rfl rfl, fun hd => registerWord_of_ok rfl ?_⟩
  simp only [rd_of_readable hd, Except.bind_ok', shiftLeft_or_eq]

/-- Settles O1: each form runs one function of its operands, which is the table's value in integers; a result of any latency does nothing else. -/
theorem integerFormsCompute : Obligations.IntegerFormsCompute := ⟨registerFormsCompute, immediateFormsCompute, constantsLoad⟩

/-! ### Branches and jumps (04 R83–R85) -/

/-- The core has served a redirect (17 R297). -/
abbrev redirected (c : Core) (r : Nat × Nat) : Core := { c with redir := r }

theorem bank_redirected (c : Core) (r : Nat × Nat) (x : Bool) : (redirected c r).bank x = c.bank x := by cases x <;> rfl

theorem setBank_redirected (c : Core) (r : Nat × Nat) (x : Bool) (k : Bank) :
    redirected (c.setBank x k) r = (redirected c r).setBank x k := by
  cases x <;> rfl

theorem onlyBank_redir {b : BankId} {u t : State} (h : OnlyBank b u t) (n : Nat) : (t.core n).redir = (u.core n).redir := by
  rw [onlyBank_core h]
  split
  · cases b.slot <;> rfl
  · rfl

/-- A redirect that the core serves beside a change of its bank. -/
theorem onlyBank_redirected {b : BankId} {u v : State} (h : OnlyBank b u v) (r : Nat × Nat) :
    OnlyBank b (u.setCore b.core (redirected (u.core b.core) r)) (v.setCore b.core (redirected (v.core b.core) r)) := by
  have hcore := onlyBank_core h
  have hbank : (v.setCore b.core (redirected (v.core b.core) r)).bank b = v.bank b := by
    rw [State.bank, State.core_setCore, if_pos rfl, bank_redirected]; rfl
  obtain ⟨h1, h2, h3, h4, h5, h6, h7, h8, h9, h10, -⟩ := h
  refine ⟨h1, h2, h3, h4, h5, h6, h7, h8, h9, h10, fun n => ?_⟩
  rw [hbank, State.core_setCore, State.core_setCore]
  split
  · rw [hcore, if_pos rfl, setBank_redirected]
  · next hn => rw [hcore, if_neg hn]

/-- The machine `v`, whose core has served the redirect of a word that issues in `u`. -/
def redirectServed (u v : State) : State :=
  v.setCore u.cur.bank.core (redirected (v.core u.cur.bank.core) (u.cycle, redirectPlace u))

theorem redirectNo_beside {u v : State} (h : OnlyBank u.cur.bank u v) : redirectNo v = (redirectPlace u, redirectServed u v) := by
  have hplace : redirectPlace v = redirectPlace u := by
    rw [redirectPlace, redirectPlace, onlyBank_cur h, onlyBank_cycle h, onlyBank_redir h]
  rw [redirectNo_eq, redirecting, hplace, onlyBank_cur h, onlyBank_cycle h]
  rfl

theorem redirectServed_cur (u v : State) : (redirectServed u v).cur = v.cur := rfl
theorem redirectServed_cycle (u v : State) : (redirectServed u v).cycle = v.cycle := rfl

theorem redirectServed_myBank {u v : State} (hcur : v.cur = u.cur) : (redirectServed u v).myBank = v.myBank := by
  rw [redirectServed, State.myBank, State.bank, State.setCore_cur, hcur, State.core_setCore, if_pos rfl, bank_redirected, State.myBank, hcur]
  rfl

/-- A word that gives register `d` a value and moves the pc does that, with the core's redirect, and nothing else. -/
theorem jumpWord_redirect (s : State) (w : BitVec 3) (d : Reg) (v pc : W64) :
    JumpWord s (redirect (wrReg (issueState s) d v 1) w pc) w d v pc := by
  have hv := onlyBank_wrReg (issueState s) d v 1
  have hcur : (redirectServed (issueState s) (wrReg (issueState s) d v 1)).cur = (issueState s).cur :=
    (redirectServed_cur _ _).trans (onlyBank_cur hv)
  have hcycle : (redirectServed (issueState s) (wrReg (issueState s) d v 1)).cycle = (issueState s).cycle :=
    (redirectServed_cycle _ _).trans (onlyBank_cycle hv)
  rw [redirect, redirectNo_beside hv]
  obtain ⟨hgiven, hgoes, hstream⟩ := register_retireAt (issueState s) d v 1 hcur hcycle (redirectServed_myBank (onlyBank_cur hv)) w pc
    (redirectPlace (issueState s))
  have honly := onlyBank_modMe (onlyBank_redirected hv ((issueState s).cycle, redirectPlace (issueState s))) (congrArg Current.bank hcur)
  exact ⟨hgiven, hgoes, hstream, ⟨_, honly _, rfl⟩, fun a => (onlyBank_byteAt (honly _) a).trans (issueState_byteAt s a)⟩

theorem jumpWord_of_ok {s : State} {i : Instr} {f : State → Res State} {w : BitVec 3} {d : Reg} {v pc : W64} (hi : exec i s = run s f)
    (h : f (issueState s) = .ok (redirect (wrReg (issueState s) d v 1) w pc)) : ∃ t, exec i s = .next t ∧ JumpWord s t w d v pc :=
  ⟨_, next_of_ok hi h, jumpWord_redirect s w d v pc⟩

/-- Each branch tests the condition of 04 R83 on the integers that its operands stand for. -/
theorem branch_runs {form : (BitVec 3 → Reg → Reg → BitVec 10 → Instr) × (W64 → W64 → Bool)} (h : form ∈ branches) :
    ∃ p, (∀ x y, p x y = form.2 x y) ∧ ∀ w a b o s, exec (form.1 w a b o) s = run s (branchIf p w a b o) := by
  simp only [branches, List.mem_cons, List.not_mem_nil, or_false] at h
  rcases h with rfl | rfl | rfl | rfl | rfl | rfl
  · exact ⟨_, fun _ _ => rfl, fun _ _ _ _ _ => rfl⟩
  · exact ⟨_, fun x y => Bool.eq_iff_iff.mpr (by simp), fun _ _ _ _ _ => rfl⟩
  · exact ⟨_, fun _ _ => rfl, fun _ _ _ _ _ => rfl⟩
  · exact ⟨_, fun x y => decide_not.symm.trans (decide_eq_decide.mpr not_lt), fun _ _ _ _ _ => rfl⟩
  · exact ⟨_, fun _ _ => rfl, fun _ _ _ _ _ => rfl⟩
  · exact ⟨_, fun x y => decide_not.symm.trans (decide_eq_decide.mpr not_lt), fun _ _ _ _ _ => rfl⟩

theorem branchesGoOn : Claims.BranchesGoOn := by
  intro form hform w a b o s ha hb
  obtain ⟨p, hp, hruns⟩ := branch_runs hform
  have hmeaning : branchIf p w a b o (issueState s) = .ok (if p ((issueState s).me.get a) ((issueState s).me.get b)
      then redirect (issueState s) w (target (issueState s).me.pc o) else retire (issueState s) w) := by
    simp only [branchIf, rd_of_readable ha, rd_of_readable hb, Except.bind_ok']
  rw [← hp]
  by_cases htaken : p ((issueState s).me.get a) ((issueState s).me.get b) = true
  · rw [if_pos htaken] at hmeaning
    simp only [htaken, if_true]
    refine jumpWord_of_ok (hruns w a b o s) ?_
    rw [hmeaning, wrReg_zero, target_eq_wrap]
  · rw [if_neg htaken] at hmeaning
    simp only [htaken, Bool.false_eq_true, if_false]
    refine registerWord_of_ok (hruns w a b o s) ?_
    rw [hmeaning, wrReg_zero]

/-- The low two bits of an address are clear where it is a word's. -/
theorem lowBits_ne_zero_iff (x : W64) : x.extractLsb' 0 2 ≠ 0 ↔ x.toNat % 4 ≠ 0 := by
  rw [ne_eq, ← BitVec.toNat_inj]
  simp

theorem jalr_target (x : W64) (i : BitVec 10) : x + 4 * i.signExtend 64 = wrap (x.toInt + 4 * i.toInt) := by
  rw [wrap, BitVec.ofInt_add, BitVec.ofInt_mul, BitVec.ofInt_toInt]
  rfl

theorem jumpsLink : Claims.JumpsLink := by
  intro w d a s
  refine ⟨fun o => jumpWord_of_ok rfl ?_, fun i ha => ?_⟩
  · rw [target_eq_wrap]
  dsimp only
  rw [← jalr_target]
  split
  · next haligned =>
    refine jumpWord_of_ok rfl ?_
    simp only [rd_of_readable ha, Except.bind_ok', if_neg (not_not.mpr haligned ∘ (lowBits_ne_zero_iff _).mp)]
  · next hodd =>
    refine traps_of_error rfl ?_ (by decide)
    simp only [rd_of_readable ha, Except.bind_ok', if_pos ((lowBits_ne_zero_iff _).mpr hodd), valTrap]

/-- Settles O3: a branch tests one condition and goes on at one of two words, a jump links and goes on at its target. -/
theorem branchesAndJumps : Obligations.BranchesAndJumps := ⟨branchesGoOn, jumpsLink⟩

end Sys2Proof.KernelMachine


/-! PROOFS. Semaphores and fences (04 R92–R95). -/

namespace Sys2Proof.KernelMachine

open Sys2Proof Sys2Proof.Machine Sys2Proof.Claims

/-- The test of SEMWAIT is that of 04 R93: the value has gone at most half the circle beyond what is awaited. -/
theorem semReached_iff (val : BitVec 32) (x : W64) :
    semReached val (x.setWidth 32) = true ↔ (val.toNat + 2 ^ 32 - x.toNat % 2 ^ 32) % 2 ^ 32 < 2 ^ 31 := by
  have hcircle : (val - x.setWidth 32).toNat = (val.toNat + 2 ^ 32 - x.toNat % 2 ^ 32) % 2 ^ 32 := by
    have := Nat.mod_lt x.toNat (by decide : 0 < 2 ^ 32)
    rw [BitVec.toNat_sub, BitVec.toNat_setWidth]
    congr 1
    omega
  rw [semReached, decide_eq_true_eq, hcircle]
  rfl

/-- What an acquire does to its bank. -/
theorem acquire_eq (u : State) : acquire u u.cur.bank = u.modMyBank (fun k => { k with mem := k.mem.acquire }) := rfl

/-- A word that traps with a cause, a value, an operand and a reason of its own. -/
theorem enters_of_error {s : State} {i : Instr} {f : State → Res State} {tr : Trap} (hi : exec i s = run s f)
    (h : f (issueState s) = .error (.trap tr)) (hc : tr.cause ≠ .undersizedStall) :
    exec i s = .next (takeTrap (issueState s) (issueState s).cur.bank (issueState s).cur.engine tr (issueState s).me.pc) := by
  rw [hi, run_trap h (.inl hc)]
  simp [issueState]

theorem semwaitAcquiresBlocksOrTraps : Claims.SemwaitAcquiresBlocksOrTraps := by
  intro w a n s
  dsimp only
  intro ha
  have hstart : ∀ k : W64 → Res State, (rd (issueState s) a >>= k) = k ((issueState s).me.get a) := fun k => by
    rw [rd_of_readable ha, Except.bind_ok']
  have hmet : (semReached ((issueState s).myCtx.sem n.toNat).val (((issueState s).me.get a).setWidth 32) &&
      !((issueState s).me.sigs.any (·.sem == n.toNat))) = true ↔
      ((((issueState s).myCtx.sem n.toNat).val.toNat + 2 ^ 32 - ((issueState s).me.get a).toNat % 2 ^ 32) % 2 ^ 32 < 2 ^ 31 ∧
        ∀ p ∈ (issueState s).me.sigs, p.sem ≠ n.toNat) := by
    rw [Bool.and_eq_true, semReached_iff]
    simp
  split
  · next herr => 
    refine enters_of_error rfl ?_ Cause.noConfusion
    rw [hstart, if_pos herr]
  · next herr =>
    split
    · next h =>
      refine bankWord_of_mod (g := fun k => { k with mem := k.mem.acquire }) rfl ?_
      rw [hstart, if_neg herr, if_pos (hmet.2 h), acquire_eq]
    · next h =>
      refine blocks_of_error rfl ?_
      rw [hstart, if_neg herr, if_neg (fun hb => h (hmet.1 hb))]

/-- The addition that SEMSIG posts: from A and C it also waits for the release of what their bank had written (04 R94). -/
def semsigPost (u : State) (a : Reg) (n : BitVec 10) : PostedSig :=
  let m := u.myBank.markOf [u.cur.engine]
  ⟨n.toNat, (u.me.get a).setWidth 32, m, if u.cur.engine = .A || u.cur.engine = .C then some m.mark else none⟩

theorem semsigPostsFenceOrders : Claims.SemsigPostsFenceOrders := by
  intro w a n c s
  dsimp only
  refine ⟨fun ha => ?_, fun hq he => ?_, fun hq he hr => ?_, fun h => ?_⟩
  · obtain ⟨t, hword, hbank⟩ := bankWord_of_mod (i := .semsig w a n) (w := w)
      (g := fun k => k.setStream (issueState s).cur.engine
        { (issueState s).me with sigs := (issueState s).me.sigs ++ [semsigPost (issueState s) a n] }) rfl (by
        rw [rd_of_readable ha, Except.bind_ok']; rfl)
    exact ⟨t, _, hword, hbank, rfl, BitVec.toNat_setWidth .., rfl⟩
  · have hword := next_of_ok (i := .fence w c) rfl (by rw [waitIf_quiet hq, Except.bind_ok', if_neg he])
    exact ⟨_, hword, bankWord_retire (onlyBank_refl _ _) w⟩
  · refine bankWord_of_mod (g := fun k => { k with mem := (k.mem.reveal (fun _ => true)).acquire }) rfl ?_
    rw [waitIf_quiet hq, Except.bind_ok', if_pos he, waitIf_false (by rw [hr]; rfl), Except.bind_ok']
    exact congrArg (fun x => Except.ok (retire x w)) (modMyBank_modMyBank _ _ _)
  · by_cases hq : Quiet (issueState s)
    · obtain ⟨he, hr⟩ := h.resolve_left (not_not_intro hq)
      refine waits_of_error true rfl ?_
      rw [waitIf_quiet hq, Except.bind_ok', if_pos he, waitIf_true (by rw [hr]; rfl), Except.bind_error']
    · refine waits_of_error ((issueState s).myBank.waitsOnA (issueState s).cur.engine) rfl ?_
      rw [waitIf_not_quiet hq, Except.bind_error']

/-- Settles O5: SEMWAIT, SEMSIG and FENCE case by case. -/
theorem semaphoreWordsAct : Obligations.SemaphoreWordsAct := ⟨semwaitAcquiresBlocksOrTraps, semsigPostsFenceOrders⟩

end Sys2Proof.KernelMachine


/-! PROOFS. Taking a trap (21 R351–R353), and the words that ask for one (04 R96). -/

namespace Sys2Proof.KernelMachine

open Sys2Proof Sys2Proof.Machine Sys2Proof.Claims

/-! ### What stands while a unit fails: everything but its core, its context, its launch and memory (21 R351) -/

/-- Time, the Escapement and the agenda stand, of the fleet side but homes are woken, and of the other cores but injections disarmed. -/
structure BesideUnit (b : BankId) (u t : State) : Prop where
  agenda : t.agenda = u.agenda
  cycle : t.cycle = u.cycle
  time : t.time = u.time
  esc : t.esc = u.esc
  wakes : OnlyWakes u t
  disarms : ∀ i, i ≠ b.core → OnlyDisarms u t i

section
variable {b : BankId}

theorem BesideUnit.refl (b : BankId) (s : State) : BesideUnit b s s := ⟨rfl, rfl, rfl, rfl, rfl, fun _ _ => rfl⟩

theorem BesideUnit.trans {s t v : State} (h : BesideUnit b s t) (h' : BesideUnit b t v) : BesideUnit b s v where
  agenda := h'.agenda.trans h.agenda
  cycle := h'.cycle.trans h.cycle
  time := h'.time.trans h.time
  esc := h'.esc.trans h.esc
  wakes := by
    have hw := h'.wakes
    have hv := h.wakes
    unfold OnlyWakes at hw hv ⊢
    rw [hw, hv]
  disarms i hi := by
    have hw := h'.disarms i hi
    have hv := h.disarms i hi
    unfold OnlyDisarms at hw hv ⊢
    rw [hw, hv]

theorem BesideUnit.foldl {α : Type} {f : State → α → State} (h : ∀ s x, BesideUnit b s (f s x)) (l : List α) (s : State) :
    BesideUnit b s (l.foldl f s) := by
  induction l generalizing s with
  | nil => exact .refl b s
  | cons x l ih => exact (h s x).trans (ih _)

theorem besideUnit_wakeHome (s : State) (pa : Nat) : BesideUnit b s (wakeHome s pa) := by
  unfold wakeHome
  split
  · exact .refl b s
  · dsimp only
    split <;> exact ⟨rfl, rfl, rfl, rfl, rfl, fun _ _ => rfl⟩

theorem besideUnit_dropInj (s : State) (n : Nat) (j : Injection) : BesideUnit b s (dropInj s n j) := by
  refine ⟨rfl, rfl, rfl, rfl, rfl, fun i _ => ?_⟩
  unfold OnlyDisarms dropInj
  rw [State.core_setCore]
  split
  · next h => subst h; rfl
  · rfl

theorem besideUnit_putBytes (s : State) (pa : Nat) (d : List Byte) : BesideUnit b s (putBytes s pa d) := by
  have hwoken : BesideUnit b s (wakeHomes s pa d.length) := BesideUnit.foldl (fun s _ => besideUnit_wakeHome s _) _ s
  have hdisarmed : BesideUnit b (wakeHomes s pa d.length) (disarmWrite (wakeHomes s pa d.length) pa d.length) :=
    BesideUnit.foldl (fun s (x : Nat × Injection) => besideUnit_dropInj s x.1 x.2) _ _
  unfold putBytes
  dsimp only
  generalize disarmWrite (wakeHomes s pa d.length) pa d.length = x at hdisarmed ⊢
  exact (hwoken.trans hdisarmed).trans ⟨rfl, rfl, rfl, rfl, rfl, fun _ _ => rfl⟩

theorem besideUnit_write (s : State) (pa : Nat) (d : List Byte) : BesideUnit b s (s.write pa d) := by
  unfold State.write
  split
  · exact ⟨rfl, rfl, rfl, rfl, rfl, fun _ _ => rfl⟩
  · exact besideUnit_putBytes s pa d

theorem besideUnit_errorRecord (s : State) (n : Nat) (d : List Byte) : BesideUnit b s (s.errorRecord n d) :=
  ((besideUnit_write s _ _).trans (besideUnit_write _ _ _)).trans ⟨rfl, rfl, rfl, rfl, rfl, fun _ _ => rfl⟩

theorem besideUnit_modLaunch (s : State) (id : Nat) (f : Launch → Launch) : BesideUnit b s (s.modLaunch id f) := by
  unfold State.modLaunch
  split <;> exact ⟨rfl, rfl, rfl, rfl, rfl, fun _ _ => rfl⟩

theorem besideUnit_busyBy (s : State) (ctx : Nat) (d : Int) (l : List Nat) : BesideUnit b s (busyBy s ctx d l) :=
  BesideUnit.foldl (fun s _ => besideUnit_write s _ _) l s

theorem besideUnit_modBank (s : State) (b : BankId) (f : Bank → Bank) : BesideUnit b s (s.modBank b f) := by
  refine ⟨rfl, rfl, rfl, rfl, rfl, fun i hi => ?_⟩
  unfold OnlyDisarms
  rw [State.core_modBank, if_neg hi]

end

/-! ### Contexts and launches under the steps of a failure (21 R353; 20 R333) -/

theorem write_ctxs (s : State) (pa : Nat) (d : List Byte) : (s.write pa d).ctxs = s.ctxs := by
  unfold State.write
  split
  · rfl
  · exact putBytes_ctxs s pa d

theorem busyBy_ctxs (s : State) (ctx : Nat) (d : Int) (l : List Nat) : (busyBy s ctx d l).ctxs = s.ctxs := by
  unfold busyBy
  induction l generalizing s with
  | nil => rfl
  | cons x l ih => exact (ih _).trans (write_ctxs s _ _)

theorem unitsStand_busyBy (s : State) (ctx : Nat) (d : Int) (l : List Nat) : UnitsStand s (busyBy s ctx d l) :=
  UnitsStand.foldl (fun s _ => unitsStand_write s _ _) l s

/-- An error record leaves its context with one record more in its queue, and every other as it was. -/
theorem errorRecord_ctx (s : State) (n m : Nat) (d : List Byte) : (s.errorRecord n d).ctx m =
    if m = n then { s.ctx n with eqcount := (s.ctx n).eqcount + 1, changes := (s.ctx n).changes + 1 } else s.ctx m := by
  refine (State.ctx_setCtx _ _ _ _).trans ?_
  have hctx : ∀ pa pa' d' k, ((s.write pa d).write pa' d').ctx k = s.ctx k := fun pa pa' d' k => by
    rw [State.ctx, write_ctxs, write_ctxs]; rfl
  rw [hctx]

/-! ### The failing unit (21 R351) -/

/-- The bank of a unit that has failed. -/
def failedBank (k : Bank) : Bank := endedAs .failed k.dropChains

/-- What a failure with cause `c` leaves: the bank, its context, its launch, and what stands beside them. -/
structure Failed (v t : State) (b : BankId) (c : Cause) : Prop where
  bank : t.bank b = failedBank (v.bank b)
  ctx : ∀ m, t.ctx m = if m = (v.bank b).ctxNum then
    { v.ctxOf b with eqcount := (v.ctxOf b).eqcount + 1, changes := (v.ctxOf b).changes + 1 } else v.ctx m
  launch : ∀ l, v.launchOf b = some l → t.launchOf b = some { l with first := l.first <|> some c }
  beside : BesideUnit b v t

/-- A launch keeps the first cause it has noted. -/
theorem noteFirst_eq (l : Launch) (c : Cause) :
    (if l.first.isNone then { l with first := some c } else l) = { l with first := l.first <|> some c } := by
  have hstays : ∀ x, l.first = x → l = { l with first := x } := by rintro _ rfl; rfl
  cases h : l.first with
  | none => rfl
  | some x => exact hstays _ h

theorem failUnit_failed (v : State) (b : BankId) (n : Nat) (tr : Trap) (pc : W64) : Failed v (failUnit v b n tr pc) b tr.cause := by
  obtain ⟨d, hd⟩ : ∃ d, v.unitError b n tr pc = v.errorRecord (v.bank b).ctxNum d := ⟨_, rfl⟩
  have hstand := unitsStand_errorRecord v (v.bank b).ctxNum d
  unfold failUnit
  dsimp only
  rw [hd]
  generalize hw : v.errorRecord (v.bank b).ctxNum d = w at hstand ⊢
  have hx : ∀ p, (w.noteFailure b tr.cause).bank p = v.bank p := fun p => (bank_congr (State.modLaunch_cores _ _ _) p).trans (hstand.2 p)
  have hlaunch : ∀ l, v.launchOf b = some l →
      (w.noteFailure b tr.cause).launch? (v.bank b).launchId = some { l with first := l.first <|> some tr.cause } := fun l hl => by
    rw [State.noteFailure, hstand.2, ← noteFirst_eq]
    exact modLaunch_launch? _ ((hstand.launch? _).trans hl)
  have hctxs : (w.noteFailure b tr.cause).ctxs = w.ctxs := State.modLaunch_ctxs _ _ _
  have hbeside : BesideUnit b v (w.noteFailure b tr.cause) :=
    (hw ▸ besideUnit_errorRecord v _ d).trans (besideUnit_modLaunch _ _ _)
  generalize w.noteFailure b tr.cause = x at hx hlaunch hctxs hbeside ⊢
  obtain ⟨l, hl⟩ : ∃ l, dropChains x b = (busyBy x (x.bank b).ctxNum (-1) l).modBank b Bank.dropChains := ⟨_, rfl⟩
  have hbusy := unitsStand_busyBy x (x.bank b).ctxNum (-1) l
  rw [hl, endUnit_eq, modBank_modBank]
  have hbank : ((busyBy x (x.bank b).ctxNum (-1) l).modBank b (endedAs .failed ∘ Bank.dropChains)).bank b = failedBank (v.bank b) := by
    rw [State.bank_modBank_same, hbusy.2, hx]; rfl
  refine ⟨hbank, fun m => ?_, fun l' hl' => ?_, (hbeside.trans (besideUnit_busyBy _ _ _ _)).trans (besideUnit_modBank _ _ _)⟩
  · rw [State.ctx_modBank, State.ctx, busyBy_ctxs, hctxs, ← hw]
    exact errorRecord_ctx v _ m d
  · rw [State.launchOf, hbank]
    exact (hbusy.launch? _).trans (hlaunch l' hl')

section
variable (k : Bank)

theorem failedBank_phase : (failedBank k).phase = .ending .failed := rfl

theorem failedBank_stream (e : Engine) : (failedBank k).stream e =
    { k.stream e with status := if (k.stream e).status = .idle then .idle else .halted, block := none } := by
  cases e <;> rfl

theorem failedBank_chan (i : Nat) : ((failedBank k).chan i).ready = [] ∧ ((failedBank k).chan i).heads = [] := by
  have hchan : (failedBank k).chan i = (k.chans.map Channel.dropQueued).getD i Channel.reset := rfl
  rw [hchan]
  by_cases hi : i < 4 <;> simp [Vector.getD, hi, Channel.dropQueued, Channel.reset]

end

/-! ### Taking a trap (21 R351, R352) -/

/-- A bank one of whose streams has stopped at a trap: it waits for nothing, and of A the command of a POSTC is not wanted any more. -/
def stoppedAt (e : Engine) (pc : W64) (k : Bank) : Bank :=
  { k.setStream e { k.stream e with tpc := pc, block := none, wait := none } with mem := if e = .A then k.mem.dropCommand else k.mem }

section
variable (e : Engine) (pc : W64) (k : Bank)

@[simp] theorem stoppedAt_bindRec : (stoppedAt e pc k).bindRec = k.bindRec := by cases e <;> rfl
@[simp] theorem stoppedAt_tvec : (stoppedAt e pc k).tvec = k.tvec := by cases e <;> rfl
@[simp] theorem stoppedAt_tcause : (stoppedAt e pc k).tcause = k.tcause := by cases e <;> rfl
@[simp] theorem stoppedAt_ctxNum : (stoppedAt e pc k).ctxNum = k.ctxNum := by rw [Bank.ctxNum, stoppedAt_bindRec]; rfl
@[simp] theorem stoppedAt_launchId : (stoppedAt e pc k).launchId = k.launchId := by rw [Bank.launchId, stoppedAt_bindRec]; rfl
@[simp] theorem stoppedAt_valid : (stoppedAt e pc k).valid = k.valid := by rw [Bank.valid, stoppedAt_tcause]; rfl
theorem stoppedAt_stream_tpc : ((stoppedAt e pc k).stream e).tpc = pc := by cases e <;> rfl

end

section
variable (u : State) (b : BankId) (e : Engine) (tr : Trap) (pc : W64)

theorem stopped_ctxOf : (u.modBank b (stoppedAt e pc)).ctxOf b = u.ctxOf b := by
  rw [State.ctxOf, State.bank_modBank_same, stoppedAt_ctxNum]; rfl

theorem stopped_handles : (u.modBank b (stoppedAt e pc)).handles b = u.handles b := by
  rw [State.handles, stopped_ctxOf, State.bank_modBank_same, stoppedAt_tvec]; rfl

/-- Taking a trap: its stream stops, and the trap is handled, held or fails the unit. -/
theorem takeTrap_eq : takeTrap u b e tr pc =
    if u.handles b && (u.bank b).valid then
      if e = .C then failUnit (u.modBank b (stoppedAt e pc)) b (engineNum e) tr pc
      else (u.modBank b (stoppedAt e pc)).modBank b
        (fun k => { k.setStream e { k.stream e with status := .trapped } with held := k.held ++ [⟨e, tr, pc⟩] })
    else if u.handles b then enterHandler (u.modBank b (stoppedAt e pc)) b e tr pc
    else failUnit (u.modBank b (stoppedAt e pc)) b (engineNum e) tr pc := by
  have hstop : (if e = .A then (u.modStream b e (fun x => { x with tpc := pc, block := none, wait := none })).modBank b
      (fun k => { k with mem := k.mem.dropCommand }) else u.modStream b e (fun x => { x with tpc := pc, block := none, wait := none })) =
      u.modBank b (stoppedAt e pc) := by
    cases e <;> simp [State.modStream, State.setStream] <;> rfl
  unfold takeTrap handleTrap
  dsimp only
  rw [hstop, stopped_handles, State.bank_modBank_same, stoppedAt_valid]

end

theorem handles_of_free {u : State} {b : BankId} (h : HandlerFree u b) : u.handles b = true ∧ (u.bank b).valid = false := by
  obtain ⟨hpriv, htvec, halign, hvalid⟩ := h
  refine ⟨?_, hvalid⟩
  rw [State.handles, hpriv, halign]
  simpa using htvec

theorem not_handles {u : State} {b : BankId} (h : (u.ctxOf b).priv = false ∨ (u.bank b).tvec = 0 ∨ (u.bank b).tvec.toNat % 4 ≠ 0) :
    u.handles b = false := by
  rw [State.handles]
  rcases h with h | h | h <;> simp [h]

/-- The fields of TCAUSE lie beside each other below bit 63 (21 R361). -/
theorem tcauseOf_toNat (e : Engine) (tr : Trap) : (tcauseOf e tr).toNat =
    2 ^ 63 + tr.code.toNat * 2 ^ 20 + engineNum e * 2 ^ 16 + tr.reason.toNat * 2 ^ 8 + tr.cause.code := by
  have hcode := tr.code.isLt
  have hreason := tr.reason.isLt
  have hengine : engineNum e ≤ 4 := by cases e <;> decide
  have hcause : tr.cause.code < 256 := by cases tr.cause <;> decide
  rw [tcauseOf, BitVec.toNat_ofNat]
  simp only [Nat.shiftLeft_eq]
  omega

theorem takeTrap_enters {u : State} {b : BankId} (h : HandlerFree u b) (e : Engine) (tr : Trap) (pc : W64) :
    Entered u (takeTrap u b e tr pc) b e tr pc := by
  obtain ⟨hhandles, hvalid⟩ := handles_of_free h
  rw [takeTrap_eq, hhandles, hvalid]
  have honly : OnlyBank b u (enterHandler (u.modBank b (stoppedAt e pc)) b e tr pc) :=
    onlyBank_modBank (onlyBank_modBank (onlyBank_refl b u) _) _
  have hbank : (enterHandler (u.modBank b (stoppedAt e pc)) b e tr pc).bank b = _ :=
    (State.bank_modBank_same _ _ _).trans (by rw [State.bank_modBank_same])
  refine ⟨honly, ?_, ?_⟩
  · exact (congrArg (fun k => k.tcause.toNat) hbank).trans (tcauseOf_toNat e tr)
  · refine hbank.trans ?_
    have htcause : ((enterHandler (u.modBank b (stoppedAt e pc)) b e tr pc).bank b).tcause = tcauseOf e tr := congrArg Bank.tcause hbank
    simp only [Bool.false_eq_true, Bool.and_false, if_false, if_true, htcause]
    generalize u.bank b = k
    cases e <;> rfl

theorem takeTrap_fails {u : State} {b : BankId} (h : u.handles b = false) (e : Engine) (tr : Trap) (pc : W64) :
    UnitFails u (takeTrap u b e tr pc) b e tr pc := by
  rw [takeTrap_eq, h]
  simp only [Bool.false_and, Bool.false_eq_true, if_false]
  obtain ⟨hbank, hctx, hlaunch, hbeside⟩ := failUnit_failed (u.modBank b (stoppedAt e pc)) b (engineNum e) tr pc
  obtain ⟨hagenda, hcycle, htime, hesc, hwakes, hdisarms⟩ := (besideUnit_modBank u b (stoppedAt e pc)).trans hbeside
  generalize failUnit (u.modBank b (stoppedAt e pc)) b (engineNum e) tr pc = t at *
  rw [State.bank_modBank_same] at hbank hctx
  rw [stoppedAt_ctxNum, stopped_ctxOf] at hctx
  refine ⟨?_, fun x => ?_, ?_, fun i => ?_, ?_, fun m hm => ?_, fun l hl => hlaunch l ?_, htime, hwakes, hesc, hcycle, hagenda, hdisarms⟩
  · rw [hbank, failedBank_phase]
  · rw [hbank, failedBank_stream]
    dsimp only
    split
    · exact .inr rfl
    · exact .inl rfl
  · rw [hbank, failedBank_stream]
    exact stoppedAt_stream_tpc e pc _
  · rw [hbank]
    exact failedBank_chan _ i
  · rw [hctx, if_pos rfl]
  · rw [hctx, if_neg hm]; rfl
  · rw [State.launchOf, State.bank_modBank_same, stoppedAt_launchId]
    exact hl

theorem trapsEnterOrFail : Claims.TrapsEnterOrFail := fun _ _ e tr pc =>
  ⟨fun h => takeTrap_enters h e tr pc, fun h => takeTrap_fails (not_handles h) e tr pc⟩

/-! ### BRK and TRAP (04 R96) -/

theorem softTrap_eq (c : Cause) (i : BitVec 20) (s : State) :
    let u := (issueState s).modMe (fun x => { x with issued := x.issued + 1 })
    softTrap c i s = takeTrap u u.cur.bank u.cur.engine ⟨c, 0, i, 0⟩ (u.me.pc + 4) := rfl

/-- Settles O6: BRK and TRAP take their trap at the next word's pc with the word counted, and a trap enters or fails its unit. -/
theorem softwareTrapsEnter : Obligations.SoftwareTrapsEnter := by
  intro form hform w i s
  have hexec : exec (form.1 w i) s = .next (softTrap form.2 i s) := by
    simp only [List.mem_cons, List.not_mem_nil, or_false] at hform
    rcases hform with rfl | rfl <;> rfl
  rw [softTrap_eq] at hexec
  exact ⟨_, hexec, trapsEnterOrFail _ _ _ _ _⟩

end Sys2Proof.KernelMachine


/-! PROOFS. The control stream's words about its unit, its role and command words (04 R102–R108, R112). -/

namespace Sys2Proof.KernelMachine

open Sys2Proof Sys2Proof.Machine Sys2Proof.Claims

/-! ### Identity (04 R102–R104, R112) -/

theorem queueNo_of_operand {q : Spec} {m : Nat} (h : operandOf q = .queue m) : queueNo q = m := by
  revert h
  unfold operandOf queueNo
  dsimp only
  repeat' split
  all_goals simp

theorem queueNo_lt {q : Spec} {m : Nat} (h : operandOf q = .queue m) : m < 16 := by
  revert h
  unfold operandOf
  dsimp only
  repeat' split
  all_goals simp
  all_goals omega

theorem unitWord_eq (u : State) : unitWord u u.cur.bank =
    u.myBank.bindRec.unit.toNat + 2 ^ 20 * u.cur.bank.core + if u.cur.bank.slot then 2 ^ 31 else 0 := by
  rw [unitWord, Nat.shiftLeft_eq, Nat.mul_comm u.cur.bank.core]
  rfl

theorem identityWordsAnswer : Claims.IdentityWordsAnswer := by
  intro w d i p q s
  dsimp only
  refine ⟨registerWord_of_ok rfl ?_, registerWord_of_ok rfl rfl, fun hp => registerWord_of_ok rfl ?_⟩
  · rw [unitWord_eq]
  · rw [queueNo_of_operand hp]
    dsimp only
    cases ((issueState s).myBank.queue q).binding <;> rfl

/-! ### Roles (04 R103; 18 R307) -/

theorem rankIn_none {unit : Nat} {rs : List RankEntry} (h : ∀ r ∈ rs, holdsRank unit r = false) (i : Nat) : rankIn unit rs i = none := by
  induction rs generalizing i with
  | nil => rfl
  | cons r rs ih =>
    obtain ⟨hr, hrs⟩ := List.forall_mem_cons.1 h
    exact (if_neg (Bool.eq_false_iff.1 hr)).trans (ih hrs _)

theorem rankIn_first {unit : Nat} {rs : List RankEntry} {r : RankEntry} (h : ∀ y ∈ rs, holdsRank unit y = false) (hr : holdsRank unit r = true)
    (rs' : List RankEntry) (i : Nat) : rankIn unit (rs ++ r :: rs') i = some (i + rs.length) := by
  induction rs generalizing i with
  | nil => exact if_pos hr
  | cons y rs ih =>
    obtain ⟨hy, hrs⟩ := List.forall_mem_cons.1 h
    refine (if_neg (Bool.eq_false_iff.1 hy)).trans ((ih hrs _).trans (congrArg some ?_))
    rw [List.length_cons]
    omega

theorem roleOf_none {unit : Nat} {gs : List Group} (h : ∀ g ∈ gs, ∀ r ∈ g.ranks, holdsRank unit r = false) : roleOf unit gs = none := by
  induction gs with
  | nil => rfl
  | cons g gs ih =>
    obtain ⟨hg, hgs⟩ := List.forall_mem_cons.1 h
    rw [roleOf, rankIn_none hg]
    exact ih hgs

theorem roleOf_first {unit : Nat} {gs : List Group} {g : Group} {i : Nat} (h : ∀ x ∈ gs, ∀ r ∈ x.ranks, holdsRank unit r = false)
    (hg : rankIn unit g.ranks 0 = some i) (gs' : List Group) : roleOf unit (gs ++ g :: gs') = some (65536 * g.num + i) := by
  induction gs with
  | nil =>
    rw [List.nil_append, roleOf, hg]
  | cons x gs ih =>
    obtain ⟨hx, hgs⟩ := List.forall_mem_cons.1 h
    rw [List.cons_append, roleOf, rankIn_none hx]
    exact ih hgs

theorem roleFindsTheUnit : Claims.RoleFindsTheUnit := by
  intro w d s
  dsimp only
  refine ⟨fun h => registerWord_of_ok rfl ?_, fun gs gs' g rs rs' r hgroups hranks hgs hrs hr => registerWord_of_ok rfl ?_⟩
  · rw [State.myUnit, roleOf_none h]; rfl
  · have hrank : rankIn (issueState s).myBank.bindRec.unit.toNat g.ranks 0 = some rs.length := by
      rw [hranks, rankIn_first hrs hr, Nat.zero_add]
    rw [State.myUnit, hgroups, roleOf_first hgs hrank]
    rfl

/-! ### Sending a command word (04 R105, R106) -/

theorem inject_arrival_le (s : State) (a b t : Nat) : t ≤ (s.inject a b t).1 :=
  Nat.le_trans (Nat.le_max_left _ _) (Nat.le_add_right _ _)

theorem inject_myUnit (s : State) (a b t : Nat) : (s.inject a b t).2.myUnit = s.myUnit := by
  change ((s.inject a b t).2.bank s.cur.bank).bindRec.unit.toNat = _
  rw [bank_inject]
  rfl

theorem myGroups_of_launch {u : State} {l : Launch} (h : u.launchOf u.cur.bank = some l) : u.myGroups = l.groups := by
  rw [State.myGroups, h]

/-- A word handed over to bank `p`: it arrives there when its way along the trains is done. -/
def handedOver (u : State) (p : BankId) (v : W64) : State :=
  let sent := u.inject u.cur.bank.core p.core u.cycle
  sent.2.modBank p (fun k => { k with arrivals := k.arrivals ++ [(sent.1, u.myUnit, v)] })

theorem bank_handedOver (u : State) (p q : BankId) (v : W64) : (handedOver u p v).bank q = if q = p then
    { u.bank p with arrivals := (u.bank p).arrivals ++ [((u.inject u.cur.bank.core p.core u.cycle).1, u.myUnit, v)] } else u.bank q := by
  rw [handedOver, bank_modBank, bank_inject, bank_inject]

theorem handedOver_me (u : State) (p : BankId) (v : W64) : (handedOver u p v).me = u.me := by
  change ((handedOver u p v).bank u.cur.bank).stream u.cur.engine = _
  rw [bank_handedOver]
  split
  · next h => rw [← h, State.me_eq]; cases u.cur.engine <;> rfl
  · rfl

/-- What retiring leaves of banks: the issuing stream goes on, nothing else of any bank differs. -/
theorem bank_retire (x : State) (w : BitVec 3) (q : BankId) : (retire x w).bank q =
    if q = x.cur.bank then x.myBank.setStream x.cur.engine (advanced x.me x.cycle w) else x.bank q := by
  split
  · next h => subst h; exact retire_myBank x w
  · next h => exact onlyBank_bank_ne (onlyBank_retire (onlyBank_refl _ _) rfl w) h

theorem Bank.setStream_arrivals (k : Bank) (e : Engine) (x : Stream) : (k.setStream e x).arrivals = k.arrivals := by cases e <;> rfl
theorem Bank.setStream_inbound (k : Bank) (e : Engine) (x : Stream) : (k.setStream e x).inbound = k.inbound := by cases e <;> rfl

/-- A field of a bank that no stream holds is not changed by retiring. -/
theorem retire_bank_field {α : Type} {f : Bank → α} (hf : ∀ k e x, f (Bank.setStream k e x) = f k) (x : State) (w : BitVec 3) (q : BankId) :
    f ((retire x w).bank q) = f (x.bank q) := by
  rw [bank_retire]
  split
  · next h => rw [hf, h]; rfl
  · rfl

section
variable {u : State} {w : BitVec 3} {a b : Reg} {l : Launch} {e : RankEntry} {p : BankId}

/-- ENQR whose role names a unit placed in a bank that takes words: full it blocks, else the word is handed over once the release is done. -/
theorem enqr_reaches (ha : Readable u a) (hb : Readable u b) (hra : (u.me.get a).toNat < 2 ^ 32) (hl : u.launchOf u.cur.bank = some l)
    (he : entryOf l.groups ((u.me.get a).setWidth 32) = some e) (hchip : e.chip = u.time.chip.toNat) (hp : kfind l.units e.unit = some (.placed p))
    (hphase : (u.bank p).phase = .running ∨ (u.bank p).phase = .preempted) : ∃ f, (∀ s, exec (.enqr w a b) s = run s f) ∧
      f u = if (u.bank p).inbound.length + (u.bank p).arrivals.length ≥ 16 then .error (.block .queue (u.me.get a))
        else if !u.released u.cur.bank (firstMark u []).mark then .ok (keepMark u (firstMark u []) true)
        else .ok (retire (handedOver u p (u.me.get b)) w) := by
  refine ⟨_, fun _ => rfl, ?_⟩
  have hhigh : (u.me.get a).extractLsb' 32 32 = 0 := by
    apply BitVec.eq_of_toNat_eq
    rw [BitVec.extractLsb'_toNat, Nat.shiftRight_eq_div_pow, Nat.div_eq_of_lt hra]
    rfl
  have hlow : ((u.me.get a).setWidth 32).setWidth 64 = u.me.get a := by
    apply BitVec.eq_of_toNat_eq
    rw [BitVec.toNat_setWidth, BitVec.toNat_setWidth, Nat.mod_eq_of_lt hra, Nat.mod_eq_of_lt (u.me.get a).isLt]
  have htakes : ¬ ((u.bank p).phase ≠ .running ∧ (u.bank p).phase ≠ .preempted) := fun h => hphase.elim h.1 h.2
  rw [rd_of_readable ha, Except.bind_ok', rd_of_readable hb, Except.bind_ok', trapIf_false (by rw [hhigh]; rfl), Except.bind_ok',
    myGroups_of_launch hl, hl]
  dsimp only
  rw [he]
  dsimp only
  rw [if_neg (not_not_intro hchip), hp]
  dsimp only
  rw [if_neg htakes, hlow, inject_myUnit]
  rfl

end

theorem enqrSendsAWord : Claims.EnqrSendsAWord := by
  intro w a b l e p s
  dsimp only
  intro ha hb hra hl he hchip hp hphase
  obtain ⟨f, hexec, hf⟩ := enqr_reaches (w := w) ha hb hra hl he hchip hp hphase
  refine ⟨fun hfull => blocks_of_error (hexec s) (hf.trans (if_pos hfull)), fun hroom hwait hreleased => ?_⟩
  have hmark : (firstMark (issueState s) []).mark = (issueState s).myBank.mem.seq := by rw [firstMark, hwait]; rfl
  rw [if_neg (Nat.not_le.2 hroom), hmark, hreleased] at hf
  refine ⟨_, ((issueState s).inject (issueState s).cur.bank.core p.core (issueState s).cycle).1, next_of_ok (hexec s) hf, ?_,
    inject_arrival_le _ _ _ _, ?_, ?_, rfl, rfl, rfl, fun q hq hown => ?_⟩
  · rw [retire_bank_field (f := Bank.arrivals) Bank.setStream_arrivals, bank_handedOver, if_pos rfl]
    rfl
  · rw [retire_bank_field (f := Bank.inbound) Bank.setStream_inbound, bank_handedOver, if_pos rfl]
  · rw [retire_me, handedOver_me]
    rfl
  · exact (bank_retire _ w q).trans ((if_neg hown).trans ((bank_handedOver _ p q _).trans (if_neg hq)))

end Sys2Proof.KernelMachine


namespace Sys2Proof.KernelMachine

open Sys2Proof Sys2Proof.Machine Sys2Proof.Claims

/-! ### Taking a command word (04 R107, R108; 18 R316) -/

/-- A stream that is given a result ready at issue: behind an earlier one it stays interlocked (17 R294, R295). -/
def givenInt (cycle : Nat) (d : Reg) (v : W64) (x : Stream) : Stream :=
  if d ≠ 0 ∧ onWay x d = true then
    { x with pend := x.pend ++ [⟨effective x.pend (fun w => w.toReg d || w.toIreg d) (cycle + 1), .ireg d v, []⟩] }
  else resultIn cycle 1 d v x

theorem wrInt_behind {x : State} {d : Reg} (h : onWay x.me d = true) (v : W64) : wrInt x d v = wrIreg x d v 1 := if_pos h

theorem wrInt_free {x : State} {d : Reg} (h : onWay x.me d ≠ true) (v : W64) : wrInt x d v = wrReg x d v 1 := if_neg h

theorem onlyBank_wrInt (x : State) (d : Reg) (v : W64) : OnlyBank x.cur.bank x (wrInt x d v) := by
  by_cases h : onWay x.me d = true
  · rw [wrInt_behind h, wrIreg]
    split
    · exact onlyBank_refl _ _
    · exact onlyBank_modMe (onlyBank_refl _ _) rfl _
  · rw [wrInt_free h]
    exact onlyBank_wrReg x d v 1

theorem wrInt_myBank {x : State} (hC : x.cur.engine = .C) (d : Reg) (v : W64) :
    (wrInt x d v).myBank = x.myBank.setStream .C (givenInt x.cycle d v x.me) := by
  have hstays : x.myBank.setStream .C x.me = x.myBank := by rw [State.me_eq, hC]; rfl
  by_cases h : onWay x.me d = true
  · by_cases hd : d = 0
    · rw [wrInt_behind h, wrIreg, if_pos hd, givenInt, if_neg (fun hn => hn.1 hd), resultIn, if_pos hd, hstays]
    · rw [wrInt_behind h, wrIreg, if_neg hd, State.myBank_modMe, hC, givenInt, if_pos ⟨hd, h⟩]
  · rw [wrInt_free h, wrReg_myBank, memAfter, if_neg (fun hA => Engine.noConfusion (hC.symm.trans hA.1)), hC, givenInt, if_neg (fun hn => h hn.2)]
    rfl

/-- Of a stream that is given such a result, and then goes on, only registers and results on their way differ (17 R296). -/
theorem advanced_givenInt (cycle : Nat) (d : Reg) (v : W64) (w : BitVec 3) (x : Stream) :
    let y := advanced (givenInt cycle d v x) cycle w
    y = movedOn cycle w (x.pc + 4) 0 { x with regs := y.regs, pend := y.pend } := by
  unfold givenInt resultIn Stream.put
  repeat' split
  all_goals rfl

section
variable {u t : State} {w : BitVec 3} {d : Reg} {v : W64} (h : t.me = advanced (givenInt u.cycle d v u.me) u.cycle w)
include h

theorem deliveredInt_of_advanced : DeliveredInt u t d v := by
  have hregs : t.me.regs = (givenInt u.cycle d v u.me).regs := by rw [h]; rfl
  have hpend : t.me.pend = (givenInt u.cycle d v u.me).pend := by rw [h]; rfl
  rw [givenInt] at hregs hpend
  by_cases hd : d ≠ 0 ∧ onWay u.me d = true
  · rw [if_pos hd] at hregs hpend
    rw [DeliveredInt, if_neg hd.1, if_neg (by rw [hd.2]; decide)]
    exact ⟨hregs, _, hpend, effective_le _ _ _⟩
  · rw [if_neg hd] at hregs hpend
    have hgiven := delivered_of_result u d 1 hregs hpend
    rw [Delivered] at hgiven
    rw [DeliveredInt]
    split at hgiven
    · next h0 => rw [if_pos h0]; exact hgiven
    · next h0 =>
      have hfree : onWay u.me d = false := Bool.eq_false_iff.2 (fun hn => hd ⟨h0, hn⟩)
      rw [if_pos ⟨le_rfl, hfree⟩] at hgiven
      rw [if_neg h0, if_pos hfree]
      exact hgiven

theorem goesOn_of_advanced : GoesOn u t w (u.me.pc + 4) 0 := by
  rw [GoesOn, h]
  exact advanced_givenInt u.cycle d v w u.me

end

/-- A word of C that answers `v` in `x`, a state with the issuing stream as it was: its stream has the answer and goes on. -/
theorem answer_me {u x : State} (hC : u.cur.engine = .C) (hcur : x.cur = u.cur) (hcycle : x.cycle = u.cycle) (hme : x.me = u.me)
    (d : Reg) (v : W64) (w : BitVec 3) : (retire (wrInt x d v) w).me = advanced (givenInt u.cycle d v u.me) u.cycle w := by
  have hC' : x.cur.engine = .C := by rw [hcur, hC]
  have hgiven : (wrInt x d v).me = givenInt u.cycle d v u.me := by
    rw [State.me_eq, wrInt_myBank hC', onlyBank_cur (onlyBank_wrInt x d v), hC', hcycle, hme]; rfl
  rw [retire_me, hgiven, onlyBank_cycle (onlyBank_wrInt x d v), hcycle]

/-- An acquire of the bank leaves its streams. -/
theorem retire_acquire_me {x : State} {b : BankId} (hb : b = x.cur.bank) (w : BitVec 3) :
    (retire (acquire x b) w).me = (retire x w).me := by
  subst hb
  have hme : (acquire x x.cur.bank).me = x.me := by
    rw [acquire, ← State.modMyBank, State.me_modMyBank, State.me_eq]
    cases x.cur.engine <;> rfl
  rw [retire_me, retire_me, hme]
  rfl

theorem takeReloc_none {l : List W64} (h : ∀ x ∈ l, x.getLsbD 63 = false) : takeReloc l = none := by
  induction l with
  | nil => rfl
  | cons x l ih =>
    obtain ⟨hx, hl⟩ := List.forall_mem_cons.1 h
    rw [takeReloc, hx, ih hl]
    rfl

/-- The first word with RELOC set is taken, and nothing else. -/
theorem takeReloc_first {xs : List W64} {v : W64} (h : ∀ x ∈ xs, x.getLsbD 63 = false) (hv : v.getLsbD 63 = true) (ys : List W64) :
    takeReloc (xs ++ v :: ys) = some (v, xs ++ ys) := by
  induction xs with
  | nil => rw [List.nil_append, takeReloc, hv]; rfl
  | cons x xs ih =>
    obtain ⟨hx, hxs⟩ := List.forall_mem_cons.1 h
    rw [List.cons_append, takeReloc, hx, ih hxs]
    rfl

/-- The words of a bank that its own CMDPOP of this cycle takes. -/
def poppedNow (u : State) (q : BankId) : List W64 := if popsNow u q then (u.bank q).inbound.take 1 else []

theorem drop_poppedNow (u : State) (q : BankId) :
    (u.bank q).inbound.drop (poppedNow u q).length = (u.bank q).inbound.drop (if popsNow u q then 1 else 0) := by
  unfold poppedNow
  split
  · cases (u.bank q).inbound <;> rfl
  · rfl

/-- Whether a bank is one that CMDSTEAL may take from. -/
def stealable (u : State) (q : BankId) : Bool :=
  (u.bank q).bindRec.launch == u.myBank.bindRec.launch && (u.bank q).phase != .free && q != u.cur.bank

theorem stealable_iff (u : State) (q : BankId) : stealable u q = true ↔
    (u.bank q).bindRec.launch = u.myBank.bindRec.launch ∧ (u.bank q).phase ≠ .free ∧ q ≠ u.cur.bank := by
  simp [stealable, and_assoc]

/-- The word that CMDSTEAL may take from a bank, and the words after those of its own CMDPOP that it leaves. -/
def stolenFrom (u : State) (q : BankId) : Option (W64 × List W64) :=
  if stealable u q then takeReloc ((u.bank q).inbound.drop (poppedNow u q).length) else none

theorem stealFrom_of_none {u : State} {q : BankId} (h : stolenFrom u q = none) (l : List BankId) :
    stealFrom u u.myBank.bindRec.launch (q :: l) = stealFrom u u.myBank.bindRec.launch l := by
  unfold stolenFrom stealable poppedNow at h
  rw [stealFrom, h]

/-- The machine once words other than `rest` have been taken from a bank, but for those that its own CMDPOP takes. -/
def robbed (u : State) (p : BankId) (rest : List W64) : State := u.setBank p { u.bank p with inbound := poppedNow u p ++ rest }

theorem bank_robbed (u : State) (p : BankId) (rest : List W64) :
    (robbed u p rest).bank p = { u.bank p with inbound := poppedNow u p ++ rest } := State.bank_setBank_same _ _ _

theorem bank_robbed_ne (u : State) {p q : BankId} (hq : q ≠ p) (rest : List W64) : (robbed u p rest).bank q = u.bank q :=
  State.bank_setBank_ne _ _ hq

theorem stealFrom_of_some {u : State} {q : BankId} {v : W64} {rest : List W64} (h : stolenFrom u q = some (v, rest)) (l : List BankId) :
    stealFrom u u.myBank.bindRec.launch (q :: l) = some (v, robbed u q rest) := by
  unfold stolenFrom stealable poppedNow at h
  rw [stealFrom]
  rw [h]
  rfl

theorem stolenFrom_none {u : State} {q : BankId} (h : ¬ hasReloc u q) : stolenFrom u q = none := by
  rw [stolenFrom]
  split_ifs with hq
  · obtain ⟨hlaunch, hphase, hother⟩ := (stealable_iff u q).1 hq
    rw [drop_poppedNow]
    exact takeReloc_none (fun x hx => Bool.eq_false_iff.2 (fun hv => h ⟨hlaunch, hphase, hother, x, hx, hv⟩))
  · rfl

theorem stolenFrom_first {u : State} {p : BankId} {xs ys : List W64} {v : W64} (hp : hasReloc u p)
    (hwords : (u.bank p).inbound = poppedNow u p ++ xs ++ v :: ys) (hxs : ∀ x ∈ xs, x.getLsbD 63 = false) (hv : v.getLsbD 63 = true) :
    stolenFrom u p = some (v, xs ++ ys) := by
  obtain ⟨hlaunch, hphase, hother, -⟩ := hp
  rw [stolenFrom, if_pos ((stealable_iff u p).2 ⟨hlaunch, hphase, hother⟩), hwords, List.append_assoc, List.drop_left, takeReloc_first hxs hv]

theorem stealFrom_none {u : State} {l : List BankId} (h : ∀ q ∈ l, ¬ hasReloc u q) : stealFrom u u.myBank.bindRec.launch l = none := by
  induction l with
  | nil => rfl
  | cons q l ih =>
    obtain ⟨hq, hl⟩ := List.forall_mem_cons.1 h
    rw [stealFrom_of_none (stolenFrom_none hq), ih hl]

/-- The first bank of the strip with a word to take gives it. -/
theorem stealFrom_first {u : State} {pre : List BankId} {p : BankId} {v : W64} {rest : List W64} (hpre : ∀ q ∈ pre, ¬ hasReloc u q)
    (hp : stolenFrom u p = some (v, rest)) (post : List BankId) : stealFrom u u.myBank.bindRec.launch (pre ++ p :: post) =
      some (v, robbed u p rest) := by
  induction pre with
  | nil => exact stealFrom_of_some hp post
  | cons q pre ih =>
    obtain ⟨hq, hpre⟩ := List.forall_mem_cons.1 hpre
    rw [List.cons_append, stealFrom_of_none (stolenFrom_none hq), ih hpre]

theorem stolen_bank_ne {u : State} {p : BankId} (hp : hasReloc u p) : p ≠ u.cur.bank := by
  obtain ⟨-, -, hother, -⟩ := hp
  exact hother

theorem onlyBank_retire_acquire_wrInt {x : State} {b : BankId} (hb : b = x.cur.bank) (d : Reg) (v : W64) (w : BitVec 3) :
    OnlyBank b x (retire (acquire (wrInt x d v) b) w) := by
  subst hb
  have hanswered := onlyBank_modBank (onlyBank_wrInt x d v) (fun k => { k with mem := k.mem.acquire })
  exact onlyBank_retire hanswered (congrArg Current.bank (onlyBank_cur hanswered)) w

section
variable {s : State} (hC : (issueState s).cur.engine = .C) (w : BitVec 3) (d : Reg)
include hC

/-- A word of C that answers and does nothing else. -/
theorem answerWord_retire (v : W64) : AnswerWord s (retire (wrInt (issueState s) d v) w) w d v := by
  have hme := answer_me (u := issueState s) hC rfl rfl rfl d v w
  have honly := onlyBank_retire (onlyBank_wrInt (issueState s) d v) (congrArg Current.bank (onlyBank_cur (onlyBank_wrInt (issueState s) d v))) w
  refine ⟨deliveredInt_of_advanced hme, goesOn_of_advanced hme, ?_, honly, fun a => (onlyBank_byteAt honly a).trans (issueState_byteAt s a)⟩
  rw [OnlyStream, hme, if_neg (fun hA => Engine.noConfusion (hC.symm.trans hA.1)), retire_myBank, wrInt_myBank hC,
    onlyBank_cur (onlyBank_wrInt _ d v), onlyBank_cycle (onlyBank_wrInt _ d v), hC]
  rfl

theorem cmdpopTakes {v : W64} {rest : List W64} (h : (issueState s).myBank.inbound = v :: rest) :
    let u := issueState s
    ∃ t, exec (.cmdpop w d) s = .next t ∧ DeliveredInt u t d v ∧ GoesOn u t w (u.me.pc + 4) 0 ∧
      OnlyBank u.cur.bank u t ∧ t.myBank = { u.myBank.setStream .C t.me with inbound := rest, mem := u.myBank.mem.acquire } := by
  have hexec : exec (.cmdpop w d) s = .next (retire (acquire (wrInt ((issueState s).modMyBank (fun k => { k with inbound := rest })) d v)
      (issueState s).cur.bank) w) := next_of_ok (i := .cmdpop w d) rfl (by rw [h])
  have hpopped := onlyBank_issue s (fun k => { k with inbound := rest })
  generalize hx : (issueState s).modMyBank (fun k => { k with inbound := rest }) = x at hexec hpopped
  have hcur := onlyBank_cur hpopped
  have hxbank : x.myBank = { (issueState s).myBank with inbound := rest } := by rw [← hx, State.myBank_modMyBank]
  have hxme : x.me = (issueState s).me := by rw [State.me_eq, hcur, hxbank, State.me_eq, hC]; rfl
  have hgiven := onlyBank_wrInt x d v
  have hme := (retire_acquire_me (x := wrInt x d v) (by rw [onlyBank_cur hgiven, hcur]) w).trans
    (answer_me (u := issueState s) hC hcur (onlyBank_cycle hpopped) hxme d v w)
  refine ⟨_, hexec, deliveredInt_of_advanced hme, goesOn_of_advanced hme,
    onlyBank_trans hpopped (onlyBank_retire_acquire_wrInt (by rw [hcur]) d v w), ?_⟩
  have hacquired : (acquire (wrInt x d v) (issueState s).cur.bank).myBank =
      { (wrInt x d v).myBank with mem := (wrInt x d v).myBank.mem.acquire } := by
    rw [← hcur, ← onlyBank_cur hgiven]
    exact State.myBank_modMyBank _ _
  have hacur : (acquire (wrInt x d v) (issueState s).cur.bank).cur = (issueState s).cur := (onlyBank_cur hgiven).trans hcur
  have hacycle : (acquire (wrInt x d v) (issueState s).cur.bank).cycle = (issueState s).cycle :=
    (onlyBank_cycle hgiven).trans (onlyBank_cycle hpopped)
  rw [hme, retire_myBank, hacquired, wrInt_myBank (by rw [hcur, hC]), hxbank, hxme, hacur, hacycle, onlyBank_cycle hpopped, hC]
  rfl

/-- CMDSTEAL takes the word and leaves its bank the others; the issuing bank has an answer and an acquire. -/
theorem cmdstealTakes {p : BankId} {v : W64} {rest : List W64} {pre post : List BankId} (hdet : (issueState s).myCtx.det = false)
    (hstrip : stripBanks (issueState s).cur.bank.core = pre ++ p :: post) (hpre : ∀ q ∈ pre, ¬ hasReloc (issueState s) q)
    (hp : p ≠ (issueState s).cur.bank) (htaken : stolenFrom (issueState s) p = some (v, rest)) :
    let u := issueState s
    ∃ t, exec (.cmdsteal w d) s = .next t ∧ DeliveredInt u t d v ∧ GoesOn u t w (u.me.pc + 4) 0 ∧
      t.bank p = { u.bank p with inbound := poppedNow u p ++ rest } ∧ (∀ q, q ≠ p → q ≠ u.cur.bank → t.bank q = u.bank q) ∧
      t.mem = u.mem ∧ t.ctxs = u.ctxs ∧ t.host = u.host := by
  have hexec : exec (.cmdsteal w d) s =
      .next (retire (acquire (wrInt (robbed (issueState s) p rest) d v) (issueState s).cur.bank) w) :=
    next_of_ok (i := .cmdsteal w d) rfl (by rw [hdet, hstrip, stealFrom_first hpre htaken]; rfl)
  have hpbank := bank_robbed (issueState s) p rest
  have hothers : ∀ q, q ≠ p → (robbed (issueState s) p rest).bank q = (issueState s).bank q := fun q hq => bank_robbed_ne _ hq _
  have hcur : (robbed (issueState s) p rest).cur = (issueState s).cur := rfl
  have hme : (robbed (issueState s) p rest).me = (issueState s).me := congrArg (Bank.stream · (issueState s).cur.engine) (hothers _ hp.symm)
  have hanswer := onlyBank_retire_acquire_wrInt (x := robbed (issueState s) p rest) (b := (issueState s).cur.bank) rfl d v w
  have hgoes := (retire_acquire_me (x := wrInt (robbed (issueState s) p rest) d v) (by rw [onlyBank_cur (onlyBank_wrInt _ d v), hcur]) w).trans
    (answer_me (u := issueState s) hC hcur rfl hme d v w)
  refine ⟨_, hexec, deliveredInt_of_advanced hgoes, goesOn_of_advanced hgoes, (onlyBank_bank_ne hanswer hp).trans hpbank,
    fun q hq hown => (onlyBank_bank_ne hanswer hown).trans (hothers q hq), ?_⟩
  obtain ⟨-, -, -, -, hctxs, hhost, hmem, -⟩ := hanswer
  exact ⟨hmem, hctxs, hhost⟩

end

theorem commandWordsTake : Claims.CommandWordsTake := by
  intro w d s
  dsimp only
  intro hC
  refine ⟨fun hempty => blocks_of_error (i := .cmdpop w d) rfl ?_, fun v rest h => cmdpopTakes hC w d h,
    fun h => ⟨_, next_of_ok (i := .cmdsteal w d) rfl ?_, answerWord_retire hC w d 0⟩,
    fun pre p post keep xs v ys hdet hstrip hpre hp hwords hkeep hxs hv => ?_⟩
  · rw [hempty]
  · split
    · rfl
    · next hdet => rw [stealFrom_none (h.resolve_left hdet)]
  · subst hkeep
    obtain ⟨t, hexec, hgiven, hgoes, hpbank, hrest⟩ :=
      cmdstealTakes hC w d hdet hstrip hpre (stolen_bank_ne hp) (stolenFrom_first hp hwords hxs hv)
    exact ⟨t, hexec, hgiven, hgoes, by rw [hpbank, List.append_assoc]; rfl, hrest⟩

/-- Settles O12: what the control stream reads of its unit and role, and how command words are sent and taken. -/
theorem controlStreamWords : Obligations.ControlStreamWords :=
  ⟨identityWordsAnswer, roleFindsTheUnit, enqrSendsAWord, commandWordsTake⟩

end Sys2Proof.KernelMachine


/-! PROOFS. Group barriers, bind requests and slice repartition (04 R109–R113; 18 R311). -/

namespace Sys2Proof.KernelMachine

open Sys2Proof Sys2Proof.Machine Sys2Proof.Claims

/-! ### GBAR (04 R109) -/

theorem rankIn_isNone (unit : Nat) (rs : List RankEntry) (i : Nat) : (rankIn unit rs i).isNone = !rs.any (holdsRank unit) := by
  induction rs generalizing i with
  | nil => rfl
  | cons r rs ih =>
    rw [List.any_cons, rankIn, ← holdsRank]
    cases hr : holdsRank unit r with
    | true => rfl
    | false => exact ih _

/-- The arrival of a group is the bank's own or one of those kept. -/
theorem recall_gbar (k : Bank) (n : Nat) : (k.recall n).gbar = arrivalOf k n := by
  unfold Bank.recall arrivalOf
  cases hg : k.gbar with
  | none => rfl
  | some x => cases hx : x.group == n <;> simp [hx, hg]

theorem recall_with_gbar (k : Bank) (n : Nat) (x : Option GbarWait) :
    { k.recall n with gbar := x } = { k with gbar := x, gkept := keptBeside k n } := by
  unfold Bank.recall keptBeside
  split <;> rfl

theorem Bank.setStream_gbar (k : Bank) (e : Engine) (x : Stream) : (k.setStream e x).gbar = k.gbar := by cases e <;> rfl
theorem Bank.setStream_gkept (k : Bank) (e : Engine) (x : Stream) : (k.setStream e x).gkept = k.gkept := by cases e <;> rfl

/-- A unit's arrival: its launch counts it, its bank waits for the count of the next round. -/
def arrivedAt (u : State) (n : Nat) (rs : List RankEntry) : State :=
  (u.modLaunch u.myBank.launchId (fun l => { l with barrier := kupd 0 l.barrier n (· + 1) })).modMyBank
    (fun k => { k.recall n with gbar := some ⟨n, (kget 0 u.myBank.gcount n + 1) * boundRanks rs, false⟩ })

section
variable (u : State) (n : Nat) (rs : List RankEntry)

theorem arrivedAt_cur : (arrivedAt u n rs).cur = u.cur := State.modLaunch_cur _ _ _

theorem modLaunch_myBank (i : Nat) (f : Launch → Launch) : (u.modLaunch i f).myBank = u.myBank := by
  rw [State.myBank, State.modLaunch_cur]
  exact bank_congr (State.modLaunch_cores _ _ _) _

theorem arrivedAt_myBank : (arrivedAt u n rs).myBank =
    { u.myBank with gbar := some ⟨n, (kget 0 u.myBank.gcount n + 1) * boundRanks rs, false⟩, gkept := keptBeside u.myBank n } := by
  rw [arrivedAt, State.myBank_modMyBank, modLaunch_myBank, recall_with_gbar]

theorem arrivedAt_me : (arrivedAt u n rs).me = u.me := by
  rw [State.me_eq, arrivedAt_myBank, arrivedAt_cur, State.me_eq]
  cases u.cur.engine <;> rfl

theorem arrivedAt_launch {l : Launch} (h : u.launchOf u.cur.bank = some l) :
    (arrivedAt u n rs).launch? u.myBank.launchId = some { l with barrier := kupd 0 l.barrier n (· + 1) } :=
  modLaunch_launch? (fun l => { l with barrier := kupd 0 l.barrier n (· + 1) }) h

end

/-- A block leaves all of the stream but its block and its lock, and of the machine only the stream. -/
theorem noteBlock_bank (x : State) (k : BlockKind) (v : W64) : ∃ y, (noteBlock x k v).myBank = x.myBank.setStream x.cur.engine y ∧
    (noteBlock x k v).me = y ∧ y.pc = x.me.pc ∧ y.issued = x.me.issued := by
  obtain ⟨n, hn, -⟩ := noteBlock_eq x k v
  exact ⟨{ x.me with lock := false, block := some ⟨k, v, n⟩ }, by rw [hn, State.myBank_modMe], by rw [hn, State.me_modMe], rfl, rfl⟩

theorem Bank.setStream_launchId (k : Bank) (e : Engine) (x : Stream) : (k.setStream e x).launchId = k.launchId := by cases e <;> rfl

theorem gbarArrivesOnceAndPasses : Claims.GbarArrivesOnceAndPasses := by
  intro w g l gr s
  dsimp only
  intro hlift hl hg
  have hgroup : (issueState s).myGroups.find? (fun x => x.num == g.toNat) = some gr := by rw [myGroups_of_launch hl, hg]
  have hrank : (rankIn (issueState s).myUnit gr.ranks 0).isNone = !gr.ranks.any (holdsRank (issueState s).myBank.bindRec.unit.toNat) :=
    rankIn_isNone _ _ _
  refine ⟨fun hmine => traps_of_error (i := .gbar w g) rfl ?_ (by decide), fun hmine hchips => ?_⟩
  · rw [noLift_ok hlift, Except.bind_ok']
    dsimp only
    rw [hgroup]
    dsimp only
    rw [if_pos (by rw [hrank, hmine]; rfl)]
    rfl
  have hhere : ((rankIn (issueState s).myUnit gr.ranks 0).isNone ||
      gr.ranks.any (fun r => r.bound && r.chip != (issueState s).time.chip.toNat)) = false := by
    rw [hrank, hmine]
    simpa [List.any_eq_false] using hchips
  refine ⟨fun x hx hpassed => ?_, fun x hx hpassed => blocks_of_error (i := .gbar w g) rfl ?_, fun hx hwait hdone hreleased => ?_⟩
  · rw [← recall_with_gbar]
    refine bankWord_of_mod (i := .gbar w g) (g := fun k => { k.recall g.toNat with gbar := none }) rfl ?_
    rw [noLift_ok hlift, Except.bind_ok']
    dsimp only
    rw [hgroup]
    dsimp only
    rw [hhere, recall_gbar, hx]
    dsimp only
    rw [if_pos hpassed]
    rfl
  · rw [noLift_ok hlift, Except.bind_ok']
    dsimp only
    rw [hgroup]
    dsimp only
    rw [hhere, recall_gbar, hx]
    dsimp only
    rw [hpassed]
    rfl
  · have hmark : firstMark (issueState s) engines = (issueState s).myBank.markOf engines := by rw [firstMark, hwait]
    have hall : engines.all ((issueState s).myBank.doneBefore (issueState s).cycle ((issueState s).myBank.markOf engines)) = true :=
      List.all_eq_true.2 fun e _ => hdone e
    have hrel : ((issueState s).myBank.markOf engines).rel.getD (issueState s).myBank.mem.seq = (issueState s).myBank.mem.seq := rfl
    have hexec : exec (.gbar w g) s = .next (noteBlock (arrivedAt (issueState s) g.toNat gr.ranks) .sem (g.setWidth 64)) := by
      refine next_of_ok (i := .gbar w g) rfl ?_
      rw [noLift_ok hlift, Except.bind_ok']
      dsimp only
      rw [hgroup]
      dsimp only
      rw [hhere, recall_gbar, hx]
      dsimp only
      rw [hmark, if_pos hall, hrel, if_pos hreleased, modLaunch_myBank]
      rfl
    obtain ⟨y, hbank, hme, hpc, hissued⟩ := noteBlock_bank (arrivedAt (issueState s) g.toNat gr.ranks) .sem (g.setWidth 64)
    rw [arrivedAt_myBank] at hbank
    rw [arrivedAt_me] at hpc hissued
    refine ⟨_, _, hexec, by rw [hbank, Bank.setStream_gbar], by rw [hbank, Bank.setStream_gkept], rfl, rfl, rfl, ?_, by rw [hme, hpc],
      by rw [hme, hissued], ?_, ?_⟩
    · have hown : (noteBlock (arrivedAt (issueState s) g.toNat gr.ranks) .sem (g.setWidth 64)).bank (issueState s).cur.bank =
          (noteBlock (arrivedAt (issueState s) g.toNat gr.ranks) .sem (g.setWidth 64)).myBank :=
        congrArg (State.bank _ <| Current.bank ·) (arrivedAt_cur (issueState s) g.toNat gr.ranks).symm
      rw [State.launchOf, hown, hbank, Bank.setStream_launchId]
      exact arrivedAt_launch _ _ gr.ranks hl
    · exact State.modLaunch_mem _ _ _
    · exact State.modLaunch_ctxs _ _ _

/-! ### A bank's queues (01 R12) -/

section
variable (k : Bank) {q : Nat} (y z : Queue)

theorem Bank.queue_setQueue_same (hq : q < 16) : (k.setQueue q y).queue q = y := by simp [Bank.setQueue, Bank.queue, Vector.getD, hq]

theorem Bank.setQueue_setQueue : (k.setQueue q y).setQueue q z = k.setQueue q z := by
  have hqueues : (k.queues.setIfInBounds q y).setIfInBounds q z = k.queues.setIfInBounds q z := by
    ext i hi
    simp only [Vector.getElem_setIfInBounds]
    split <;> rfl
  exact congrArg (fun x => { k with queues := x }) hqueues

theorem Bank.stream_setQueue (e : Engine) : (k.setQueue q y).stream e = k.stream e := by cases e <;> rfl

theorem Bank.queue_setStream (e : Engine) (x : Stream) : (k.setStream e x).queue q = k.queue q := by cases e <;> rfl

end

/-! ### QBIND and SPLIT (04 R110, R113) -/

/-- Of a bind that ends, the receiving end is freed: no stream of any bank differs. -/
theorem releaseSender_stream (u : State) (b p : BankId) (q : Nat) (x : Binding) (e : Engine) :
    ((releaseSender u b q x).bank p).stream e = (u.bank p).stream e := by
  unfold releaseSender
  split
  · rw [bank_modBank]
    split
    · next h =>
      subst h
      dsimp only
      split
      · exact Bank.stream_setQueue _ _ _
      · rfl
    · rfl
  · split <;> rfl

theorem releaseSender_cur (u : State) (b : BankId) (q : Nat) (x : Binding) : (releaseSender u b q x).cur = u.cur := by
  unfold releaseSender
  repeat' split
  all_goals rfl

theorem releaseSender_cycle (u : State) (b : BankId) (q : Nat) (x : Binding) : (releaseSender u b q x).cycle = u.cycle := by
  unfold releaseSender
  repeat' split
  all_goals rfl

/-- A trap that leaves a state of its own is taken in that state. -/
theorem enters_of_trapIn {s t : State} {i : Instr} {f : State → Res State} {tr : Trap} (hi : exec i s = run s f)
    (h : f (issueState s) = .error (.trapIn tr t)) : exec i s = .next (takeTrap t t.cur.bank t.cur.engine tr t.me.pc) := by
  rw [hi, run]
  have ho : outcomeOf (issueState s) f = .error (.trapIn tr t) := outcomeOf_error h nofun
  exact congrArg (fun x => Host.Outcome.next (conclude (issueState s) x)) ho

/-- Upper bits that a bound leaves zero. -/
theorem extractLsb'_eq_zero {v : W64} {n k : Nat} (h : v.toNat < 2 ^ n) : v.extractLsb' n k = 0 := by
  apply BitVec.eq_of_toNat_eq
  rw [BitVec.extractLsb'_toNat, Nat.shiftRight_eq_div_pow, Nat.div_eq_of_lt h]
  simp

/-- A binding that is asked for names its peer's queue in bits 35:32 of its word. -/
theorem made_peerQ (u : State) (r : BindReq) : (r.made u).peerQ = r.word.toNat / 2 ^ 32 % 16 := by
  rw [BindReq.made, BitVec.extractLsb'_toNat, Nat.shiftRight_eq_div_pow]

/-- The machine once queue `q` of the issuing bank has lost its binding. -/
def unbound (u : State) (q : Nat) (y : Binding) : State :=
  (releaseSender u u.cur.bank q y).modMyBank (fun k => k.setQueue q { k.queue q with binding := none })

section
variable (u : State) (q : Nat) (y : Binding)

theorem unbound_cur : (unbound u q y).cur = u.cur := releaseSender_cur _ _ _ _

theorem unbound_me : (unbound u q y).me = u.me := by
  rw [State.me_eq, unbound_cur, unbound, State.myBank_modMyBank, Bank.stream_setQueue, State.myBank, releaseSender_cur]
  exact releaseSender_stream u _ _ q y _

theorem unbound_queue (hq : q < 16) : ((unbound u q y).myBank.queue q).binding = none := by
  rw [unbound, State.myBank_modMyBank, Bank.queue_setQueue_same _ _ hq]

end

/-- A queue of its unit that a bind may use: nothing lies in it or is about to. -/
structure EmptyQueue (x : Queue) : Prop where
  rows : x.rows = []
  reserved : x.reserved = 0

theorem EmptyQueue.waits {x : Queue} (h : EmptyQueue x) : (!x.rows.isEmpty || decide (x.reserved ≠ 0)) = false := by
  rw [h.rows, h.reserved]; rfl

/-- Whether a word asks for a binding, and whether its bits beside that are zero (04 R110). -/
theorem bindWord_ok {v : W64} (hv : v.toNat < 2 ^ 37) (hbind : v.getLsbD 36 = true) :
    (decide (v.extractLsb' 37 27 ≠ 0) || !v.getLsbD 36 && decide (v.extractLsb' 0 36 ≠ 0)) = false := by
  rw [extractLsb'_eq_zero hv, hbind]; rfl

/-- The machine once queue `q` of the issuing bank has no bind request any more. -/
def requestGone (u : State) (q : Nat) : State := u.modMyBank (fun k => k.setQueue q { k.queue q with req := none })

theorem requestGone_me (u : State) (q : Nat) : (requestGone u q).me = u.me := by
  rw [State.me_eq, requestGone, State.myBank_modMyBank, Bank.stream_setQueue]
  rfl

theorem unbindWord_ok :
    (decide ((0 : W64).extractLsb' 37 27 ≠ 0) || !(0 : W64).getLsbD 36 && decide ((0 : W64).extractLsb' 0 36 ≠ 0)) = false := by
  decide

section
variable {s : State} {w : BitVec 3} {p : Spec} {a : Reg} {q : Nat} (hlift : Unlifted (issueState s)) (ha : Readable (issueState s) a)
  (hp : operandOf p = .queue q) (hempty : EmptyQueue ((issueState s).myBank.queue q))
include hlift ha hp hempty

/-- QBIND of a zero word: a queue without a binding stays, one whose rows have arrived loses it, and rows on their way are waited for. -/
theorem qbind_unbinds (hzero : (issueState s).me.get a = 0) (hreq : ((issueState s).myBank.queue q).req = none) :
    (((issueState s).myBank.queue q).binding = none → exec (.qbind w p a) s = .next (retire (issueState s) w)) ∧
    (∀ y, ((issueState s).myBank.queue q).binding = some y → y.travelling (issueState s).cycle = false →
      exec (.qbind w p a) s = .next (retire (unbound (issueState s) q y) w)) ∧
    (∀ y, ((issueState s).myBank.queue q).binding = some y → y.travelling (issueState s).cycle = true → Waits s (.qbind w p a)) := by
  refine ⟨fun hnone => next_of_ok (i := .qbind w p a) rfl ?_, fun y hy hway => next_of_ok (i := .qbind w p a) rfl ?_,
    fun y hy hway => waits_of_error (i := .qbind w p a) false rfl ?_⟩
  all_goals
    rw [noLift_ok hlift, Except.bind_ok', rd_of_readable ha, Except.bind_ok', queueNo_of_operand hp, hzero]
    dsimp only
    rw [trapIf_false unbindWord_ok, Except.bind_ok', if_neg (by decide)]
    dsimp only
    rw [if_neg (by decide), waitIf_false hempty.waits, Except.bind_ok', hreq]
    dsimp only
  · rw [hnone]
  · rw [hy]
    dsimp only
    rw [waitIf_false hway, Except.bind_ok']
    rfl
  · rw [hy]
    dsimp only
    rw [waitIf_true hway, Except.bind_error']

/-- QBIND of a word that names a bound rank on this module: it posts a request, and with its answer in is bound or traps. -/
theorem qbind_binds {e : RankEntry} (hv : ((issueState s).me.get a).toNat < 2 ^ 37) (hbind : ((issueState s).me.get a).getLsbD 36 = true)
    (he : entryOf (issueState s).myGroups (((issueState s).me.get a).setWidth 32) = some e) (hchip : e.chip = (issueState s).time.chip.toNat) :
    (((issueState s).myBank.queue q).req = none → exec (.qbind w p a) s = .next (postBind (issueState s) q ((issueState s).me.get a) e)) ∧
    (∀ r, ((issueState s).myBank.queue q).req = some r → r.word = (issueState s).me.get a → r.chip = e.chip → r.unit = e.unit →
      (r.stage = .answered true → ((issueState s).myBank.queue q).binding = none → exec (.qbind w p a) s = .next (retire
        ((requestGone (issueState s) q).modMyBank (fun k => k.setQueue q { k.queue q with binding := some (r.made (issueState s)) })) w)) ∧
      (r.stage = .answered false → exec (.qbind w p a) s = .next
        (takeTrap (requestGone (issueState s) q) (requestGone (issueState s) q).cur.bank (requestGone (issueState s) q).cur.engine
          (mkTrap .accessViolation ((issueState s).cur.word.setWidth 64)) (requestGone (issueState s) q).me.pc))) := by
  have hhere : (decide (e.chip ≠ (issueState s).time.chip.toNat) && (kfind (issueState s).time.members e.chip).isNone) = false := by
    rw [hchip]; simp
  have hsame : ∀ r : BindReq, r.word = (issueState s).me.get a → r.chip = e.chip → r.unit = e.unit →
      ¬ ((decide (r.word ≠ (issueState s).me.get a) || decide (r.chip ≠ e.chip) || decide (r.unit ≠ e.unit)) = true) := fun r h1 h2 h3 => by
    simp [h1, h2, h3]
  refine ⟨fun hreq => next_of_ok (i := .qbind w p a) rfl ?_,
    fun r hreq hword hrchip hunit => ⟨fun hstage hnone => next_of_ok (i := .qbind w p a) rfl ?_, fun hstage => enters_of_trapIn (t := requestGone (issueState s) q) (i := .qbind w p a) rfl ?_⟩⟩
  all_goals
    rw [noLift_ok hlift, Except.bind_ok', rd_of_readable ha, Except.bind_ok', queueNo_of_operand hp]
    dsimp only
    rw [trapIf_false (bindWord_ok hv hbind), Except.bind_ok', if_pos hbind, he]
    dsimp only
    rw [trapIf_false hhere, Except.bind_ok', waitIf_false hempty.waits, Except.bind_ok', hreq]
  all_goals
    dsimp only
    rw [if_neg (hsame r hword hrchip hunit), hstage]
    dsimp only
  · rw [if_pos rfl, hnone]
    rfl
  · rfl

end

/-- A queue's request answered and gone, and its new binding: nothing else of its bank. -/
theorem rebound_eq (k : Bank) {q : Nat} (hq : q < 16) (y : Binding) :
    (k.setQueue q { k.queue q with req := none }).setQueue q
      { (k.setQueue q { k.queue q with req := none }).queue q with binding := some y } =
    k.setQueue q { k.queue q with req := none, binding := some y } := by
  rw [Bank.queue_setQueue_same _ _ hq, Bank.setQueue_setQueue]

section
variable (u : State) (q : Nat) (v : W64) (e : RankEntry)

theorem postBind_me : (postBind u q v e).me = { u.me with block := none, lock := false } := by
  rw [postBind, State.waits, State.me_modMe, State.me_modMyBank, State.me_eq]
  cases u.cur.engine <;> rfl

theorem postBind_queue (hq : q < 16) : (postBind u q v e).myBank.queue q =
    { u.myBank.queue q with req := some ⟨u.myBank.opSeq, v, e.chip, e.unit, .posted⟩ } := by
  rw [postBind, State.waits, State.myBank_modMe, Bank.queue_setStream, State.myBank_modMyBank]
  exact Bank.queue_setQueue_same _ _ hq

end

theorem qbindAndSplitPost : Claims.QbindAndSplitPost := by
  intro w p a b q s
  dsimp only
  intro hlift ha hb
  refine ⟨fun hp hrows hreserved => ⟨fun hzero hreq => ?_, fun e hv hbind he hchip => ?_⟩, fun l m hl hm hslice hmask => ?_⟩
  · have hq := queueNo_lt hp
    obtain ⟨hstays, hends, hwaits⟩ := qbind_unbinds (w := w) hlift ha hp ⟨hrows, hreserved⟩ hzero hreq
    refine ⟨fun hnone => ⟨_, hstays hnone, bankWord_retire (onlyBank_refl _ _) w⟩, fun y hy hway => ⟨_, hends y hy hway, ?_, ?_⟩, hwaits⟩
    · rw [retire_me, unbound_me]
      exact congrArg (advanced _ · w) (releaseSender_cycle _ _ _ _)
    · rw [retire_myBank, Bank.queue_setStream, unbound_queue _ _ _ hq]
  · have hq := queueNo_lt hp
    obtain ⟨hposts, hanswered⟩ := qbind_binds (w := w) hlift ha hp ⟨hrows, hreserved⟩ hv hbind he hchip
    refine ⟨fun hreq => ⟨_, hposts hreq, postBind_me _ _ _ _, postBind_queue _ _ _ _ hq⟩, fun r hreq hword hrchip hunit hstage hnone => ?_,
      fun r hreq hword hrchip hunit hstage => ?_⟩
    · have hexec := (hanswered r hreq hword hrchip hunit).1 hstage hnone
      have hbank := bankWord_retire (onlyBank_modMyBank (onlyBank_issue s (fun k => k.setQueue q { k.queue q with req := none })) rfl
        (fun k => k.setQueue q { k.queue q with binding := some (r.made (issueState s)) })) w
      rw [State.myBank_modMyBank, State.myBank_modMyBank, rebound_eq _ hq] at hbank
      exact ⟨_, r.made (issueState s), hexec, hbank, rfl, hrchip, by rw [made_peerQ, hword], rfl, rfl, rfl⟩
    · rw [(hanswered r hreq hword hrchip hunit).2 hstage, requestGone_me]
      rfl
  · refine bankWord_of_mod (i := .split w a b)
      (g := fun k => { k with splits := kset k.splits ((issueState s).me.get a).toNat (((issueState s).me.get b).setWidth 16) }) rfl ?_
    have hposted : (decide (((issueState s).me.get a).toNat ≥ Config.sliceCount) || !(kfind l.plan ((issueState s).me.get a).toNat).isSome ||
        decide (((issueState s).me.get b).extractLsb' 16 48 ≠ 0)) = false := by
      rw [extractLsb'_eq_zero hmask, hm, decide_eq_false (Nat.not_le.2 hslice)]
      rfl
    rw [noLift_ok hlift, Except.bind_ok', rd_of_readable ha, Except.bind_ok', rd_of_readable hb, Except.bind_ok', hl]
    dsimp only
    rw [trapIf_false hposted, Except.bind_ok']

/-- Settles O13: a barrier counts each unit once, and binds and way masks are posted. -/
theorem barriersAndPostedWords : Obligations.BarriersAndPostedWords := ⟨gbarArrivesOnceAndPasses, qbindAndSplitPost⟩

end Sys2Proof.KernelMachine


/-! PROOFS. Bound queues between two banks (04 R110, R111; 18 R311). -/

namespace Sys2Proof.KernelMachine

open Sys2Proof Sys2Proof.Machine Sys2Proof.Claims

/-! ### What the steps of a binding do to one bank and to another -/

/-- Steps that change two banks, one queue of each. -/
def twoQueues (s : State) (b : BankId) (q : Nat) (x : Queue) (p : BankId) (i : Nat) (z : Queue) : State :=
  (s.modBank b (·.setQueue q x)).modBank p (·.setQueue i z)

section
variable {b p : BankId} {q : Nat}

theorem otherBanks_modBank {s : State} {bs : List BankId} (hb : b ∈ bs) (f : Bank → Bank) : OtherBanks s (s.modBank b f) bs :=
  fun _ hr => State.bank_modBank_ne s f (fun h => hr (h ▸ hb))

theorem otherBanks_trans {s t v : State} {bs : List BankId} (h : OtherBanks s t bs) (h' : OtherBanks t v bs) : OtherBanks s v bs :=
  fun r hr => (h' r hr).trans (h r hr)

theorem queue_modBank_setQueue (hq : q < 16) (s : State) (x : Queue) : ((s.modBank b (·.setQueue q x)).bank b).queue q = x := by
  rw [State.bank_modBank_same, Bank.queue_setQueue_same _ _ hq]

/-- A queue's request at a stage: nothing else of its bank. -/
theorem setStage_eq {s : State} {r : BindReq} (hreq : ((s.bank b).queue q).req = some r) (st : BindStage) :
    setStage s b q st = s.setBank b ((s.bank b).setQueue q (atStage ((s.bank b).queue q) r st)) := by
  rw [setStage, State.modBank, hreq]
  rfl

theorem setStage_queue {s : State} {r : BindReq} (hq : q < 16) (hreq : ((s.bank b).queue q).req = some r) (st : BindStage) :
    ((setStage s b q st).bank b).queue q = atStage ((s.bank b).queue q) r st := by
  rw [setStage_eq hreq, State.bank_setBank_same, Bank.queue_setQueue_same _ _ hq]

theorem setStage_bank_ne (s : State) (hp : p ≠ b) (st : BindStage) : (setStage s b q st).bank p = s.bank p := State.bank_modBank_ne _ _ hp

/-! ### The peer's answer (18 R311) -/

/-- A queue takes a sender where it has none, and one that it has already on this module. -/
theorem claim_taken {z : Queue} (h : z.sender = none ∨ ∃ j, z.sender = some ⟨some b, q, j⟩) (i : Nat) :
    z.claim ⟨some b, q, i⟩ = some { z with sender := some ⟨some b, q, i⟩ } := by
  rw [Queue.claim]
  rcases h with h | ⟨j, h⟩
  · rw [h]
  · rw [h]
    exact if_pos ⟨rfl, rfl, .inl rfl⟩

theorem claim_refused {z : Queue} {y : Sender} (h : z.sender = some y) (hother : ¬ (y.bank = some b ∧ y.q = q)) (i : Nat) :
    z.claim ⟨some b, q, i⟩ = none := by
  rw [Queue.claim, h]
  exact if_neg fun hn => hother ⟨hn.1, hn.2.1⟩

theorem claimQueue_taken {s : State} {i : Nat} {y : Sender} {z : Queue} (hphase : (s.bank p).phase ≠ .free)
    (h : ((s.bank p).queue i).claim y = some z) : claimQueue s p i y = (true, s.modBank p (·.setQueue i z)) := by
  rw [claimQueue, if_neg hphase, h]

theorem claimQueue_refused {s : State} {i : Nat} {y : Sender} (hphase : (s.bank p).phase ≠ .free)
    (h : ((s.bank p).queue i).claim y = none) : claimQueue s p i y = (false, s) := by
  rw [claimQueue, if_neg hphase, h]

theorem otherBanks_claimQueue (s : State) (i : Nat) (y : Sender) {bs : List BankId} (hp : p ∈ bs) : OtherBanks s (claimQueue s p i y).2 bs := by
  unfold claimQueue
  split
  · exact fun _ _ => rfl
  · split
    · exact otherBanks_modBank hp _
    · exact fun _ _ => rfl

/-- A request posted to a bank of this module is answered there. -/
theorem ownBind_asks {s : State} {r : BindReq} {l : Launch} (hreq : ((s.bank b).queue q).req = some r) (hstage : r.stage = .posted)
    (hchip : r.chip = s.time.chip.toNat) (hl : s.launchOf b = some l) (hp : kfind l.units r.unit = some (.placed p)) :
    ownBind s b q = setStage (claimQueue s p (r.word.toNat / 2 ^ 32 % 16) ⟨some b, q, r.id⟩).2 b q
      (.asked (some (claimQueue s p (r.word.toNat / 2 ^ 32 % 16) ⟨some b, q, r.id⟩).1)) := by
  have hqueue : (r.word.extractLsb' 32 4).toNat = r.word.toNat / 2 ^ 32 % 16 := made_peerQ s r
  rw [ownBind, hreq]
  dsimp only
  rw [if_neg (not_not_intro hstage), if_neg (not_not_intro hchip), hl]
  dsimp only
  rw [hp, hqueue]

/-! ### Rows and credits (04 R111) -/

theorem boundRowArrival_early {s : State} {y : Binding} {c limit : Nat} {r : Row} {rest : List (Nat × Row × Nat)}
    (hy : ((s.bank b).queue q).binding = some y) (hway : y.way = (c, r, limit) :: rest) (hp : y.bank = some p) (hc : s.cycle < c) :
    boundRowArrival s b q none = s := by
  rw [boundRowArrival]
  dsimp only
  rw [hy]
  dsimp only
  rw [hway, hp]
  exact if_neg (Nat.not_le.2 hc)

theorem boundRowArrival_due {s : State} {y : Binding} {c limit j : Nat} {r : Row} {rest : List (Nat × Row × Nat)} (hpb : p ≠ b)
    (hy : ((s.bank b).queue q).binding = some y) (hway : y.way = (c, r, limit) :: rest) (hp : y.bank = some p) (hc : c ≤ s.cycle)
    (hsender : ((s.bank p).queue y.peerQ).sender = some ⟨some b, q, j⟩) :
    boundRowArrival s b q none = twoQueues s b q { (s.bank b).queue q with binding := some { y with way := rest } } p y.peerQ
      { (s.bank p).queue y.peerQ with
        rows := ((s.bank p).queue y.peerQ).rows ++ [r], owed := ((s.bank p).queue y.peerQ).owed ++ [some ⟨some b, q, y.id⟩] } := by
  rw [boundRowArrival]
  dsimp only
  rw [hy]
  dsimp only
  rw [hway, hp]
  dsimp only
  rw [if_pos hc, State.bank_modBank_ne _ _ hpb, if_pos (by rw [hsender]; simp)]
  rfl

theorem creditReturn_gives {s : State} {y : Binding} (hy : ((s.bank b).queue q).binding = some y) (hp : y.bank = some p)
    (hsent : y.way.length < y.sent) (hback : 0 < y.back) : creditReturn s b q =
      s.setBank b ((s.bank b).setQueue q { (s.bank b).queue q with binding := some { y with sent := y.sent - 1, back := y.back - 1 } }) := by
  have hcredit : ¬ ((y.bank.isSome && decide (y.back = 0) || y.bank.isNone && !s.time.joined) = true) := by
    rw [hp]; simp; omega
  rw [creditReturn]
  dsimp only
  rw [hy]
  dsimp only
  rw [if_neg hcredit, if_neg (Nat.not_le.2 hsent)]
  rfl

end

/-- Settles O35: each step of a binding changes the sender's queue and its peer, as the request, the row or the credit says. -/
theorem boundQueuesCarryRows : Obligations.BoundQueuesCarryRows := by
  intro b p q s
  dsimp only
  intro hpb
  have hq : q.toNat < 16 := q.isLt
  have hown : b ∈ [b, p] := List.mem_cons_self
  have hpeers : p ∈ [b, p] := List.mem_cons_of_mem _ List.mem_cons_self
  refine ⟨fun r l hreq hstage hchip hl hp hphase => ?_, fun r ok w hreq hstage => ?_,
    fun y c r limit rest hy hway hp hpeer => ⟨fun hc => ?_, fun j hc hsender => ?_⟩,
    fun y hy hp hsent hback => congrArg Host.Outcome.next (creditReturn_gives hy hp hsent hback)⟩
  · have hexec : exec (.bindRequest b ⟨q, none⟩) s = .next _ := congrArg Host.Outcome.next (ownBind_asks hreq hstage hchip hl hp)
    have hi : r.word.toNat / 2 ^ 32 % 16 < 16 := Nat.mod_lt _ (by decide)
    refine ⟨_, hexec, otherBanks_trans (otherBanks_claimQueue s _ _ hpeers) (otherBanks_modBank hown _), fun hfree => ?_, fun y hy hother => ?_⟩
    · have hclaim := claimQueue_taken hphase (claim_taken hfree r.id)
      rw [hclaim]
      dsimp only
      have hstands : (s.modBank p (·.setQueue (r.word.toNat / 2 ^ 32 % 16) { (s.bank p).queue (r.word.toNat / 2 ^ 32 % 16) with
          sender := some ⟨some b, q.toNat, r.id⟩ })).bank b = s.bank b := State.bank_modBank_ne _ _ hpb.symm
      refine ⟨?_, ?_⟩
      · rw [setStage_queue hq (by rw [hstands]; exact hreq), hstands]
      · rw [setStage_bank_ne _ hpb, queue_modBank_setQueue hi]
    · have hclaim := claimQueue_refused hphase (claim_refused hy hother r.id)
      rw [hclaim]
      exact ⟨setStage_queue hq hreq _, setStage_bank_ne _ hpb _⟩
  · refine congrArg Host.Outcome.next ?_
    rw [bindAck, hreq]
    dsimp only
    rw [hstage]
    exact setStage_eq hreq _
  · exact congrArg Host.Outcome.next (boundRowArrival_early hy hway hp hc)
  · have hexec : exec (.boundRowArrival b q none) s = .next _ := congrArg Host.Outcome.next (boundRowArrival_due hpb hy hway hp hc hsender)
    refine ⟨_, hexec, otherBanks_trans (otherBanks_modBank hown _) (otherBanks_modBank hpeers _), ?_, queue_modBank_setQueue hpeer _ _, rfl⟩
    rw [twoQueues, State.bank_modBank_ne _ _ hpb.symm, queue_modBank_setQueue hq]

end Sys2Proof.KernelMachine

/-! PROOFS. The memory words of A (05 R116, R132–R137, R147): how they reach their lines, what their reads meet before they issue, where
they trap. -/

namespace Sys2Proof.KernelMachine

open Sys2Proof Sys2Proof.Machine Sys2Proof.Claims

/-! ### Reaching memory before a word issues (05 R116; 21 R346; 22 R379) -/

section
variable {u : State} {va : W64} {n : Nat} {a : Access} {v : View} {ps : List (Nat × Nat)} {f : State → List (Nat × Nat) → Res State}

theorem reach_of_forall₂ {b : BankId} {src : Source} {vs : List (W64 × Nat)}
    (h : List.Forall₂ (fun p q => (u.bank b).badPage src p.1 = false ∧ q.2 = p.2 ∧
      translate u b.core (u.bank b).ctxNum (u.launchOf b) p.1 a = .ok q.1) vs ps) : reach u b src a vs = .ok ps := by
  induction h with
  | nil => rfl
  | @cons p q vs qs hpq _ ih =>
    obtain ⟨va, n⟩ := p
    obtain ⟨pa, m⟩ := q
    obtain ⟨hbad, rfl, htr⟩ := hpq
    simp only [reach, hbad, htr, ih, Bool.false_eq_true, if_false]

theorem reach_of_reaches (h : Reaches u va n a ps) : reach u u.cur.bank (.aStream u.cur.bank) a (pieces va 8 n) = .ok ps :=
  reach_of_forall₂ h.2

theorem memGate_of_reaches (h : Reaches u va n a ps) : memGate u (pieces va 8 n).length = .ok () := by
  rw [h.2.length_eq]
  exact memGate_open h.1

/-- A word whose lines translate goes on to what its read meets. -/
theorem withMem_of_reaches (h : Reaches u va n a ps) :
    withMem u va n a v f =
      let m := u.myBank.mem
      let t := meetsFirst u m v (fromHome m v m.seq ps)
      if meetsPoison t m v m.seq ps then .error (.trapIn (mkTrap .memUncorrected va) t) else f t ps := by
  unfold withMem
  simp only [memGate_of_reaches h, reach_of_reaches h, Except.bind_ok']

/-- With no uncorrectable error armed, nothing is met before issue. -/
theorem meetsFirst_of_unarmed (h : Unarmed u v ps) : meetsFirst u u.myBank.mem v (fromHome u.myBank.mem v u.myBank.mem.seq ps) = u := by
  unfold meetsFirst
  extract_lets met
  have hnone : (fromHome u.myBank.mem v u.myBank.mem.seq ps).any (fun p => (armedIn u p.1 p.2).any (fun x => met x.2)) = false := by
    simp only [List.any_eq_false]
    intro p hp
    simp only [Bool.not_eq_true, List.any_eq_false]
    intro x hx
    simp [met, h p hp x hx]
  rw [hnone]
  rfl

theorem withMem_unpoisoned (h : Reaches u va n a ps) (hv : Unpoisoned u v ps) : withMem u va n a v f = f u ps := by
  rw [withMem_of_reaches h]
  simp only [meetsFirst_of_unarmed hv.2, hv.1, Bool.false_eq_true, if_false]

theorem withMem_poisoned (h : Reaches u va n a ps) (hv : Poisoned u v ps) :
    withMem u va n a v f = .error (.trapIn (mkTrap .memUncorrected va) u) := by
  rw [withMem_of_reaches h]
  simp only [meetsFirst_of_unarmed hv.2, hv.1, if_true]

/-- A store reads nothing, and so meets nothing. -/
theorem unpoisoned_none (u : State) (ps : List (Nat × Nat)) : Unpoisoned u .none ps :=
  ⟨by simp [meetsPoison], fun p hp => by simp [fromHome] at hp⟩

theorem withMem_store (h : Reaches u va n a ps) : withMem u va n a .none f = f u ps := withMem_unpoisoned h (unpoisoned_none u ps)

theorem withMem_gate_shut (h : ¬ GateOpen u (pieces va 8 n).length) : withMem u va n a v f = .error (.interlock false) := by
  unfold withMem
  simp only [memGate_shut h, Except.bind_error']

/-- An access within one line is one piece. -/
theorem pieces_of_within {k : Nat} (hn : n ≠ 0) (h : va.toNat % 64 + n ≤ 64) : pieces va (k + 2) n = [(va, n)] := by
  have hmin : min n (64 - va.toNat % 64) = n := by omega
  simp only [pieces, hn, if_false, hmin, Nat.sub_self, if_true]

theorem withMem_forbidden (hn : n ≠ 0) (hin : va.toNat % 64 + n ≤ 64) (hgate : GateOpen u)
    (hbad : u.myBank.badPage (.aStream u.cur.bank) va = false)
    (htr : translate u u.cur.bank.core u.myBank.ctxNum (u.launchOf u.cur.bank) va a = .forbidden) :
    withMem u va n a v f = .error (.trap (mkTrap .accessViolation va)) := by
  have hbad' : (u.bank u.cur.bank).badPage (.aStream u.cur.bank) va = false := hbad
  have htr' : translate u u.cur.bank.core (u.bank u.cur.bank).ctxNum (u.launchOf u.cur.bank) va a = .forbidden := htr
  unfold withMem
  rw [pieces_of_within (k := 6) hn hin]
  simp only [List.length_singleton, memGate_open hgate, Except.bind_ok', reach, hbad', htr', Bool.false_eq_true, if_false]

end

/-! ### Words that trap in a state of their own, or whatever the stall checker says (17 R299; 22 R379) -/

section
variable {s t : State} {i : Instr} {f : State → Res State} {tr : Trap}

theorem next_of_trapIn (hi : exec i s = run s f) (h : f (issueState s) = .error (.trapIn tr t)) :
    exec i s = .next (takeTrap t t.cur.bank t.cur.engine tr t.me.pc) := by
  have ho : outcomeOf (issueState s) f = .error (.trapIn tr t) := outcomeOf_error h (by simp)
  rw [hi, run]
  exact congrArg (fun r => Host.Outcome.next (conclude (issueState s) r)) ho

theorem traps_of_trapIn {c : Cause} {v : W64} (hi : exec i s = run s f) (h : f (issueState s) = .error (.trapIn (mkTrap c v) (issueState s))) :
    Traps s i c v := next_of_trapIn hi h

end

/-! ### Loads (05 R133–R135) -/

theorem sizeOf2_eq (z : BitVec 2) : sizeOf2 z = 2 ^ z.toNat := by rw [sizeOf2, Nat.one_shiftLeft]

/-- How a load of this kind reads. -/
abbrev viewOf (kind : ReqKind) : View := if kind = .ordinary then .ordinary else .home

theorem loadForm_runs {form : (BitVec 3 → Reg → Reg → Reg → BitVec 2 → Instr) × ReqKind × Bool × Bool} (h : form ∈ loads) :
    (form.2.1 = .ordinary ∨ form.2.1 = .home) ∧
    ∀ w d a b z s, exec (form.1 w d a b z) s = run s (load form.2.1 form.2.2.1 form.2.2.2 w d a b z) := by
  simp only [loads, List.mem_cons, List.not_mem_nil, or_false] at h
  rcases h with rfl | rfl | rfl | rfl | rfl | rfl | rfl <;> exact ⟨by decide, fun _ _ _ _ _ _ => rfl⟩

theorem viewOf_eq {kind : ReqKind} (h : kind = .ordinary ∨ kind = .home) :
    (if kind != .ordinary then View.home else View.ordinary) = viewOf kind := by
  rcases h with rfl | rfl <;> rfl

/-- The bank once register `d` waits for a result of variable latency: earlier results on their way to it are lost. -/
def claimed (e : Engine) (d : Reg) (k : Bank) : Bank :=
  let y := { k with mem := k.mem.forget d }
  y.setStream e { y.stream e with pend := (y.stream e).pend.map (fun p => if p.wr.toReg d then { p with wr := .done } else p) }

theorem claimReg_eq (u : State) (d : Reg) : claimReg u d = u.modMyBank (claimed u.cur.engine d) := by
  unfold claimReg
  rw [modMe_eq_modMyBank, modMyBank_modMyBank]
  rfl

/-- The bank once a request has its place in A's order. -/
def withReq (r : MemReq) (k : Bank) : Bank := { k with mem := { k.mem with seq := k.mem.seq + 1, reqs := k.mem.reqs ++ [r] } }

section
variable {u : State} {va : W64} {ps : List (Nat × Nat)} {kind : ReqKind} {dest : ReqDest} {rel : Option Nat} {acq : Bool}

theorem enqueueReq_eq (hk : kind ≠ .prefetch) :
    enqueueReq u u.cur.bank va ps kind dest rel acq = u.modMyBank (withReq (newReq u kind va ps dest rel acq)) := by
  unfold enqueueReq
  rw [if_neg hk]
  rfl

theorem enqueueReq_mod (g : Bank → Bank) (hk : kind ≠ .prefetch) (hpc : ∀ k, ((g k).stream u.cur.engine).pc = (k.stream u.cur.engine).pc)
    (hseq : ∀ k, (g k).mem.seq = k.mem.seq) :
    enqueueReq (u.modMyBank g) u.cur.bank va ps kind dest rel acq = u.modMyBank (withReq (newReq u kind va ps dest rel acq) ∘ g) := by
  have hme : (u.modMyBank g).me.pc = u.me.pc := by rw [State.me_modMyBank, hpc, State.me_eq]
  unfold enqueueReq
  rw [show (u.modMyBank g).modBank u.cur.bank _ = _ from modBank_modBank _ _ _ _]
  refine congrArg (u.setBank u.cur.bank) ?_
  simp only [Function.comp, withReq, newReq, hk, if_false, hme, hseq]
  rfl

end

/-- The bank that a load or an atomic leaves: its request has its place, with its result to go to register `d`. -/
theorem withReq_claimed (u : State) (d : Reg) (r : MemReq) : withReq r (claimed u.cur.engine d u.myBank) = requested u d r := by
  unfold withReq claimed requested
  rw [State.me_eq]
  cases u.cur.engine <;> rfl

theorem enqueueReq_claimReg {u : State} {va : W64} {ps : List (Nat × Nat)} {kind : ReqKind} {dest : ReqDest} {rel : Option Nat} {acq : Bool}
    {d : Reg} (hk : kind ≠ .prefetch) :
    enqueueReq (claimReg u d) u.cur.bank va ps kind dest rel acq =
      u.modMyBank (withReq (newReq u kind va ps dest rel acq) ∘ claimed u.cur.engine d) := by
  rw [claimReg_eq]
  refine enqueueReq_mod _ hk (fun k => ?_) (fun k => ?_) <;> cases u.cur.engine <;> rfl

section
variable {u : State} {w : BitVec 3} {d a b : Reg} {z : BitVec 2} {kind : ReqKind} {signed acq : Bool} {ps : List (Nat × Nat)}

theorem load_eq (ha : Readable u a) (hb : Readable u b) :
    load kind signed acq w d a b z u =
      if (u.me.get a + u.me.get b).toNat % 2 ^ z.toNat ≠ 0 then valTrap .misaligned (u.me.get a + u.me.get b)
      else withMem u (u.me.get a + u.me.get b) (2 ^ z.toNat) .read (viewOf kind) (fun s ps =>
        .ok (retire (enqueueReq (claimReg s d) s.cur.bank (u.me.get a + u.me.get b) ps kind (regDest d signed) none acq) w)) := by
  unfold load
  simp only [rd_of_readable ha, rd_of_readable hb, Except.bind_ok', sizeOf2_eq, viewOf]

theorem load_ok (ha : Readable u a) (hb : Readable u b) (hz : (u.me.get a + u.me.get b).toNat % 2 ^ z.toNat = 0)
    (h : Reaches u (u.me.get a + u.me.get b) (2 ^ z.toNat) .read ps) (hv : Unpoisoned u (viewOf kind) ps) (hk : kind ≠ .prefetch) :
    load kind signed acq w d a b z u = .ok (retire (u.modMyBank (withReq (newReq u kind (u.me.get a + u.me.get b) ps
      (.reg (if d = 0 then none else some d) signed) none acq) ∘ claimed u.cur.engine d)) w) := by
  rw [load_eq ha hb, if_neg (not_not.mpr hz), withMem_unpoisoned h hv]
  have hcur : u.cur.bank = (claimReg u d).cur.bank := rfl
  rw [enqueueReq_claimReg hk]
  rfl

end

/-- A load with a place in A's order. -/
theorem loadsTakeTheirPlace : ∀ form ∈ loads, ∀ (w : BitVec 3) (d a b : Reg) (z : BitVec 2) (ps : List (Nat × Nat)) (s : State),
    let u := issueState s
    let va := u.me.get a + u.me.get b
    Readable u a → Readable u b → va.toNat % 2 ^ z.toNat = 0 → Reaches u va (2 ^ z.toNat) .read ps →
      Unpoisoned u (if form.2.1 != .ordinary then .home else .ordinary) ps → ∃ t, exec (form.1 w d a b z) s = .next t ∧
        BankWord s t w (requested u d (newReq u form.2.1 va ps (.reg (if d = 0 then none else some d) form.2.2.1) none form.2.2.2)) := by
  intro form hform w d a b z ps s
  dsimp only
  intro ha hb hz hreach hv
  obtain ⟨hkind, hruns⟩ := loadForm_runs hform
  rw [viewOf_eq hkind] at hv
  have hk : form.2.1 ≠ .prefetch := by rcases hkind with h | h <;> rw [h] <;> simp
  obtain ⟨t, ht, hbank⟩ := bankWord_of_mod (hruns w d a b z s) (load_ok ha hb hz hreach hv hk)
  exact ⟨t, ht, by rw [← withReq_claimed]; exact hbank⟩

/-! ### LDQ and STQ (05 R132) -/

section
variable {s : State} {w : BitVec 3} {p : Spec} {a : Reg} {q : Nat} {ps : List (Nat × Nat)}

/-- A slot of queue `q` is kept for a row on its way. -/
def reservedSlot (q : Nat) (k : Bank) : Bank := k.setQueue q { k.queue q with reserved := (k.queue q).reserved + 1 }

theorem ldq_misaligned (ha : Readable (issueState s) a) (hz : ((issueState s).me.get a).toNat % 64 ≠ 0) :
    Traps s (.ldq w p a) .misaligned ((issueState s).me.get a) := by
  refine traps_of_error rfl ?_ (by decide)
  simp only [rd_of_readable ha, Except.bind_ok', if_pos hz]
  rfl

theorem ldq_blocks (ha : Readable (issueState s) a) (hp : operandOf p = .queue q) (hz : ((issueState s).me.get a).toNat % 64 = 0)
    (hfull : ((issueState s).myBank.queue q).hasRoom = false) : Blocks s (.ldq w p a) .queue (p.setWidth 64) := by
  refine blocks_of_error rfl ?_
  simp only [rd_of_readable ha, Except.bind_ok', if_neg (not_not.mpr hz), queueNo_of_operand hp, hfull, Bool.not_false, if_true]

theorem ldq_issues (ha : Readable (issueState s) a) (hp : operandOf p = .queue q) (hz : ((issueState s).me.get a).toNat % 64 = 0)
    (hroom : ((issueState s).myBank.queue q).hasRoom = true) (h : Reaches (issueState s) ((issueState s).me.get a) 256 .read ps)
    (hv : Unpoisoned (issueState s) .ordinary ps) :
    ∃ t, exec (.ldq w p a) s = .next t ∧ BankWord s t w (withReq (newReq (issueState s) .ordinary ((issueState s).me.get a) ps (.queue q) none false)
      (reservedSlot q (issueState s).myBank)) := by
  refine bankWord_of_mod (g := withReq (newReq (issueState s) .ordinary ((issueState s).me.get a) ps (.queue q) none false) ∘ reservedSlot q) rfl ?_
  simp only [rd_of_readable ha, Except.bind_ok', if_neg (not_not.mpr hz), queueNo_of_operand hp, hroom, Bool.not_true, Bool.false_eq_true, if_false,
    withMem_unpoisoned h hv]
  rw [← enqueueReq_mod (reservedSlot q) (by simp) (fun k => by cases (issueState s).cur.engine <;> rfl) (fun k => rfl)]
  rfl

end

theorem loadsIssue : Claims.LoadsIssue := by
  refine ⟨loadsTakeTheirPlace, fun w p a q ps s => ?_⟩
  dsimp only
  intro ha hp hz hroom hreach hv
  exact ldq_issues ha hp hz hroom hreach hv

end Sys2Proof.KernelMachine

namespace Sys2Proof.KernelMachine

open Sys2Proof Sys2Proof.Machine Sys2Proof.Claims

/-! ### What an access of a home changes: memory, the fleet side, free values and armed errors (21 R367; 22 R377–R380; 24 R388) -/

/-- Everything else stands. -/
structure HomesOnly (s t : State) : Prop where
  agenda : t.agenda = s.agenda
  cur : t.cur = s.cur
  cycle : t.cycle = s.cycle
  ctxs : t.ctxs = s.ctxs
  host : t.host = s.host
  time : t.time = s.time
  esc : t.esc = s.esc
  core : ∀ n, t.core n = { s.core n with inj := (t.core n).inj }

theorem HomesOnly.of_parts {s t : State} (f : Fleet) (m : MemSys) (n : Nat) (h : t = { s with fleet := f, mem := m, freeCtr := n }) : HomesOnly s t := by
  subst h; exact ⟨rfl, rfl, rfl, rfl, rfl, rfl, rfl, fun _ => rfl⟩

theorem HomesOnly.refl (s : State) : HomesOnly s s := .of_parts s.fleet s.mem s.freeCtr rfl

theorem HomesOnly.trans {s t u : State} (h : HomesOnly s t) (h' : HomesOnly t u) : HomesOnly s u where
  agenda := h'.agenda.trans h.agenda
  cur := h'.cur.trans h.cur
  cycle := h'.cycle.trans h.cycle
  ctxs := h'.ctxs.trans h.ctxs
  host := h'.host.trans h.host
  time := h'.time.trans h.time
  esc := h'.esc.trans h.esc
  core n := by rw [h'.core, h.core]

theorem HomesOnly.foldl {α : Type} {f : State → α → State} (h : ∀ s x, HomesOnly s (f s x)) (l : List α) (s : State) :
    HomesOnly s (l.foldl f s) := by
  induction l generalizing s with
  | nil => exact .refl s
  | cons x l ih => exact (h s x).trans (ih _)

section
variable {s t : State} (h : HomesOnly s t)
include h

theorem HomesOnly.bank (b : BankId) : t.bank b = s.bank b := by
  rw [State.bank, h.core, State.bank]
  cases b.slot <;> rfl

theorem HomesOnly.myBank : t.myBank = s.myBank := by rw [State.myBank, h.cur, h.bank]; rfl
theorem HomesOnly.me : t.me = s.me := by rw [State.me_eq, h.cur, h.myBank]; rfl
theorem HomesOnly.ctx (n : Nat) : t.ctx n = s.ctx n := by rw [State.ctx, h.ctxs]; rfl
theorem HomesOnly.ctxOf (b : BankId) : t.ctxOf b = s.ctxOf b := by rw [State.ctxOf, h.bank, h.ctx]; rfl
theorem HomesOnly.tick : t.tick = s.tick := by rw [State.tick, h.time]; rfl
theorem HomesOnly.launchOf (b : BankId) : t.launchOf b = s.launchOf b := by rw [State.launchOf, h.bank, State.launch?, h.host]; rfl

end

theorem homesOnly_wakeHome (s : State) (pa : Nat) : HomesOnly s (wakeHome s pa) := by
  obtain ⟨f, hf, -⟩ := woken_wakeHome s pa
  exact .of_parts f s.mem s.freeCtr hf

theorem homesOnly_wakeHomes (s : State) (pa n : Nat) : HomesOnly s (wakeHomes s pa n) := HomesOnly.foldl (fun s _ => homesOnly_wakeHome s _) _ s

theorem homesOnly_dropInj (s : State) (n : Nat) (j : Injection) : HomesOnly s (dropInj s n j) := by
  refine ⟨rfl, rfl, rfl, rfl, rfl, rfl, rfl, fun i => ?_⟩
  unfold dropInj
  rw [State.core_setCore]
  split
  · next h => subst h; rfl
  · rfl

theorem homesOnly_putBytes (s : State) (pa : Nat) (d : List Byte) : HomesOnly s (putBytes s pa d) := by
  have hdisarmed : HomesOnly (wakeHomes s pa d.length) (disarmWrite (wakeHomes s pa d.length) pa d.length) :=
    HomesOnly.foldl (fun s (x : Nat × Injection) => homesOnly_dropInj s x.1 x.2) _ _
  unfold putBytes
  dsimp only
  exact ((homesOnly_wakeHomes s pa d.length).trans hdisarmed).trans (.of_parts _ _ _ rfl)

theorem homesOnly_write (s : State) (pa : Nat) (d : List Byte) : HomesOnly s (s.write pa d) := by
  unfold State.write
  split
  · exact .of_parts s.fleet _ s.freeCtr rfl
  · exact homesOnly_putBytes s pa d

theorem homesOnly_busyBy (s : State) (ctx : Nat) (d : Int) (l : List Nat) : HomesOnly s (busyBy s ctx d l) :=
  HomesOnly.foldl (fun s _ => homesOnly_write s _ _) l s

theorem homesOnly_lineAddress (s : State) (pa : Nat) : HomesOnly s (lineAddress s pa).2 := by
  unfold lineAddress
  split
  · exact .refl s
  · exact .of_parts s.fleet s.mem _ rfl

theorem homesOnly_faultAddress (s : State) (store kind pa : Nat) : HomesOnly s (faultAddress s store kind pa) := by
  refine (homesOnly_lineAddress s pa).trans ?_
  unfold faultAddress
  dsimp only
  split
  · exact .of_parts _ _ (lineAddress s pa).2.freeCtr rfl
  · exact .of_parts (lineAddress s pa).2.fleet _ (lineAddress s pa).2.freeCtr rfl

theorem homesOnly_corrected (s : State) (store pa : Nat) : HomesOnly s (corrected s store pa) := by
  unfold corrected
  extract_lets page n m t
  have ht : HomesOnly s t := .of_parts s.fleet _ s.freeCtr rfl
  split
  · exact ht.trans (homesOnly_faultAddress _ _ _ _)
  · exact ht

theorem homesOnly_poisonLine (s : State) (store pa : Nat) : HomesOnly s (poisonLine s store pa) :=
  HomesOnly.trans (.of_parts s.fleet _ s.freeCtr rfl) (homesOnly_faultAddress _ _ _ _)

theorem homesOnly_noteAsked (s : State) (x : Asker) : HomesOnly s (noteAsked s x) := by
  unfold noteAsked
  split
  · exact .refl s
  · exact .of_parts s.fleet _ s.freeCtr rfl

theorem homesOnly_unasked (s : State) (x : Asker) : HomesOnly s (unasked s x) := by
  unfold unasked
  split
  · exact .of_parts s.fleet _ s.freeCtr rfl
  · exact .refl s

theorem homesOnly_noteMisses (s : State) (n r c l : Nat) : HomesOnly s (noteMisses s n r c l) := by
  unfold noteMisses
  split
  · exact .of_parts s.fleet _ s.freeCtr rfl
  · exact .refl s

theorem homesOnly_rebuilt (s : State) (pa : Nat) : HomesOnly s (rebuilt s pa) := by
  have hnoted : HomesOnly s { s with mem := { s.mem with cwd := s.mem.cwd + 1, rebuilds := s.mem.rebuilds ++ [pa / 64] } } :=
    .of_parts s.fleet _ s.freeCtr rfl
  exact (hnoted.trans (homesOnly_noteAsked _ _)).trans (homesOnly_faultAddress _ _ _ _)

theorem homesOnly_readArmed {f : State → State} (hf : ∀ s, HomesOnly s (f s)) (s : State) (line : Nat) :
    HomesOnly s (readArmed f s line).2 := by
  have hmet : ∀ js : List (Nat × Injection), HomesOnly s
      (js.foldl (fun s x => let s := dropInj s x.1 x.2; if x.2.hard then s else corrected s (storeOf line) line) s) := fun js =>
    HomesOnly.foldl (fun s x => by
      dsimp only
      split
      · exact homesOnly_dropInj _ _ _
      · exact (homesOnly_dropInj _ _ _).trans (homesOnly_corrected _ _ _)) js s
  unfold readArmed
  dsimp only
  split
  · exact (hmet _).trans (hf _)
  · exact hmet _

theorem homesOnly_readTier (s : State) (line : Nat) : HomesOnly s (readTier s line).2 :=
  homesOnly_readArmed (fun _ => homesOnly_poisonLine _ _ _) s line

theorem homesOnly_readSource (s : State) (line : Nat) : HomesOnly s (readSource s line).2 := by
  refine homesOnly_readArmed (fun s => ?_) s line
  split
  · next t _ =>
    have htier : HomesOnly s (if mirrorClean s.mem line then readTier s t else (false, s)).2 := by
      split
      · exact homesOnly_readTier s t
      · exact .refl s
    extract_lets x
    split
    · exact htier.trans (homesOnly_rebuilt _ _)
    · exact htier.trans (homesOnly_poisonLine _ _ _)
  · exact homesOnly_poisonLine _ _ _

theorem homesOnly_readSources (s : State) (lines : List Nat) : HomesOnly s (readSources s lines).2 := by
  suffices h : ∀ x : Bool × State, HomesOnly x.2 (lines.foldl (fun x l => let y := readSource x.2 l; (x.1 && y.1, y.2)) x).2 from h (true, s)
  intro x
  induction lines generalizing x with
  | nil => exact .refl _
  | cons l ls ih => exact (homesOnly_readSource x.2 l).trans (ih (x.1 && (readSource x.2 l).1, (readSource x.2 l).2))

theorem homesOnly_rebuildSource (s : State) (pa : Nat) (p m : Bool) : HomesOnly s (rebuildSource s pa p m).2 := by
  have hsources : HomesOnly s
      (if isProtected s.mem pa && p then readSources s ((groupLines (parityGroup pa)).filter (· != pa / 64 * 64)) else (false, s)).2 := by
    split
    · exact homesOnly_readSources s _
    · exact .refl s
  unfold rebuildSource
  dsimp only
  split
  · exact hsources.trans (homesOnly_readTier _ _)
  · exact hsources

theorem homesOnly_uncorrectable (s : State) (pa : Nat) (p m : Bool) : HomesOnly s (uncorrectable s pa p m) := by
  have hsource : HomesOnly s (if storeOf pa = 4 then rebuildSource s pa p m else (false, s)).2 := by
    split
    · exact homesOnly_rebuildSource s pa p m
    · exact .refl s
  unfold uncorrectable
  extract_lets x
  split
  · exact hsource.trans (homesOnly_rebuilt _ _)
  · exact hsource.trans (homesOnly_poisonLine _ _ _)

theorem homesOnly_meetOne (s : State) (c : Nat) (j : Injection) : HomesOnly s (meetOne s c j) := by
  unfold meetOne
  split
  · exact .refl s
  refine (homesOnly_dropInj s c j).trans ?_
  dsimp only
  split
  · exact homesOnly_corrected _ _ _
  split
  · refine HomesOnly.trans (t := (dropInj s c j).fresh.2) (.of_parts (dropInj s c j).fleet (dropInj s c j).mem _ rfl) ?_
    split
    · exact HomesOnly.trans (.of_parts (dropInj s c j).fresh.2.fleet _ (dropInj s c j).fresh.2.freeCtr rfl) (homesOnly_faultAddress _ _ _ _)
    · exact homesOnly_poisonLine _ _ _
  · exact homesOnly_uncorrectable _ _ _ _

theorem homesOnly_touchBytes (s : State) (pa n : Nat) : HomesOnly s (touchBytes s pa n) :=
  (homesOnly_wakeHomes s pa n).trans (HomesOnly.foldl (fun s (x : Nat × Injection) => homesOnly_meetOne s x.1 x.2) _ _)

end Sys2Proof.KernelMachine

namespace Sys2Proof.KernelMachine

open Sys2Proof Sys2Proof.Machine Sys2Proof.Claims

/-! ### STQ, stores and atomics (05 R132, R133, R136) -/

section
variable {u : State} {sp : Spec} {q : Nat}

theorem canTake_bound (hp : operandOf sp = .queue q) (hb : (u.myBank.queue q).binding ≠ none) :
    canTake u sp 1 = .error (.trap (mkTrap .accessViolation (u.cur.word.setWidth 64))) := by
  rw [canTake, hp]
  exact if_pos (Option.isSome_iff_ne_none.mpr hb)

theorem canTake_empty (hp : operandOf sp = .queue q) (hb : (u.myBank.queue q).binding = none) (hrows : (u.myBank.queue q).rows = []) :
    canTake u sp 1 = .error (.block .queue (sp.setWidth 64)) := by
  simp [canTake, hp, hb, hrows]

theorem canTake_some {r : Row} {rest : List Row} (hp : operandOf sp = .queue q) (hb : (u.myBank.queue q).binding = none)
    (hrows : (u.myBank.queue q).rows = r :: rest) : canTake u sp 1 = .ok () := by
  simp [canTake, hp, hb, hrows]

end

section
variable {u : State} {w : BitVec 3} {d a b : Reg} {z : BitVec 2} {rel : Bool}

theorem store_eq (hd : Readable u d) (ha : Readable u a) (hb : Readable u b) :
    store rel w d a b z u =
      if (u.me.get a + u.me.get b).toNat % 2 ^ z.toNat ≠ 0 then valTrap .misaligned (u.me.get a + u.me.get b)
      else withMem u (u.me.get a + u.me.get b) (2 ^ z.toNat) .write .none (fun s ps =>
        let data := leBytes (2 ^ z.toNat) (u.me.get d).toNat
        if rel then
          let seq := s.myBank.mem.seq
          let s := enqueueReq s s.cur.bank (u.me.get a + u.me.get b) ps (.storeRel data) .nowhere (some seq) false
          .ok (retire (s.modMyBank (fun k => { k with mem := { k.mem with
            own := ((splitData ps data).map (fun p => ownBytes none p.1 seq p.2)).flatten ++ k.mem.own } })) w)
        else .ok (retire (enqueueStore s s.cur.bank ps data) w)) := by
  unfold store
  simp only [rd_of_readable hd, rd_of_readable ha, rd_of_readable hb, Except.bind_ok', sizeOf2_eq]

end

/-- The width of an atomic in bytes. -/
abbrev atomicBytes (x : BitVec 1) : Nat := if x = 1 then 4 else 8

theorem atomicForm_runs {form : (BitVec 3 → Reg → Reg → Reg → BitVec 2 → BitVec 2 → BitVec 1 → Instr) × AtomicOp} (h : form ∈ atomics) :
    ∀ w d a b o c x s, exec (form.1 w d a b o c x) s = run s (atomic form.2 w d a b o x) := by
  simp only [atomics, List.mem_cons, List.not_mem_nil, or_false] at h
  rcases h with rfl | rfl | rfl | rfl | rfl | rfl | rfl | rfl | rfl | rfl <;> exact fun _ _ _ _ _ _ _ _ => rfl

theorem atomic_eq {u : State} {op : AtomicOp} {w : BitVec 3} {d a b : Reg} {o : BitVec 2} {x : BitVec 1} (ha : Readable u a)
    (hb : Readable u b) (hd : op = .cas → Readable u d) :
    atomic op w d a b o x u =
      if (u.me.get a).toNat % atomicBytes x ≠ 0 then valTrap .misaligned (u.me.get a)
      else withMem u (u.me.get a) (atomicBytes x) .write .home (fun s ps =>
        let s := claimReg s d
        let rel := if o.getLsbD 1 then some s.myBank.mem.seq else none
        .ok (retire (enqueueReq s s.cur.bank (u.me.get a) ps (.rmw op (u.me.get b) (if op = .cas then u.me.get d else 0)) (regDest d false) rel
          (o.getLsbD 0)) w)) := by
  unfold atomic
  by_cases h : op = .cas
  · simp only [rd_of_readable ha, rd_of_readable hb, rd_of_readable (hd h), h, if_true, Except.bind_ok', atomicBytes]
  · simp only [rd_of_readable ha, rd_of_readable hb, h, if_false, Except.bind_ok', atomicBytes]

/-! ### Where memory words trap (05 R132, R133, R136; 21 R346; 22 R379) -/

section
variable {u : State} {va : W64} {n : Nat} {a : Access} {f : State → List (Nat × Nat) → Res State} {p : Nat × Nat}

/-- A read at the home meets an armed uncorrectable error that no store of the bank is to disarm first. -/
theorem meetsFirst_of_armed (hne : ∃ x ∈ armedIn u p.1 p.2, x.2.hard = true) (hheld : homeHeld u.mem p.1 = false)
    (hdone : ∀ o ∈ u.myBank.mem.own, o.done = true) : meetsFirst u u.myBank.mem .home [p] = touchBytes u p.1 p.2 := by
  obtain ⟨x, hx, hhard⟩ := hne
  have hown : ∀ j : Injection, u.myBank.mem.own.any (fun o => !o.done && j.hits o.pa 1) = false := fun j =>
    List.any_eq_false.mpr fun o ho => by simp [hdone o ho]
  have hmet : (armedIn u p.1 p.2).any (fun x => x.2.hard && !((View.home == .home) && u.myBank.mem.own.any (fun o => !o.done && x.2.hits o.pa 1))) = true :=
    List.any_eq_true.mpr ⟨x, hx, by simp [hhard, hown]⟩
  unfold meetsFirst
  simp only [List.any_cons, List.any_nil, Bool.or_false, hmet, hheld, Bool.not_false, Bool.and_self, if_true, List.foldl_cons, List.foldl_nil]

theorem coversLine_nil (seq l : Nat) : coversLine [] seq l = false := rfl

/-- A read at the home that finds its line poisoned once it has met its errors traps in that state. -/
theorem withMem_meets (h : Reaches u va n a [p]) (hne : ∃ x ∈ armedIn u p.1 p.2, x.2.hard = true) (hheld : homeHeld u.mem p.1 = false)
    (hdone : ∀ o ∈ u.myBank.mem.own, o.done = true) (hbad : poisonedIn (touchBytes u p.1 p.2) (p.1 / 64 * 64) 64 = true) :
    withMem u va n a .home f = .error (.trapIn (mkTrap .memUncorrected va) (touchBytes u p.1 p.2)) := by
  have hnone : u.myBank.mem.own.filter (fun o => !o.done) = [] := List.filter_eq_nil_iff.mpr fun o ho => by simp [hdone o ho]
  have hlines : linesOf (p.1 / 64 * 64) 64 = [p.1 / 64] := by
    have h1 : p.1 / 64 * 64 / 64 = p.1 / 64 := by omega
    have h2 : (p.1 / 64 * 64 + 64 + 63) / 64 - p.1 / 64 * 64 / 64 = 1 := by omega
    rw [linesOf, h2, h1]
    rfl
  have hpoison : (touchBytes u p.1 p.2).mem.poison.contains (p.1 / 64) = true := by
    simpa only [poisonedIn, hlines, List.any_cons, List.any_nil, Bool.or_false] using hbad
  rw [withMem_of_reaches h]
  simp only [fromHome, meetsFirst_of_armed hne hheld hdone, meetsPoison, List.any_cons, List.any_nil, Bool.or_false, hpoison, hnone,
    coversLine_nil, Bool.not_false, Bool.and_self, if_true]

/-- An aligned access of up to 8 bytes lies within its line. -/
theorem within_line {z : Nat} (hz : z ≤ 3) (h : va.toNat % 2 ^ z = 0) : 2 ^ z ≠ 0 ∧ va.toNat % 64 + 2 ^ z ≤ 64 := by
  interval_cases z <;> omega

end

section
variable {s : State} {i : Instr} {va : W64} {f : State → Res State}

theorem load_traps_at_poison {w : BitVec 3} {d a b : Reg} {z : BitVec 2} {kind : ReqKind} {signed acq : Bool} {ps : List (Nat × Nat)}
    (hi : exec i s = run s (load kind signed acq w d a b z)) (ha : Readable (issueState s) a) (hb : Readable (issueState s) b)
    (hz : ((issueState s).me.get a + (issueState s).me.get b).toNat % 2 ^ z.toNat = 0)
    (h : Reaches (issueState s) ((issueState s).me.get a + (issueState s).me.get b) (2 ^ z.toNat) .read ps)
    (hv : Poisoned (issueState s) (viewOf kind) ps) : Traps s i .memUncorrected ((issueState s).me.get a + (issueState s).me.get b) := by
  refine traps_of_trapIn hi ?_
  rw [load_eq ha hb, if_neg (not_not.mpr hz), withMem_poisoned h hv]

theorem load_traps_at_error {w : BitVec 3} {d a b : Reg} {z : BitVec 2} {signed acq : Bool} {p : Nat × Nat}
    (hi : exec i s = run s (load .home signed acq w d a b z)) (ha : Readable (issueState s) a) (hb : Readable (issueState s) b)
    (hz : ((issueState s).me.get a + (issueState s).me.get b).toNat % 2 ^ z.toNat = 0)
    (h : Reaches (issueState s) ((issueState s).me.get a + (issueState s).me.get b) (2 ^ z.toNat) .read [p])
    (hne : ∃ x ∈ armedIn (issueState s) p.1 p.2, x.2.hard = true) (hheld : homeHeld (issueState s).mem p.1 = false)
    (hdone : ∀ o ∈ (issueState s).myBank.mem.own, o.done = true)
    (hbad : poisonedIn (touchBytes (issueState s) p.1 p.2) (p.1 / 64 * 64) 64 = true) :
    exec i s = .next (takeTrap (touchBytes (issueState s) p.1 p.2) (issueState s).cur.bank (issueState s).cur.engine
      ⟨.memUncorrected, (issueState s).me.get a + (issueState s).me.get b, 0, 0⟩ (issueState s).me.pc) := by
  have hhomes := homesOnly_touchBytes (issueState s) p.1 p.2
  have hnext := next_of_trapIn hi (by rw [load_eq ha hb, if_neg (not_not.mpr hz)]; exact withMem_meets h hne hheld hdone hbad)
  rwa [hhomes.cur, hhomes.me] at hnext

theorem atomic_traps_at_poison {op : AtomicOp} {w : BitVec 3} {d a b : Reg} {o : BitVec 2} {x : BitVec 1} {ps : List (Nat × Nat)}
    (hi : exec i s = run s (atomic op w d a b o x)) (ha : Readable (issueState s) a) (hb : Readable (issueState s) b)
    (hd : op = .cas → Readable (issueState s) d) (hz : ((issueState s).me.get a).toNat % atomicBytes x = 0)
    (h : Reaches (issueState s) ((issueState s).me.get a) (atomicBytes x) .write ps) (hv : Poisoned (issueState s) .home ps) :
    Traps s i .memUncorrected ((issueState s).me.get a) := by
  refine traps_of_trapIn hi ?_
  rw [atomic_eq ha hb hd, if_neg (not_not.mpr hz), withMem_poisoned h hv]

theorem atomic_misaligned {op : AtomicOp} {w : BitVec 3} {d a b : Reg} {o : BitVec 2} {x : BitVec 1}
    (hi : exec i s = run s (atomic op w d a b o x)) (ha : Readable (issueState s) a) (hb : Readable (issueState s) b)
    (hd : op = .cas → Readable (issueState s) d) (hz : ((issueState s).me.get a).toNat % atomicBytes x ≠ 0) :
    Traps s i .misaligned ((issueState s).me.get a) := by
  refine traps_of_error hi ?_ (by decide)
  rw [atomic_eq ha hb hd, if_pos hz]
  rfl

end

section
variable {s : State} {w : BitVec 3} {p : Spec} {a : Reg} {q : Nat}

theorem stq_misaligned (ha : Readable (issueState s) a) (hz : ((issueState s).me.get a).toNat % 64 ≠ 0) :
    Traps s (.stq w p a) .misaligned ((issueState s).me.get a) := by
  refine traps_of_error rfl ?_ (by decide)
  simp only [rd_of_readable ha, Except.bind_ok', if_pos hz]
  rfl

theorem stq_blocks (ha : Readable (issueState s) a) (hp : operandOf p = .queue q) (hz : ((issueState s).me.get a).toNat % 64 = 0)
    (hb : ((issueState s).myBank.queue q).binding = none) (hrows : ((issueState s).myBank.queue q).rows = []) :
    Blocks s (.stq w p a) .queue (p.setWidth 64) := by
  refine blocks_of_error rfl ?_
  simp only [rd_of_readable ha, Except.bind_ok', if_neg (not_not.mpr hz), canTake_empty hp hb hrows, Except.bind_error']

theorem stq_traps_bound (ha : Readable (issueState s) a) (hp : operandOf p = .queue q) (hz : ((issueState s).me.get a).toNat % 64 = 0)
    (hb : ((issueState s).myBank.queue q).binding ≠ none) : Traps s (.stq w p a) .accessViolation ((issueState s).cur.word.setWidth 64) := by
  refine traps_of_error rfl ?_ (by decide)
  simp only [rd_of_readable ha, Except.bind_ok', if_neg (not_not.mpr hz), canTake_bound hp hb, Except.bind_error']

end

/-- What a load, ST or STREL does before its access: its meaning is an alignment check, then the access. -/
structure PlainWord (u : State) (f : State → Res State) (va : W64) (z : Nat) (acc : Access) : Prop where
  meaning : ∃ v g, f u = if va.toNat % 2 ^ z ≠ 0 then valTrap .misaligned va else withMem u va (2 ^ z) acc v g

section
variable {s : State} {i : Instr} {va : W64} {f : State → Res State} {z : Nat} {acc : Access} (hi : exec i s = run s f)
  (hf : PlainWord (issueState s) f va z acc)
include hi hf

theorem plainWord_misaligned (hz : va.toNat % 2 ^ z ≠ 0) : Traps s i .misaligned va := by
  obtain ⟨v, g, h⟩ := hf.meaning
  refine traps_of_error hi ?_ (by decide)
  rw [h, if_pos hz]
  rfl

theorem plainWord_waits (hle : z ≤ 3) (hz : va.toNat % 2 ^ z = 0) (hslots : 512 ≤ (issueState s).slots (issueState s).cur.bank) : Waits s i := by
  obtain ⟨v, g, h⟩ := hf.meaning
  obtain ⟨hne, hin⟩ := within_line hle hz
  refine waits_of_error false hi ?_
  rw [h, if_neg (not_not.mpr hz)]
  refine withMem_gate_shut fun hgate => ?_
  rw [pieces_of_within (k := 6) hne hin] at hgate
  exact absurd hgate.2 (by simp only [List.length_singleton]; omega)

theorem plainWord_forbidden (hle : z ≤ 3) (hz : va.toNat % 2 ^ z = 0) (hgate : GateOpen (issueState s))
    (hbad : (issueState s).myBank.badPage (.aStream (issueState s).cur.bank) va = false)
    (htr : translate (issueState s) (issueState s).cur.bank.core (issueState s).myBank.ctxNum ((issueState s).launchOf (issueState s).cur.bank) va acc =
      .forbidden) : Traps s i .accessViolation va := by
  obtain ⟨v, g, h⟩ := hf.meaning
  obtain ⟨hne, hin⟩ := within_line hle hz
  refine traps_of_error hi ?_ (by decide)
  rw [h, if_neg (not_not.mpr hz)]
  exact withMem_forbidden hne hin hgate hbad htr

end

theorem plainWordsTrap (w : BitVec 3) (d a b : Reg) (c z : BitVec 2) (s : State) : Claims.PlainWordsTrap w d a b c z s := by
  unfold Claims.PlainWordsTrap
  dsimp only
  intro ha hb hd i hi
  have hle : z.toNat ≤ 3 := by have := z.isLt; omega
  have hword : ∃ f, exec i.2 s = run s f ∧ PlainWord (issueState s) f ((issueState s).me.get a + (issueState s).me.get b) z.toNat i.1 := by
    rcases List.mem_append.mp hi with hload | hstore
    · obtain ⟨form, hform, rfl⟩ := List.mem_map.mp hload
      obtain ⟨-, hruns⟩ := loadForm_runs hform
      exact ⟨_, hruns w d a b z s, ⟨_, _, load_eq ha hb⟩⟩
    · simp only [List.mem_cons, List.not_mem_nil, or_false] at hstore
      rcases hstore with rfl | rfl
      · exact ⟨store false w d a b z, rfl, ⟨_, _, store_eq hd ha hb⟩⟩
      · exact ⟨store true w d a b z, rfl, ⟨_, _, store_eq hd ha hb⟩⟩
  obtain ⟨f, hruns, hf⟩ := hword
  exact ⟨plainWord_misaligned hruns hf, plainWord_waits hruns hf hle, plainWord_forbidden hruns hf hle⟩

theorem memoryWordsTrap : Claims.MemoryWordsTrap := by
  intro w d a b c z s
  dsimp only
  intro ha
  refine ⟨fun hb form hform ps hz hreach => ⟨fun hv => ?_, ?_⟩, fun hb form hform o c x hd => ⟨?_, ?_⟩, fun p q hp => ⟨?_, ?_, ?_, ?_⟩,
    plainWordsTrap w d a b c z s⟩
  · obtain ⟨hkind, hruns⟩ := loadForm_runs hform
    rw [viewOf_eq hkind] at hv
    exact load_traps_at_poison (hruns w d a b z s) ha hb hz hreach hv
  · rintro p hkind rfl hne hheld hdone hbad
    have hruns := (loadForm_runs hform).2 w d a b z s
    rw [hkind] at hruns
    exact load_traps_at_error hruns ha hb hz hreach hne hheld hdone hbad
  · exact atomic_misaligned (atomicForm_runs hform w d a b o c x s) ha hb hd
  · exact fun ps => atomic_traps_at_poison (atomicForm_runs hform w d a b o c x s) ha hb hd
  · exact fun hz => ⟨ldq_misaligned ha hz, stq_misaligned ha hz⟩
  · exact ldq_blocks ha hp
  · exact stq_blocks ha hp
  · exact stq_traps_bound ha hp

/-- Settles O16: a memory word checks its alignment, waits for its slots and translates its lines before it asks for them; what its read meets, it
meets then. -/
theorem loadsIssueOrTrap : Obligations.LoadsIssueOrTrap := ⟨loadsIssue, memoryWordsTrap⟩

end Sys2Proof.KernelMachine

namespace Sys2Proof.KernelMachine

open Sys2Proof Sys2Proof.Machine Sys2Proof.Claims

/-! ### Stores and atomics take their place (05 R132, R133, R136, R137; 11 R260) -/

/-- The bank once a store has its place: its own reads, and its streams that stand before it, see the bytes, and the dirty-line FIFO has them. -/
def storePut (u : State) (b : BankId) (row : Option (Nat × Bool)) (seq : Nat) (ps : List (Nat × Nat)) (data : List Byte) (k : Bank) : Bank :=
  { k with
    dstreams := k.dstreams.map (fun d => { d with run := d.run.map (·.sees seq (ownStore seq ps data row)) })
    mem := { k.mem with
      own := ownStore seq ps data row ++ k.mem.own
      dirty := (splitData ps data).foldl
        (fun d p => insertStore ⟨seq, p.1, p.2, identOf u b, u.tick, u.deadline 1, u.mem.gen, 0⟩ d) k.mem.dirty } }

theorem storeAt_eq (u : State) (b : BankId) (row : Option (Nat × Bool)) (seq : Nat) (ps : List (Nat × Nat)) (data : List Byte) :
    storeAt u b row seq ps data = u.modBank b (storePut u b row seq ps data) := rfl

theorem enqueueStore_eq (u : State) (b : BankId) (ps : List (Nat × Nat)) (data : List Byte) :
    enqueueStore u b ps data = u.modBank b (Bank.bumpSeq ∘ storePut u b none (u.bank b).mem.seq ps data) := by
  rw [enqueueStore, storeAt_eq, modBank_modBank]

/-- The bank once a releasing store has its place: its own reads see the bytes, and a request waits at the home for what was stored before. -/
def strelPut (u : State) (va : W64) (ps : List (Nat × Nat)) (data : List Byte) (k : Bank) : Bank :=
  { k with mem := { k.mem with
    seq := k.mem.seq + 1, own := ownStore u.myBank.mem.seq ps data ++ k.mem.own
    reqs := k.mem.reqs ++ [newReq u (.storeRel data) va ps .nowhere (some u.myBank.mem.seq) false] } }

section
variable {s : State} {w : BitVec 3} {d a b : Reg} {c z : BitVec 2} {ps : List (Nat × Nat)}

theorem st_issues (ha : Readable (issueState s) a) (hb : Readable (issueState s) b) (hd : Readable (issueState s) d)
    (hz : ((issueState s).me.get a + (issueState s).me.get b).toNat % 2 ^ z.toNat = 0)
    (h : Reaches (issueState s) ((issueState s).me.get a + (issueState s).me.get b) (2 ^ z.toNat) .write ps) :
    ∃ t, exec (.st w d a b z) s = .next t ∧ BankWord s t w (storePut (issueState s) (issueState s).cur.bank none (issueState s).myBank.mem.seq ps
      (leBytes (2 ^ z.toNat) ((issueState s).me.get d).toNat) (issueState s).myBank).bumpSeq := by
  refine bankWord_of_mod (g := Bank.bumpSeq ∘ storePut (issueState s) _ none _ ps _) (f := store false w d a b z) rfl ?_
  rw [store_eq hd ha hb, if_neg (not_not.mpr hz), withMem_store h]
  simp only [Bool.false_eq_true, if_false, enqueueStore_eq]
  rfl

theorem strel_issues (ha : Readable (issueState s) a) (hb : Readable (issueState s) b) (hd : Readable (issueState s) d)
    (hz : ((issueState s).me.get a + (issueState s).me.get b).toNat % 2 ^ z.toNat = 0)
    (h : Reaches (issueState s) ((issueState s).me.get a + (issueState s).me.get b) (2 ^ z.toNat) .write ps) :
    ∃ t, exec (.strel w d a b c z) s = .next t ∧ BankWord s t w (strelPut (issueState s) ((issueState s).me.get a + (issueState s).me.get b) ps
      (leBytes (2 ^ z.toNat) ((issueState s).me.get d).toNat) (issueState s).myBank) := by
  refine bankWord_of_mod (g := strelPut (issueState s) _ ps _) (f := store true w d a b z) rfl ?_
  rw [store_eq hd ha hb, if_neg (not_not.mpr hz), withMem_store h]
  simp only [if_true, enqueueReq_eq (show ReqKind.storeRel _ ≠ .prefetch by simp), modMyBank_modMyBank]
  rfl

end

/-- A run of a stream that stands before a store sees it (05 R123). -/
theorem sees_eq (r : StreamRun) (seq : Nat) (os : List OwnByte) :
    r.sees seq os = if r.write = false ∧ seq < r.seq then { r with own := os ++ r.own } else r := by
  unfold StreamRun.sees
  cases r.write <;> simp

theorem storesIssue_plain (w : BitVec 3) (d a b : Reg) (c z : BitVec 2) (ps : List (Nat × Nat)) (s : State) :
    let u := issueState s
    let m := u.myBank.mem
    let va := u.me.get a + u.me.get b
    let data := leBytes (2 ^ z.toNat) (u.me.get d).toNat
    let own := ownStore m.seq ps data ++ m.own
    let runs := u.myBank.dstreams.map (fun (x : DataStream) => { x with run := x.run.map (fun r =>
      if r.write = false ∧ m.seq < r.seq then { r with own := ownStore m.seq ps data ++ r.own } else r) })
    Readable u a → Readable u b → Readable u d → va.toNat % 2 ^ z.toNat = 0 → Reaches u va (2 ^ z.toNat) .write ps →
      (∃ t, exec (.st w d a b z) s = .next t ∧ BankWord s t w { u.myBank with mem := { m with
        seq := m.seq + 1, own := own
        dirty := (splitData ps data).foldl (fun l p => insertStore ⟨m.seq, p.1, p.2, identOf u u.cur.bank, u.tick, u.deadline 1, u.mem.gen, 0⟩ l) m.dirty }, dstreams := runs }) ∧
      (∃ t, exec (.strel w d a b c z) s = .next t ∧ BankWord s t w { u.myBank with mem := { m with
        seq := m.seq + 1, own := own, reqs := m.reqs ++ [newReq u (.storeRel data) va ps .nowhere (some m.seq) false] } }) := by
  dsimp only
  intro ha hb hd hz h
  refine ⟨?_, strel_issues ha hb hd hz h⟩
  obtain ⟨t, ht, hbank⟩ := st_issues ha hb hd hz h
  refine ⟨t, ht, ?_⟩
  simp only [storePut, sees_eq] at hbank
  exact hbank

/-! STQ takes its row from the queue, whose sender gets its credit -/

theorem credit_cur (s : State) (x : Option Sender) : (s.credit x).cur = s.cur := by
  unfold State.credit
  split <;> rfl

theorem credit_cycle (s : State) (x : Option Sender) : (s.credit x).cycle = s.cycle := by
  unfold State.credit
  split <;> rfl

/-- A credit changes no row of any queue. -/
theorem credit_rows (s : State) (x : Option Sender) (b : BankId) (q : Nat) : (((s.credit x).bank b).queue q).rows = ((s.bank b).queue q).rows := by
  unfold State.credit
  split
  · next p pq i =>
    rw [bank_modBank]
    split
    · next h =>
      subst h
      by_cases hq : q < 16
      · by_cases hpq : pq = q
        · subst hpq
          rw [Bank.queue_setQueue_same _ _ hq]
        · simp [Bank.queue, Bank.setQueue, Vector.getD, hq, hpq]
      · simp [Bank.queue, Bank.setQueue, Vector.getD, hq]
    · rfl
  · rfl
  · rfl

section
variable {s : State} {w : BitVec 3} {p : Spec} {a : Reg} {q : Nat} {r : Row} {rest : List Row} {ps : List (Nat × Nat)}

/-- The state in which the oldest row of queue `q` has left it. -/
def rowTaken (u : State) (q : Nat) : State := (u.takeRow u.cur.bank q).credit (u.myBank.queue q).creditor

theorem rowTaken_cur (u : State) (q : Nat) : (rowTaken u q).cur = u.cur := credit_cur _ _
theorem rowTaken_cycle (u : State) (q : Nat) : (rowTaken u q).cycle = u.cycle := credit_cycle _ _

theorem rowTaken_myBank (u : State) (q : Nat) : ∃ qs, (rowTaken u q).myBank = { u.myBank with queues := qs } := by
  obtain ⟨qs, hqs⟩ := (credited_credit u.cur.bank (u.takeRow u.cur.bank q) (u.myBank.queue q).creditor).bank
  refine ⟨qs, ?_⟩
  rw [State.myBank, rowTaken_cur]
  refine hqs.trans ?_
  rw [State.takeRow, State.bank_modBank_same]
  rfl

theorem rowTaken_rows {u : State} (hq : q < 16) (hrows : (u.myBank.queue q).rows = r :: rest) : ((rowTaken u q).myBank.queue q).rows = rest := by
  rw [State.myBank, rowTaken_cur]
  refine (credit_rows _ _ _ _).trans ?_
  rw [State.takeRow, State.bank_modBank_same, Bank.queue_setQueue_same _ _ hq]
  exact congrArg List.tail hrows

theorem rowTaken_mem (u : State) (q : Nat) : (rowTaken u q).mem = u.mem :=
  (credited_credit u.cur.bank (u.takeRow u.cur.bank q) (u.myBank.queue q).creditor).mem

theorem stq_next (ha : Readable (issueState s) a) (hp : operandOf p = .queue q) (hz : ((issueState s).me.get a).toNat % 64 = 0)
    (hb : ((issueState s).myBank.queue q).binding = none) (hrows : ((issueState s).myBank.queue q).rows = r :: rest)
    (h : Reaches (issueState s) ((issueState s).me.get a) 256 .write ps) :
    exec (.stq w p a) s = .next (retire (enqueueStore (rowTaken (issueState s) q) (rowTaken (issueState s) q).cur.bank ps (rowBytes r)) w) := by
  have hpop : (issueState s).popRow (issueState s).cur.bank q = (r, rowTaken (issueState s) q) :=
    Prod.ext (congrArg (List.headD · 0) hrows) rfl
  refine next_of_ok rfl ?_
  simp only [rd_of_readable ha, Except.bind_ok', if_neg (not_not.mpr hz), canTake_some hp hb hrows, withMem_store h, queueNo_of_operand hp, hpop,
    rowTaken_cur]

theorem stq_stores (ha : Readable (issueState s) a) (hp : operandOf p = .queue q) (hz : ((issueState s).me.get a).toNat % 64 = 0)
    (hb : ((issueState s).myBank.queue q).binding = none) (hrows : ((issueState s).myBank.queue q).rows = r :: rest)
    (h : Reaches (issueState s) ((issueState s).me.get a) 256 .write ps) :
    ∃ t, exec (.stq w p a) s = .next t ∧ (t.myBank.queue q).rows = rest ∧ t.me = advanced (issueState s).me (issueState s).cycle w ∧
      t.myBank.mem.own = ownStore (issueState s).myBank.mem.seq ps (rowBytes r) ++ (issueState s).myBank.mem.own ∧
      t.myBank.mem.seq = (issueState s).myBank.mem.seq + 1 ∧ t.myBank.mem.reqs = (issueState s).myBank.mem.reqs ∧ ∀ i, t.byteAt i = s.byteAt i := by
  refine ⟨_, stq_next ha hp hz hb hrows h, ?_⟩
  generalize hu : issueState s = u at *
  have hq : q < 16 := queueNo_lt hp
  have htaken := rowTaken_rows hq hrows
  have hcur := rowTaken_cur u q
  have hcycle := rowTaken_cycle u q
  have hmem := rowTaken_mem u q
  obtain ⟨qs, hbank⟩ := rowTaken_myBank u q
  generalize rowTaken u q = v at *
  have hstored : enqueueStore v v.cur.bank ps (rowBytes r) = v.modMyBank (Bank.bumpSeq ∘ storePut v v.cur.bank none v.myBank.mem.seq ps (rowBytes r)) :=
    enqueueStore_eq _ _ _ _
  have hseq : v.myBank.mem = u.myBank.mem := by rw [hbank]
  rw [hstored]
  refine ⟨?_, ?_, ?_, ?_, ?_, fun i => ?_⟩
  · rw [retire_myBank, Bank.queue_setStream, State.myBank_modMyBank]
    exact htaken
  · rw [retire_me, State.me_modMyBank, State.modMyBank_cycle, hcur, hcycle, State.me_eq, hbank]
    cases u.cur.engine <;> rfl
  · rw [retire_myBank, Bank.setStream_mem, State.myBank_modMyBank, ← hseq]; rfl
  · rw [retire_myBank, Bank.setStream_mem, State.myBank_modMyBank, ← hseq]; rfl
  · rw [retire_myBank, Bank.setStream_mem, State.myBank_modMyBank, ← hseq]; rfl
  · have hu' : (issueState s).mem = u.mem := congrArg State.mem hu
    rw [← issueState_byteAt s i, State.byteAt, State.byteAt, hu', ← hmem, retire_cells]
    rfl

end

theorem storesIssue : Claims.StoresIssue := by
  refine ⟨storesIssue_plain, fun w p a q r rest ps s => ?_⟩
  dsimp only
  intro ha hp hz hb hrows h
  exact stq_stores ha hp hz hb hrows h

theorem atomic_ok {u : State} {op : AtomicOp} {w : BitVec 3} {d a b : Reg} {o : BitVec 2} {x : BitVec 1} {ps : List (Nat × Nat)} (ha : Readable u a)
    (hb : Readable u b) (hd : op = .cas → Readable u d) (hz : (u.me.get a).toNat % atomicBytes x = 0)
    (h : Reaches u (u.me.get a) (atomicBytes x) .write ps) (hv : Unpoisoned u .home ps) :
    atomic op w d a b o x u = .ok (retire (u.modMyBank (withReq (newReq u (.rmw op (u.me.get b) (if op = .cas then u.me.get d else 0)) (u.me.get a) ps
      (.reg (if d = 0 then none else some d) false) (if o.getLsbD 1 then some u.myBank.mem.seq else none) (o.getLsbD 0)) ∘
        claimed u.cur.engine d)) w) := by
  have hseq : (claimReg u d).myBank.mem.seq = u.myBank.mem.seq := by
    rw [claimReg_eq, State.myBank_modMyBank]
    cases u.cur.engine <;> rfl
  rw [atomic_eq ha hb hd, if_neg (not_not.mpr hz), withMem_unpoisoned h hv]
  simp only [hseq]
  rw [show (claimReg u d).cur.bank = u.cur.bank from rfl, enqueueReq_claimReg (by simp)]
  rfl

theorem atomicsIssue : Claims.AtomicsIssue := by
  intro form hform w d a b o c x ps s
  dsimp only
  intro ha hb hd hz h hv
  obtain ⟨t, ht, hbank⟩ := bankWord_of_mod (atomicForm_runs hform w d a b o c x s) (atomic_ok ha hb hd hz h hv)
  exact ⟨t, ht, by rw [← withReq_claimed]; exact hbank⟩

/-- Settles O17: each store and atomic changes its bank by one function of it, and no byte. -/
theorem storesAndAtomicsIssue : Obligations.StoresAndAtomicsIssue := ⟨storesIssue, atomicsIssue⟩

end Sys2Proof.KernelMachine

namespace Sys2Proof.KernelMachine

open Sys2Proof Sys2Proof.Machine Sys2Proof.Claims

/-! ### Copy channels and prefetch (05 R140, R142, R143, R146; 22 R371) -/

/-- The stream's stall checker off (17 R299). -/
def checkerOff (u : State) : State := u.modMe (fun x => { x with stallctl := x.stallctl &&& ~~~ 1#64 })

theorem checkerOff_cur (u : State) : (checkerOff u).cur = u.cur := rfl

theorem checkerOff_myBank (u : State) : (checkerOff u).myBank =
    u.myBank.setStream u.cur.engine { u.me with stallctl := u.me.stallctl &&& ~~~ 1#64 } := State.myBank_modMe _ _

theorem checkerOff_me (u : State) : (checkerOff u).me = { u.me with stallctl := u.me.stallctl &&& ~~~ 1#64 } := State.me_modMe _ _

/-- A register that can be read gives the same with the stall checker off. -/
theorem rd_checkerOff {u : State} {a : Reg} (ha : Readable u a) : rd (checkerOff u) a = .ok (u.me.get a) := by
  have hreadable : Readable (checkerOff u) a := by
    rcases ha with h | ⟨hireg, howes, -⟩
    · exact .inl h
    · refine .inr ⟨by rw [checkerOff_me]; exact hireg, fun he => ?_, .inr ?_⟩
      · rw [checkerOff_myBank, Bank.setStream_mem]
        exact howes he
      · rw [checkerOff_me]
        simp
  rw [rd_of_readable hreadable, checkerOff_me]
  rfl

theorem chan_setStream (k : Bank) (e : Engine) (x : Stream) (n : Nat) : (k.setStream e x).chan n = k.chan n := by
  rw [Bank.chan, Bank.setStream_chans]
  rfl

theorem checkerOff_chan (u : State) (n : Nat) : (checkerOff u).myBank.chan n = u.myBank.chan n := by
  rw [checkerOff_myBank, chan_setStream]

/-- A word that traps with the stall checker off too traps, whatever the cause. -/
theorem next_of_trap {s : State} {i : Instr} {f : State → Res State} {tr tr' : Trap} (hi : exec i s = run s f)
    (h : f (issueState s) = .error (.trap tr)) (h' : f (checkerOff (issueState s)) = .error (.trap tr')) :
    exec i s = .next (takeTrap (issueState s) (issueState s).cur.bank (issueState s).cur.engine tr (issueState s).me.pc) := by
  have hstill : stillWaits (issueState s) f = none := by
    unfold stillWaits
    rw [show f ((issueState s).modMe _) = _ from h']
  rw [hi, run_trap h (.inr hstill), issueState_cur]
  rfl

section
variable {u : State} {n : Nat} (hn : n < 4)
include hn

theorem Bank.chan_setChan_same (k : Bank) (c : Channel) : (k.setChan n c).chan n = c := by
  simp [Bank.setChan, Bank.chan, Vector.getD, hn]

end

section
variable {s : State} {w : BitVec 3} {d a b : Reg} {n : BitVec 2}

/-- The bank once a chain head has been accepted (05 R140). -/
def headTaken (n : Nat) (va : W64) (cycle : Nat) (k : Bank) : Bank :=
  { k.setChan n { k.chan n with heads := (k.chan n).heads ++ [⟨k.orders, k.mem.seq, va, cycle, none⟩] } with orders := k.orders + 1 }

theorem headTaken_stream (n : Nat) (va : W64) (cycle : Nat) (k : Bank) (e : Engine) : (headTaken n va cycle k).stream e = k.stream e := by
  cases e <;> rfl

theorem cpyhd_waits (ha : Readable (issueState s) a) (hz : ((issueState s).me.get a).toNat % 64 = 0)
    (hfail : ((issueState s).myBank.chan n.toNat).fail = none)
    (hgate : ¬ GateOpen (issueState s) (if ((issueState s).myBank.chan n.toNat).busy then 0 else 4)) : Waits s (.cpyhd w d a n) := by
  refine waits_of_error false rfl ?_
  simp only [rd_of_readable ha, Except.bind_ok', if_neg (not_not.mpr hz), hfail, memGate_shut hgate, Except.bind_error']

theorem cpyhd_full (ha : Readable (issueState s) a) (hz : ((issueState s).me.get a).toNat % 64 = 0)
    (hfail : ((issueState s).myBank.chan n.toNat).fail = none)
    (hgate : GateOpen (issueState s) (if ((issueState s).myBank.chan n.toNat).busy then 0 else 4))
    (hfull : 8 ≤ ((issueState s).myBank.chan n.toNat).heads.length) :
    ∃ t, exec (.cpyhd w d a n) s = .next t ∧ RegisterWord s t w d 0 1 := by
  refine registerWord_of_run rfl ?_
  simp only [rd_of_readable ha, Except.bind_ok', if_neg (not_not.mpr hz), hfail, memGate_open hgate, ge_iff_le, if_pos hfull]

theorem cpyhd_accepts (ha : Readable (issueState s) a) (hz : ((issueState s).me.get a).toNat % 64 = 0)
    (hfail : ((issueState s).myBank.chan n.toNat).fail = none)
    (hgate : GateOpen (issueState s) (if ((issueState s).myBank.chan n.toNat).busy then 0 else 4))
    (hfull : ¬ 8 ≤ ((issueState s).myBank.chan n.toNat).heads.length) :
    exec (.cpyhd w d a n) s = .next (retire (wrReg ((issueState s).modMyBank
      (headTaken n.toNat ((issueState s).me.get a) (issueState s).cycle)) d 1 1) w) := by
  refine next_of_ok rfl ?_
  simp only [rd_of_readable ha, Except.bind_ok', if_neg (not_not.mpr hz), memGate_open hgate, ge_iff_le, if_neg hfull]
  split
  · next f hsome => exact absurd (hfail.symm.trans hsome) (Option.some_ne_none f).symm
  · rfl

/-- A stream's word that gives a register a result after a change of its bank that leaves the streams. -/
theorem register_after_mod {u : State} {g : Bank → Bank} (hg : ∀ k e, (g k).stream e = k.stream e) (w : BitVec 3) (d : Reg) (v : W64) :
    let t := retire (wrReg (u.modMyBank g) d v 1) w
    Delivered u t d v 1 ∧ GoesOn u t w (u.me.pc + 4) 0 ∧ OnlyBank u.cur.bank u t ∧
      t.myBank = { (g u.myBank).setStream u.cur.engine t.me with mem := memAfter (u.modMyBank g) d } := by
  have hme : (u.modMyBank g).me = u.me := by rw [State.me_modMyBank, hg]; rfl
  have honly : OnlyBank u.cur.bank u (wrReg (u.modMyBank g) d v 1) :=
    onlyBank_trans (onlyBank_modMyBank (onlyBank_refl _ _) rfl g) (onlyBank_wrReg (u.modMyBank g) d v 1)
  have hretire : retire (wrReg (u.modMyBank g) d v 1) w = retireAt (wrReg (u.modMyBank g) d v 1) w (u.me.pc + 4) 0 := by
    rw [retire, wrReg_pc, hme]
  obtain ⟨hgiven, hgoes, hstream⟩ := register_retireAt (u.modMyBank g) d v 1 (onlyBank_cur (onlyBank_wrReg (u.modMyBank g) d v 1))
    (onlyBank_cycle (onlyBank_wrReg (u.modMyBank g) d v 1)) rfl w (u.me.pc + 4) 0
  dsimp only
  refine ⟨?_, ?_, onlyBank_retire honly (congrArg Current.bank (onlyBank_cur honly)) w, ?_⟩
  · rw [hretire]
    unfold Delivered at hgiven ⊢
    rwa [hme] at hgiven
  · rw [hretire]
    unfold GoesOn at hgoes ⊢
    rwa [hme] at hgoes
  · rw [hretire]
    refine hstream.trans ?_
    unfold memAfter
    rw [State.myBank_modMyBank]
    rfl

theorem memAfter_seq (u : State) (d : Reg) : (memAfter u d).seq = u.myBank.mem.seq := by
  unfold memAfter
  split <;> rfl

theorem cpyhd_misaligned (ha : Readable (issueState s) a) (hz : ((issueState s).me.get a).toNat % 64 ≠ 0) :
    Traps s (.cpyhd w d a n) .misaligned ((issueState s).me.get a) := by
  refine traps_of_error rfl ?_ (by decide)
  simp only [rd_of_readable ha, Except.bind_ok', if_pos hz]
  rfl

theorem cpyhd_traps {f : Failure} (ha : Readable (issueState s) a) (hz : ((issueState s).me.get a).toNat % 64 = 0)
    (hfail : ((issueState s).myBank.chan n.toNat).fail = some f) :
    exec (.cpyhd w d a n) s = .next (takeTrap (issueState s) (issueState s).cur.bank (issueState s).cur.engine (f.at_ (issueState s).cur.word)
      (issueState s).me.pc) := by
  refine next_of_trap rfl ?_ (tr' := f.at_ (issueState s).cur.word) ?_
  · simp only [rd_of_readable ha, Except.bind_ok', if_neg (not_not.mpr hz), hfail]
  · simp only [rd_checkerOff ha, Except.bind_ok', if_neg (not_not.mpr hz), checkerOff_chan, hfail, checkerOff_cur]

theorem cpyst_reads : ∃ t, exec (.cpyst w d n) s = .next t ∧
    RegisterWord s t w d (BitVec.ofNat 64 ((issueState s).myBank.chan n.toNat).complete) 1 := registerWord_of_run rfl rfl

theorem cpywait_acquires (ha : Readable (issueState s) a) (hle : ((issueState s).me.get a).toNat ≤ ((issueState s).myBank.chan n.toNat).complete) :
    ∃ t, exec (.cpywait w a n) s = .next t ∧ BankWord s t w { (issueState s).myBank with
      mem := (issueState s).myBank.mem.acquire
      waited := (n.toNat, ((issueState s).myBank.chan n.toNat).complete, (issueState s).myBank.orders) :: (issueState s).myBank.waited } := by
  refine bankWord_of_mod (g := fun k => { k with
    mem := k.mem.acquire, waited := (n.toNat, ((issueState s).myBank.chan n.toNat).complete, k.orders) :: k.waited }) rfl ?_
  simp only [rd_of_readable ha, Except.bind_ok', if_pos hle, acquire_eq, modMyBank_modMyBank]
  rfl

theorem cpywait_blocks (ha : Readable (issueState s) a) (hle : ¬ ((issueState s).me.get a).toNat ≤ ((issueState s).myBank.chan n.toNat).complete)
    (hfail : ((issueState s).myBank.chan n.toNat).fail = none) : Blocks s (.cpywait w a n) .copy 0 := by
  refine blocks_of_error rfl ?_
  simp only [rd_of_readable ha, Except.bind_ok', if_neg hle, hfail]

theorem cpywait_traps {f : Failure} (ha : Readable (issueState s) a)
    (hle : ¬ ((issueState s).me.get a).toNat ≤ ((issueState s).myBank.chan n.toNat).complete)
    (hfail : ((issueState s).myBank.chan n.toNat).fail = some f) :
    exec (.cpywait w a n) s = .next (takeTrap (issueState s) (issueState s).cur.bank (issueState s).cur.engine (f.at_ (issueState s).cur.word)
      (issueState s).me.pc) := by
  refine next_of_trap rfl ?_ (tr' := f.at_ (issueState s).cur.word) ?_
  · simp only [rd_of_readable ha, Except.bind_ok', if_neg hle, hfail]
  · simp only [rd_checkerOff ha, Except.bind_ok', if_neg hle, checkerOff_chan, hfail, checkerOff_cur]

/-! PREF -/

/-- The request that PREF makes where its line translates. -/
def prefReq (u : State) (va : W64) (pa : Nat) : MemReq :=
  { newReq u .prefetch va [(pa / 64 * 64, 64)] .nowhere none false with limit := u.deadline 2 }

theorem pref_asks {pa : Nat} (ha : Readable (issueState s) a) (hb : Readable (issueState s) b) (hgate : GateOpen (issueState s))
    (htr : translate (issueState s) (issueState s).cur.bank.core (issueState s).myBank.ctxNum ((issueState s).launchOf (issueState s).cur.bank)
      ((issueState s).me.get a + (issueState s).me.get b) .read = .ok pa) :
    ∃ t, exec (.pref w a b) s = .next t ∧ BankWord s t w (withReq (prefReq (issueState s) ((issueState s).me.get a + (issueState s).me.get b) pa)
      (issueState s).myBank) := by
  refine bankWord_of_mod (g := withReq (prefReq (issueState s) ((issueState s).me.get a + (issueState s).me.get b) pa)) rfl ?_
  have hpref : prefetch (issueState s) (issueState s).cur.bank ((issueState s).me.get a + (issueState s).me.get b) =
      (issueState s).modMyBank (withReq (prefReq (issueState s) ((issueState s).me.get a + (issueState s).me.get b) pa)) := by
    unfold prefetch
    rw [show translate (issueState s) (issueState s).cur.bank.core ((issueState s).bank (issueState s).cur.bank).ctxNum _ _ _ = _ from htr]
    rfl
  simp only [rd_of_readable ha, rd_of_readable hb, Except.bind_ok', memGate_open hgate, hpref]

theorem pref_drops (ha : Readable (issueState s) a) (hb : Readable (issueState s) b) (hgate : GateOpen (issueState s))
    (htr : ∀ pa, translate (issueState s) (issueState s).cur.bank.core (issueState s).myBank.ctxNum
      ((issueState s).launchOf (issueState s).cur.bank) ((issueState s).me.get a + (issueState s).me.get b) .read ≠ .ok pa) :
    ∃ t, exec (.pref w a b) s = .next t ∧ BankWord s t w (issueState s).myBank := by
  refine bankWord_of_ok rfl ?_ (onlyBank_refl _ _)
  have hpref : prefetch (issueState s) (issueState s).cur.bank ((issueState s).me.get a + (issueState s).me.get b) = issueState s := by
    unfold prefetch
    split
    · next pa h => exact absurd h (htr pa)
    · rfl
  simp only [rd_of_readable ha, rd_of_readable hb, Except.bind_ok', memGate_open hgate, hpref]

theorem pref_waits (ha : Readable (issueState s) a) (hb : Readable (issueState s) b) (hgate : ¬ GateOpen (issueState s)) :
    Waits s (.pref w a b) := by
  refine waits_of_error false rfl ?_
  simp only [rd_of_readable ha, rd_of_readable hb, Except.bind_ok', memGate_shut hgate, Except.bind_error']

end

/-- Settles O18: each word by the channel it finds, PREF by its translation; a channel's failure traps with the stall checker on or off. -/
theorem copyWordsComplete : Obligations.CopyWordsComplete := by
  intro w d a b n s
  dsimp only
  intro ha
  have hn : n.toNat < 4 := n.isLt
  refine ⟨fun _ hz hfail hgate => cpyhd_waits ha hz hfail hgate, fun _ hz hfail hgate => ?_, cpyhd_misaligned ha,
    fun f hz hfail => cpyhd_traps ha hz hfail, cpyst_reads, ?_, fun hb hgate => ⟨fun pa htr => pref_asks ha hb hgate htr, pref_drops ha hb hgate⟩,
    pref_waits ha⟩
  · split
    · next hfull => exact cpyhd_full ha hz hfail hgate hfull
    · next hfull =>
      obtain ⟨hgiven, hgoes, honly, hbank⟩ := register_after_mod (u := issueState s)
        (headTaken_stream n.toNat ((issueState s).me.get a) (issueState s).cycle) w d 1
      refine ⟨_, cpyhd_accepts ha hz hfail hgate hfull, hgiven, hgoes, honly, ?_, ?_⟩
      · rw [hbank]
        have hchan : ((headTaken n.toNat ((issueState s).me.get a) (issueState s).cycle (issueState s).myBank).setStream
            (issueState s).cur.engine (retire (wrReg ((issueState s).modMyBank
              (headTaken n.toNat ((issueState s).me.get a) (issueState s).cycle)) d 1 1) w).me).chan n.toNat = _ :=
          (chan_setStream _ _ _ _).trans (Bank.chan_setChan_same hn _ _)
        exact congrArg Channel.heads hchan
      · rw [hbank]
        exact Bank.setStream_orders _ _ _
  · split
    · next hle => exact cpywait_acquires ha hle
    · next hle =>
      split
      · next hfail => exact cpywait_blocks ha hle hfail
      · next f hfail => exact cpywait_traps ha hle hfail

end Sys2Proof.KernelMachine

namespace Sys2Proof.KernelMachine

open Sys2Proof Sys2Proof.Machine Sys2Proof.Claims

/-! ### The answer to a load (05 R116, R132, R133; 17 R303) -/

/-- The model's reading of two's complement is that of bit vectors. -/
theorem sgn_eq_toInt (w n : Nat) : sgn w n = (BitVec.ofNat w n).toInt := by
  rw [BitVec.toInt_eq_toNat_cond, BitVec.toNat_ofNat, sgn, Nat.one_shiftLeft, Nat.one_shiftLeft]
  have hhalf : n % 2 ^ w < 2 ^ (w - 1) ↔ 2 * (n % 2 ^ w) < 2 ^ w := by
    cases w with
    | zero => simp [Nat.mod_one]
    | succ w => rw [Nat.add_sub_cancel, Nat.pow_succ]; omega
  simp only [hhalf]

theorem loadValue_eq (l : List Byte) (g : Bool) :
    loadValue l g = if g then (BitVec.ofNat (8 * l.length) (leNat l)).signExtend 64 else BitVec.ofNat 64 (leNat l) := by
  cases g
  · rfl
  · rw [loadValue, sgn_eq_toInt]
    rfl

theorem cores_noteMiss (s : State) (r c l : Nat) : (noteMiss s r c l).cores = s.cores := by
  unfold noteMiss noteMisses
  split <;> rfl

theorem bank_noteMiss (s : State) (r c l : Nat) (b : BankId) : (noteMiss s r c l).bank b = s.bank b := bank_congr (cores_noteMiss s r c l) b

theorem byteAt_noteMiss (s : State) (r c l i : Nat) : (noteMiss s r c l).byteAt i = s.byteAt i := by
  rw [State.byteAt, State.byteAt, noteMiss_cells]

section
variable (b : BankId) (n : Nat) (r : MemReturn) (s : State)

/-- The answer taken off its way, and what its deadline says noted. -/
def dropReturn : State :=
  noteMiss (s.modBank b (fun k => { k with mem := { k.mem with returns := delAt k.mem.returns n } })) b.core r.req.cls r.req.limit

theorem bank_dropReturn : (dropReturn b n r s).bank b =
    { s.bank b with mem := { (s.bank b).mem with returns := delAt (s.bank b).mem.returns n } } := by
  rw [dropReturn, bank_noteMiss, State.bank_modBank_same]

theorem byteAt_dropReturn (i : Nat) : (dropReturn b n r s).byteAt i = s.byteAt i := byteAt_noteMiss _ _ _ _ _

variable {b n r s} (hr : (s.bank b).mem.returns[n]? = some r)
include hr

theorem loadReturn_waits (h : s.cycle < r.due) : loadReturn s b n = s := by
  unfold loadReturn
  simp only [hr, if_pos h]

variable (h : r.due ≤ s.cycle)
include h

/-- Once the answer is due, what it does is said by where its word wanted it. -/
theorem loadReturn_due : loadReturn s b n = match r.req.dest with
    | .reg (some d) g => (dropReturn b n r s).modStream b .A (·.put d (loadValue r.data g))
    | .reg none _ | .nowhere => dropReturn b n r s
    | .command => (dropReturn b n r s).modBank b (fun k => { k with mem := { k.mem with command := some (r.req.pc, r.data) } })
    | .queue q =>
      if earlierRow (s.bank b).mem q r.req.seq then s
      else ((dropReturn b n r s).modBank b (fun k => k.setQueue q { k.queue q with reserved := (k.queue q).reserved - 1 })).pushRow b q (rowOf r.data) := by
  unfold loadReturn
  simp only [hr, if_neg (Nat.not_lt.mpr h)]
  rfl

theorem loadReturn_reg {d : Reg} {g : Bool} (hd : r.req.dest = .reg (some d) g) :
    loadReturn s b n = (dropReturn b n r s).modStream b .A (·.put d (loadValue r.data g)) := by
  rw [loadReturn_due hr h, hd]

theorem loadReturn_unwanted (hd : (∃ g, r.req.dest = .reg none g) ∨ r.req.dest = .nowhere) : loadReturn s b n = dropReturn b n r s := by
  rw [loadReturn_due hr h]
  rcases hd with ⟨g, hd⟩ | hd <;> rw [hd]

theorem loadReturn_command (hd : r.req.dest = .command) : loadReturn s b n =
    (dropReturn b n r s).modBank b (fun k => { k with mem := { k.mem with command := some (r.req.pc, r.data) } }) := by
  rw [loadReturn_due hr h, hd]

theorem loadReturn_row_waits {q : Nat} (hd : r.req.dest = .queue q) (he : earlierRow (s.bank b).mem q r.req.seq = true) :
    loadReturn s b n = s := by
  rw [loadReturn_due hr h, hd]
  exact if_pos he

/-- A row that nothing stands before is the youngest of its queue. -/
theorem loadReturn_row {q : Nat} (hd : r.req.dest = .queue q) (hq : q < 16) (he : earlierRow (s.bank b).mem q r.req.seq = false)
    (hb : ((s.bank b).queue q).binding = none) :
    (loadReturn s b n).bank b = { (s.bank b).setQueue q { (s.bank b).queue q with
      rows := ((s.bank b).queue q).rows ++ [rowOf r.data], owed := ((s.bank b).queue q).owed ++ [none]
      reserved := ((s.bank b).queue q).reserved - 1 } with mem := { (s.bank b).mem with returns := delAt (s.bank b).mem.returns n } } ∧
    ∀ i, (loadReturn s b n).byteAt i = s.byteAt i := by
  rw [loadReturn_due hr h, hd]
  simp only [he, Bool.false_eq_true, if_false]
  have hqueue : ((dropReturn b n r s).bank b).queue q = (s.bank b).queue q := by rw [bank_dropReturn]; rfl
  unfold State.pushRow
  simp only [State.bank_modBank_same, hqueue, Bank.queue_setQueue_same _ _ hq, hb, Bank.setQueue_setQueue]
  rw [bank_dropReturn]
  exact ⟨rfl, fun i => byteAt_dropReturn b n r s i⟩

end

/-- Settles O20: by where the word of the request wanted its answer. -/
theorem loadsReturn : Obligations.LoadsReturn := by
  intro b n r s
  dsimp only
  intro hr
  refine ⟨fun hw => congrArg Host.Outcome.next (loadReturn_waits hr hw), fun h => ⟨fun d g hd => ⟨_, rfl, ?_⟩,
    fun q hd hq he hb => ⟨_, rfl, loadReturn_row hr h hd hq he hb⟩, fun q hd he => congrArg Host.Outcome.next (loadReturn_row_waits hr h hd he),
    fun hd => ⟨_, rfl, ?_⟩, fun hd => ⟨_, rfl, ?_⟩⟩⟩
  · have hstream : ∀ e, (dropReturn b n r s).stream b e = s.stream b e := fun e => by
      rw [State.stream, bank_dropReturn]
      cases e <;> rfl
    cases d with
    | none =>
      rw [loadReturn_unwanted hr h (.inl ⟨g, hd⟩), hstream]
      refine ⟨fun x => (if_neg (fun hx => ?_)).symm, by rw [bank_dropReturn], rfl, fun e _ => hstream e, byteAt_dropReturn b n r s⟩
      exact Option.some_ne_none x hx.1.symm
    | some d =>
      rw [loadReturn_reg hr h hd, State.stream_modStream_same, hstream, ← loadValue_eq]
      refine ⟨fun x => ?_, ?_, ?_, fun e he => ?_, byteAt_dropReturn b n r s⟩
      · rw [Stream.get_put]
        refine if_congr ⟨fun ⟨hx, hd⟩ => ⟨congrArg some hx.symm, hx ▸ hd⟩, fun ⟨hx, hne⟩ => ?_⟩ rfl rfl
        obtain rfl := Option.some.inj hx
        exact ⟨rfl, hne⟩
      · rw [State.modStream, State.setStream, State.bank_modBank_same, bank_dropReturn]
        rfl
      · exact Stream.put_pc _ _ _
      · rw [State.modStream, State.setStream, State.stream, State.bank_modBank_same, Bank.stream_setStream_ne _ _ he]
        exact hstream e
  · rw [loadReturn_command hr h hd, State.bank_modBank_same, bank_dropReturn]
    exact ⟨rfl, byteAt_dropReturn b n r s⟩
  · rw [loadReturn_unwanted hr h (.inr hd), bank_dropReturn]
    exact ⟨rfl, byteAt_dropReturn b n r s⟩

end Sys2Proof.KernelMachine

namespace Sys2Proof.KernelMachine

open Sys2Proof Sys2Proof.Machine Sys2Proof.Claims

/-! ### What a request at its home leaves of its bank and of the rest (11 R249, R263) -/

/-- The lists of a bank's requests and stores on their way are as they were, other banks and what is no memory too; the homes are the same. -/
structure HomeAct (b : BankId) (s t : State) : Prop where
  reqs : (t.bank b).mem.reqs = (s.bank b).mem.reqs
  returns : (t.bank b).mem.returns = (s.bank b).mem.returns
  dirty : (t.bank b).mem.dirty = (s.bank b).mem.dirty
  unacked : (t.bank b).mem.unacked = (s.bank b).mem.unacked
  others : ∀ p, p ≠ b → t.bank p = s.bank p
  time : t.time = s.time
  host : t.host = s.host
  ctxs : t.ctxs = s.ctxs
  cycle : t.cycle = s.cycle
  smap : t.mem.smap = s.mem.smap

section
variable {b : BankId} {s t u : State}

theorem HomeAct.refl (b : BankId) (s : State) : HomeAct b s s := ⟨rfl, rfl, rfl, rfl, fun _ _ => rfl, rfl, rfl, rfl, rfl, rfl⟩

theorem HomeAct.trans (h : HomeAct b s t) (h' : HomeAct b t u) : HomeAct b s u where
  reqs := h'.reqs.trans h.reqs
  returns := h'.returns.trans h.returns
  dirty := h'.dirty.trans h.dirty
  unacked := h'.unacked.trans h.unacked
  others p hp := (h'.others p hp).trans (h.others p hp)
  time := h'.time.trans h.time
  host := h'.host.trans h.host
  ctxs := h'.ctxs.trans h.ctxs
  cycle := h'.cycle.trans h.cycle
  smap := h'.smap.trans h.smap

theorem HomeAct.of_homesOnly (h : HomesOnly s t) (hsmap : t.mem.smap = s.mem.smap) : HomeAct b s t := by
  have hbank := h.bank b
  exact ⟨by rw [hbank], by rw [hbank], by rw [hbank], by rw [hbank], fun p _ => h.bank p, h.time, h.host, h.ctxs, h.cycle, hsmap⟩

/-- A change of what the bank itself sees. -/
theorem HomeAct.modBank (h : HomeAct b s t) (f : Bank → Bank) (hreqs : ∀ k, (f k).mem.reqs = k.mem.reqs)
    (hreturns : ∀ k, (f k).mem.returns = k.mem.returns) (hdirty : ∀ k, (f k).mem.dirty = k.mem.dirty)
    (hunacked : ∀ k, (f k).mem.unacked = k.mem.unacked) : HomeAct b s (t.modBank b f) := by
  refine h.trans ⟨?_, ?_, ?_, ?_, fun p hp => State.bank_modBank_ne _ _ hp, rfl, rfl, rfl, rfl, rfl⟩ <;> rw [State.bank_modBank_same]
  · exact hreqs _
  · exact hreturns _
  · exact hdirty _
  · exact hunacked _

theorem homeOf_congr {m m' : MemSys} (h : m'.smap = m.smap) (pa : Nat) : homeOf m' pa = homeOf m pa := by
  unfold homeOf homeSlice
  rw [h]

theorem homeTime_congr {m m' : MemSys} (h : m'.smap = m.smap) (core pa : Nat) : homeTime m' core pa = homeTime m core pa := by
  unfold homeTime
  rw [homeOf_congr h]

theorem homeTimes_congr {m m' : MemSys} (h : m'.smap = m.smap) (core : Nat) (ps : List (Nat × Nat)) : homeTimes m' core ps = homeTimes m core ps := by
  unfold homeTimes
  simp only [homeTime_congr h]

end

/-! ### Bytes written at a home -/

theorem mem_wakeHome (s : State) (pa : Nat) : (wakeHome s pa).mem = s.mem := by
  obtain ⟨f, hf, -⟩ := woken_wakeHome s pa
  rw [hf]

theorem mem_foldl {α : Type} {f : State → α → State} (h : ∀ s x, (f s x).mem = s.mem) (l : List α) (s : State) : (l.foldl f s).mem = s.mem := by
  induction l generalizing s with
  | nil => rfl
  | cons x l ih => exact (ih _).trans (h s x)

theorem mem_disarmed (s : State) (pa n : Nat) : (disarmWrite (wakeHomes s pa n) pa n).mem = s.mem :=
  (mem_foldl (f := fun (s : State) (x : Nat × Injection) => dropInj s x.1 x.2) (fun _ _ => rfl) _ _).trans
    (mem_foldl (fun s _ => mem_wakeHome s _) _ s)

theorem putBytes_smap (s : State) (pa : Nat) (d : List Byte) : (putBytes s pa d).mem.smap = s.mem.smap := by
  have h := congrArg MemSys.smap (mem_disarmed s pa d.length)
  exact h

theorem homeAct_putBytes (b : BankId) (s : State) (pa : Nat) (d : List Byte) : HomeAct b s (putBytes s pa d) :=
  .of_homesOnly (homesOnly_putBytes s pa d) (putBytes_smap s pa d)

/-- What a bank notes of a write of its own once its bytes are at the home: its kept bytes and its lines. -/
structure Noted (b : BankId) (s t : State) : Prop extends HomeAct b s t where
  cells : t.mem.cells = s.mem.cells
  tags : t.mem.tags = s.mem.tags

/-- A bank's write is the plain write, and what the bank notes of it. -/
theorem noted_bankWrite (s : State) (b : BankId) (id : Option (Nat × Nat × Nat)) (shown : Bool) (seq pa : Nat) (d : List Byte) :
    Noted b (plainWrite s (s.bank b).ctxNum id pa d) (bankWrite s b id shown seq pa d) := by
  have hown : Noted b (plainWrite s (s.bank b).ctxNum id pa d) (ownWrite s b id seq pa d) := by
    unfold ownWrite
    dsimp only
    split <;> exact ⟨⟨rfl, rfl, rfl, rfl, fun _ _ => rfl, rfl, rfl, rfl, rfl, rfl⟩, rfl, rfl⟩
  unfold bankWrite
  dsimp only
  split
  · exact ⟨hown.toHomeAct.modBank _ (fun _ => rfl) (fun _ => rfl) (fun _ => rfl) (fun _ => rfl), hown.cells, hown.tags⟩
  · exact hown

theorem plainWrite_none (s : State) (n pa : Nat) (d : List Byte) : plainWrite s n none pa d = putBytes s pa d := by
  unfold plainWrite
  rw [ite_self]

/-- A write of no identity puts its bytes. -/
theorem bankWrite_puts (s : State) (b : BankId) (shown : Bool) (seq pa : Nat) (d : List Byte) :
    HomeAct b s (bankWrite s b none shown seq pa d) ∧ (bankWrite s b none shown seq pa d).mem.cells = Cells.write s.mem.cells pa d := by
  have h := noted_bankWrite s b none shown seq pa d
  rw [plainWrite_none] at h
  exact ⟨(homeAct_putBytes b s pa d).trans h.toHomeAct, h.cells.trans (putBytes_cells s pa d)⟩

/-! ### Little-endian numbers and the result of an atomic -/

theorem leBytes_leNat (l : List Byte) : leBytes l.length (leNat l) = l := by
  induction l with
  | nil => rfl
  | cons x l ih =>
    have hx := x.isLt
    rw [List.length_cons, leBytes, leNat, show (x.toNat + 256 * leNat l) / 256 = leNat l by omega, ih]
    congr 1
    apply BitVec.eq_of_toNat_eq
    rw [BitVec.toNat_ofNat]
    omega

theorem leNat_lt (l : List Byte) : leNat l < 2 ^ (8 * l.length) := by
  induction l with
  | nil => exact Nat.one_pos
  | cons x l ih =>
    have hx := x.isLt
    rw [leNat, List.length_cons, Nat.mul_add, Nat.pow_add]
    omega

theorem Cells.length_read (l : List Host.Cell) (a n : Nat) : (Cells.read l a n).length = n := by
  induction n generalizing a with
  | zero => rfl
  | succ n ih => rw [Cells.read, List.length_cons, ih]

theorem length_peek (s : State) (a n : Nat) : (s.peek a n).length = n := Cells.length_read _ _ _

theorem Cells.getD_read (l : List Host.Cell) (a n i : Nat) (h : i < n) : (Cells.read l a n).getD i 0 = Cells.get l (a + i) := by
  induction n generalizing a i with
  | zero => omega
  | succ n ih =>
    cases i with
    | zero => rfl
    | succ i =>
      rw [Cells.read, List.getD_cons_succ, ih _ _ (by omega), show a + 1 + i = a + (i + 1) by omega]

/-- Bytes that stand may be said to be stored. -/
theorem stored_peek {s t : State} (h : t.mem.cells = s.mem.cells) (a n : Nat) : Stored s t a (s.peek a n) := by
  intro i
  rw [State.byteAt, h, length_peek]
  split
  · next hi => rw [State.peek, Cells.getD_read _ _ _ _ (by omega), show a + (i - a) = i by omega]
  · rfl

/-- The model's atomics are those of bit vectors, on numbers of their width. -/
theorem atomicNew_eq (op : AtomicOp) {w old x e : Nat} (hold : old < 2 ^ w) (hx : x < 2 ^ w) : atomicNew op w old x e = atomicResult op w old x e := by
  cases op
  case add => rw [atomicNew, atomicResult, Nat.one_shiftLeft]
  case min | max => rw [atomicNew, atomicResult, sgn_eq_toInt, sgn_eq_toInt]
  case minu =>
    show (if old < x then old else x) = min old x
    split <;> omega
  case maxu =>
    show (if old < x then x else old) = max old x
    split <;> omega
  case and | or | xor => simp [atomicNew, atomicResult, Nat.mod_eq_of_lt hold, Nat.mod_eq_of_lt hx]
  case swp | cas => rfl

/-! ### The oldest request of a bank at its home -/

theorem behind_nothing (r : MemReq) : r.behind ⟨[], [], false⟩ = false := by
  have hnone : ∀ l, overlaps l [] = false := fun l => by simp [overlaps]
  unfold MemReq.behind
  cases r.kind <;> simp [hnone]

theorem pickReq_oldest {ready : MemReq → Bool} {r : MemReq} (h : ready r = true) (rest : List MemReq) :
    pickReq ready ⟨[], [], false⟩ (r :: rest) 0 = some (0, r) := by
  rw [pickReq, behind_nothing, h]
  rfl

/-- A listed value replaced by one that gives the same, or one added that gives nothing. -/
theorem flatMap_kset {α β : Type} {f : Nat × α → List β} (l : List (Nat × α)) {k : Nat} {x : α}
    (h : f (k, x) = ((kfind l k).map (fun y => f (k, y))).getD []) : (kset l k x).flatMap f = l.flatMap f := by
  induction l with
  | nil => simpa [kset, kfind] using h
  | cons p l ih =>
    obtain ⟨j, y⟩ := p
    unfold kfind at h
    unfold kset
    split
    · next hj =>
      rw [if_pos hj] at h
      subst hj
      exact congrArg (· ++ l.flatMap f) h
    · next hj =>
      rw [if_neg hj] at h
      split
      · next hk =>
        rw [if_pos hk] at h
        exact congrArg (· ++ (f (j, y) ++ l.flatMap f)) h
      · next hk =>
        rw [if_neg hk] at h
        exact congrArg (f (j, y) ++ ·) (ih h)

/-- The state in which the oldest request of a bank has left its list. -/
def reqTaken (b : BankId) (s : State) : State := s.modBank b (fun k => { k with mem := { k.mem with reqs := delAt k.mem.reqs 0 } })

section
variable (b : BankId) (s : State)

theorem armedIn_setBank (x : Bank) (a n : Nat) : armedIn (s.setBank b x) a n = armedIn s a n := by
  refine flatMap_kset (f := fun (c : Nat × Core) => (c.2.inj.filter (·.hits a n)).map (fun j => (c.1, j))) s.cores ?_
  have hinj : ((s.core b.core).setBank b.slot x).inj = (kget Core.reset s.cores b.core).inj := by
    cases b.slot <;> rfl
  simp only [hinj, kget]
  cases kfind s.cores b.core <;> rfl

theorem armedIn_modBank (f : Bank → Bank) (a n : Nat) : armedIn (s.modBank b f) a n = armedIn s a n := armedIn_setBank b s _ a n

/-- Issued bytes without an armed error are read as they stand: their homes wake. -/
theorem woken_touchIssued {a n : Nat} (h : armedIn s a n = []) : Woken s (touchIssued s a n) := by
  have hwoken : Woken s (wakeHomes s a n) := Woken.foldl (fun s _ => woken_wakeHome s _) _ s
  obtain ⟨f, hf, hawake⟩ := hwoken
  have harm : armedIn (wakeHomes s a n) a n = [] := by rw [hf]; exact h
  unfold touchIssued
  dsimp only
  rw [harm]
  exact ⟨f, hf, hawake⟩

end

section
variable {b : BankId} {r : MemReq} {s : State} {a n : Nat}

theorem homeAct_touchIssued (h : armedIn s a n = []) : HomeAct b s (touchIssued s a n) ∧ (touchIssued s a n).mem = s.mem := by
  obtain ⟨f, hf, -⟩ := woken_touchIssued s h
  rw [hf]
  exact ⟨⟨rfl, rfl, rfl, rfl, fun _ _ => rfl, rfl, rfl, rfl, rfl, rfl⟩, rfl⟩

/-- A read at the home takes the bytes that stand there. -/
theorem performReq_home (hp : r.pieces = [(a, n)]) (h : armedIn s a n = []) (hk : r.kind = .home) :
    (performReq s b r).1 = s.peek a n ∧ HomeAct b s (performReq s b r).2 ∧ (performReq s b r).2.mem.cells = s.mem.cells := by
  obtain ⟨hact, hmem⟩ := homeAct_touchIssued (b := b) h
  unfold performReq
  simp only [hk, hp, List.foldl_cons, List.foldl_nil, List.nil_append, State.peek, hmem]
  exact ⟨trivial, hact, trivial⟩

/-- An atomic takes the bytes that stand there, and its result replaces them. -/
theorem performReq_rmw {op : AtomicOp} {x e : W64} (hp : r.pieces = [(a, n)]) (h : armedIn s a n = []) (hk : r.kind = .rmw op x e)
    (hs : Safety.MemoryCanonical s) : (performReq s b r).1 = s.peek a n ∧ HomeAct b s (performReq s b r).2 ∧
      Stored s (performReq s b r).2 a (leBytes n (atomicResult op (8 * n) (leNat (s.peek a n)) (x.toNat % 2 ^ (8 * n)) (e.toNat % 2 ^ (8 * n)))) := by
  obtain ⟨hact, hmem⟩ := homeAct_touchIssued (b := b) h
  have hpeek : (touchIssued s a n).peek a n = s.peek a n := by rw [State.peek, hmem]; rfl
  have hold : leNat (s.peek a n) < 2 ^ (8 * n) := by
    have := leNat_lt (s.peek a n)
    rwa [length_peek] at this
  have hx : x.toNat % 2 ^ (8 * n) < 2 ^ (8 * n) := Nat.mod_lt _ (Nat.two_pow_pos _)
  have hsame : leBytes n (leNat (s.peek a n)) = s.peek a n := by
    have := leBytes_leNat (s.peek a n)
    rwa [length_peek] at this
  unfold performReq
  simp only [hk, hp, hpeek, Nat.one_shiftLeft, atomicNew_eq op hold hx]
  split
  · next hfails =>
    obtain ⟨rfl, hne⟩ : op = .cas ∧ leNat (s.peek a n) ≠ e.toNat % 2 ^ (8 * n) := by simpa using hfails
    refine ⟨rfl, hact, ?_⟩
    rw [atomicResult, if_neg hne, hsame]
    exact stored_peek (congrArg MemSys.cells hmem) a n
  · obtain ⟨hputs, hcells⟩ := bankWrite_puts (touchIssued s a n) b true r.seq a
      (leBytes n (atomicResult op (8 * n) (leNat (s.peek a n)) (x.toNat % 2 ^ (8 * n)) (e.toNat % 2 ^ (8 * n))))
    refine ⟨rfl, (hact.trans hputs).modBank (fun k => { k with mem := k.mem.overwritten r.seq a n }) (fun _ => rfl) (fun _ => rfl)
      (fun _ => rfl) (fun _ => rfl), stored_of_cells hs ?_⟩
    rw [← hmem]
    exact hcells

end

end Sys2Proof.KernelMachine

namespace Sys2Proof.KernelMachine

open Sys2Proof Sys2Proof.Machine Sys2Proof.Claims

/-! ### HOME_REQUEST, DIRTY_LINE_DRAIN and HOME_ACK (11 R249, R259, R263, R265–R267) -/

/-- What a request at its home gave goes back to its bank. -/
def answerSent (b : BankId) (r : MemReq) (x : List Byte × State) : State :=
  let u := if r.acq then acquire x.2 b else x.2
  u.modBank b (fun k => { k with mem := { k.mem with returns := k.mem.returns ++ [⟨r, x.1, u.cycle + homeTimes u.mem b.core r.pieces⟩] } })

section
variable {b : BankId} {r : MemReq} {rest : List MemReq} {s : State} {x : List Byte × State} {d : List Byte} {a n : Nat}

theorem homeRead1_oldest (hreqs : (s.bank b).mem.reqs = r :: rest) (hready : reqReady s b r = true) (hyields : yields s (r.due, r.pieces) = false) :
    homeRead1 s b = answerSent b r (performReq (reqTaken b s) b r) := by
  have hpick : pickReq (fun r => reqReady s b r && !yields s (r.due, r.pieces)) ⟨[], [], false⟩ (r :: rest) 0 = some (0, r) :=
    pickReq_oldest (by simp only [hready, hyields]; rfl) rest
  unfold homeRead1
  rw [hreqs, hpick]
  rfl

theorem reqTaken_reqs (hreqs : (s.bank b).mem.reqs = r :: rest) : ((reqTaken b s).bank b).mem.reqs = rest := by
  rw [reqTaken, State.bank_modBank_same, hreqs]
  rfl

/-- The way back of an answer, the bank's requests and all else, after what its request did at its home. -/
theorem answerSent_answers (hreqs : (s.bank b).mem.reqs = r :: rest) (hd : x.1 = d) (h : HomeAct b (reqTaken b s) x.2) :
    let t := answerSent b r x
    ((t.bank b).mem.reqs = rest ∧ (t.bank b).mem.returns = (s.bank b).mem.returns ++ [⟨r, d, s.cycle + homeTimes s.mem b.core r.pieces⟩] ∧
      t.time = s.time ∧ t.host = s.host ∧ t.ctxs = s.ctxs ∧ ∀ p, p ≠ b → t.bank p = s.bank p) ∧ t.mem.cells = x.2.mem.cells := by
  subst hd
  let v := if r.acq then acquire x.2 b else x.2
  have hact : HomeAct b (reqTaken b s) v ∧ v.mem.cells = x.2.mem.cells := by
    dsimp only [v]
    split
    · exact ⟨h.modBank _ (fun _ => rfl) (fun _ => rfl) (fun _ => rfl) (fun _ => rfl), rfl⟩
    · exact ⟨h, rfl⟩
  obtain ⟨hv, hcells⟩ := hact
  have htaken : ((reqTaken b s).bank b).mem.returns = (s.bank b).mem.returns := by rw [reqTaken, State.bank_modBank_same]
  have ht : answerSent b r x =
      v.modBank b (fun k => { k with mem := { k.mem with returns := k.mem.returns ++ [⟨r, x.1, v.cycle + homeTimes v.mem b.core r.pieces⟩] } }) := rfl
  dsimp only
  rw [ht]
  refine ⟨⟨?_, ?_, hv.time, hv.host, hv.ctxs, fun p hp => ?_⟩, hcells⟩
  · rw [State.bank_modBank_same]
    exact hv.reqs.trans (reqTaken_reqs hreqs)
  · rw [State.bank_modBank_same]
    dsimp only
    rw [hv.returns, htaken, hv.cycle, homeTimes_congr hv.smap]
    rfl
  · rw [State.bank_modBank_ne _ _ hp, hv.others p hp]
    exact State.bank_modBank_ne _ _ hp

theorem homePerformsRequests : Claims.HomePerformsRequests := by
  intro b r rest a n s
  dsimp only
  intro hs hreqs hready hp hclean hyields
  have harm : armedIn (reqTaken b s) a n = [] := (armedIn_modBank b s _ a n).trans hclean.1
  have hpeek : (reqTaken b s).peek a n = s.peek a n := rfl
  have hexec : exec (.homeRequest b false) s = .next (answerSent b r (performReq (reqTaken b s) b r)) :=
    congrArg Host.Outcome.next (homeRead1_oldest hreqs hready hyields)
  refine ⟨fun hk => ?_, fun op x e hk _ => ?_⟩
  · obtain ⟨hdata, hact, hcells⟩ := performReq_home (b := b) hp harm hk
    obtain ⟨hanswers, hsame⟩ := answerSent_answers hreqs hdata hact
    refine ⟨_, hexec, hanswers, fun i => ?_⟩
    rw [State.byteAt, hsame, hcells]
    rfl
  · obtain ⟨hdata, hact, hstored⟩ := performReq_rmw (b := b) hp harm hk hs
    obtain ⟨hanswers, hsame⟩ := answerSent_answers hreqs hdata hact
    refine ⟨_, hexec, hanswers, fun i => ?_⟩
    rw [State.byteAt, hsame]
    exact hstored i

end

section
variable {b : BankId} {e : StoreEntry} {rest : List StoreEntry} {s : State}

/-- The oldest store that nothing keeps and that the other bank's do not precede leaves the core. -/
theorem dirtyLineDrain_leaves (hdirty : (s.bank b).mem.dirty = e :: rest) (hrows : (s.bank b).going.rowsStored e.seq = true)
    (hkeeps : ∀ r ∈ (s.bank b).mem.reqs, r.seq < e.seq → r.keeps e = false)
    (hother : ∀ x, (s.bank ⟨b.core, !b.slot⟩).front = some x → e.seq ≤ x.seq) :
    dirtyLineDrain s b = s.setBank b { s.bank b with mem := { (s.bank b).mem with
      dirty := rest, sent := (s.bank b).mem.sent ++ [{ e with due := s.cycle + homeTime s.mem b.core e.pa }] } } := by
  have hkept : ((s.bank b).mem.reqs.any (·.keeps e)) = false := by
    refine List.any_eq_false.mpr fun r hr hk => ?_
    by_cases hseq : r.seq < e.seq
    · exact Bool.false_ne_true ((hkeeps r hr hseq).symm.trans hk)
    · simp [MemReq.keeps, hseq] at hk
  have hdrains : (s.bank b).drains = some e := by
    unfold Bank.drains Bank.front
    simp only [hdirty, hrows, if_true, Option.filter_some, hkept, Bool.not_false]
  have hahead : (s.bank { b with slot := !b.slot }).front.any (fun x => decide (x.seq < e.seq)) = false := by
    cases hf : (s.bank ⟨b.core, !b.slot⟩).front with
    | none => rfl
    | some x => exact decide_eq_false (Nat.not_lt.mpr (hother x hf))
  unfold dirtyLineDrain
  simp only [hdrains, hahead, Bool.false_eq_true, if_false, hdirty, List.tail_cons]

/-- The bank's oldest store on its way is performed: its acknowledgment goes back. -/
def ackSent (b : BankId) (e : StoreEntry) (rest : List StoreEntry) (u : State) : State :=
  u.modBank b (fun k =>
    let m := k.mem.performed e.seq e.pa e.data.length
    { k with mem := { m with sent := rest, unacked := m.unacked ++ [{ e with due := u.cycle + homeTime u.mem b.core e.pa }] } })

theorem homeWrite1_performs (hsent : (s.bank b).mem.sent = e :: rest) (hdue : e.due ≤ s.cycle) (hheld : homeHeld s.mem e.pa = false)
    (hstale : staleMap s.mem e.gen e.pa = false) (hyields : yields s (e.due, [(e.pa, e.data.length)]) = false) :
    homeWrite1 s b = ackSent b e rest (bankWrite s b e.ident (!(s.bank b).mem.hides e.seq e.pa e.data.length) e.seq e.pa e.data) := by
  unfold homeWrite1
  simp only [hsent, hheld, hstale, hyields, Nat.not_lt.mpr hdue, decide_false, Bool.or_false, Bool.false_eq_true, if_false]
  rfl

theorem homeAck_counts (hun : (s.bank b).mem.unacked = e :: rest) (hdue : e.due ≤ s.cycle) :
    homeAck s b = noteMiss (s.modBank b (fun k => { k with mem := { k.mem with unacked := rest } })) b.core 1 e.limit := by
  unfold homeAck
  simp only [hun, Nat.not_lt.mpr hdue, if_false]

end

theorem storesReachTheHome : Claims.StoresReachTheHome := by
  intro b e rest s
  refine ⟨fun hdirty hrows hkeeps hother => congrArg Host.Outcome.next (dirtyLineDrain_leaves hdirty hrows hkeeps hother),
    fun hs hsent hdue hheld hstale hyields hid => ⟨_, congrArg Host.Outcome.next (homeWrite1_performs hsent hdue hheld hstale hyields), ?_⟩,
    fun hun hdue => ⟨_, congrArg Host.Outcome.next (homeAck_counts hun hdue), ?_, fun i => ?_⟩⟩
  · rw [hid]
    obtain ⟨hact, hcells⟩ := bankWrite_puts s b (!(s.bank b).mem.hides e.seq e.pa e.data.length) e.seq e.pa e.data
    generalize bankWrite s b none (!(s.bank b).mem.hides e.seq e.pa e.data.length) e.seq e.pa e.data = u at hact hcells
    refine ⟨stored_of_cells hs hcells, ?_, ?_, ?_, ?_, hact.ctxs, hact.host⟩ <;> rw [ackSent, State.bank_modBank_same]
    · show (u.bank b).mem.unacked ++ _ = _
      rw [hact.unacked, hact.cycle, homeTime_congr hact.smap, hid]
    · exact hact.dirty
    · exact hact.reqs
  · rw [bank_noteMiss, State.bank_modBank_same]
  · rw [byteAt_noteMiss]
    rfl

/-! ### Deterministic mode: the write of the higher identity stands (11 R265–R267) -/

section
variable {s : State} {n pa : Nat} {i : Nat × Nat × Nat} {d : List Byte}

/-- A write within a sector is one piece. -/
theorem sectorPieces_one (hd : d ≠ []) (hin : pa % 32 + d.length ≤ 32) : sectorPieces (d.length + 1) pa d = [(pa, d)] := by
  have hempty : d.isEmpty = false := by simpa using hd
  have hmin : min d.length (32 - pa % 32) = d.length := by omega
  have hrest : ∀ f a, sectorPieces f a [] = [] := fun f a => by cases f <;> rfl
  rw [sectorPieces, hempty]
  simp only [Bool.false_eq_true, if_false, hmin, List.take_length, List.drop_length, hrest]

theorem plainWrite_dropped (hhome : (homeOf s.mem pa).isSome = true) (hd : d ≠ []) (hin : pa % 32 + d.length ≤ 32)
    (hdrops : sectorDrops (kfind s.mem.tags (pa / 32)) i = true) : plainWrite s n (some i) pa d =
      (s.modCtx n (fun c => { c with overruled := c.overruled + 1 })).modLaunch i.1 (fun l => { l with dropped := l.dropped + 1 }) := by
  unfold plainWrite
  simp only [if_pos hhome, sectorPieces_one hd hin, List.all_cons, hdrops, Bool.not_true, Bool.false_and, Bool.false_eq_true, if_false,
    List.foldl_cons, List.foldl_nil, if_true]

theorem plainWrite_stands (hhome : (homeOf s.mem pa).isSome = true) (hd : d ≠ []) (hin : pa % 32 + d.length ≤ 32)
    (hdrops : sectorDrops (kfind s.mem.tags (pa / 32)) i = false) : plainWrite s n (some i) pa d =
      { putBytes s pa d with mem := { (putBytes s pa d).mem with tags := kset (putBytes s pa d).mem.tags (pa / 32) ⟨i.1, i.2.1, i.2.2⟩ } } := by
  unfold plainWrite
  simp only [if_pos hhome, sectorPieces_one hd hin, List.all_cons, List.all_nil, hdrops, Bool.not_false, Bool.and_true, if_true,
    List.foldl_cons, List.foldl_nil]

theorem higherIdentityWins : Claims.HigherIdentityWins := by
  intro b e rest launch epoch ident tag s
  dsimp only
  intro hs hsent hdue hheld hstale hyields hhome hid hdata hin htag
  refine ⟨_, congrArg Host.Outcome.next (homeWrite1_performs hsent hdue hheld hstale hyields), ?_⟩
  rw [hid]
  have hnoted := noted_bankWrite s b (some (launch, epoch, ident)) (!(s.bank b).mem.hides e.seq e.pa e.data.length) e.seq e.pa e.data
  generalize bankWrite s b (some (launch, epoch, ident)) (!(s.bank b).mem.hides e.seq e.pa e.data.length) e.seq e.pa e.data = u at hnoted
  have hdrops : sectorDrops (kfind s.mem.tags (e.pa / 32)) (launch, epoch, ident) = true ↔
      tag.launch = launch ∧ tag.epoch = epoch ∧ ident < tag.ident := by
    rw [htag]
    simp [sectorDrops, and_assoc]
  have hctx : ∀ j, (ackSent b e rest u).ctx j = u.ctx j := fun _ => rfl
  have hafter : ∀ j, u.ctx j = (plainWrite s (s.bank b).ctxNum (some (launch, epoch, ident)) e.pa e.data).ctx j := fun j => by
    rw [State.ctx, hnoted.ctxs]
    rfl
  rw [hctx, hafter]
  show if _ then (∀ i, Cells.get u.mem.cells i = s.byteAt i) ∧ _ ∧ kfind u.mem.tags _ = _ else (∀ i, Cells.get u.mem.cells i = _) ∧ _ ∧ kfind u.mem.tags _ = _
  rw [hnoted.cells, hnoted.tags]
  split
  · next h =>
    rw [plainWrite_dropped hhome hdata hin (hdrops.mpr h), State.modLaunch_mem, State.ctx, State.modLaunch_ctxs]
    exact ⟨fun _ => rfl, congrArg Ctx.overruled ((State.ctx_modCtx _ _ _ _).trans (if_pos rfl)), htag⟩
  · next h =>
    rw [plainWrite_stands hhome hdata hin (Bool.eq_false_iff.mpr (fun hd => h (hdrops.mp hd)))]
    refine ⟨stored_of_cells hs (putBytes_cells s e.pa e.data), ?_, kfind_kset_same _ _ _⟩
    rw [State.ctx]
    exact congrArg (fun l => (kget Ctx.reset l (s.bank b).ctxNum).overruled) (putBytes_ctxs s e.pa e.data)

end

/-- Settles O19: a request and a store at their home each do one write there; a sector in deterministic mode is decided by its tag. -/
theorem homeSerialises : Obligations.HomeSerialises := ⟨homePerformsRequests, storesReachTheHome, higherIdentityWins⟩

end Sys2Proof.KernelMachine

namespace Sys2Proof.KernelMachine

open Sys2Proof Sys2Proof.Machine Sys2Proof.Claims

/-! ### The table of groups: its reads wake homes and do not depend on what is awake (12 R277; 18 R310; 24 R387) -/

theorem woken_vaMeet {s : State} (h : Uninjected s) (ctx : Nat) (va : W64) (n : Nat) : Woken s (vaMeet s ctx va n) := by
  unfold vaMeet
  generalize pieces va (n / 64 + 2) n = ps
  suffices hps : ∀ t, Woken s t → Woken s (ps.foldl (fun s p =>
      let s := walkMeet s ctx (vaBits p.1 / 65536)
      match ioAddr s ctx p.1 .read with
      | some a => touchBytes s a p.2
      | none => s) t) from hps s (.refl s)
  induction ps with
  | nil => exact fun _ ht => ht
  | cons p ps ih =>
    intro t ht
    refine ih _ ?_
    obtain ⟨f, rfl, hf⟩ := ht
    have hwalk : Woken s (walkMeet { s with fleet := f } ctx (vaBits p.1 / 65536)) :=
      (show Woken s { s with fleet := f } from ⟨f, rfl, hf⟩).trans (woken_walkMeet (s := { s with fleet := f }) h ctx _)
    dsimp only
    split
    · next a _ =>
      refine hwalk.trans (woken_touchBytes ?_)
      obtain ⟨g, hg, -⟩ := hwalk
      rw [hg]
      exact armedIn_uninjected h a p.2
    · exact hwalk

theorem vaRead_fleet (s : State) (f : Fleet) (ctx : Nat) (va : W64) (n : Nat) : vaRead { s with fleet := f } ctx va n = vaRead s ctx va n := rfl

theorem findGroup_fleet (s : State) (f : Fleet) (ctx g n : Nat) (va : W64) :
    findGroup { s with fleet := f } ctx g n va = findGroup s ctx g n va := by
  induction n generalizing va with
  | zero => rfl
  | succ n ih => simp only [findGroup, vaRead_fleet, ih]

theorem commandOk_fleet (s : State) (f : Fleet) (ctx : Nat) (d : List Byte) : commandOk { s with fleet := f } ctx d = commandOk s ctx d := by
  have hgroup : groupOf { s with fleet := f } ctx (cGroup d) = groupOf s ctx (cGroup d) := findGroup_fleet s f ctx _ _ _
  unfold commandOk
  rw [hgroup]
  rfl

/-- A party that has asked for nothing: nothing of it is noted. -/
theorem served_unasked {s : State} {x : Asker} (h : ∀ y ∈ s.mem.asked, y.who ≠ x) (n : Nat) : served s x n = s := by
  have hnone : s.mem.asked.find? (·.who == x) = none := List.find?_eq_none.mpr fun y hy => by simpa using h y hy
  unfold served
  rw [hnone]

/-! ### Posting (12 R278, R279, R290) -/

/-- The entry of a command that is posted as its group's next match. -/
def postedEntry (s : State) (ctx : Nat) (d : List Byte) (launch unit : Nat) (origin : Origin) (stage : Option Nat)
    (place : Option (BankId × Nat)) : CollEntry :=
  ⟨nextMatch s ctx d, d, launch, unit, origin, .waiting, none, s.tick, none, [], false, stage, place, none, none⟩

/-- The match counted, and its entry in the table. -/
def tabled (s : State) (ctx : Nat) (d : List Byte) (e : CollEntry) : State :=
  let t := s.modCtx ctx (fun c => { c with matched := (cGroup d, cPeers d, e.id.k) :: c.matched.filter (fun m => !(m.1 == cGroup d && m.2.1 == cPeers d)) })
  { t with esc := { t.esc with table := t.esc.table ++ [e], aborted := t.esc.aborted.filter (·.id != e.id) } }

section
variable {s : State} {ctx : Nat} {d : List Byte} {launch unit : Nat} {origin : Origin} {stage : Option Nat} {place : Option (BankId × Nat)}

theorem touched_none (h : (s.ctx ctx).nseg = 0) (is : List (Option (Nat × Nat))) : touched s ctx is = [] := by
  unfold touched segments
  rw [h]
  rfl

/-- With no segments to count, a post is the entry in the table, or its abort. -/
theorem postCommand_eq (h : (s.ctx ctx).nseg = 0) : postCommand s ctx d launch unit origin stage place =
    let e := postedEntry s ctx d launch unit origin stage place
    match s.esc.aborted.find? (·.id == e.id) with
    | some m => abortEntry (tabled s ctx d e) e m.reason ((tabled s ctx d e).ctx ctx).gen.toNat
    | none => tabled s ctx d e := by
  unfold postCommand
  simp only [touched_none h]
  rfl

end

/-! ### The abort of what a unit has posted (12 R290) -/

section
variable {s : State} {e : CollEntry} {why : BitVec 8} {gen : Nat}

/-- The set semaphore's error bit. -/
def flagged (s : State) (e : CollEntry) (why : BitVec 8) : State :=
  if cSsem e.cmd / 32768 % 2 = 1 then s.modCtx e.id.ctx (fun c => { c with
    sems := kupd ⟨0, false, 0⟩ c.sems (cSsem e.cmd % 1024) (fun x => { x with err := true, why := why }), changes := c.changes + 1 }) else s

/-- The entry gone from the escapement's tables. -/
def untabled (s : State) (e : CollEntry) : State :=
  unasked { s with esc := { s.esc with
    table := s.esc.table.filter (·.id != e.id), refused := s.esc.refused.filter (· != e.id)
    notices := s.esc.notices.filter (·.1 != e.id), issued := s.esc.issued.filter (·.id != e.id) } } (.source (.coll e.id))

theorem homesOnly_leaveParts (s : State) (e : CollEntry) : HomesOnly s (leaveParts s e) := by
  unfold leaveParts
  dsimp only
  split
  · split
    · exact .refl s
    · split
      · split
        · exact .refl s
        · refine (HomesOnly.of_parts (s := s) s.fleet s.mem _ rfl).trans (HomesOnly.foldl (fun s x => ?_) _ _)
          split
          · exact homesOnly_putBytes s _ _
          · exact .refl s
      · exact .refl s
  · exact .refl s

/-- The abort of what a unit posted. -/
theorem abortEntry_unit {l : Nat} (horigin : e.origin = .unit l) : ∃ bytes, abortEntry s e why gen =
    (untabled (busyBy (flagged (leaveParts s e) e why) e.id.ctx (-1) e.segs) e).errorRecord e.id.ctx bytes := by
  unfold abortEntry freeEntry
  rw [horigin]
  exact ⟨_, rfl⟩

/-- What the entry's going leaves: contexts, banks, and of the escapement all else. -/
theorem untabled_parts (s : State) (e : CollEntry) : HomesOnly { s with esc := (untabled s e).esc } (untabled s e) ∧
    (untabled s e).esc = { s.esc with
      table := s.esc.table.filter (·.id != e.id), refused := s.esc.refused.filter (· != e.id)
      notices := s.esc.notices.filter (·.1 != e.id), issued := s.esc.issued.filter (·.id != e.id) } := by
  unfold untabled unasked
  split <;> exact ⟨.of_parts _ _ _ rfl, rfl⟩

theorem homesOnly_errorRecord (s : State) (n : Nat) (d : List Byte) : HomesOnly { s with ctxs := (s.errorRecord n d).ctxs } (s.errorRecord n d) := by
  have hwrites := (homesOnly_write s ((s.ctx n).eqbase + 32 * ((s.ctx n).eqcount % (1 <<< (s.ctx n).eqlog2))) d).trans
    (homesOnly_write _ ((s.ctx n).desc.toNat + 312) (leBytes 8 ((s.ctx n).eqcount + 1)))
  exact ⟨hwrites.agenda, hwrites.cur, hwrites.cycle, rfl, hwrites.host, hwrites.time, hwrites.esc, hwrites.core⟩

/-- The flagged context: its count of records as it was, the bit where the command names a semaphore; nothing but contexts differs. -/
theorem flagged_parts (s : State) (e : CollEntry) (why : BitVec 8) : flagged s e why = { s with ctxs := (flagged s e why).ctxs } ∧
    ((flagged s e why).ctx e.id.ctx).eqcount = (s.ctx e.id.ctx).eqcount ∧
    (cSsem e.cmd / 32768 = 1 → (((flagged s e why).ctx e.id.ctx).sem (cSsem e.cmd % 1024)).err = true ∧
      (((flagged s e why).ctx e.id.ctx).sem (cSsem e.cmd % 1024)).why = why) := by
  unfold flagged
  split
  · rw [State.ctx_modCtx, if_pos rfl]
    refine ⟨rfl, rfl, fun _ => ?_⟩
    unfold Ctx.sem kupd
    rw [kget_kset_same]
    exact ⟨rfl, rfl⟩
  · next hno => exact ⟨rfl, rfl, fun h => absurd (by rw [h]) hno⟩

/-- An aborted entry is out of the table, its semaphore's error bit is set, its context has the record; banks and streams stand. -/
theorem abortEntry_leaves {l : Nat} (horigin : e.origin = .unit l) :
    Aborted s (abortEntry s e why gen) e why ∧ (abortEntry s e why gen).esc.aborted = s.esc.aborted ∧ (abortEntry s e why gen).esc.out = s.esc.out ∧
      (abortEntry s e why gen).cur = s.cur ∧ (abortEntry s e why gen).cycle = s.cycle ∧ (abortEntry s e why gen).me = s.me := by
  obtain ⟨bytes, habort⟩ := abortEntry_unit (s := s) (why := why) (gen := gen) horigin
  rw [habort]
  have hparts := homesOnly_leaveParts s e
  obtain ⟨hflag, hcount, hsem⟩ := flagged_parts (leaveParts s e) e why
  have hbusy := homesOnly_busyBy (flagged (leaveParts s e) e why) e.id.ctx (-1) e.segs
  obtain ⟨hun, hesc⟩ := untabled_parts (busyBy (flagged (leaveParts s e) e why) e.id.ctx (-1) e.segs) e
  have hrec := homesOnly_errorRecord (untabled (busyBy (flagged (leaveParts s e) e why) e.id.ctx (-1) e.segs) e) e.id.ctx bytes
  generalize busyBy (flagged (leaveParts s e) e why) e.id.ctx (-1) e.segs = v at *
  have hvesc : v.esc = s.esc := by rw [hbusy.esc, hflag, ← hparts.esc]
  have hesc' : ((untabled v e).errorRecord e.id.ctx bytes).esc = _ := hrec.esc.trans hesc
  have hctx : (untabled v e).ctx e.id.ctx = (flagged (leaveParts s e) e why).ctx e.id.ctx := (hun.ctx _).trans (hbusy.ctx _)
  have hcur : v.cur = s.cur := by rw [hbusy.cur, hflag, ← hparts.cur]
  have hcycle : v.cycle = s.cycle := by rw [hbusy.cycle, hflag, ← hparts.cycle]
  have hme : v.me = s.me := by rw [hbusy.me, hflag, ← hparts.me]; rfl
  refine ⟨⟨?_, ?_, fun hvalid => ?_⟩, ?_, ?_, (hrec.cur.trans hun.cur).trans hcur, (hrec.cycle.trans hun.cycle).trans hcycle,
    (hrec.me.trans hun.me).trans hme⟩
  · rw [State.entry?, hesc']
    refine List.find?_eq_none.mpr fun y hy => ?_
    simpa using (List.mem_filter.mp hy).2
  · rw [errorRecord_ctx, if_pos rfl, hctx]
    refine congrArg (· + 1) (hcount.trans ?_)
    rw [hparts.ctx]
  · rw [errorRecord_ctx, if_pos rfl, hctx]
    exact hsem hvalid
  · rw [hesc', hvesc]
  · rw [hesc', hvesc]

end

/-! ### POSTC (05 R145) -/

/-- A state with homes woken. -/
def awake (u : State) (f : Fleet) : State := { u with fleet := f }

theorem awake_me (u : State) (f : Fleet) : (awake u f).me = u.me := rfl

/-- The command taken from the bank. -/
def commandTaken (k : Bank) : Bank := { k with mem := { k.mem with command := none } }

/-- The word has posted its command `d`. -/
def posting (w : BitVec 3) (d : List Byte) (b : BankId) (t : State) : State :=
  let t := t.modMyBank commandTaken
  let l := t.myBank.launchId
  let st := match t.launch? l with | some x => x.stage | none => none
  retire ((postCommand t t.myBank.ctxNum d l (unitWord t b) (.unit l) st (some (b, t.myBank.mem.seq))).modMyBank Bank.bumpSeq) w

section
variable {s : State} {w : BitVec 3} {a : Reg}

theorem postc_misaligned (ha : Readable (issueState s) a) (hz : ((issueState s).me.get a).toNat % 64 ≠ 0) :
    Traps s (.postc w a) .misaligned ((issueState s).me.get a) := by
  refine traps_of_error rfl ?_ (by decide)
  simp only [rd_of_readable ha, Except.bind_ok', if_pos hz]
  rfl

/-- The request for the command is on its way exactly where one of the bank's goes there. -/
theorem commandAsked_iff (m : BankMem) :
    m.commandAsked = true ↔ ∃ r, (r ∈ m.reqs ∨ ∃ y ∈ m.returns, r = y.req) ∧ r.dest = .command := by
  unfold BankMem.commandAsked
  simp only [Bool.or_eq_true, List.any_eq_true, beq_iff_eq]
  constructor
  · rintro (⟨r, hr, hd⟩ | ⟨y, hy, hd⟩)
    · exact ⟨r, .inl hr, hd⟩
    · exact ⟨y.req, .inr ⟨y, hy, rfl⟩, hd⟩
  · rintro ⟨r, hr | ⟨y, hy, rfl⟩, hd⟩
    · exact .inl ⟨r, hr, hd⟩
    · exact .inr ⟨y, hy, hd⟩

theorem postc_waits (ha : Readable (issueState s) a) (hz : ((issueState s).me.get a).toNat % 64 = 0)
    (h : 256 ≤ (issueState s).esc.table.length ∨ (issueState s).myBank.mem.commandAsked = true) : Waits s (.postc w a) := by
  refine waits_of_error false rfl ?_
  simp only [rd_of_readable ha, Except.bind_ok', if_neg (not_not.mpr hz)]
  by_cases hfull : 256 ≤ (issueState s).esc.table.length
  · rw [waitIf_true (decide_eq_true hfull)]
    rfl
  · rw [waitIf_false (decide_eq_false hfull), waitIf_true (h.resolve_left hfull)]
    rfl

variable (ha : Readable (issueState s) a) (hz : ((issueState s).me.get a).toNat % 64 = 0) (hfull : (issueState s).esc.table.length < 256)
  (hasked : (issueState s).myBank.mem.commandAsked = false)
include ha hz hfull hasked

theorem postc_asks {pa : Nat} (hnone : (issueState s).myBank.mem.command = none)
    (hreach : Reaches (issueState s) ((issueState s).me.get a) 64 .read [(pa, 64)]) (hpoison : Unpoisoned (issueState s) .ordinary [(pa, 64)]) :
    exec (.postc w a) s = .next (interlocked ((issueState s).modMyBank
      (withReq (newReq (issueState s) .ordinary ((issueState s).me.get a) [(pa, 64)] .command none false))) false) := by
  refine next_of_ok rfl ?_
  simp only [rd_of_readable ha, Except.bind_ok', if_neg (not_not.mpr hz), waitIf_false (decide_eq_false (Nat.not_le.mpr hfull)),
    waitIf_false hasked, hnone, withMem_unpoisoned hreach hpoison, enqueueReq_eq (show ReqKind.ordinary ≠ .prefetch by decide)]

section
variable {q : W64} {d : List Byte} (hcommand : (issueState s).myBank.mem.command = some (q, d))
  (hkept : groupKept (issueState s) (.source (.aStream (issueState s).cur.bank)) (issueState s).myBank.ctxNum d = none)
  (hnobody : ∀ y ∈ (issueState s).mem.asked, y.who ≠ .source (.aStream (issueState s).cur.bank)) (hclean : Uninjected (issueState s))
include hcommand hkept hnobody hclean

omit ha hz hfull hasked hcommand hkept in
/-- The table read, with nobody's request noted: homes have been woken. -/
theorem groupMeet_served (d : List Byte) :
    ∃ f, served (groupMeet (issueState s) (issueState s).myBank.ctxNum d) (.source (.aStream (issueState s).cur.bank)) 1 = awake (issueState s) f := by
  obtain ⟨f, hf, -⟩ := woken_vaMeet hclean (issueState s).myBank.ctxNum ((issueState s).ctx (issueState s).myBank.ctxNum).groupVa
    (groupSpan (issueState s) (issueState s).myBank.ctxNum (cGroup d) 1024 ((issueState s).ctx (issueState s).myBank.ctxNum).groupVa)
  refine ⟨f, ?_⟩
  rw [groupMeet, hf]
  exact served_unasked (s := awake (issueState s) f) hnobody 1

theorem postc_invalid (hok : commandOk (issueState s) (issueState s).myBank.ctxNum d = false) :
    ∃ f, exec (.postc w a) s = .next (takeTrap (awake (issueState s) f) (issueState s).cur.bank (issueState s).cur.engine
      (mkTrap .accessViolation ((issueState s).me.get a)) (issueState s).me.pc) := by
  obtain ⟨f, hf⟩ := groupMeet_served hnobody hclean d
  have hok' : commandOk (awake (issueState s) f) (awake (issueState s) f).myBank.ctxNum d = false := (commandOk_fleet (issueState s) f _ d).trans hok
  have htrap : exec (.postc w a) s = .next (takeTrap (awake (issueState s) f) (awake (issueState s) f).cur.bank (awake (issueState s) f).cur.engine
      (mkTrap .accessViolation ((issueState s).me.get a)) (awake (issueState s) f).me.pc) := by
    refine next_of_trapIn rfl ?_
    simp only [rd_of_readable ha, Except.bind_ok', if_neg (not_not.mpr hz), waitIf_false (decide_eq_false (Nat.not_le.mpr hfull)),
      waitIf_false hasked, hcommand, hkept, hf, hok', Bool.not_false, if_true]
  rw [awake_me] at htrap
  exact ⟨f, htrap⟩

theorem postc_posts (hok : commandOk (issueState s) (issueState s).myBank.ctxNum d = true) :
    ∃ f, exec (.postc w a) s = .next (posting w d (issueState s).cur.bank (awake (issueState s) f)) := by
  obtain ⟨f, hf⟩ := groupMeet_served hnobody hclean d
  have hok' : commandOk (awake (issueState s) f) (awake (issueState s) f).myBank.ctxNum d = true := (commandOk_fleet (issueState s) f _ d).trans hok
  refine ⟨f, next_of_ok rfl ?_⟩
  simp only [rd_of_readable ha, Except.bind_ok', if_neg (not_not.mpr hz), waitIf_false (decide_eq_false (Nat.not_le.mpr hfull)),
    waitIf_false hasked, hcommand, hkept, hf, hok', Bool.not_true, Bool.false_eq_true, if_false]
  rfl

end

end

section
variable {u : State} {d : List Byte}

/-- The state a post begins in: homes woken, the command taken. -/
def postFrom (u : State) (f : Fleet) : State := (awake u f).modMyBank commandTaken

/-- The entry of a unit's post. -/
def unitEntry (u : State) (f : Fleet) (d : List Byte) : CollEntry :=
  postedEntry (postFrom u f) u.myBank.ctxNum d u.myBank.launchId (unitWord (postFrom u f) u.cur.bank) (.unit u.myBank.launchId)
    ((u.launch? u.myBank.launchId).bind (·.stage)) (some (u.cur.bank, u.myBank.mem.seq))

theorem unitEntry_id (u : State) (f : Fleet) (d : List Byte) : (unitEntry u f d).id = nextMatch u u.myBank.ctxNum d := rfl

theorem unitEntry_since (u : State) (f : Fleet) (d : List Byte) : (unitEntry u f d).since = u.tick := rfl

theorem postFrom_myBank (u : State) (f : Fleet) : (postFrom u f).myBank = commandTaken u.myBank := State.myBank_modMyBank _ _

theorem posting_eq (hseg : (u.ctx u.myBank.ctxNum).nseg = 0) (w : BitVec 3) (f : Fleet) : posting w d u.cur.bank (awake u f) =
    let e := unitEntry u f d
    let t := tabled (postFrom u f) u.myBank.ctxNum d e
    retire ((match u.esc.aborted.find? (fun (m : AbortMsg) => m.id == nextMatch u u.myBank.ctxNum d) with
      | some m => abortEntry t e m.reason (t.ctx u.myBank.ctxNum).gen.toNat
      | none => t).modMyBank Bank.bumpSeq) w := by
  have hctxNum : (postFrom u f).myBank.ctxNum = u.myBank.ctxNum := by rw [postFrom_myBank]; rfl
  have hlaunch : (postFrom u f).myBank.launchId = u.myBank.launchId := by rw [postFrom_myBank]; rfl
  have hseq : (postFrom u f).myBank.mem.seq = u.myBank.mem.seq := by rw [postFrom_myBank]; rfl
  have hstage : (match (postFrom u f).launch? u.myBank.launchId with | some x => x.stage | none => none) =
      (u.launch? u.myBank.launchId).bind (·.stage) := by
    show (match u.launch? u.myBank.launchId with | some x => x.stage | none => none) = _
    cases u.launch? u.myBank.launchId <;> rfl
  unfold posting
  rw [← postFrom]
  simp only [hctxNum, hlaunch, hseq, hstage]
  rw [postCommand_eq (s := postFrom u f) hseg]
  rfl


theorem postFrom_me (u : State) (f : Fleet) : (postFrom u f).me = u.me := by
  rw [State.me_eq, postFrom_myBank]
  show (commandTaken u.myBank).stream u.cur.engine = u.me
  rw [State.me_eq]
  cases u.cur.engine <;> rfl

theorem bumpSeq_me (y : State) : (y.modMyBank Bank.bumpSeq).me = y.me := by
  rw [State.me_modMyBank, State.me_eq]
  cases y.cur.engine <;> rfl

/-- A word that takes a place in its bank's order and goes on. -/
theorem bumpRetired (y : State) (w : BitVec 3) :
    let t := retire (y.modMyBank Bank.bumpSeq) w
    t.esc = y.esc ∧ t.me = advanced y.me y.cycle w ∧ t.myBank.mem = { y.myBank.mem with seq := y.myBank.mem.seq + 1 } ∧
      t.mem.cells = y.mem.cells ∧ t.host = y.host ∧ t.time = y.time := by
  refine ⟨rfl, ?_, ?_, rfl, rfl, rfl⟩
  · rw [retire_me, bumpSeq_me]
    rfl
  · rw [retire_myBank, Bank.setStream_mem, State.myBank_modMyBank]
    rfl

/-- A post that no abort has come before: its entry waits in the table, its stream goes on. -/
theorem posting_waits (hseg : (u.ctx u.myBank.ctxNum).nseg = 0) (hnone : ∀ m ∈ u.esc.aborted, m.id ≠ nextMatch u u.myBank.ctxNum d)
    (w : BitVec 3) (f : Fleet) :
    let t := posting w d u.cur.bank (awake u f)
    t.esc = { u.esc with table := u.esc.table ++ [unitEntry u f d] } ∧ t.me = advanced u.me u.cycle w ∧ t.myBank.mem.seq = u.myBank.mem.seq + 1 ∧
      t.myBank.mem.command = none ∧ (∀ i, t.byteAt i = u.byteAt i) ∧ t.host = u.host ∧ t.time = u.time := by
  have hfind : u.esc.aborted.find? (fun (m : AbortMsg) => m.id == nextMatch u u.myBank.ctxNum d) = none :=
    List.find?_eq_none.mpr fun m hm => by simpa using hnone m hm
  have hkeep : u.esc.aborted.filter (·.id != (unitEntry u f d).id) = u.esc.aborted :=
    List.filter_eq_self.mpr fun m hm => by
      have hne : m.id ≠ (unitEntry u f d).id := hnone m hm
      simpa using hne
  dsimp only
  rw [posting_eq hseg, hfind]
  obtain ⟨hesc, hme, hmem, hsame⟩ := bumpRetired (tabled (postFrom u f) u.myBank.ctxNum d (unitEntry u f d)) w
  obtain ⟨hcells, hhost, htime⟩ := hsame
  have hbank : (tabled (postFrom u f) u.myBank.ctxNum d (unitEntry u f d)).myBank.mem = (commandTaken u.myBank).mem :=
    congrArg Bank.mem (postFrom_myBank u f)
  rw [hbank] at hmem
  refine ⟨hesc.trans ?_, hme.trans ?_, congrArg BankMem.seq hmem, congrArg BankMem.command hmem, fun i => congrArg (Cells.get · i) hcells, hhost, htime⟩
  · exact congrArg (fun l => { u.esc with table := u.esc.table ++ [unitEntry u f d], aborted := l }) hkeep
  · exact congrArg (fun x => advanced x u.cycle w) (postFrom_me u f)

theorem tabled_eqcount (s : State) (ctx : Nat) (d : List Byte) (e : CollEntry) (n : Nat) : ((tabled s ctx d e).ctx n).eqcount = (s.ctx n).eqcount := by
  show ((s.modCtx ctx (fun c => { c with
    matched := (cGroup d, cPeers d, e.id.k) :: c.matched.filter (fun m => !(m.1 == cGroup d && m.2.1 == cPeers d)) })).ctx n).eqcount = _
  rw [State.ctx_modCtx]
  split
  · next h => rw [h]
  · rfl

/-- A post of a match whose abort has come: it has ended. -/
theorem posting_aborts {m : AbortMsg} (hseg : (u.ctx u.myBank.ctxNum).nseg = 0) (hm : m ∈ u.esc.aborted)
    (hid : m.id = nextMatch u u.myBank.ctxNum d) (hone : ∀ y ∈ u.esc.aborted, y.id = nextMatch u u.myBank.ctxNum d → y = m)
    (w : BitVec 3) (f : Fleet) :
    let t := posting w d u.cur.bank (awake u f)
    Aborted u t (unitEntry u f d) m.reason ∧ t.esc.aborted = u.esc.aborted.filter (·.id != nextMatch u u.myBank.ctxNum d) ∧
      t.me = advanced u.me u.cycle w := by
  have hfind : u.esc.aborted.find? (fun (m : AbortMsg) => m.id == nextMatch u u.myBank.ctxNum d) = some m := by
    cases hf : u.esc.aborted.find? (fun (m : AbortMsg) => m.id == nextMatch u u.myBank.ctxNum d) with
    | none => exact absurd hid (by simpa using List.find?_eq_none.mp hf m hm)
    | some y =>
      have hy := List.find?_some hf
      exact congrArg some (hone y (List.mem_of_find?_eq_some hf) (by simpa using hy))
  dsimp only
  rw [posting_eq hseg, hfind]
  dsimp only
  have heq := tabled_eqcount (postFrom u f) u.myBank.ctxNum d (unitEntry u f d) u.myBank.ctxNum
  have habort := abortEntry_leaves (s := tabled (postFrom u f) u.myBank.ctxNum d (unitEntry u f d)) (e := unitEntry u f d) (why := m.reason)
    (gen := ((tabled (postFrom u f) u.myBank.ctxNum d (unitEntry u f d)).ctx u.myBank.ctxNum).gen.toNat) rfl
  generalize abortEntry (tabled (postFrom u f) u.myBank.ctxNum d (unitEntry u f d)) (unitEntry u f d) m.reason _ = z at habort ⊢
  obtain ⟨⟨hentry, hcount, hsem⟩, hab, -, hcur, hcycle, hme⟩ := habort
  refine ⟨⟨hentry, hcount.trans (congrArg (· + 1) heq), hsem⟩, hab, ?_⟩
  rw [(bumpRetired z w).2.1, hme, hcycle]
  exact congrArg (fun x => advanced x u.cycle w) (postFrom_me u f)

end

/-- Settles O32: the command is asked for, checked by its group's table, and posted as an entry that waits or is aborted at once. -/
theorem collectiveWordPosts : Obligations.CollectiveWordPosts := by
  intro w a pa s
  dsimp only
  intro ha
  refine ⟨postc_misaligned ha, fun hz h => postc_waits ha hz (h.imp_right (commandAsked_iff _).mpr), fun hz hfull hnone hasked hreach hpoison => ?_,
    fun q d hz hfull hasked hcommand hkept hnobody hclean => ⟨fun hok hA hfree => ?_, fun hok hseg hnone => ?_,
      fun m hok hseg hm hid hone => ?_⟩⟩
  · have hidle : (issueState s).myBank.mem.commandAsked = false :=
      Bool.eq_false_iff.mpr fun h => by obtain ⟨r, hr, hd⟩ := (commandAsked_iff _).mp h; exact hasked r hr hd
    exact postc_asks ha hz hfull hidle hnone hreach hpoison
  all_goals
    have hidle : (issueState s).myBank.mem.commandAsked = false :=
      Bool.eq_false_iff.mpr fun h => by obtain ⟨r, hr, hd⟩ := (commandAsked_iff _).mp h; exact hasked r hr hd
  · obtain ⟨f, hexec⟩ := postc_invalid ha hz hfull hidle hcommand hkept hnobody hclean hok
    obtain ⟨honly, hcause, hbank⟩ := takeTrap_enters (u := awake (issueState s) f) hfree (issueState s).cur.engine
      (mkTrap .accessViolation ((issueState s).me.get a)) (issueState s).me.pc
    generalize takeTrap (awake (issueState s) f) (issueState s).cur.bank (issueState s).cur.engine
      (mkTrap .accessViolation ((issueState s).me.get a)) (issueState s).me.pc = t at *
    have hcur : t.cur = (issueState s).cur := onlyBank_cur (u := awake (issueState s) f) honly
    have hesc : t.esc = (issueState s).esc := by
      obtain ⟨-, -, -, -, -, -, -, -, hesc, -⟩ := honly
      exact hesc
    have hmine : t.myBank = t.bank (issueState s).cur.bank := congrArg (fun (c : Current) => t.bank c.bank) hcur
    refine ⟨_, hexec, hesc, ?_, ?_, ?_, ?_, ?_, fun i => (onlyBank_byteAt (u := awake (issueState s) f) honly i).trans (issueState_byteAt s i)⟩
    · rw [hmine, hbank]
    · rw [hmine, hbank]
      rfl
    · rw [hmine, hcause, hA]
      exact (by decide : (2 ^ 63 + (0#16).toNat * 2 ^ 20 + engineNum .A * 2 ^ 16 + (0#8).toNat * 2 ^ 8 + Cause.accessViolation.code) % 2 ^ 16 =
        Cause.accessViolation.code)
    · rw [State.me_eq, hcur, hmine, hbank, hA]
      rfl
    · rw [hmine, hbank]
      rfl
  · obtain ⟨f, hexec⟩ := postc_posts ha hz hfull hidle hcommand hkept hnobody hclean hok
    obtain ⟨hesc, hme, hseq, hcmd, hbytes, hhost, htime⟩ := posting_waits (d := d) hseg hnone w f
    refine ⟨_, unitEntry (issueState s) f d, hexec, hesc, unitEntry_id _ f d, rfl, rfl, rfl, rfl, rfl, rfl, rfl, rfl, rfl,
      unitEntry_since _ f d, hme, hseq, hcmd, fun i => ?_, hhost, htime⟩
    exact (hbytes i).trans (issueState_byteAt s i)
  · obtain ⟨f, hexec⟩ := postc_posts ha hz hfull hidle hcommand hkept hnobody hclean hok
    obtain ⟨habort, hkeep, hme⟩ := posting_aborts (d := d) hseg hm hid hone w f
    exact ⟨_, unitEntry (issueState s) f d, hexec, unitEntry_id _ f d, rfl, habort, hkeep, hme⟩

end Sys2Proof.KernelMachine

namespace Sys2Proof.KernelMachine

open Sys2Proof Sys2Proof.Machine Sys2Proof.Claims

/-! ### A channel's error (05 R143): what it leaves of its bank, and that no fault's being pending depends on it -/

/-- The banks stand, and the faults that are pending. -/
structure FaultsStand (s t : State) : Prop where
  faults : t.host.faults = s.host.faults
  bank : ∀ p, t.bank p = s.bank p

theorem FaultsStand.of_unitsStand {s t : State} (h : UnitsStand s t) : FaultsStand s t := ⟨by rw [h.1], h.2⟩

theorem FaultsStand.trans {s t u : State} (h : FaultsStand s t) (h' : FaultsStand t u) : FaultsStand s u :=
  ⟨h'.faults.trans h.faults, fun p => (h'.bank p).trans (h.bank p)⟩

theorem FaultsStand.errorRecord {s t : State} (h : FaultsStand s t) (n : Nat) (d : List Byte) : FaultsStand s (t.errorRecord n d) :=
  h.trans (.of_unitsStand (unitsStand_errorRecord t n d))

theorem faultsStand_atJob (s : State) (ctx : Nat) (mk : Nat → List Byte) (l : Launch) : FaultsStand s (asyncReport.atJob ctx mk s l) := by
  unfold asyncReport.atJob
  split
  · refine FaultsStand.errorRecord ?_ _ _
    exact ⟨rfl, fun _ => rfl⟩
  · exact ⟨rfl, fun _ => rfl⟩

theorem faultsStand_atStage (s : State) (ctx : Nat) (mk : Nat → List Byte) (l : Launch) : FaultsStand s (asyncReport.atStage ctx mk s l) := by
  unfold asyncReport.atStage
  split
  · split
    · exact faultsStand_atJob s ctx mk l
    · refine FaultsStand.errorRecord ?_ _ _
      exact ⟨rfl, fun _ => rfl⟩
  · exact faultsStand_atJob s ctx mk l

theorem faultsStand_asyncReport (s : State) (ctx launch : Nat) (mk : Nat → List Byte) : FaultsStand s (asyncReport s ctx launch mk) := by
  have hrec : FaultsStand s (s.errorRecord ctx (mk 0)) := .of_unitsStand (unitsStand_errorRecord s ctx _)
  unfold asyncReport
  dsimp only
  split
  · exact hrec
  · split
    · refine FaultsStand.errorRecord (hrec.trans ?_) _ _
      exact ⟨rfl, fun _ => rfl⟩
    · split
      · split
        · exact hrec.trans (faultsStand_atStage _ _ _ _)
        · refine FaultsStand.errorRecord (hrec.trans ?_) _ _
          exact ⟨rfl, fun _ => rfl⟩
      · exact hrec.trans (faultsStand_atStage _ _ _ _)

/-- A channel after checks: it has what it had, its waiting records with verdicts. -/
def Checked (x y : Channel) : Prop := y = { x with ready := y.ready } ∧ y.ready.map (·.id) = x.ready.map (·.id)

theorem Checked.refl (x : Channel) : Checked x x := ⟨rfl, rfl⟩

theorem Checked.trans {x y z : Channel} (h : Checked x y) (h' : Checked y z) : Checked x z := by
  obtain ⟨hy, hyi⟩ := h
  obtain ⟨hz, hzi⟩ := h'
  refine ⟨?_, hzi.trans hyi⟩
  rw [hz, hy]

theorem chan_setChan (k : Bank) (i j : Nat) (x : Channel) : (k.setChan i x).chan j = if i = j ∧ i < 4 then x else k.chan j := by
  unfold Bank.setChan Bank.chan Vector.getD
  by_cases hj : j < 4
  · by_cases hij : i = j
    · subst hij; simp [hj]
    · simp [hij]
  · have : ¬ (i = j ∧ i < 4) := fun ⟨h, h'⟩ => hj (h ▸ h')
    simp [hj, this]

theorem checkAll_chan (f : Nat) (k : Bank) (j : Nat) : Checked (k.chan j) ((checkAll f k).chan j) := by
  induction f generalizing k with
  | zero => exact .refl _
  | succ f ih =>
    unfold checkAll
    split
    · exact .refl _
    · next ch r _ =>
      refine Checked.trans ?_ (ih _)
      dsimp only
      show Checked (k.chan j) ((k.setChan ch _).chan j)
      rw [chan_setChan]
      split
      · next h =>
        obtain ⟨rfl, -⟩ := h
        refine ⟨rfl, ?_⟩
        rw [List.map_map]
        exact List.map_congr_left fun x _ => by dsimp only [Function.comp]; split <;> rfl
      · exact .refl _

theorem checkRecords_chan (s : State) (b : BankId) (j : Nat) : Checked ((s.bank b).chan j) (((checkRecords s b).bank b).chan j) := by
  unfold checkRecords
  split
  · rw [State.bank_modBank_same]
    exact checkAll_chan _ _ j
  · exact .refl _

theorem checkRecords_rest (s : State) (b : BankId) : (checkRecords s b).host = s.host ∧ OtherBanks s (checkRecords s b) [b] := by
  unfold checkRecords
  split
  · exact ⟨rfl, otherBanks_modBank (List.mem_singleton_self b) _⟩
  · exact ⟨rfl, fun _ _ => rfl⟩

/-- What a change of one bank leaves: the pending faults, the other banks. -/
structure OneBank (b : BankId) (s t : State) : Prop where
  faults : t.host.faults = s.host.faults
  others : OtherBanks s t [b]

theorem OneBank.trans {b : BankId} {s t u : State} (h : OneBank b s t) (h' : OneBank b t u) : OneBank b s u :=
  ⟨h'.faults.trans h.faults, otherBanks_trans h.others h'.others⟩

theorem OneBank.of_stand {b : BankId} {s t : State} (h : FaultsStand s t) : OneBank b s t := ⟨h.faults, fun p _ => h.bank p⟩

theorem oneBank_modBank (b : BankId) (s : State) (f : Bank → Bank) : OneBank b s (s.modBank b f) :=
  ⟨rfl, otherBanks_modBank (List.mem_singleton_self b) f⟩

/-- The channel's error state as it is entered, before its bank's records are checked. -/
def inError (s : State) (b : BankId) (c : Nat) (f : Failure) : State :=
  (unasked s (walkerOf b c)).modBank b (fun k => { k.setChan c { k.chan c with heads := [], fail := some f } with
    badWalks := k.badWalks.filter (·.2 != .chan b c) })

theorem failChannel_eq (s : State) (b : BankId) (c : Nat) (f : Failure) :
    OneBank b s (checkRecords (inError s b c f) b) ∧ FaultsStand (checkRecords (inError s b c f) b) (failChannel s b c f) := by
  have hin : OneBank b s (inError s b c f) :=
    (OneBank.of_stand (.of_unitsStand (unitsStand_unasked s (walkerOf b c)))).trans (oneBank_modBank b _ _)
  obtain ⟨hhost, hothers⟩ := checkRecords_rest (inError s b c f) b
  refine ⟨hin.trans ⟨by rw [hhost], hothers⟩, ?_⟩
  unfold failChannel
  rw [← inError]
  dsimp only
  split
  · exact faultsStand_asyncReport _ _ _ _
  · exact ⟨rfl, fun _ => rfl⟩

theorem oneBank_failChannel (s : State) (b : BankId) (c : Nat) (f : Failure) : OneBank b s (failChannel s b c f) := by
  obtain ⟨hone, hstand⟩ := failChannel_eq s b c f
  exact hone.trans (.of_stand hstand)

/-- A failed channel has no chains left, and its failure. -/
theorem failChannel_fails (s : State) (b : BankId) {c : Nat} (hc : c < 4) (f : Failure) :
    Checked { (s.bank b).chan c with heads := [], fail := some f } (((failChannel s b c f).bank b).chan c) := by
  have hin : ((inError s b c f).bank b).chan c = { (s.bank b).chan c with heads := [], fail := some f } := by
    rw [inError, State.bank_modBank_same, (unitsStand_unasked s (walkerOf b c)).2]
    exact (chan_setChan _ _ _ _).trans (if_pos ⟨rfl, hc⟩)
  rw [(failChannel_eq s b c f).2.bank, ← hin]
  exact checkRecords_chan _ b c

/-- The channel without the record that fails and those accepted after it. -/
def recordsDropped (s : State) (b : BankId) (c : Nat) (r : Accepted) : State :=
  let later := ((s.bank b).chan c).ready.filter (·.id != r.id)
  (dropRecords (unasked s (.record b c)) (s.bank b).ctxNum (r :: later)).modBank b (fun k =>
    (k.markFailed c (r :: later)).setChan c { (s.bank b).chan c with ready := [], running := none })

theorem failRecord_eq (s : State) (b : BankId) (c : Nat) (r : Accepted) (f : Failure) :
    failRecord s b c r f = failChannel (recordsDropped s b c r) b c f := by
  have hbank := (unitsStand_unasked s (.record b c)).2 b
  unfold failRecord recordsDropped
  simp only [hbank]

theorem oneBank_failRecord (s : State) (b : BankId) (c : Nat) (r : Accepted) (f : Failure) : OneBank b s (failRecord s b c r f) := by
  rw [failRecord_eq]
  have hdrop := (unitsStand_unasked s (.record b c)).trans (unitsStand_dropRecords _ (s.bank b).ctxNum (r :: ((s.bank b).chan c).ready.filter (·.id != r.id)))
  exact ((OneBank.of_stand (.of_unitsStand hdrop)).trans (oneBank_modBank b _ _)).trans (oneBank_failChannel _ b c f)

/-- With a record that fails, those accepted after it go too. -/
theorem failRecord_fails (s : State) (b : BankId) {c : Nat} (hc : c < 4) (r : Accepted) (f : Failure) :
    Checked { (s.bank b).chan c with heads := [], ready := [], running := none, fail := some f } (((failRecord s b c r f).bank b).chan c) := by
  have hdropped : ((recordsDropped s b c r).bank b).chan c = { (s.bank b).chan c with ready := [], running := none } := by
    rw [recordsDropped, State.bank_modBank_same]
    exact (chan_setChan _ _ _ _).trans (if_pos ⟨rfl, hc⟩)
  have hcheck := failChannel_fails (recordsDropped s b c r) b hc f
  rw [hdropped] at hcheck
  rw [failRecord_eq]
  exact hcheck

/-! ### Sources of an answered fault (21 R349) -/

section
variable {b : BankId} {u : State} {id : Nat} {va : W64} {n : Nat}

/-- A bank whose faults stand as they are goes on where none of A's is unanswered. -/
theorem answered_bank (b : BankId) (u : State) : (answered u b).bank b = goesOn u b (u.bank b) (u.bank b).faults := by
  unfold answered goesOn
  dsimp only
  split
  · next h => rw [if_pos (aStopped_iff.mp h)]
  · next h =>
    rw [if_neg (fun hx => h (aStopped_iff.mpr hx)), State.bank_modBank_same]
    have hhere : (!((u.core b.core).active == b.slot && (u.core b.core).switching.isNone)) =
        decide ¬((u.core b.core).active = b.slot ∧ (u.core b.core).switching = none) := by
      rw [Bool.eq_iff_iff]
      cases (u.core b.core).switching <;> simp
    have hphase : ((u.bank b).phase != .preempted) = decide ((u.bank b).phase ≠ .preempted) := by
      rw [Bool.eq_iff_iff]
      simp
    rw [hhere, hphase]

theorem answered_rest (b : BankId) (u : State) : OneBank b u (answered u b) ∧ (answered u b).mem = u.mem := by
  unfold answered
  split
  · exact ⟨⟨rfl, fun _ _ => rfl⟩, rfl⟩
  · exact ⟨oneBank_modBank b u _, rfl⟩

/-- A bank changed by an answer, which then goes on. -/
theorem answered_after (b : BankId) (u : State) (f : Bank → Bank) : OtherBanks u (answered (u.modBank b f) b) [b] ∧
    (answered (u.modBank b f) b).mem = u.mem ∧ (answered (u.modBank b f) b).bank b = goesOn u b (f (u.bank b)) (f (u.bank b)).faults := by
  obtain ⟨hone, hmem⟩ := answered_rest b (u.modBank b f)
  refine ⟨otherBanks_trans (otherBanks_modBank (List.mem_singleton_self b) f) hone.others, hmem, ?_⟩
  rw [answered_bank, State.bank_modBank_same]
  have hcore : ((u.modBank b f).core b.core).active = (u.core b.core).active ∧ ((u.modBank b f).core b.core).switching = (u.core b.core).switching := by
    rw [State.core_modBank, if_pos rfl]
    cases b.slot <;> exact ⟨rfl, rfl⟩
  unfold goesOn
  rw [hcore.1, hcore.2]

/-- An answer of A's own. -/
theorem answer_aStream (ok : Bool) : (if ok then retrySource u id (.aStream b) else refuseSource u id va (.aStream b)) =
    answered (u.modBank b (fun k => { k with faults := leftFaults k id ok })) b := by
  cases ok <;> rfl

/-- An answer of a stream's, a fill's or a drain's. -/
theorem answer_stream (ok : Bool) {x : Source} (hx : x = .dstream b n ∨ x = .fill b n ∨ x = .drain b n) :
    (if ok then retrySource u id x else refuseSource u id va x) = answered (u.modBank b (fun k =>
      { (if ok then k else refusedStream k n va) with faults := leftFaults k id ok })) b := by
  cases ok
  · have hrefuse : refuseSource u id va x = answered (markRefused (streamFault u b n (mkTrap .translationRefused va)) b id) b := by
      rcases hx with rfl | rfl | rfl <;> rfl
    rw [if_neg Bool.false_ne_true, hrefuse, markRefused, streamFault, modBank_modBank]
    rfl
  · rcases hx with rfl | rfl | rfl <;> rfl

theorem answer_dispatch (ok : Bool) : (if ok then retrySource u id (.dispatch b) else refuseSource u id va (.dispatch b)) =
    u.modBank b (fun k => { k with faults := leftFaults k id ok }) := by
  cases ok <;> rfl

/-! A channel -/

theorem Bank.chan_setChan_at {c : Nat} (hc : c < 4) (k : Bank) (x : Channel) : (k.setChan c x).chan c = x := (chan_setChan _ _ _ _).trans (if_pos ⟨rfl, hc⟩)

theorem retry_chan {c : Nat} (hc : c < 4) (hf : ((u.bank b).chan c).fault = some id) :
    OtherBanks u (retrySource u id (.chan b c)) [b] ∧
      ((retrySource u id (.chan b c)).bank b).chan c = { (u.bank b).chan c with fault := none } := by
  refine ⟨otherBanks_modBank (List.mem_singleton_self b) _, ?_⟩
  unfold retrySource
  rw [State.bank_modBank_same, if_pos hf]
  exact Bank.chan_setChan_at hc _ _

/-- A change of a channel alone. -/
def modChan (u : State) (b : BankId) (c : Nat) (f : Channel → Channel) : State := u.modBank b (fun k => k.setChan c (f (k.chan c)))

theorem modChan_chan {c : Nat} (hc : c < 4) (f : Channel → Channel) : ((modChan u b c f).bank b).chan c = f ((u.bank b).chan c) := by
  rw [modChan, State.bank_modBank_same]
  exact Bank.chan_setChan_at hc _ _

/-- The verdict of a refusal. -/
abbrev refusal (va : W64) : Failure := ⟨mkTrap .translationRefused va, false⟩

/-- A refused walk, or the refused first access of a record that runs, fails the channel. -/
theorem refuseChannel_eq {c : Nat} (hc : c < 4)
    (h : ((u.bank b).chan c).running = none ∨ ∃ r, ((u.bank b).chan c).running = some r ∧ r.out = [] ∧ ((u.bank b).chan c).heads = []) :
    refuseChannel u b c va = match ((u.bank b).chan c).running with
      | none => failChannel (modChan (modChan u b c (fun x => { x with fault := none })) b c
          (fun x => { x with nextId := ((u.bank b).chan c).nextId + 1 })) b c (refusal va)
      | some r => failRecord (modChan u b c (fun x => { x with fault := none })) b c r (refusal va) := by
  unfold refuseChannel
  have hchan := modChan_chan (u := u) (b := b) hc (fun x => { x with fault := none })
  rw [modChan] at hchan
  dsimp only
  rw [hchan]
  rcases h with hnone | ⟨r, hrun, hout, hheads⟩
  · simp only [hnone]
    rfl
  · simp only [hrun, hheads, hout, Bool.false_and, Bool.false_eq_true, if_false, List.isEmpty_nil, if_true]
    rfl

theorem refuse_chan {c : Nat} (hc : c < 4) (hf : ((u.bank b).chan c).fault = some id)
    (h : ((u.bank b).chan c).running = none ∨ ∃ r, ((u.bank b).chan c).running = some r ∧ r.out = [] ∧ ((u.bank b).chan c).heads = []) :
    let y := (u.bank b).chan c
    let z := ((refuseSource u id va (.chan b c)).bank b).chan c
    z.fault = none ∧ z.heads = [] ∧ z.running = none ∧ z.fail = some (refusal va) ∧
      (y.running = none → z.nextId = y.nextId + 1) ∧ (y.running ≠ none → z.ready = []) := by
  have hrefuse : refuseSource u id va (.chan b c) = refuseChannel u b c va := if_pos hf
  dsimp only
  rw [hrefuse, refuseChannel_eq hc h]
  cases hrun : ((u.bank b).chan c).running with
  | none =>
    obtain ⟨hz, -⟩ := failChannel_fails (modChan (modChan u b c (fun x => { x with fault := none })) b c
      (fun x => { x with nextId := ((u.bank b).chan c).nextId + 1 })) b hc (refusal va)
    rw [modChan_chan hc, modChan_chan hc] at hz
    rw [hz]
    exact ⟨rfl, rfl, hrun, rfl, fun _ => rfl, fun hne => absurd rfl hne⟩
  | some r =>
    obtain ⟨hz, hready⟩ := failRecord_fails (modChan u b c (fun x => { x with fault := none })) b hc r (refusal va)
    rw [modChan_chan hc] at hz
    have hempty : (((failRecord (modChan u b c (fun x => { x with fault := none })) b c r (refusal va)).bank b).chan c).ready = [] :=
      List.map_eq_nil_iff.mp hready
    rw [hempty] at hz
    rw [hz]
    exact ⟨rfl, rfl, rfl, rfl, fun hne => absurd hne (by simp), fun _ => rfl⟩

theorem oneBank_modChan (b : BankId) (c : Nat) (f : Channel → Channel) : OneBank b u (modChan u b c f) := oneBank_modBank b u _

/-- A refused channel fault leaves the other banks and the pending faults, whatever becomes of the channel. -/
theorem oneBank_refuseChannel (c : Nat) : OneBank b u (refuseChannel u b c va) := by
  unfold refuseChannel
  extract_lets f v x walk
  have hone : OneBank b u v := oneBank_modBank b u _
  split
  · split
    · exact (hone.trans (oneBank_modBank b v _)).trans (oneBank_failChannel _ b c f)
    · split
      · exact hone.trans (oneBank_failRecord v b c _ f)
      · exact hone.trans (oneBank_modBank b v _)
  · exact (hone.trans (oneBank_modBank b v _)).trans (oneBank_failChannel _ b c f)

end

end Sys2Proof.KernelMachine

namespace Sys2Proof.KernelMachine

open Sys2Proof Sys2Proof.Machine Sys2Proof.Claims

/-! ### The faults that are pending do not depend on what a source does with its answer -/

theorem packetDone_faults (s : State) (q p : Nat) : (packetDone s q p).host.faults = s.host.faults := by
  unfold packetDone
  dsimp only
  split <;> rfl

theorem stageItem_faults (s : State) (n : Option Nat) : (stageItem s n).host.faults = s.host.faults := by
  unfold stageItem
  split <;> rfl

theorem runDone_faults (s : State) (n : Nat) (r : GraphRun) : (runDone s n r).host.faults = s.host.faults := by
  have hwritten : ∀ u va d i j, (addSsem (vaWrite u r.ctx va d) r.ctx i j).host.faults = u.host.faults := fun u va d i j => by
    rw [(addSsem_spec _ _ _ _).2.1, (unitsStand_vaWrite _ _ _ _).1]
  unfold runDone State.fresh
  dsimp only
  split
  · rw [packetDone_faults, stageItem_faults]
    exact hwritten _ _ _ _ _
  · rw [stageItem_faults]
    exact hwritten _ _ _ _ _

theorem nodeDone_faults (s : State) (r n : Nat) (first : Option Cause) : (nodeDone s r n first).host.faults = s.host.faults := by
  unfold nodeDone
  split
  · rfl
  · split
    · rfl
    · extract_lets x
      split
      · exact runDone_faults s r x
      · rfl

theorem freeEntry_faults (s : State) (e : CollEntry) (first : Option Cause) : (freeEntry s e first).host.faults = s.host.faults := by
  have hbusy := congrArg HostState.faults (homesOnly_busyBy s e.id.ctx (-1) e.segs).host
  have hun := congrArg HostState.faults (untabled_parts (busyBy s e.id.ctx (-1) e.segs) e).1.host
  unfold freeEntry
  dsimp only
  rw [← untabled]
  split
  · rw [packetDone_faults, hun, ← hbusy]
  · rw [nodeDone_faults, hun, ← hbusy]
  · rw [hun, ← hbusy]

theorem abortEntry_faults (s : State) (e : CollEntry) (why : BitVec 8) (gen : Nat) : (abortEntry s e why gen).host.faults = s.host.faults := by
  have hleave := congrArg HostState.faults (homesOnly_leaveParts s e).host
  have hflag := congrArg (fun (u : State) => u.host.faults) (flagged_parts (leaveParts s e) e why).1
  unfold abortEntry
  dsimp only
  rw [← flagged]
  refine (congrArg HostState.faults (homesOnly_errorRecord _ _ _).host).trans ?_
  exact (freeEntry_faults _ e _).trans (hflag.trans hleave)

theorem sendAbort_faults (s : State) (p : CollId) (why : BitVec 8) : (sendAbort s p why).host.faults = s.host.faults := by
  unfold sendAbort
  split
  · exact abortEntry_faults _ _ _ _
  · rfl

theorem retrySource_faults (s : State) (id : Nat) (x : Source) : (retrySource s id x).host.faults = s.host.faults := by
  cases x
  case aStream | dstream | fill | drain => exact (answered_rest _ _).1.faults
  case queue =>
    unfold retrySource
    dsimp only
    split <;> rfl
  case chan | coll | dispatch | node => rfl

theorem refuseSource_faults (s : State) (id : Nat) (va : W64) (x : Source) : (refuseSource s id va x).host.faults = s.host.faults := by
  cases x
  case aStream | dstream | fill | drain => exact (answered_rest _ _).1.faults
  case chan b c =>
    unfold refuseSource
    dsimp only
    split
    · exact (oneBank_refuseChannel c).faults
    · rfl
  case coll p => exact sendAbort_faults s p _
  case queue =>
    unfold refuseSource
    dsimp only
    split <;> rfl
  case dispatch | node => rfl

/-- The fault no longer pending. -/
def unpended (s : State) (f : PendingFault) : State := { s with host := { s.host with faults := s.host.faults.filter (fun g => g.id != f.id) } }

theorem answerFault_faults (s : State) (f : PendingFault) (ok : Bool) (g : PendingFault) (hg : g ∈ (answerFault s f ok).host.faults) : g.id ≠ f.id := by
  have hfold : ∀ (l : List (Source × W64)) (u : State), (l.foldl (fun s x => if ok then retrySource s f.id x.1 else refuseSource s f.id x.2 x.1) u).host.faults =
      u.host.faults := by
    intro l
    induction l with
    | nil => exact fun _ => rfl
    | cons x l ih =>
      intro u
      refine (ih _).trans ?_
      cases ok
      · exact refuseSource_faults u f.id x.2 x.1
      · exact retrySource_faults u f.id x.1
  rw [answerFault, hfold] at hg
  simpa using (List.mem_filter.mp hg).2

/-! ### Banks of a coalesced group (21 R349) -/

/-- A retry takes the fault from its bank's and from no other's. -/
theorem retrySource_leaves (s : State) (id : Nat) {x : Source} {b : BankId} (hA : x.ofA = true) (hb : x.bank = some b) (p : BankId) :
    ((retrySource s id x).bank p).faults = if p = b then leftFaults (s.bank p) id true else (s.bank p).faults := by
  have hretry : retrySource s id x = answered (s.modBank b (fun k => { k with faults := leftFaults k id true })) b := by
    cases x
    case aStream | dstream | fill | drain =>
      obtain rfl := Option.some.inj hb
      rfl
    case chan | dispatch | coll | queue | node => exact absurd hA (by simp [Source.ofA])
  obtain ⟨hothers, -, hbank⟩ := answered_after b s (fun k => { k with faults := leftFaults k id true })
  rw [hretry]
  split
  · next h =>
    subst h
    rw [hbank]
    unfold goesOn
    dsimp only
    split <;> rfl
  · next h => rw [hothers p (by simpa using h)]

/-- A list of faults without those that a retry answers. -/
def retried (id : Nat) (l : List BankFault) : List BankFault := l.filter (fun f => f.id != id || f.refused)

theorem retried_retried (id : Nat) (l : List BankFault) : retried id (retried id l) = retried id l := by
  unfold retried
  rw [List.filter_filter]
  exact List.filter_congr fun _ _ => Bool.and_self _

theorem retries_leave (id : Nat) (l : List (Source × W64)) (hA : ∀ x ∈ l, x.1.ofA = true) (s : State) (p : BankId) :
    ((l.foldl (fun s x => retrySource s id x.1) s).bank p).faults =
      if ∃ x ∈ l, x.1.bank = some p then leftFaults (s.bank p) id true else (s.bank p).faults := by
  induction l generalizing s with
  | nil => simp
  | cons x l ih =>
    obtain ⟨b, hb⟩ : ∃ b, x.1.bank = some b := by
      have := hA x List.mem_cons_self
      cases hx : x.1 <;> rw [hx] at this <;> first | exact ⟨_, rfl⟩ | exact absurd this (by simp [Source.ofA])
    have hstep : ((retrySource s id x.1).bank p).faults = if p = b then retried id (s.bank p).faults else (s.bank p).faults :=
      retrySource_leaves s id (hA x List.mem_cons_self) hb p
    have hcons : (∃ y ∈ x :: l, y.1.bank = some p) ↔ p = b ∨ ∃ y ∈ l, y.1.bank = some p := by
      rw [List.exists_mem_cons_iff, hb]
      simp only [Option.some.injEq, eq_comm]
    rw [List.foldl_cons, ih (fun y hy => hA y (List.mem_cons_of_mem _ hy))]
    show (if ∃ y ∈ l, y.1.bank = some p then retried id ((retrySource s id x.1).bank p).faults else ((retrySource s id x.1).bank p).faults) =
      if ∃ y ∈ x :: l, y.1.bank = some p then retried id (s.bank p).faults else (s.bank p).faults
    rw [hstep]
    by_cases hpb : p = b
    · rw [if_pos hpb, if_pos (hcons.mpr (.inl hpb)), retried_retried, ite_self]
    · rw [if_neg hpb]
      exact if_congr ⟨fun h => hcons.mpr (.inr h), fun h => (hcons.mp h).resolve_left hpb⟩ rfl rfl

/-! ### The sources that are no bank's -/

section
variable {u : State} {id : Nat} {va : W64}

theorem retry_coll {p : CollId} {e : CollEntry} (he : u.entry? p = some e) (hf : e.fault = some id) :
    (retrySource u id (.coll p)).entry? p = some { e with fault := none } := by
  have hstays : ∀ y : CollEntry, (if y.id = p then (if y.fault = some id then { y with fault := none } else y) else y).id = y.id := fun y => by
    split
    · split <;> rfl
    · rfl
  have hmap : (retrySource u id (.coll p)).entry? p = (u.entry? p).map (fun y => if y.id = p then (if y.fault = some id then { y with fault := none } else y) else y) := by
    show List.find? _ (List.map _ u.esc.table) = _
    rw [List.find?_map]
    refine congrArg (Option.map _) (congrArg (List.find? · u.esc.table) (funext fun y => ?_))
    exact congrArg (· == p) (hstays y)
  have hid : e.id = p := by simpa using List.find?_some he
  rw [hmap, he]
  simp only [Option.map_some, if_pos hid, if_pos hf]

theorem refuse_coll {p : CollId} {e : CollEntry} {l : Nat} (he : u.entry? p = some e) (ho : e.origin = .unit l) :
    Aborted u (refuseSource u id va (.coll p)) e 5 ∧ OutMsg.abort ⟨p, 5⟩ ∈ (refuseSource u id va (.coll p)).esc.out := by
  have hrefuse : refuseSource u id va (.coll p) = abortEntry (u.sendOut (.abort ⟨p, 5⟩)) e 5 (u.ctx p.ctx).gen.toNat := by
    show sendAbort u p 5 = _
    unfold sendAbort
    rw [he]
  obtain ⟨habort, -, hout, -⟩ := abortEntry_leaves (s := u.sendOut (.abort ⟨p, 5⟩)) (why := 5) (gen := (u.ctx p.ctx).gen.toNat) ho
  rw [hrefuse, hout]
  exact ⟨habort, List.mem_append_right _ (List.mem_singleton_self _)⟩

theorem answer_queue (ok : Bool) {q : Nat} (h : (u.queue q).hold = some (.fault id)) :
    let t := if ok then retrySource u id (.queue q) else refuseSource u id va (.queue q)
    t.queue q = { u.queue q with hold := none } ∧ t.host.badQueues = u.host.badQueues ++ (if ok then [] else [q]) := by
  cases ok
  · have hrefuse : refuseSource u id va (.queue q) = { u.setQueue q { u.queue q with hold := none } with
        host := { (u.setQueue q { u.queue q with hold := none }).host with badQueues := u.host.badQueues ++ [q] } } := if_pos h
    dsimp only
    rw [if_neg Bool.false_ne_true, hrefuse]
    exact ⟨(queue_setQueue u q q _).trans (if_pos rfl), rfl⟩
  · have hretry : retrySource u id (.queue q) = u.setQueue q { u.queue q with hold := none } := if_pos h
    dsimp only
    rw [if_pos rfl, hretry]
    exact ⟨(queue_setQueue u q q _).trans (if_pos rfl), (List.append_nil _).symm⟩

theorem modRun_kfind (r : Nat) (f : GraphRun → GraphRun) : kfind (u.modRun r f).host.runs r = (kfind u.host.runs r).map f := by
  show kfind (u.host.runs.map _) r = _
  induction u.host.runs with
  | nil => rfl
  | cons x l ih =>
    obtain ⟨j, g⟩ := x
    rw [List.map_cons]
    by_cases hj : j = r
    · simp only [hj, if_true, kfind, Option.map_some]
    · simp only [hj, if_false, kfind]
      split
      · rfl
      · exact ih

theorem answer_node (ok : Bool) {r n q : Nat} {g : GraphRun} (h : kfind u.host.runs r = some g) :
    kfind (if ok then retrySource u id (.node r n q) else refuseSource u id va (.node r n q)).host.runs r = some { g with
      faults := g.faults.filter (·.2 != id)
      refused := if ok = false ∧ (∃ y ∈ g.faults, y.2 = id) then n :: g.refused else g.refused } := by
  cases ok
  · have hrefuse : refuseSource u id va (.node r n q) = u.modRun r (fun x => if x.faults.any (·.2 == id) then
        { x with faults := x.faults.filter (·.2 != id), refused := n :: x.refused } else x) := rfl
    rw [if_neg Bool.false_ne_true, hrefuse, modRun_kfind, h, Option.map_some]
    by_cases hany : ∃ y ∈ g.faults, y.2 = id
    · have hany' : g.faults.any (·.2 == id) = true := by simpa using hany
      simp only [hany', hany, if_true, and_self]
    · have hany' : g.faults.any (·.2 == id) = false :=
        List.any_eq_false.mpr fun y hy => by simpa using fun he => hany ⟨y, hy, he⟩
      have hkeep : g.faults.filter (·.2 != id) = g.faults :=
        List.filter_eq_self.mpr fun y hy => by simpa using fun he => hany ⟨y, hy, he⟩
      simp only [hany', hany, Bool.false_eq_true, if_false, and_false, hkeep]
  · have hretry : retrySource u id (.node r n q) = u.modRun r (fun x => { x with faults := x.faults.filter (·.2 != id) }) := rfl
    rw [if_pos rfl, hretry, modRun_kfind, h, if_neg (fun hf => absurd hf.1 (by decide))]
    rfl

end

/-! ### FANSWER -/

section
variable {v : BitVec 64} {s : State}

theorem verdict_eq (v : BitVec 64) : (v.extractLsb' 62 2).toNat = v.toNat / 2 ^ 62 := by
  have hv := v.isLt
  rw [BitVec.extractLsb'_toNat, Nat.shiftRight_eq_div_pow]
  omega

theorem exec_fanswer (ok : Bool) : exec (if ok then .fanswerRetry v else .fanswerRefuse v) s = .next (fanswer s v ok) := by
  cases ok <;> rfl

theorem fanswer_other {ok : Bool} (h : v.toNat / 2 ^ 62 ≠ if ok then 1 else 2) : fanswer s v ok = s := by
  unfold fanswer
  rw [verdict_eq, if_pos h]

theorem fanswer_late {ok : Bool} (h : v.toNat / 2 ^ 62 = if ok then 1 else 2)
    (hnone : ∀ f ∈ s.host.faults, f.id ≠ v.toNat % 2 ^ 32 ∨ (s.ctx f.ctx).gen.toNat ≠ v.toNat / 2 ^ 32 % 2 ^ 16) :
    fanswer s v ok = { s with host := { s.host with lateans := s.host.lateans + 1 } } := by
  have hfault : faultOf s v = none := by
    refine List.find?_eq_none.mpr fun f hf => ?_
    rcases hnone f hf with hid | hgen
    · have hne : f.id ≠ (v.extractLsb' 0 32).toNat := by rwa [BitVec.extractLsb'_toNat, Nat.shiftRight_zero]
      simp only [beq_eq_false_iff_ne.mpr hne, Bool.false_and, Bool.false_eq_true, not_false_eq_true]
    · have hne : (s.ctx f.ctx).gen ≠ v.extractLsb' 32 16 := fun he => hgen (by
        rw [he, BitVec.extractLsb'_toNat, Nat.shiftRight_eq_div_pow])
      simp [hne]
  unfold fanswer
  rw [verdict_eq, if_neg (not_not.mpr h), hfault]

theorem fanswer_answers {ok : Bool} {f : PendingFault} (h : v.toNat / 2 ^ 62 = if ok then 1 else 2) (hf : faultOf s v = some f) :
    fanswer s v ok = answerFault s f ok := by
  unfold fanswer
  rw [verdict_eq, if_neg (not_not.mpr h), hf]

theorem answerFault_one {ok : Bool} {f : PendingFault} {x : Source} {va : W64} (hx : f.srcs = [(x, va)]) :
    answerFault s f ok = if ok then retrySource (unpended s f) f.id x else refuseSource (unpended s f) f.id va x := by
  unfold answerFault
  rw [hx]
  rfl

end

/-- Settles O41: by the kind of the fault's source; of a coalesced group the banks' faults go one by one. -/
theorem faultsAreAnswered : Obligations.FaultsAreAnswered := by
  intro v ok s
  dsimp only
  refine ⟨fun h => ?_, fun h => ⟨fun hnone => ?_, fun f hf => ⟨answerFault s f ok, ?_, answerFault_faults s f ok, fun hok hA x hx b hb => ?_,
    fun x va hx => ?_⟩⟩⟩
  · rw [exec_fanswer, fanswer_other h]
  · rw [exec_fanswer, fanswer_late h hnone]
  · rw [exec_fanswer, fanswer_answers h hf]
  · subst hok
    exact (retries_leave f.id f.srcs hA (unpended s f) b).trans (if_pos ⟨x, hx, hb⟩)
  rw [answerFault_one hx]
  refine ⟨fun b hxb => ?_, fun b n hn hxb => ?_, fun b c hc hxb hfault => ?_, fun b hxb => ?_, fun p e l hxp he ho => ?_, fun q hxq hhold => ?_,
    fun r n q g hxr hg => ?_⟩
  · rw [hxb, answer_aStream]
    exact answered_after b (unpended s f) _
  · rw [answer_stream ok hxb]
    obtain ⟨hothers, hmem, hbank⟩ := answered_after b (unpended s f) (fun k =>
      { (if ok then k else refusedStream k n va) with faults := leftFaults k f.id ok })
    exact ⟨hothers, hmem, hbank⟩
  · subst hxb
    cases ok
    · refine ⟨?_, fun hok => absurd hok (by decide), fun _ hrun => refuse_chan (u := unpended s f) hc hfault hrun⟩
      have hrefuse : refuseSource (unpended s f) f.id va (.chan b c) = refuseChannel (unpended s f) b c va := if_pos hfault
      rw [if_neg Bool.false_ne_true, hrefuse]
      exact (oneBank_refuseChannel (u := unpended s f) c).others
    · obtain ⟨hothers, hchan⟩ := retry_chan (u := unpended s f) hc hfault
      exact ⟨hothers, fun _ => hchan, fun hok => absurd hok (by decide)⟩
  · rw [hxb, answer_dispatch]
    exact ⟨otherBanks_modBank (List.mem_singleton_self b) _, rfl, State.bank_modBank_same _ _ _⟩
  · subst hxp
    cases ok
    · exact ⟨fun hok => absurd hok (by decide), fun _ => refuse_coll (u := unpended s f) (id := f.id) (va := va) he ho⟩
    · exact ⟨fun _ hfault => retry_coll (u := unpended s f) he hfault, fun hok => absurd hok (by decide)⟩
  · rw [hxq]
    exact answer_queue (u := unpended s f) ok hhold
  · rw [hxr]
    exact answer_node (u := unpended s f) ok hg

end Sys2Proof.KernelMachine

namespace Sys2Proof.KernelMachine

open Sys2Proof Sys2Proof.Machine Sys2Proof.Claims

/-! ### STREAM_ROW_FETCH (05 R122, R123; 17 R303) -/

theorem kset_self {α : Type} {l : List (Nat × α)} {k : Nat} {x : α} (h : kfind l k = some x) : kset l k x = l := by
  induction l with
  | nil => cases h
  | cons p l ih =>
    obtain ⟨j, y⟩ := p
    unfold kfind at h
    unfold kset
    split at h
    · next hj =>
      rw [if_pos hj, hj, Option.some.inj h]
    · next hj =>
      rw [if_neg hj]
      split at h
      · cases h
      · next hk => rw [if_neg hk, ih h]

theorem Bank.ds_setDs {i : Nat} (hi : i < 8) (k : Bank) (x : DataStream) : (k.setDs i x).ds i = x := by
  simp [Bank.setDs, Bank.ds, Vector.getD, hi]

theorem Bank.ds_eq {i : Nat} (hi : i < 8) (k : Bank) : k.ds i = k.dstreams[i] := by
  simp [Bank.ds, Vector.getD, hi]

theorem Bank.setDs_ds {i : Nat} (hi : i < 8) (k : Bank) : k.setDs i (k.ds i) = k := by
  have hset : k.dstreams.setIfInBounds i k.dstreams[i] = k.dstreams := by
    ext j hj
    rw [Vector.getElem_setIfInBounds]
    split
    · next h => subst h; rfl
    · rfl
  rw [Bank.ds_eq hi, Bank.setDs, hset]

/-- The bank of a core that is listed, written back as it is. -/
theorem setBank_self {s : State} {b : BankId} (h : s.bank b ≠ Bank.reset) : s.setBank b (s.bank b) = s := by
  have hlisted : kfind s.cores b.core = some (s.core b.core) := by
    cases hk : kfind s.cores b.core with
    | some c => rw [State.core, kget, hk]; rfl
    | none =>
      refine absurd ?_ h
      rw [State.bank, State.core, kget, hk]
      cases b.slot <;> rfl
  have hcore : (s.core b.core).setBank b.slot (s.bank b) = s.core b.core := Core.setBank_bank _ _
  rw [State.setBank, hcore, State.setCore, kset_self hlisted]

section
variable {s : State} {b : BankId} {i : Nat} {r : StreamRun}

theorem putRun_self (hi : i < 8) (h : ((s.bank b).ds i).run = some r) : putRun s b i r = s := by
  have hsame : (s.bank b).setDs i { (s.bank b).ds i with run := some r } = s.bank b := by
    rw [← h]
    exact Bank.setDs_ds hi _
  have hset : s.bank b ≠ Bank.reset := fun hreset => by
    rw [hreset] at h
    have hnone : (Bank.reset.ds i).run = none := by
      rw [Bank.ds_eq hi]
      simp only [Bank.reset, Vector.getElem_replicate]
      rfl
    rw [hnone] at h
    cases h
  rw [putRun, State.modBank, hsame, setBank_self hset]

theorem putRun_run (hi : i < 8) (s : State) (b : BankId) (r : StreamRun) : (((putRun s b i r).bank b).ds i).run = some r := by
  rw [putRun, State.bank_modBank_same, Bank.ds_setDs hi]

/-- A stream asks for nothing while four rows are its, or none is left. -/
theorem rowAsk_full (h : 4 ≤ r.buf.length + r.asked.length ∨ DataStream.positions r ≤ r.next + r.asked.length) : rowAsk s b i r = s := by
  unfold rowAsk
  dsimp only
  rw [if_pos]
  simp only [ge_iff_le, Bool.or_eq_true, decide_eq_true_eq]
  exact .inl h

/-- The step of a reading stream that can move: `f` of its run. -/
def streamStep (b : BankId) (i : Nat) (held : Bool) (f : State → BankId → Nat → StreamRun → State) (s : State) : State :=
  let k := s.bank b
  match (k.ds i).run with
  | none => s
  | some r => if !s.rowsMove b || r.write || (k.ds i).fault.isSome || (held && k.streamHeld i) then s else f s b i r

theorem streamRowFetch_eq (s : State) (b : BankId) (i : Nat) :
    streamRowFetch s b i = streamStep b i true rowAsk (streamStep b i false rowRead (streamStep b i false rowsBack s)) := rfl

/-- A step in which nothing is done, whether the stream can move or not. -/
theorem streamStep_idle {held : Bool} {f : State → BankId → Nat → StreamRun → State} (h : ((s.bank b).ds i).run = some r) (hf : f s b i r = s) :
    streamStep b i held f s = s := by
  unfold streamStep
  simp only [h, hf, ite_self]

theorem streamStep_moves {held : Bool} {f : State → BankId → Nat → StreamRun → State} (h : ((s.bank b).ds i).run = some r)
    (hm : s.rowsMove b = true) (hw : r.write = false) (hf : ((s.bank b).ds i).fault = none) (hh : held = false ∨ (s.bank b).streamHeld i = false) :
    streamStep b i held f s = f s b i r := by
  have hheld : (held && (s.bank b).streamHeld i) = false := by rcases hh with hh | hh <;> simp [hh]
  unfold streamStep
  simp only [h, hm, hw, hf, hheld, Option.isSome_none, Bool.not_true, Bool.or_false, Bool.false_eq_true, if_false]

/-- No row is back. -/
theorem rowsBack_none (hi : i < 8) (h : ((s.bank b).ds i).run = some r) (hnone : r.asked.takeWhile (fun a => a.got.isSome && decide (a.due ≤ s.cycle)) = []) :
    rowsBack s b i r = s := by
  unfold rowsBack
  simp only [hnone]
  simp only [List.length_nil, List.drop_zero, Nat.add_zero, List.zipIdx_nil, List.map_nil, List.append_nil, List.foldl_nil]
  exact putRun_self hi h

/-- A read waits for the row asked for first: one of none is there, or it is not at its homes. -/
theorem rowRead_none (h : ∀ a, r.nextRead = some a → r.readsNow s b a = false) : rowRead s b i r = s := by
  unfold rowRead
  split
  · rfl
  · next j a ha => simp only [h _ ha, Bool.not_false, Bool.true_or, if_true]

section
variable (hi : i < 8) (h : ((s.bank b).ds i).run = some r) (hm : s.rowsMove b = true) (hw : r.write = false)
  (hf : ((s.bank b).ds i).fault = none)
include hi h hm hw hf

/-- Where nothing is back or to be read, the next position's row is asked for. -/
theorem fetch_asks {ps : List Nat} (hh : (s.bank b).streamHeld i = false) (hall : ∀ a ∈ r.asked, a.got = none ∧ s.cycle < a.due)
    (hroom : r.buf.length + r.asked.length < 4) (hleft : r.next + r.asked.length < DataStream.positions r)
    (hreach : reachRow s b i (.dstream b i) .read (rowVa r (r.next + r.asked.length)) 4 = .ok ps) (hslots : r.asked ≠ [] → s.slots b + 4 ≤ 512) :
    streamRowFetch s b i = putRun s b i { r with asked := r.asked ++
      [⟨s.cycle + homeTimes s.mem b.core (ps.map (fun l => (l, 64))), s.tick, s.deadline 1, s.mem.gen, ps, none⟩] } := by
  have htake : ∀ p : Ask → Bool, (∀ a ∈ r.asked, p a = false) → r.asked.takeWhile p = [] := fun p hp => by
    cases hr : r.asked with
    | nil => rfl
    | cons a l => rw [List.takeWhile_cons_of_neg (by rw [hp a (hr ▸ List.mem_cons_self)]; decide)]
  have hback : rowsBack s b i r = s := rowsBack_none hi h (htake _ fun a ha => by simp [(hall a ha).1])
  have hread : rowRead s b i r = s := by
    refine rowRead_none fun x hx => ?_
    have hfirst : r.asked.takeWhile (·.got.isSome) = [] := htake _ fun a ha => by simp [(hall a ha).1]
    unfold StreamRun.nextRead at hx
    simp only [hfirst, List.length_nil, Option.map_eq_some_iff] at hx
    obtain ⟨a, ha, rfl⟩ := hx
    have hdue := (hall a (List.mem_of_getElem? ha)).2
    simp [StreamRun.readsNow, Nat.not_le.mpr hdue]
  have hfree : (!r.asked.isEmpty && decide (s.slots b + 4 > 512)) = false := by
    cases hr : r.asked with
    | nil => rfl
    | cons a l =>
      have := hslots (by rw [hr]; exact List.cons_ne_nil a l)
      simp only [List.isEmpty_cons, Bool.not_false, Bool.true_and, decide_eq_false_iff_not]
      omega
  rw [streamRowFetch_eq, streamStep_idle h hback, streamStep_idle h hread, streamStep_moves h hm hw hf (.inr hh)]
  unfold rowAsk
  dsimp only
  rw [hreach, hfree, if_neg]
  simp only [ge_iff_le, Bool.or_eq_true, decide_eq_true_eq, Bool.false_eq_true, or_false, not_or, Nat.not_le]
  exact ⟨hroom, hleft⟩

omit hi h hm hw hf in
theorem noteMisses_rest (s : State) (n c k l : Nat) : (noteMisses s n c k l).cores = s.cores ∧ (noteMisses s n c k l).mem.cells = s.mem.cells := by
  unfold noteMisses
  split <;> exact ⟨rfl, rfl⟩

/-- A row that is back enters the buffer; the buffer full, or no position left, nothing else is done. -/
theorem fetch_delivers {a : Ask} {row : Row} (hask : r.asked = [a]) (hgot : a.got = some row) (hdue : a.due ≤ s.cycle)
    (hfull : 3 ≤ r.buf.length ∨ DataStream.positions r ≤ r.next + 1) :
    streamRowFetch s b i = noteMisses (putRun s b i { r with asked := [], next := r.next + 1, buf := r.buf ++ [⟨r.next, row, 0, false⟩] }) 4 b.core 1 a.limit := by
  have hback : rowsBack s b i r =
      noteMisses (putRun s b i { r with asked := [], next := r.next + 1, buf := r.buf ++ [⟨r.next, row, 0, false⟩] }) 4 b.core 1 a.limit := by
    have htake : r.asked.takeWhile (fun a => a.got.isSome && decide (a.due ≤ s.cycle)) = [a] := by
      rw [hask, List.takeWhile_cons_of_pos (by simp [hgot, hdue]), List.takeWhile_nil]
    unfold rowsBack
    dsimp only
    rw [htake, hask]
    simp only [List.length_singleton, List.drop_one, List.tail_cons, List.zipIdx_singleton, List.map_cons, List.map_nil, hgot, Option.getD_some,
      Nat.add_zero, List.foldl_cons, List.foldl_nil]
  rw [streamRowFetch_eq, streamStep_moves h hm hw hf (.inl rfl), hback]
  have hrun : (((noteMisses (putRun s b i { r with asked := [], next := r.next + 1, buf := r.buf ++ [⟨r.next, row, 0, false⟩] }) 4 b.core 1
      a.limit).bank b).ds i).run = some { r with asked := [], next := r.next + 1, buf := r.buf ++ [⟨r.next, row, 0, false⟩] } := by
    rw [bank_congr (noteMisses_rest _ _ _ _ _).1]
    exact putRun_run hi s b _
  rw [streamStep_idle hrun (rowRead_none fun x hx => absurd hx (by simp [StreamRun.nextRead])), streamStep_idle hrun (rowAsk_full ?_)]
  simp only [List.length_append, List.length_singleton, List.length_nil, Nat.add_zero]
  rcases hfull with hfull | hfull
  · exact .inl (by omega)
  · exact .inr hfull

end

end

/-! The row is read at its homes: its lines are filled from there -/

section
variable {s t : State} {b : BankId} {i l : Nat} {r : StreamRun} {d : List Byte}

theorem Bank.streamsFill_run (hi : i < 8) (k : Bank) (sh : List Shadow) (b : BankId) (l : Nat) (d : List Byte) :
    ((k.streamsFill sh b l d).ds i).run = (k.ds i).run.map (fun r => r.fills (sh.filter (·.serves b i r)) l d) := by
  rw [Bank.ds_eq hi, Bank.ds_eq hi]
  simp only [Bank.streamsFill, Vector.getElem_mapIdx]

/-- Lines as they stand at their homes. -/
def TrueLines (s : State) (ks : List (Nat × List Byte)) : Prop := ∀ l d, kfind ks l = some d → d = s.peek (64 * l) 64

theorem trueLines_nil (s : State) : TrueLines s [] := fun _ _ h => absurd h (by simp [kfind])

/-- The lines with one more, where they do not hold it. -/
def lineTaken (s : State) (ks : List (Nat × List Byte)) (l : Nat) : List (Nat × List Byte) :=
  if (kfind ks l).isSome then ks else kset ks l (s.peek (64 * l) 64)

theorem TrueLines.kset {ks : List (Nat × List Byte)} (h : TrueLines s ks) (l : Nat) : TrueLines s (kset ks l (s.peek (64 * l) 64)) := by
  intro j d hd
  by_cases hj : j = l
  · subst hj
    exact (Option.some.inj ((kfind_kset_same _ _ _).symm.trans hd)).symm
  · exact h j d ((kfind_kset_ne _ _ hj).symm.trans hd)

theorem TrueLines.lineTaken {ks : List (Nat × List Byte)} (h : TrueLines s ks) (l : Nat) : TrueLines s (lineTaken s ks l) := by
  unfold KernelMachine.lineTaken
  split
  · exact h
  · exact h.kset l

theorem lineTaken_holds (s : State) (ks : List (Nat × List Byte)) (l : Nat) : (kfind (lineTaken s ks l) l).isSome = true := by
  unfold lineTaken
  split
  · next h => exact h
  · rw [kfind_kset_same]
    rfl

theorem lineTaken_keeps {ks : List (Nat × List Byte)} {j : Nat} (h : (kfind ks j).isSome = true) (l : Nat) : (kfind (lineTaken s ks l) j).isSome = true := by
  by_cases hj : j = l
  · rw [hj]
    exact lineTaken_holds s ks l
  · unfold lineTaken
    split
    · exact h
    · rwa [kfind_kset_ne _ _ hj]

/-- Lines that a reading stream and its bank have taken from their homes, in a state `t` that has read them since `s`. -/
structure Filled (s : State) (b : BankId) (i : Nat) (r : StreamRun) (ls : List Nat) (t : State) : Prop where
  mem : t.mem = s.mem
  cycle : t.cycle = s.cycle
  armed : ∀ a n, armedIn t a n = armedIn s a n
  own : (t.bank b).mem.own = []
  bad : (t.bank b).mem.badLines = []
  held : TrueLines s (t.bank b).mem.lines
  run : ∃ ks, ((t.bank b).ds i).run = some { r with lines := ks } ∧ TrueLines s ks ∧ ∀ l ∈ ls, (kfind ks l).isSome = true

/-- A line filled where none of it has been kept back: a stream that has it keeps it, another takes it as it is. -/
theorem fills_plain (hw : r.write = false) (hs : ∀ x ∈ t.mem.shadow, x.bank = b → x.stream = i → x.run ≠ r.seq) (ks : List (Nat × List Byte)) :
    ({ r with lines := ks } : StreamRun).fills (t.mem.shadow.filter (·.serves b i { r with lines := ks })) l d =
      { r with lines := if (kfind ks l).isSome then ks else kset ks l d } := by
  have hnone : t.mem.shadow.filter (·.serves b i { r with lines := ks }) = [] := List.filter_eq_nil_iff.mpr fun x hx => by
    simp only [Shadow.serves, Bool.and_eq_true, beq_iff_eq, not_and, and_imp]
    exact hs x hx
  unfold StreamRun.fills
  rw [hnone]
  simp only [hw, Bool.false_or, List.foldl_nil]
  split <;> rfl

/-- The line in the bank: held already, or filled from its home. -/
theorem fillLine_filled {ls : List Nat} (h : Filled s b i r ls t) (hi : i < 8) (hw : r.write = false)
    (hs : ∀ x ∈ s.mem.shadow, x.bank = b → x.stream = i → x.run ≠ r.seq) (hclean : CleanBytes s (64 * l) 64) :
    Filled s b i r ls (fillLine t b false l) ∧ kfind ((fillLine t b false l).bank b).mem.lines l = some (s.peek (64 * l) 64) := by
  unfold fillLine
  split
  · next hsome =>
    obtain ⟨d, hd⟩ := Option.isSome_iff_exists.mp hsome
    exact ⟨h, hd.trans (congrArg some (h.held l d hd))⟩
  · next hnone =>
    obtain ⟨f, hf, -⟩ := woken_touchBytes (s := t) (pa := 64 * l) (n := 64) ((h.armed _ _).trans hclean.1)
    simp only [Bool.false_eq_true, if_false, hf]
    have hpeek : ({ t with fleet := f } : State).peek (64 * l) 64 = s.peek (64 * l) 64 := congrArg (fun m => Cells.read (MemSys.cells m) _ _) h.mem
    have hpoison : poisonedIn { t with fleet := f } (64 * l) 64 = false :=
      (congrArg (fun m => (linesOf (64 * l) 64).any ((MemSys.poison m).contains ·)) h.mem).trans hclean.2
    rw [hpeek, hpoison]
    simp only [Bool.false_eq_true, if_false]
    obtain ⟨ks, hrun, hks, hin⟩ := h.run
    have hbank : ({ t with fleet := f } : State).bank b = t.bank b := rfl
    refine ⟨⟨h.mem, h.cycle, fun a n => (armedIn_modBank b _ _ a n).trans (h.armed a n), ?_, ?_, ?_, ?_⟩, ?_⟩
    all_goals rw [State.bank_modBank_same, hbank]
    · exact h.own
    · exact h.bad
    · exact h.held.kset l
    · refine ⟨lineTaken s ks l, ?_, hks.lineTaken l, fun j hj => lineTaken_keeps (hin j hj) l⟩
      refine (Bank.streamsFill_run hi _ _ _ _ _).trans ?_
      rw [hrun, Option.map_some, fills_plain hw (h.mem ▸ hs)]
      rfl
    · exact kfind_kset_same _ _ _

/-- With no store of the bank in view a line comes from its home whole. -/
theorem needsLine_nothing (seq l : Nat) : needsLine [] seq (64 * l, 64) = true := rfl

/-- A reading stream takes a line. -/
theorem streamLine_filled {ls : List Nat} (h : Filled s b i r ls t) (hi : i < 8) (hw : r.write = false) (hown : r.own = [])
    (hs : ∀ x ∈ s.mem.shadow, x.bank = b → x.stream = i → x.run ≠ r.seq) (hclean : CleanBytes s (64 * l) 64) :
    Filled s b i r (l :: ls) (streamLine t b i l) := by
  obtain ⟨ks, hrun, hks, hin⟩ := h.run
  have hview : ({ r with lines := ks } : StreamRun).view (t.bank b).mem = [] := by
    unfold StreamRun.view
    rw [h.own]
    exact hown
  unfold streamLine
  rw [hrun]
  dsimp only
  rw [hview, needsLine_nothing]
  split
  · next hsome =>
    have hl : (kfind ks l).isSome = true := by simpa using hsome
    exact ⟨h.mem, h.cycle, h.armed, h.own, h.bad, h.held, ks, hrun, hks, fun j hj => by
      rcases List.mem_cons.mp hj with rfl | hj
      · exact hl
      · exact hin j hj⟩
  · obtain ⟨hfill, hline⟩ := fillLine_filled h hi hw hs hclean
    generalize fillLine t b false l = u at hfill hline
    obtain ⟨js, hjrun, hjs, hjin⟩ := hfill.run
    have hgiven : (if (u.bank b).mem.badLines.contains l then [] else kget [] (u.bank b).mem.lines l) = s.peek (64 * l) 64 := by
      rw [hfill.bad, kget, hline]
      rfl
    refine ⟨hfill.mem, hfill.cycle, fun a n => (armedIn_modBank b _ _ a n).trans (hfill.armed a n), ?_, ?_, ?_, lineTaken s js l, ?_, hjs.lineTaken l, fun j hj => ?_⟩
    · rw [State.bank_modBank_same]
      exact hfill.own
    · rw [State.bank_modBank_same]
      exact hfill.bad
    · rw [State.bank_modBank_same]
      exact hfill.held
    · rw [State.bank_modBank_same, hgiven, Bank.streamsFill_run hi, hjrun, Option.map_some, fills_plain hw (hfill.mem ▸ hs)]
      rfl
    · rcases List.mem_cons.mp hj with rfl | hj
      · exact lineTaken_holds s js _
      · exact lineTaken_keeps (hjin j hj) l

theorem streamLines_filled (hi : i < 8) (hw : r.write = false) (hown : r.own = []) (hs : ∀ x ∈ s.mem.shadow, x.bank = b → x.stream = i → x.run ≠ r.seq)
    (pas : List Nat) (hclean : ∀ pa ∈ pas, pa % 64 = 0 ∧ CleanBytes s pa 64) {ls : List Nat} (h : Filled s b i r ls t) :
    Filled s b i r (pas.reverse.map (· / 64) ++ ls) (pas.foldl (fun s pa => streamLine s b i (pa / 64)) t) := by
  induction pas generalizing ls t with
  | nil => exact h
  | cons pa pas ih =>
    obtain ⟨haligned, hc⟩ := hclean pa List.mem_cons_self
    have hpa : 64 * (pa / 64) = pa := by omega
    have hstep := streamLine_filled (l := pa / 64) h hi hw hown hs (by rw [hpa]; exact hc)
    have := ih (fun q hq => hclean q (List.mem_cons_of_mem _ hq)) hstep
    simpa using this

/-- A line seen with no store of the bank's in view is the line. -/
theorem viewBytes_line {ks : List (Nat × List Byte)} (hks : TrueLines s ks) {pa : Nat} (haligned : pa % 64 = 0) (hin : (kfind ks (pa / 64)).isSome = true)
    (seq : Nat) : viewBytes [] ks seq pa 64 = s.peek pa 64 := by
  obtain ⟨d, hd⟩ := Option.isSome_iff_exists.mp hin
  have hline : d = s.peek pa 64 := (hks _ _ hd).trans (by rw [show 64 * (pa / 64) = pa by omega])
  have hlen : (s.peek pa 64).length = 64 := length_peek s pa 64
  have hlines : kget [] ks (pa / 64) = s.peek pa 64 := by rw [kget, hd, hline]; rfl
  refine List.ext_getElem (by rw [hlen, viewBytes, List.length_map, List.length_range]) fun j hj hj' => ?_
  have hj64 : j < 64 := hlen ▸ hj'
  have hbyte : (viewBytes [] ks seq pa 64)[j] = (kget [] ks ((pa + j) / 64)).getD ((pa + j) % 64) 0 := by
    simp only [viewBytes, List.getElem_map, List.getElem_range]
    rfl
  refine hbyte.trans ?_
  rw [show (pa + j) / 64 = pa / 64 by omega, show (pa + j) % 64 = j by omega, hlines, List.getD_eq_getElem _ _ hj']

/-- The row is read at its homes: the bytes that stand there, and the time back. -/
theorem fetch_reads {a : Ask} (hi : i < 8) (h : ((s.bank b).ds i).run = some r) (hm : s.rowsMove b = true) (hw : r.write = false)
    (hf : ((s.bank b).ds i).fault = none) (hask : r.asked = [a]) (hgot : a.got = none) (hdue : a.due ≤ s.cycle)
    (hfull : 3 ≤ r.buf.length ∨ DataStream.positions r ≤ r.next + 1)
    (hlines : ∀ l ∈ a.lines, l % 64 = 0 ∧ homeHeld s.mem l = false ∧ staleMap s.mem a.gen l = false ∧ CleanBytes s l 64)
    (hyields : yields s (a.due, a.lines.map (fun l => (l, 64))) = false)
    (hbefore : (s.bank b).rowsBefore r.seq (some ((rowVa r r.next).toNat, (rowVa r r.next).toNat + 255)) = false)
    (hown : r.own = []) (hempty : r.lines = []) (hs : ∀ x ∈ s.mem.shadow, x.bank = b → x.stream = i → x.run ≠ r.seq)
    (hmown : (s.bank b).mem.own = []) (hmlines : (s.bank b).mem.lines = []) (hbad : (s.bank b).mem.badLines = []) :
    ∃ ks, (((streamRowFetch s b i).bank b).ds i).run = some { r with
      lines := ks
      asked := [{ a with got := some (rowOf (a.lines.map (fun l => s.peek l 64)).flatten)
                         due := s.cycle + homeTimes s.mem b.core (a.lines.map (fun l => (l, 64))) }] } ∧
      ∀ j, (streamRowFetch s b i).byteAt j = s.byteAt j := by
  have hback : rowsBack s b i r = s := rowsBack_none hi h (by rw [hask, List.takeWhile_cons_of_neg (by simp [hgot])])
  have hnext : r.nextRead = some (0, a) := by simp [StreamRun.nextRead, hask, hgot]
  have hstale : a.lines.any (staleMap s.mem a.gen) = false := List.any_eq_false.mpr fun l hl => by simp [(hlines l hl).2.2.1]
  have hheld : a.lines.any (homeHeld s.mem) = false := List.any_eq_false.mpr fun l hl => by simp [(hlines l hl).2.1]
  have hreads : r.readsNow s b (0, a) = true := by
    simp only [StreamRun.readsNow, hm, hstale, Nat.add_zero, hbefore, decide_eq_true hdue, Bool.not_false, Bool.and_self]
  have hstart : Filled s b i r [] s := ⟨rfl, rfl, fun _ _ => rfl, hmown, hbad, hmlines ▸ trueLines_nil s,
    [], by rw [h, ← hempty], trueLines_nil s, fun l hl => absurd hl List.not_mem_nil⟩
  have hfilled := streamLines_filled hi hw hown hs a.lines (fun l hl => ⟨(hlines l hl).1, (hlines l hl).2.2.2⟩) hstart
  generalize ht : a.lines.foldl (fun s pa => streamLine s b i (pa / 64)) s = t at hfilled
  obtain ⟨ks, hrun, hks, hin⟩ := hfilled.run
  have hheldLine : ∀ pa ∈ a.lines, (kfind ks (pa / 64)).isSome = true := fun pa hpa =>
    hin _ (List.mem_append_left _ (List.mem_map_of_mem (List.mem_reverse.mpr hpa)))
  have hview : ({ r with lines := ks } : StreamRun).view (t.bank b).mem = [] := by
    unfold StreamRun.view
    rw [hfilled.own]
    exact hown
  have hpoison : a.lines.any (fun pa => kget [0] ks (pa / 64) == [] && !coversLine [] r.seq (pa / 64)) = false :=
    List.any_eq_false.mpr fun pa hpa => by
      obtain ⟨d, hd⟩ := Option.isSome_iff_exists.mp (hheldLine pa hpa)
      have hne : d ≠ [] := fun he => by
        have hlen := length_peek s (64 * (pa / 64)) 64
        rw [← hks _ _ hd, he] at hlen
        cases hlen
      simp [kget, hd, hne]
  have hbytes : a.lines.map (fun pa => viewBytes [] ks r.seq pa 64) = a.lines.map (fun l => s.peek l 64) :=
    List.map_congr_left fun pa hpa => viewBytes_line hks (hlines pa hpa).1 (hheldLine pa hpa) r.seq
  have hread : rowRead s b i r = putRun t b i { r with
      lines := ks
      asked := [{ a with got := some (rowOf (a.lines.map (fun l => s.peek l 64)).flatten)
                         due := s.cycle + homeTimes s.mem b.core (a.lines.map (fun l => (l, 64))) }] } := by
    unfold rowRead
    simp only [hnext, hreads, hheld, hyields, Bool.not_true, Bool.or_self, Bool.false_eq_true, if_false, ht, hrun, hview, hpoison, hbytes,
      hfilled.cycle, hfilled.mem]
    simp only [hask, modAt]
  refine ⟨ks, ?_⟩
  rw [streamRowFetch_eq, streamStep_idle h hback, streamStep_moves h hm hw hf (.inl rfl), hread]
  rw [streamStep_idle (putRun_run hi t b _) (rowAsk_full ?_)]
  · refine ⟨putRun_run hi t b _, fun j => ?_⟩
    exact congrArg (fun m => Cells.get (MemSys.cells m) j) hfilled.mem
  · rcases hfull with hfull | hfull
    · exact .inl (Nat.succ_le_succ hfull)
    · exact .inr hfull

end

end Sys2Proof.KernelMachine

namespace Sys2Proof.KernelMachine

open Sys2Proof Sys2Proof.Machine Sys2Proof.Claims

/-! ### STREAM_ROW_STORE (05 R122) -/

theorem length_insertStore (e : StoreEntry) (l : List StoreEntry) : (insertStore e l).length = l.length + 1 := by
  induction l with
  | nil => rfl
  | cons x l ih =>
    unfold insertStore
    split
    · rfl
    · rw [List.length_cons, ih, List.length_cons]

theorem length_insertStores {α : Type} (f : α → StoreEntry) (ps : List α) (l : List StoreEntry) :
    (ps.foldl (fun d p => insertStore (f p) d) l).length = l.length + ps.length := by
  induction ps generalizing l with
  | nil => rfl
  | cons p ps ih => rw [List.foldl_cons, ih, length_insertStore, List.length_cons, Nat.add_assoc, Nat.add_comm 1]

theorem length_splitData (ps : List (Nat × Nat)) (d : List Byte) : (splitData ps d).length = ps.length := by
  induction ps generalizing d with
  | nil => rfl
  | cons p ps ih =>
    obtain ⟨pa, n⟩ := p
    rw [splitData, List.length_cons, ih, List.length_cons]

section
variable {s : State} {b : BankId} {i : Nat} {r : StreamRun}

theorem feedDrain_none (h : (s.bank b).moves = []) (f : Nat) : feedDrain f s b i = s := by
  cases f with
  | zero => rfl
  | succ f => simp only [feedDrain, h, List.find?_nil]

theorem settleDrains_none (h : (s.bank b).moves = []) : settleDrains s b i = s := by
  simp only [settleDrains, h, List.find?_nil]

/-- The stream's buffer without its oldest row. -/
def rowGone (i : Nat) (r : StreamRun) (rest : List BufRow) (k : Bank) : Bank := k.setDs i { k.ds i with run := some { r with buf := rest } }

theorem streamRowStore_stores {y : BufRow} {rest : List BufRow} {ps : List Nat} (h : ((s.bank b).ds i).run = some r) (hm : s.rowsMove b = true)
    (hw : r.write = true) (hf : ((s.bank b).ds i).fault = none) (hh : (s.bank b).streamHeld i = false) (hmoves : (s.bank b).moves = [])
    (hbuf : r.buf = y :: rest) (hreach : reachRow s b i (y.source b i) .write (rowVa r y.pos) 4 = .ok ps)
    (hslots : s.slots b + (if (s.bank b).rowsAhead i y.seq = true then 4 else 0) ≤ 512) :
    streamRowStore s b i = (s.modBank b (rowGone i r rest)).modBank b
      (storePut (s.modBank b (rowGone i r rest)) b (some (i, y.drain)) y.seq (ps.map (fun p => (p, 64))) (rowBytes y.row)) := by
  have hwrites : (!r.write) = false := by rw [hw]; rfl
  unfold streamRowStore
  simp only [hf, hh, hm, Option.isSome_none, Bool.not_true, Bool.or_self, Bool.false_eq_true, if_false, feedDrain_none hmoves, h, hwrites, hbuf, hreach,
    gt_iff_lt, if_neg (Nat.not_lt.mpr hslots), storeAt_eq]
  refine settleDrains_none ?_
  rw [State.bank_modBank_same]
  show ((s.modBank b (rowGone i r rest)).bank b).moves = []
  rw [State.bank_modBank_same]
  exact hmoves

/-- The bank once the row has entered: the run without it, its bytes in the bank's own view, its lines in the FIFO. -/
theorem storePut_row {y : BufRow} {rest : List BufRow} {ps : List Nat} (hi : i < 8) (hw : r.write = true) (u : State) (k : Bank) :
    let t := storePut u b (some (i, y.drain)) y.seq (ps.map (fun p => (p, 64))) (rowBytes y.row) (rowGone i r rest k)
    (t.ds i).run = some { r with buf := rest } ∧
      t.mem.own = ownStore y.seq (ps.map (fun p => (p, 64))) (rowBytes y.row) (some (i, y.drain)) ++ k.mem.own ∧
      t.mem.dirty.length = k.mem.dirty.length + ps.length := by
  refine ⟨?_, rfl, ?_⟩
  · have hgone : (rowGone i r rest k).dstreams[i].run = some { r with buf := rest } := by
      rw [← Bank.ds_eq hi]
      exact congrArg DataStream.run (Bank.ds_setDs hi _ _)
    rw [Bank.ds_eq hi]
    simp only [storePut, Vector.getElem_map, hgone, Option.map_some, sees_eq, hw]
    rfl
  · refine (length_insertStores _ _ _).trans ?_
    rw [length_splitData, List.length_map]
    rfl

end

/-! ### FILL_ROW (05 R122, R128) -/

section
variable {s : State} {b : BankId} {i : Nat} {r : StreamRun} {m y : Move}

theorem tileNo (n : Nat) (h : n < 32) : (BitVec.ofNat 5 n).toNat = n := by
  rw [BitVec.toNat_ofNat]
  exact Nat.mod_eq_of_lt h

/-- A younger fill of a stream waits for the older. -/
theorem fillRow_younger (h : ((s.bank b).ds i).run = some r) (hmoves : (s.bank b).moves = [m, y]) (hm : m.drain = false) (hy : y.drain = false)
    (hms : m.stream = i) (hys : y.stream = i) (hne : m.tile ≠ y.tile) : fillRow s b y.tile = s := by
  have hmine : [m, y].find? (fun x => x.tile == y.tile && !x.drain) = some y := by simp [hne, hy]
  have hfirst : [m, y].find? (fun x => x.stream == i && !x.drain) = some m := by simp [hm, hms]
  have hother : (some m != some y) = true := by simp; exact fun h => hne (by rw [h])
  unfold fillRow
  simp only [hmoves, hmine, hys, h, hfirst, hother, Bool.or_true, if_true]

/-- The stream once its oldest row has gone to a tile. -/
def rowFilled (i : Nat) (r : StreamRun) (rest : List BufRow) (k : Bank) : Bank :=
  k.setDs i { k.ds i with run := some { r with buf := rest, given := r.given + 1 } }

/-- The state once that row stands in its scratchpad row. -/
def rowPut (s : State) (b : BankId) (i : Nat) (r : StreamRun) (x : BufRow) (rest : List BufRow) (j : Nat) : State :=
  (s.modBank b (rowFilled i r rest)).putRow b.core j x.row

theorem fillRow_moves {base : Nat} {x : BufRow} {rest : List BufRow} (h : ((s.bank b).ds i).run = some r) (hmove : s.rowsMove b = true)
    (hw : r.write = false) (hmoves : (s.bank b).moves = [m]) (hm : m.drain = false) (hms : m.stream = i) (hl : m.lifted = false)
    (hcopies : m.copies = [some base]) (hbuf : r.buf = x :: rest) (hrow : m.row < m.rows) :
    fillRow s b m.tile =
      let u := rowPut s b i r x rest (base / 256 + m.row)
      if m.row + 1 < m.rows then putMove u b { m with row := m.row + 1 } else endMove u b { m with row := m.row + 1 } := by
  subst hms
  have hmine : [m].find? (fun x => x.tile == m.tile && !x.drain) = some m := by simp [hm]
  have hcond : (r.write || !s.rowsMove b || [m].find? (fun x => x.stream == m.stream && !x.drain) != some m) = false := by simp [hw, hmove, hm]
  have htotal : m.total = m.rows := by simp [Move.total, hl]
  have htotal' : ({ m with row := m.row + 1 } : Move).total = m.rows := htotal
  have htarget : m.target m.row = some (base / 256 + m.row) := by simp [Move.target, hl, hcopies, rowIndex]
  unfold fillRow
  simp only [hmoves, hmine, h, hcond, Bool.false_eq_true, if_false, hbuf, htotal, ge_iff_le, if_neg (Nat.not_le.mpr hrow), htarget, htotal']
  by_cases hlast : m.row + 1 < m.rows
  · rw [if_pos hlast, if_neg (Nat.not_le.mpr hlast)]
    rfl
  · rw [if_neg hlast, if_pos (Nat.not_lt.mp hlast)]
    rfl

theorem row_putRow (u : State) (n j q : Nat) (x : Row) : ((u.putRow n j x).core n).row q = if q = j then x else (u.core n).row q := by
  unfold State.putRow
  rw [State.core_setCore, if_pos rfl]
  exact kget_kset 0 _ _ _ _

theorem rowPut_row (x : BufRow) (rest : List BufRow) (j q : Nat) :
    ((rowPut s b i r x rest j).core b.core).row q = if q = j then x.row else (s.core b.core).row q := by
  rw [rowPut, row_putRow, row_modBank]

theorem rowPut_bank (x : BufRow) (rest : List BufRow) (j : Nat) : (rowPut s b i r x rest j).bank b = rowFilled i r rest (s.bank b) := by
  rw [rowPut, bank_putRow, State.bank_modBank_same]

theorem Bank.tile_setTile {n : Nat} (hn : n < 32) (k : Bank) (x : Tile) : (k.setTile n x).tile n = x := by
  simp [Bank.setTile, Bank.tile, Vector.getD, hn]

/-- The bank once a fill has ended: its tile is ready. -/
def fillEnded (m : Move) (k : Bank) : Bank :=
  { k.setTile m.tile { k.tile m.tile with state := .ready, cursor := 0 } with moves := k.moves.filter (fun x => x.id != m.id) }

theorem fillEnded_ds (m : Move) (k : Bank) (i : Nat) : (fillEnded m k).ds i = k.ds i := rfl

theorem fillEnded_tile (hmt : m.tile < 32) (k : Bank) : (fillEnded m k).tile m.tile = { k.tile m.tile with state := .ready, cursor := 0 } :=
  Bank.tile_setTile hmt k _

theorem endMove_fill (hm : m.drain = false) (u : State) (b : BankId) : endMove u b m = u.modBank b (fillEnded m) := by
  unfold endMove
  simp only [hm, Bool.false_eq_true, if_false]
  rfl

/-- What a fill leaves whose move of one row is done: the row, the stream, the fill or its tile. -/
theorem fillRow_leaves {x : BufRow} {rest : List BufRow} {j : Nat} (hi : i < 8) (hmoves : (s.bank b).moves = [m]) (hm : m.drain = false) (hmt : m.tile < 32) :
    let u := rowPut s b i r x rest j
    let m' := { m with row := m.row + 1 }
    let t := if m.row + 1 < m.rows then putMove u b m' else endMove u b m'
    (∀ q, (t.core b.core).row q = if q = j then x.row else (s.core b.core).row q) ∧
      ((t.bank b).ds i).run = some { r with buf := rest, given := r.given + 1 } ∧
      (if m.row + 1 < m.rows then (t.bank b).moves = [m'] ∧ (t.bank b).tile m.tile = (s.bank b).tile m.tile
        else (t.bank b).moves = [] ∧ (t.bank b).tile m.tile = { (s.bank b).tile m.tile with state := .ready, cursor := 0 }) ∧
      ∀ a, t.byteAt a = s.byteAt a := by
  have hbank := rowPut_bank (s := s) (b := b) (i := i) (r := r) x rest j
  have hrun : ((rowFilled i r rest (s.bank b)).ds i).run = some { r with buf := rest, given := r.given + 1 } :=
    congrArg DataStream.run (Bank.ds_setDs hi _ _)
  have hstill : (rowFilled i r rest (s.bank b)).moves = [m] := hmoves
  have hrows : ∀ f q, (((rowPut s b i r x rest j).modBank b f).core b.core).row q = if q = j then x.row else (s.core b.core).row q :=
    fun f q => (row_modBank _ _ f _ _).trans (rowPut_row x rest j q)
  have hbytes : ∀ f a, ((rowPut s b i r x rest j).modBank b f).byteAt a = s.byteAt a := fun _ _ => rfl
  dsimp only
  by_cases hlast : m.row + 1 < m.rows
  · rw [if_pos hlast, if_pos hlast, putMove, State.bank_modBank_same, hbank]
    refine ⟨hrows _, hrun, ⟨?_, rfl⟩, hbytes _⟩
    dsimp only
    rw [hstill, List.map_singleton, if_pos rfl]
  · rw [if_neg hlast, if_neg hlast, endMove_fill (m := { m with row := m.row + 1 }) hm, State.bank_modBank_same, hbank, fillEnded_ds]
    refine ⟨hrows _, hrun, ⟨?_, fillEnded_tile hmt _⟩, hbytes _⟩
    unfold fillEnded
    dsimp only
    rw [hstill]
    simp

end

/-- Settles O38: each step by what of a row's way is due; the read by the lines it fills, from homes that nothing is armed at. -/
theorem streamRowsMove : Obligations.StreamRowsMove := by
  intro b n r ps s
  dsimp only
  intro h hf hh hm
  have hi : n.toNat < 8 := n.isLt
  refine ⟨fun hw hall hroom hleft hreach hslots => ⟨_, congrArg Host.Outcome.next (fetch_asks hi h hm hw hf hh hall hroom hleft hreach hslots),
      putRun_run hi s b _, fun _ => rfl⟩,
    fun a hw hask hgot hdue hfull hlines hyields hbefore hown hempty hs hmown hmlines hbad => ?_,
    fun a row hw hask hgot hdue hfull => ⟨_, congrArg Host.Outcome.next (fetch_delivers hi h hm hw hf hask hgot hdue hfull), ?_, fun j => ?_⟩,
    fun y rest hw hmoves hbuf hreach hslots => ⟨_, congrArg Host.Outcome.next (streamRowStore_stores h hm hw hf hh hmoves hbuf hreach hslots), ?_⟩,
    fun m y hmoves hmd hyd hms hys hy hne => ?_, fun m base y rest hw hmoves hmd hmt hms hl hcopies hbuf hrow => ?_⟩
  · obtain ⟨ks, hrun, hbytes⟩ := fetch_reads hi h hm hw hf hask hgot hdue hfull hlines hyields hbefore hown hempty hs hmown hmlines hbad
    exact ⟨_, _, rfl, hrun, rfl, rfl, rfl, rfl, hbytes⟩
  · rw [bank_congr (noteMisses_rest _ _ _ _ _).1]
    exact putRun_run hi s b _
  · rw [State.byteAt, (noteMisses_rest _ _ _ _ _).2]
    rfl
  · obtain ⟨hrun, hown, hdirty⟩ := storePut_row (b := b) (y := y) (rest := rest) (ps := ps) hi hw (s.modBank b (rowGone n.toNat r rest)) (s.bank b)
    rw [State.bank_modBank_same, State.bank_modBank_same]
    exact ⟨hrun, hown, hdirty, fun _ => rfl⟩
  · refine congrArg Host.Outcome.next ?_
    rw [tileNo _ hy]
    exact fillRow_younger h hmoves hmd hyd hms hys hne
  · have hfill := fillRow_moves h hm hw hmoves hmd hms hl hcopies hbuf hrow
    refine ⟨_, congrArg Host.Outcome.next ((congrArg (fillRow s b) (tileNo _ hmt)).trans hfill), ?_⟩
    exact fillRow_leaves hi hmoves hmd hmt

end Sys2Proof.KernelMachine

namespace Sys2Proof.KernelMachine

open Sys2Proof Sys2Proof.Machine Sys2Proof.Claims

/-! ### A channel of a bank, and the end of a bank's copies (05 R140; 18 R321) -/

theorem Bank.setChan_setChan (k : Bank) (c : Nat) (x y : Channel) : (k.setChan c x).setChan c y = k.setChan c y := by
  have hset : (k.chans.setIfInBounds c x).setIfInBounds c y = k.chans.setIfInBounds c y := by simp
  exact congrArg (fun v => { k with chans := v }) hset

theorem copying_of_busy {k : Bank} {c : Nat} (hc : c < 4) (h : (k.chan c).busy = true) : k.copying = true := by
  unfold Bank.copying
  rw [Vector.any_eq_true]
  refine ⟨c, hc, ?_⟩
  simpa [Bank.chan, Vector.getD, hc] using h

theorem copyEnds_busy {t : State} {b : BankId} {c : Nat} (hc : c < 4) (h : ((t.bank b).chan c).busy = true) : copyEnds t b = t := by
  unfold copyEnds
  simp only [copying_of_busy hc h, Bool.not_true, Bool.and_false, Bool.false_eq_true, if_false]

/-- The end of a bank's copies clears tags of sectors, and nothing else. -/
theorem copyEnds_rest (t : State) (b : BankId) : ∃ tags, copyEnds t b = { t with mem := { t.mem with tags := tags } } := by
  unfold copyEnds
  dsimp only
  split
  · exact ⟨_, rfl⟩
  · exact ⟨t.mem.tags, rfl⟩

theorem copyEnds_cores (t : State) (b : BankId) : (copyEnds t b).cores = t.cores := by
  obtain ⟨tags, h⟩ := copyEnds_rest t b
  rw [h]

theorem copyEnds_bank (t : State) (b p : BankId) : (copyEnds t b).bank p = t.bank p := bank_congr (copyEnds_cores t b) p

theorem copyEnds_core (t : State) (b : BankId) (n : Nat) : (copyEnds t b).core n = t.core n := by
  unfold State.core
  rw [copyEnds_cores]

theorem copyEnds_byteAt (t : State) (b : BankId) (a : Nat) : (copyEnds t b).byteAt a = t.byteAt a := by
  obtain ⟨tags, h⟩ := copyEnds_rest t b
  rw [h]
  rfl

theorem copyEnds_ctx (t : State) (b : BankId) (n : Nat) : (copyEnds t b).ctx n = t.ctx n := by
  obtain ⟨tags, h⟩ := copyEnds_rest t b
  rw [h]
  rfl

/-- A step of a channel that leaves it busy is that step. -/
theorem next_busy {t : State} {b : BankId} {c : Nat} {o : Out} (ho : o = .next (copyEnds t b)) (hc : c < 4)
    (h : ((t.bank b).chan c).busy = true) : o = .next t := by
  rw [ho, copyEnds_busy hc h]

/-! ### RECORD_START (05 R139; 18 R317) -/

section
variable {s : State} {b : BankId} {c : Nat} {x : Accepted} {rest : List Accepted}

/-- The state in which the oldest accepted record of a channel runs. -/
def recordRuns (s : State) (b : BankId) (c : Nat) (x : Accepted) (rest : List Accepted) : State :=
  s.setBank b ((s.bank b).setChan c { (s.bank b).chan c with
    ready := rest, running := some { x with start := s.cycle, limit := s.deadline 2, gen := s.mem.gen } })

theorem recordStart_starts (hrun : ((s.bank b).chan c).running = none) (hready : ((s.bank b).chan c).ready = x :: rest)
    (hfault : ((s.bank b).chan c).fault = none) (hsegs : x.segs = []) (hstart : x.start ≤ s.cycle)
    (hturn : (s.ctx (s.bank b).ctxNum).det = false ∨ (x.verdict = some true ∧
      ∀ y ∈ earlier (s.bank b) c x, x.xfer.preds.contains y.seqNo = true → y.state = some true)) :
    recordStart s b c = recordRuns s b c x rest := by
  have hgoes : (((s.bank b).chan c).fault.isSome || x.segs.any (segHeld s (s.bank b).ctxNum) || decide (s.cycle < x.start)) = false := by
    rw [hfault, hsegs]
    simpa using hstart
  unfold recordStart
  simp only [hrun, hready, hgoes, Bool.false_eq_true, if_false]
  rcases hturn with hdet | ⟨hverdict, hpreds⟩
  · simp only [hdet, Bool.false_and, Bool.false_eq_true, if_false]
    rfl
  · have hstate : ∀ y ∈ (earlier (s.bank b) c x).filter (fun y => x.xfer.preds.contains y.seqNo), y.state = some true := fun y hy =>
      hpreds y (List.mem_filter.mp hy).1 (List.mem_filter.mp hy).2
    have hfailed : ((earlier (s.bank b) c x).filter (fun y => x.xfer.preds.contains y.seqNo)).any (fun y => y.state == some false) = false :=
      List.any_eq_false.mpr fun y hy => by rw [hstate y hy]; decide
    have hopen : ((earlier (s.bank b) c x).filter (fun y => x.xfer.preds.contains y.seqNo)).any (fun y => y.state.isNone) = false :=
      List.any_eq_false.mpr fun y hy => by rw [hstate y hy]; decide
    have hpassed : (x.verdict == some false) = false := by rw [hverdict]; rfl
    have hjudged : x.verdict.isNone = false := by rw [hverdict]; rfl
    simp only [hfailed, hopen, hpassed, hjudged, Bool.or_self, Bool.and_false, Bool.false_eq_true, if_false]
    rfl

theorem recordStart_unchecked (hrun : ((s.bank b).chan c).running = none) (hready : ((s.bank b).chan c).ready = x :: rest)
    (hdet : (s.ctx (s.bank b).ctxNum).det = true) (hverdict : x.verdict = none) : recordStart s b c = s := by
  unfold recordStart
  simp only [hrun, hready, hdet, hverdict, Option.isNone_none, Bool.and_self, if_true, ite_self]

end

/-! ### CHAIN_WALK (05 R140, R143) -/

/-- What a bank is once the records that can be checked have been, in deterministic mode. -/
def checkedNow (s : State) (b : BankId) (k : Bank) : Bank :=
  if (s.ctx (s.bank b).ctxNum).det then checkAll ((k.chans.toList.map (fun c => c.ready.length)).sum) k else k

theorem checkRecords_bank {s t : State} {b : BankId} (hctxs : t.ctxs = s.ctxs) (hnum : (t.bank b).ctxNum = (s.bank b).ctxNum) :
    (checkRecords t b).bank b = checkedNow s b (t.bank b) := by
  have hctx : t.ctxOf b = s.ctx (s.bank b).ctxNum := by
    unfold State.ctxOf State.ctx
    rw [hctxs, hnum]
  unfold checkRecords checkedNow
  rw [hctx]
  split
  · rw [State.bank_modBank_same]
  · rfl

theorem replies_modBank (s : State) (b : BankId) (f : Bank → Bank) (n : Nat) : ((s.modBank b f).core n).replies = (s.core n).replies := by
  rw [State.core_modBank]
  split
  · next h => subst h; cases b.slot <;> rfl
  · rfl

theorem replies_checkRecords (s : State) (b : BankId) (n : Nat) : ((checkRecords s b).core n).replies = (s.core n).replies := by
  unfold checkRecords
  split
  · exact replies_modBank s b _ n
  · rfl

section
variable (s : State) (b : BankId) (c n limit : Nat)

theorem armedIn_reply (core pa len : Nat) : armedIn (s.reply core c n limit) pa len = armedIn s pa len := by
  refine flatMap_kset (f := fun (x : Nat × Core) => (x.2.inj.filter (·.hits pa len)).map (fun j => (x.1, j))) s.cores ?_
  show ((kget Core.reset s.cores core).inj.filter _).map _ = _
  unfold kget
  cases kfind s.cores core <;> rfl

theorem bank_reply (core : Nat) (p : BankId) : (s.reply core c n limit).bank p = s.bank p := by
  unfold State.reply State.bank
  rw [State.core_setCore]
  split
  · next h => rw [h]; cases p.slot <;> rfl
  · rfl

theorem tlb_reply (core i : Nat) : ((s.reply core c n limit).core i).tlb = (s.core i).tlb := by
  unfold State.reply
  rw [State.core_setCore]
  split
  · next h => rw [h]
  · rfl

theorem replies_reply (core : Nat) : ((s.reply core c n limit).core core).replies = (s.core core).replies ++ [(c, n, limit)] := by
  unfold State.reply
  rw [State.core_setCore, if_pos rfl]

end

/-- What an answered request of a party leaves: its reply on the way back, homes awake, no request of the party noted. -/
structure Answered (s t : State) (core c n limit : Nat) : Prop where
  bank : ∀ p, t.bank p = s.bank p
  replies : (t.core core).replies = (s.core core).replies ++ [(c, n, limit)]
  cells : t.mem.cells = s.mem.cells
  poison : t.mem.poison = s.mem.poison
  ctxs : t.ctxs = s.ctxs
  cycle : t.cycle = s.cycle
  host : t.host = s.host
  tlb : ∀ n, (t.core n).tlb = (s.core n).tlb
  slices : t.mem.slices = s.mem.slices
  protmap : t.mem.protmap = s.mem.protmap

/-- The state in which a party's read of [pa, pa + len) has been at the homes, its reply to be there in cycle `c`. -/
def readBack (s : State) (x : Asker) (core c n limit pa len : Nat) : State := touchBytes ((unasked s x).reply core c n limit) pa len

theorem unasked_parts (s : State) (x : Asker) : ∃ asked, unasked s x = { s with mem := { s.mem with asked := asked } } := by
  unfold unasked
  split
  · exact ⟨_, rfl⟩
  · exact ⟨s.mem.asked, rfl⟩

/-- A reply leaves where nothing else than the homes has changed. -/
theorem answered_reply (s : State) (f : Fleet) (asked : List Asked) (core c n limit : Nat) :
    Answered s (State.reply { s with fleet := f, mem := { s.mem with asked := asked } } core c n limit) core c n limit := by
  refine ⟨fun p => ?_, replies_reply _ c n limit core, rfl, rfl, rfl, rfl, rfl, fun i => tlb_reply _ c n limit core i, rfl, rfl⟩
  exact (bank_reply _ c n limit core p).trans (bank_congr rfl p)

theorem answered_readBack {s : State} {pa len : Nat} (h : armedIn s pa len = []) (x : Asker) (core c n limit : Nat) :
    Answered s (readBack s x core c n limit pa len) core c n limit := by
  obtain ⟨asked, hasked⟩ := unasked_parts s x
  have harmed : armedIn ((unasked s x).reply core c n limit) pa len = [] := by
    rw [armedIn_reply, hasked]
    exact h
  obtain ⟨f, hf, -⟩ := woken_touchBytes harmed
  unfold readBack
  rw [hf, hasked]
  exact answered_reply s f asked core c n limit

end Sys2Proof.KernelMachine

namespace Sys2Proof.KernelMachine

open Sys2Proof Sys2Proof.Machine Sys2Proof.Claims

/-! ### CHAIN_WALK's request and its record (05 R140, R143; 17 R303) -/

section
variable {s : State} {b : BankId} {c : Nat} {h : Chain} {hs : List Chain} {pa : Nat}

theorem reachCopy_of_reaches {k : Nat} {a : Access} {va : W64} {n : Nat} (hr : CopyReaches s b c a va n pa) (hp : pieces va k n = [(va, n)]) :
    reachCopy s b c a (pieces va k n) = .ok [(pa, n)] := by
  rw [hp]
  exact hr.2

/-- The chain's request for its next record. -/
def recordAsked (s : State) (b : BankId) (c : Nat) (h : Chain) (hs : List Chain) (pa : Nat) : State :=
  s.setBank b ((s.bank b).setChan c { (s.bank b).chan c with
    heads := { h with ask := some ⟨s.cycle + homeTimes s.mem b.core [(pa, 64)], s.tick, s.deadline 2, s.mem.gen, [pa], none⟩ } :: hs })

theorem chainWalk_asks (hheads : ((s.bank b).chan c).heads = h :: hs) (hfail : ((s.bank b).chan c).fail = none)
    (hfault : ((s.bank b).chan c).fault = none) (hstart : h.start ≤ s.cycle) (hask : h.ask = none)
    (hr : CopyReaches s b c .write h.pos 64 pa) (hp : pieces h.pos 2 64 = [(h.pos, 64)]) : chainWalk s b c = recordAsked s b c h hs pa := by
  have hgoes : (((s.bank b).chan c).fail.isSome || ((s.bank b).chan c).fault.isSome || decide (s.cycle < h.start)) = false := by
    rw [hfail, hfault]
    simpa using hstart
  unfold chainWalk
  simp only [hheads, hgoes, Bool.false_eq_true, if_false, reachCopy_of_reaches hr hp, hask]
  rfl

theorem chainWalk_takes {a : Ask} (hheads : ((s.bank b).chan c).heads = h :: hs) (hfail : ((s.bank b).chan c).fail = none)
    (hfault : ((s.bank b).chan c).fault = none) (hstart : h.start ≤ s.cycle) (hask : h.ask = some a) (hdue : a.due ≤ s.cycle)
    (hr : CopyReaches s b c .write h.pos 64 pa) (hp : pieces h.pos 2 64 = [(h.pos, 64)]) (hfresh : ∀ l ∈ a.lines, staleMap s.mem a.gen l = false)
    (holder : (s.bank b).mem.older h.seq [(pa, 64)] = false) (hrows : (s.bank b).rowsBefore h.seq (some (h.pos.toNat, h.pos.toNat + 63)) = false)
    (hkept : keptAt s (walkerOf b c) [(pa, 64)] = none) : chainWalk s b c = takeRecord s b c h hs a [(pa, 64)] := by
  have hgoes : (((s.bank b).chan c).fail.isSome || ((s.bank b).chan c).fault.isSome || decide (s.cycle < h.start)) = false := by
    rw [hfail, hfault]
    simpa using hstart
  have hstale : a.lines.any (staleMap s.mem a.gen) = false := List.any_eq_false.mpr fun l hl => by simp [hfresh l hl]
  have hnow : ¬ (decide (s.cycle < a.due) || a.lines.any (staleMap s.mem a.gen) || (s.bank b).mem.older h.seq [(pa, 64)] ||
      (s.bank b).rowsBefore h.seq (some (h.pos.toNat, h.pos.toNat + 63))) = true := by
    rw [hstale, holder, hrows]
    simpa using hdue
  unfold chainWalk
  simp only [hheads, hgoes, Bool.false_eq_true, if_false, reachCopy_of_reaches hr hp, hask]
  rw [if_neg hnow, hkept]

/-- The state in which the record has been read at its home, its line on the way back. -/
def recordRead (s : State) (b : BankId) (c pa limit : Nat) : State :=
  readBack s (walkerOf b c) b.core (s.cycle + homeTimes s.mem b.core [(pa, 64)]) 1 limit pa 64

/-- The channel's next ID is given out. -/
def idTaken (u : State) (b : BankId) (c id : Nat) : State := modChan u b c (fun x => { x with nextId := id + 1 })

/-- The chains behind the one whose record is being read. -/
def laterChains (hs : List Chain) (back : Nat) : List Chain := hs.map (fun y => { y with start := max y.start back })

theorem takeRecord_eq {a : Ask} (hclean : CleanBytes s pa 64) (hseg : (s.ctx (s.bank b).ctxNum).nseg = 0) :
    takeRecord s b c h hs a [(pa, 64)] =
      let u := recordRead s b c pa a.limit
      let k := (s.bank b).chan c
      let r := readRecord h.pos (s.peek pa 64)
      let back := s.cycle + homeTimes s.mem b.core [(pa, 64)]
      if leAt (s.peek pa 64) 0 8 % 2 = 0 then checkRecords (modChan u b c (fun x => { x with heads := laterChains hs back })) b
      else if !recordOk (s.peek pa 64) then failChannel (idTaken u b c k.nextId) b c ⟨mkTrap .accessViolation 0, true⟩
      else checkRecords (modChan (idTaken u b c k.nextId) b c (fun x => { x with
        ready := k.ready ++ [⟨k.nextId, h.order, h.seq, r, [], 0, [], none, back, 0, 0, 0⟩]
        heads := if r.next = 0 then laterChains hs back else { h with pos := r.next, start := back, ask := none } :: hs })) b := by
  obtain ⟨harmed, hpoison⟩ := hclean
  have hread := answered_readBack harmed (walkerOf b c) b.core (s.cycle + homeTimes s.mem b.core [(pa, 64)]) 1 a.limit
  rw [← recordRead] at hread
  have hpeek : (recordRead s b c pa a.limit).peek pa 64 = s.peek pa 64 := by unfold State.peek; rw [hread.cells]
  have hsound : poisonedIn (recordRead s b c pa a.limit) pa 64 = false := by
    unfold poisonedIn
    rw [hread.poison]
    exact hpoison
  have hsegs : ((recordRead s b c pa a.limit).ctx (s.bank b).ctxNum).nseg = 0 := by
    unfold State.ctx
    rw [hread.ctxs]
    exact hseg
  have hhome : homeRead ((unasked s (walkerOf b c)).reply b.core (s.cycle + homeTimes s.mem b.core [(pa, 64)]) 1 a.limit) pa 64 =
      (s.peek pa 64, false, recordRead s b c pa a.limit) := by
    rw [← hpeek, ← hsound]
    rfl
  unfold takeRecord
  simp only [List.length_cons, List.length_nil, Nat.zero_add, List.foldl_cons, List.foldl_nil, hhome, List.nil_append, Bool.or_self,
    Bool.false_eq_true, if_false, touched_none hsegs]
  rfl

end

/-! #### The three ends of a record that has been read -/

section
variable {s u : State} {b : BankId} {c : Nat}

theorem answered_bank_modChan {core n limit at_ : Nat} (hu : Answered s u core at_ n limit) (f : Channel → Channel) :
    (modChan u b c f).bank b = (s.bank b).setChan c (f ((s.bank b).chan c)) := by
  rw [modChan, State.bank_modBank_same, hu.bank]

/-- The checks of a channel's change after a read. -/
theorem checked_modChan {core n limit at_ : Nat} (hu : Answered s u core at_ n limit) (f : Channel → Channel) :
    (checkRecords (modChan u b c f) b).bank b = checkedNow s b ((s.bank b).setChan c (f ((s.bank b).chan c))) ∧
      ((checkRecords (modChan u b c f) b).core core).replies = (s.core core).replies ++ [(at_, n, limit)] := by
  have hbank := answered_bank_modChan hu f (b := b) (c := c)
  constructor
  · rw [checkRecords_bank (s := s) (t := modChan u b c f) hu.ctxs (by rw [hbank]; rfl), hbank]
  · rw [replies_checkRecords, modChan, replies_modBank, hu.replies]

/-- The channel with a record accepted under its next ID. -/
theorem checked_idTaken {core n limit at_ id : Nat} (hc : c < 4) (hu : Answered s u core at_ n limit) (f : Channel → Channel) :
    (checkRecords (modChan (idTaken u b c id) b c f) b).bank b =
      checkedNow s b ((s.bank b).setChan c (f { (s.bank b).chan c with nextId := id + 1 })) := by
  have hbank : (modChan (idTaken u b c id) b c f).bank b = (s.bank b).setChan c (f { (s.bank b).chan c with nextId := id + 1 }) := by
    rw [modChan, State.bank_modBank_same, idTaken, answered_bank_modChan hu, Bank.chan_setChan_at hc, Bank.setChan_setChan]
  rw [checkRecords_bank (s := s) (t := modChan (idTaken u b c id) b c f) hu.ctxs (by rw [hbank]; rfl), hbank]

/-- The channel in its error state, the failed record's ID given out. -/
theorem failed_idTaken {core n limit at_ id : Nat} {f : Failure} (hc : c < 4) (hu : Answered s u core at_ n limit) :
    (failChannel (idTaken u b c id) b c f).bank b = checkedNow s b { (s.bank b).setChan c { (s.bank b).chan c with
      nextId := id + 1, heads := [], fail := some f } with badWalks := (s.bank b).badWalks.filter (fun y => y.2 != .chan b c) } := by
  obtain ⟨asked, hasked⟩ := unasked_parts (idTaken u b c id) (walkerOf b c)
  have hbank : (inError (idTaken u b c id) b c f).bank b = { (s.bank b).setChan c { (s.bank b).chan c with
      nextId := id + 1, heads := [], fail := some f } with badWalks := (s.bank b).badWalks.filter (fun y => y.2 != .chan b c) } := by
    have hbefore : (unasked (idTaken u b c id) (walkerOf b c)).bank b = (s.bank b).setChan c { (s.bank b).chan c with nextId := id + 1 } :=
      ((unitsStand_unasked _ _).2 b).trans (answered_bank_modChan hu _)
    rw [inError, State.bank_modBank_same, hbefore, Bank.chan_setChan_at hc, Bank.setChan_setChan]
    rfl
  have hctxs : (inError (idTaken u b c id) b c f).ctxs = s.ctxs := by
    unfold inError
    rw [hasked]
    exact hu.ctxs
  have hcheck := checkRecords_bank (s := s) (b := b) hctxs (by rw [hbank]; rfl)
  rw [hbank] at hcheck
  rw [(failChannel_eq (idTaken u b c id) b c f).2.bank, hcheck]

end

/-- A chain asks for its next record, and takes it, or ends or fails at it, once that has been read; a record that starts. -/
theorem chainsAreWalked : Claims.ChainsAreWalked := by
  intro b i h hs pa s
  dsimp only
  have hc : i.toNat < 4 := i.isLt
  refine ⟨fun hheads hfail hfault hstart hask hr hp => ?_, fun a hheads hfail hfault hstart hask hdue hseg hr hclean hfresh hp holder hrows hkept => ?_,
    fun x rest hrun hready hfault hsegs hstart => ⟨fun hturn => ?_, fun hdet hverdict => ?_⟩⟩
  · refine next_busy (congrArg (fun t => Host.Outcome.next (copyEnds t b)) (chainWalk_asks hheads hfail hfault hstart hask hr hp)) hc ?_
    rw [State.bank_setBank_same, Bank.chan_setChan_at hc]
    rfl
  · have hexec : exec (.chainWalk b i) s = .next (copyEnds (takeRecord s b i.toNat h hs a [(pa, 64)]) b) :=
      congrArg (fun t => Host.Outcome.next (copyEnds t b)) (chainWalk_takes hheads hfail hfault hstart hask hdue hr hp hfresh holder hrows hkept)
    have hread : Answered s (recordRead s b i.toNat pa a.limit) b.core (s.cycle + homeTimes s.mem b.core [(pa, 64)]) 1 a.limit :=
      answered_readBack hclean.1 _ _ _ _ _
    rw [hexec, takeRecord_eq hclean hseg]
    dsimp only
    refine ⟨fun hown => ⟨_, rfl, ?_⟩, fun hown hok => ⟨_, rfl, ?_⟩, fun hown hbad _ => ⟨_, rfl, ?_⟩⟩
    · rw [if_pos hown, copyEnds_bank, copyEnds_core]
      exact checked_modChan hread _
    · rw [if_neg (by omega), hok, copyEnds_bank]
      exact checked_idTaken hc hread _
    · rw [if_neg (by omega), hbad, copyEnds_bank]
      exact failed_idTaken hc hread
  · refine next_busy (congrArg (fun t => Host.Outcome.next (copyEnds t b)) (recordStart_starts hrun hready hfault hsegs hstart hturn)) hc ?_
    rw [State.bank_setBank_same, Bank.chan_setChan_at hc]
    simp [Channel.busy]
  · refine next_busy (congrArg (fun t => Host.Outcome.next (copyEnds t b)) (recordStart_unchecked hrun hready hdet hverdict)) hc ?_
    simp [Channel.busy, hready]

end Sys2Proof.KernelMachine

namespace Sys2Proof.KernelMachine

open Sys2Proof Sys2Proof.Machine Sys2Proof.Claims

/-! ### What a channel's translation goes by (05 R141) -/

/-- What a channel's translation reads stands. -/
structure SameReach (b : BankId) (s t : State) : Prop where
  badWalks : (t.bank b).badWalks = (s.bank b).badWalks
  ctxNum : (t.bank b).ctxNum = (s.bank b).ctxNum
  launchId : (t.bank b).launchId = (s.bank b).launchId
  tlb : (t.core b.core).tlb = (s.core b.core).tlb
  host : t.host = s.host
  slices : t.mem.slices = s.mem.slices
  protmap : t.mem.protmap = s.mem.protmap

section
variable {b : BankId} {s t u : State}

theorem SameReach.refl (b : BankId) (s : State) : SameReach b s s := ⟨rfl, rfl, rfl, rfl, rfl, rfl, rfl⟩

theorem SameReach.trans (h : SameReach b s t) (h' : SameReach b t u) : SameReach b s u :=
  ⟨h'.badWalks.trans h.badWalks, h'.ctxNum.trans h.ctxNum, h'.launchId.trans h.launchId, h'.tlb.trans h.tlb, h'.host.trans h.host,
    h'.slices.trans h.slices, h'.protmap.trans h.protmap⟩

theorem SameReach.of_answered {core c n limit : Nat} (h : Answered s t core c n limit) : SameReach b s t :=
  ⟨by rw [h.bank], by rw [h.bank], by rw [h.bank], h.tlb _, h.host, h.slices, h.protmap⟩

theorem tlb_setBank (s : State) (b : BankId) (x : Bank) (n : Nat) : ((s.setBank b x).core n).tlb = (s.core n).tlb := by
  rw [State.core_setBank]
  split
  · next h => subst h; cases b.slot <;> rfl
  · rfl

theorem sameReach_putRunning (s : State) (b : BankId) (c : Nat) (r : Accepted) : SameReach b s (putRunning s b c r) := by
  refine ⟨?_, ?_, ?_, tlb_setBank s b _ b.core, rfl, rfl, rfl⟩ <;> rw [putRunning, State.bank_modBank_same] <;> rfl

theorem translate_congr (h : SameReach b s t) (ctx : Nat) (l : Option Launch) (va : W64) (a : Access) :
    Machine.translate t b.core ctx l va a = Machine.translate s b.core ctx l va a := by
  unfold Machine.translate scratchWay frameExists State.slice
  rw [h.tlb, h.slices, h.protmap]

/-- What a channel reaches it reaches while that stands. -/
theorem reachCopy_congr (h : SameReach b s t) {c : Nat} {a : Access} {l : List (W64 × Nat)} {ps : List (Nat × Nat)}
    (hr : reachCopy s b c a l = .ok ps) : reachCopy t b c a l = .ok ps := by
  have hlaunch : t.launchOf b = s.launchOf b := by
    unfold State.launchOf State.launch?
    rw [h.launchId, h.host]
  have hbad : ∀ va, (t.bank b).badPage (.chan b c) va = (s.bank b).badPage (.chan b c) va := fun va => by
    unfold Bank.badPage
    rw [h.badWalks]
  induction l generalizing ps with
  | nil => exact hr
  | cons p l ih =>
    unfold reachCopy at hr ⊢
    dsimp only at hr ⊢
    rw [hbad, h.ctxNum, hlaunch, translate_congr h]
    split at hr
    · exact absurd hr (by simp)
    · next hgood =>
      rw [if_neg hgood]
      cases htr : Machine.translate s b.core (s.bank b).ctxNum (s.launchOf b) p.1 a with
      | ok pa =>
        rw [htr] at hr
        dsimp only at hr ⊢
        cases hrest : reachCopy s b c a l with
        | ok qs =>
          rw [hrest] at hr
          rw [ih hrest]
          exact hr
        | wait | stop _ | fails _ =>
          rw [hrest] at hr
          exact absurd hr (by simp)
      | forbidden | held | miss =>
        rw [htr] at hr
        exact absurd hr (by simp)

end

/-! ### A record of one run (05 R139) -/

section
variable {r : Accepted} {n : Nat}

theorem runs_one (he : r.xfer.e = [n, 1, 1, 1]) : r.xfer.runs = 1 := by
  unfold Record.runs
  rw [he]
  rfl

/-- Offsets that are no steps of any dimension. -/
theorem no_steps (ks : List Int) : ((([0, 0, 0] : List Nat).zip ks).map (fun x => (x.1 : Int) * x.2)).sum = 0 := by
  refine List.sum_eq_zero fun y hy => ?_
  obtain ⟨⟨i, k⟩, hx, rfl⟩ := List.mem_map.mp hy
  have hi : i = 0 := by simpa using (List.of_mem_zip hx).1
  rw [hi]
  exact Int.zero_mul k

theorem run_first (he : r.xfer.e = [n, 1, 1, 1]) : r.xfer.run 0 = (r.xfer.src, r.xfer.dst) := by
  have hoff : ∀ ks : List Int, w64 (((([0, 0, 0] : List Nat).zip ks).map (fun x => (x.1 : Int) * x.2)).sum * ((1 <<< r.xfer.shift : Nat) : Int)) = 0 := fun ks => by
    rw [no_steps, Int.zero_mul]
    rfl
  have hindex : [0 % r.xfer.e.getD 1 1, 0 / r.xfer.e.getD 1 1 % r.xfer.e.getD 2 1, 0 / r.xfer.e.getD 1 1 / r.xfer.e.getD 2 1] = [0, 0, 0] := by
    rw [he]
    simp
  unfold Record.run
  dsimp only
  rw [hindex, hoff, hoff]
  simp

end

/-- A bank with no requests and no stores under way keeps none of its channels waiting. -/
theorem older_idle {m : BankMem} (hreqs : m.reqs = []) (hdirty : m.dirty = []) (hsent : m.sent = []) (seq : Nat) (ps : List (Nat × Nat)) :
    m.older seq ps = false := by
  unfold BankMem.older BankMem.storesBefore
  rw [hreqs, hdirty, hsent]
  rfl

theorem Cells.read_eq_map (l : List Host.Cell) (a n : Nat) : Cells.read l a n = (List.range n).map (fun i => Cells.get l (a + i)) := by
  induction n generalizing a with
  | zero => rfl
  | succ n ih =>
    rw [Cells.read, ih, List.range_succ_eq_map, List.map_cons, List.map_map]
    refine congrArg (Cells.get l a :: ·) (List.map_congr_left fun i _ => ?_)
    exact congrArg (Cells.get l) (by omega)

/-- With nothing of its own to see, a bank's copy reads memory. -/
theorem copyByte_plain {s : State} {m : BankMem} (hown : m.own = []) (hlines : m.lines = []) (hcopied : m.copied = []) (seq f pa : Nat) :
    copyByte s m [] seq f pa = s.byteAt pa := by
  unfold copyByte
  rw [hown, hlines, hcopied]
  rfl

section
variable {s : State} {b : BankId} {c : Nat} {r : Accepted} {n src dst : Nat}

/-- What the run has to write, its source in `q` or its bytes `d`. -/
def runOut (s : State) (r : Accepted) (n dst : Nat) (q : List (Nat × Nat)) (d : List Byte) : OutRun :=
  ⟨r.xfer.src, q, [(dst, n)], d, s.tick, s.deadline 2, s.mem.gen⟩

/-- When the run's bytes can be at their destination's homes (17 R303). -/
def runThere (s : State) (b : BankId) (n src dst : Nat) : Nat := s.cycle + homeTimes s.mem b.core [(src, n)] + homeTimes s.mem b.core [(dst, n)]

/-- The state in which the run's source has been at its homes. -/
def runTouched (s : State) (b : BankId) (c n src : Nat) : State := touchBytes (unasked s (.record b c)) src n

/-- The state in which the run's source has been read, its reply on the way, a free value used. -/
def runRead (s : State) (b : BankId) (c : Nat) (r : Accepted) (n src : Nat) : State :=
  ((runTouched s b c n src).reply b.core (s.cycle + homeTimes s.mem b.core [(src, n)]) 1 r.limit).fresh.2

theorem runTouched_parts (h : armedIn s src n = []) : ∃ f asked, runTouched s b c n src = { s with fleet := f, mem := { s.mem with asked := asked } } := by
  obtain ⟨asked, hasked⟩ := unasked_parts s (.record b c)
  have harmed : armedIn (unasked s (.record b c)) src n = [] := by
    rw [hasked]
    exact h
  obtain ⟨f, hf, -⟩ := woken_touchBytes harmed
  rw [runTouched, hf, hasked]
  exact ⟨f, asked, rfl⟩

theorem answered_runRead (h : armedIn s src n = []) :
    Answered s (runRead s b c r n src) b.core (s.cycle + homeTimes s.mem b.core [(src, n)]) 1 r.limit := by
  obtain ⟨f, asked, hparts⟩ := runTouched_parts (b := b) (c := c) h
  have hread := answered_reply s f asked b.core (s.cycle + homeTimes s.mem b.core [(src, n)]) 1 r.limit
  rw [← hparts] at hread
  exact ⟨hread.bank, hread.replies, hread.cells, hread.poison, hread.ctxs, hread.cycle, hread.host, hread.tlb, hread.slices, hread.protmap⟩

section
variable (he : r.xfer.e = [n, 1, 1, 1]) (hruns : r.runs = 0)
  (hsrc : CopyReaches s b c .read r.xfer.src n src) (hdst : CopyReaches s b c .write r.xfer.dst n dst)
  (hidle : ∀ seq ps, (s.bank b).mem.older seq ps = false)
  (hdrows : (s.bank b).rowsBefore r.seq r.xfer.dstInt = false) (hsrows : (s.bank b).rowsBefore r.seq r.xfer.srcInt = false)
  (hgone : r.start + homeTimes s.mem b.core [(src, n)] ≤ s.cycle)
include he hruns hsrc hdst hidle hdrows hsrows hgone

/-- With ACQ the run's source is read when it is written. -/
theorem copyRun_acq (hacq : r.xfer.flags = 1) : copyRun s b c r = .done s (runOut s r n dst [(src, n)] []) (runThere s b n src dst) := by
  unfold copyRun
  simp only [he, hruns, run_first he, List.headD_cons, reachCopy_of_reaches hsrc hsrc.1, reachCopy_of_reaches hdst hdst.1, hacq, hidle, hdrows, hsrows,
    if_neg (Nat.not_lt.mpr hgone), Bool.or_false, decide_eq_true_eq]
  rfl

/-- Without it the source is read as the bank sees it. -/
theorem copyRun_plain (hflags : r.xfer.flags = 0) (hout : r.out = []) (hown : (s.bank b).mem.own = []) (hlines : (s.bank b).mem.lines = [])
    (hcopied : (s.bank b).mem.copied = []) (hclean : CleanBytes s src n) (hnow : staleMap s.mem r.gen src = false)
    (hkept : keptAt s (.record b c) [(src, n)] = none) :
    copyRun s b c r = .done (runRead s b c r n src) (runOut s r n dst [] (s.peek src n)) (runThere s b n src dst) := by
  have hread := answered_runRead (b := b) (c := c) (r := r) hclean.1
  have hsound : poisonedIn (runTouched s b c n src) src n = false := by
    obtain ⟨f, asked, hparts⟩ := runTouched_parts (b := b) (c := c) hclean.1
    rw [hparts]
    exact hclean.2
  have hdata : (List.range n).map (fun i => copyByte (runRead s b c r n src) (s.bank b).mem [] r.seq (Config.freeNat (runTouched s b c n src).freeCtr) (src + i)) =
      s.peek src n := by
    rw [State.peek, Cells.read_eq_map]
    refine List.map_congr_left fun i _ => ?_
    rw [copyByte_plain hown hlines hcopied, State.byteAt, hread.cells]
  have htouched : touchBytes (unasked s (.record b c)) src n = runTouched s b c n src := rfl
  have hcycle : (runTouched s b c n src).cycle = s.cycle := by
    obtain ⟨f, asked, hparts⟩ := runTouched_parts (b := b) (c := c) hclean.1
    rw [hparts]
  unfold copyRun
  simp only [he, hruns, run_first he, List.headD_cons, reachCopy_of_reaches hsrc hsrc.1, reachCopy_of_reaches hdst hdst.1, hidle, hdrows, hsrows,
    if_neg (Nat.not_lt.mpr hgone), Bool.or_false, decide_eq_true_eq, List.any_cons, List.any_nil, hnow, hflags, hkept, hout,
    Nat.zero_mod, beq_iff_eq, zero_ne_one, Bool.false_eq_true, if_false, List.foldl_cons, List.foldl_nil, htouched, hcycle, hsound]
  rw [← hdata, runOut, ← List.append_nil (List.map _ _)]
  rfl

end

end

end Sys2Proof.KernelMachine

namespace Sys2Proof.KernelMachine

open Sys2Proof Sys2Proof.Machine Sys2Proof.Claims

/-! ### RECORD_COMPLETE while its run is read (05 R139; 17 R303) -/

section
variable {s t u : State} {b : BankId} {c : Nat} {r : Accepted} {rec0 : Nat}

theorem putRunning_running (hc : c < 4) (s : State) (b : BankId) (r : Accepted) : (((putRunning s b c r).bank b).chan c).running = some r := by
  rw [putRunning, State.bank_modBank_same, Bank.chan_setChan_at hc]

theorem recordComplete_runs (hrun : ((s.bank b).chan c).running = some r) (hfault : ((s.bank b).chan c).fault = none)
    (hfail : ((s.bank b).chan c).fail = none) : recordComplete s b c = copyRuns 4096 s b c := by
  unfold recordComplete
  simp only [hrun, hfault, hfail, Option.isSome_none, Bool.false_eq_true, if_false]

theorem copyRuns_ended {f : Nat} (hrun : ((u.bank b).chan c).running = some r) (hended : r.xfer.runs ≤ r.runs) :
    copyRuns (f + 1) u b c = finishRecord u b c r := by
  simp only [copyRuns, hrun, ge_iff_le, if_pos hended]

/-- What a record has to write waits for its way to the homes. -/
theorem finishRecord_waits (hr : reachCopy u b c .write (pieces r.xfer.va 2 64) = .ok [(rec0, 64)]) (hout : r.out ≠ []) (hready : u.cycle < r.ready) :
    finishRecord u b c r = u := by
  have hsome : (!r.out.isEmpty) = true := by simpa using hout
  have hwait : writeOut u b c r = .wait u := by
    unfold writeOut
    rw [if_pos hready]
  unfold finishRecord
  simp only [hr, hsome, if_true, hwait]

/-- A record's only run is read; what it has to write waits. -/
theorem copyRuns_reads {f : Nat} {o : OutRun} {ready : Nat} (hc : c < 4) (hrun : ((s.bank b).chan c).running = some r) (hone : r.xfer.runs = 1)
    (hruns : r.runs = 0) (hcopy : copyRun s b c r = .done t o ready) (hsame : SameReach b s t)
    (hr : reachCopy s b c .write (pieces r.xfer.va 2 64) = .ok [(rec0, 64)]) (hready : t.cycle < ready) :
    copyRuns (f + 2) s b c = putRunning t b c { r with runs := 1, out := r.out ++ [o], ready := max r.ready ready } := by
  have hmore : ¬ 1 ≤ r.runs := by omega
  have hfirst : copyRuns (f + 2) s b c = copyRuns (f + 1) (putRunning t b c { r with runs := 1, out := r.out ++ [o], ready := max r.ready ready }) b c := by
    rw [copyRuns]
    simp only [hrun, hone, ge_iff_le, if_neg hmore, hcopy]
    rw [hruns]
  rw [hfirst, copyRuns_ended (putRunning_running hc t b _) (Nat.le_of_eq hone)]
  exact finishRecord_waits (reachCopy_congr (hsame.trans (sameReach_putRunning t b c _)) hr) (by simp) (lt_max_of_lt_right hready)

/-- The step of a record whose only run is read. -/
theorem recordComplete_reads {o : OutRun} {ready : Nat} (hc : c < 4) (hrun : ((s.bank b).chan c).running = some r)
    (hfault : ((s.bank b).chan c).fault = none) (hfail : ((s.bank b).chan c).fail = none) (hone : r.xfer.runs = 1)
    (hruns : r.runs = 0) (hout : r.out = []) (hcopy : copyRun s b c r = .done t o ready) (hsame : SameReach b s t)
    (hr : reachCopy s b c .write (pieces r.xfer.va 2 64) = .ok [(rec0, 64)]) (hready : t.cycle < ready) :
    recordComplete s b c = putRunning t b c { r with runs := 1, out := [o], ready := max r.ready ready } := by
  rw [recordComplete_runs hrun hfault hfail, show (4096 : Nat) = 4094 + 2 from rfl, copyRuns_reads hc hrun hone hruns hcopy hsame hr hready, hout,
    List.nil_append]

end

/-! ### What a record writes (05 R139, R142; 11 R249, R257) -/

/-- What a copy's write of no identity does: its bytes at their home. -/
theorem copyWrite_puts {u : State} {b : BankId} (hdet : (u.ctxOf b).det = false) (seq pa : Nat) (d : List Byte) :
    HomeAct b u (copyWrite u b seq pa d) ∧ (copyWrite u b seq pa d).mem.cells = Cells.write u.mem.cells pa d := by
  have hid : identOf u b = none := by
    unfold identOf
    rw [hdet]
    rfl
  obtain ⟨hact, hcells⟩ := bankWrite_puts u b false seq pa d
  have hplain : bankWrite u b none false seq pa d = ownWrite u b none seq pa d := rfl
  rw [hplain] at hact hcells
  unfold copyWrite
  rw [hid]
  exact ⟨hact.modBank _ (fun _ => rfl) (fun _ => rfl) (fun _ => rfl) (fun _ => rfl), hcells⟩

end Sys2Proof.KernelMachine

namespace Sys2Proof.KernelMachine

open Sys2Proof Sys2Proof.Machine Sys2Proof.Claims

/-! ### RECORD_COMPLETE where its run's bytes come to their homes (05 R139; 11 R257, R259) -/

section
variable {s u w : State} {b : BankId} {c n src dst rec0 seq : Nat} {r : Accepted} {o : OutRun} {d : List Byte}

/-- A run's bytes at their destination. -/
theorem writeRun_puts (hdet : (u.ctxOf b).det = false) (hdst : o.dst = [(dst, n)]) (hlen : d.length = n) :
    (writeRun u b seq o d).mem.cells = Cells.write u.mem.cells dst d := by
  have hall : d.take n = d := List.take_of_length_le (Nat.le_of_eq hlen)
  have hdet' : ((u.reply b.core (u.cycle + homeTimes u.mem b.core o.dst) o.dst.length o.limit).ctxOf b).det = false := by
    unfold State.ctxOf
    rw [bank_reply]
    exact hdet
  have hrun : writeRun u b seq o d = copyWrite (u.reply b.core (u.cycle + homeTimes u.mem b.core o.dst) o.dst.length o.limit) b seq dst d := by
    unfold writeRun
    simp only [hdst, splitData, hall, List.foldl_cons, List.foldl_nil]
  rw [hrun]
  exact (copyWrite_puts hdet' seq dst d).2

/-- What the run of a record has to write: its bytes, or with ACQ its source, which is as it stands. -/
def RunGives (s : State) (n src : Nat) (o : OutRun) (d : List Byte) : Prop :=
  (o.src = [] ∧ o.data = d) ∨ (o.src = [(src, n)] ∧ CleanBytes s src n ∧ staleMap s.mem o.gen src = false ∧ d = s.peek src n)

/-- The run's bytes come to their homes, with ACQ once its source has been read there. -/
theorem flushOut_puts (hdet : (s.ctxOf b).det = false) (hgives : RunGives s n src o d) (hdst : o.dst = [(dst, n)]) (hlen : d.length = n) :
    ∃ w, flushOut (unasked s (.record b c)) b seq [o] = (w, none) ∧ w.mem.cells = Cells.write s.mem.cells dst d := by
  obtain ⟨asked, hasked⟩ := unasked_parts s (.record b c)
  rcases hgives with ⟨hnone, hdata⟩ | ⟨hsome, ⟨harmed, hpoison⟩, -, hpeek⟩
  · refine ⟨writeRun (unasked s (.record b c)) b seq o d, ?_, ?_⟩
    · simp only [flushOut, hnone, hdata, List.isEmpty_nil, if_true]
    · rw [hasked]
      exact writeRun_puts hdet hdst hlen
  · have hread := answered_readBack harmed (.record b c) b.core
      ((unasked s (.record b c)).cycle + homeTimes (unasked s (.record b c)).mem b.core [(src, n)]) 1 o.limit
    generalize hu : readBack s (.record b c) b.core
      ((unasked s (.record b c)).cycle + homeTimes (unasked s (.record b c)).mem b.core [(src, n)]) 1 o.limit src n = u at hread
    have hfold : [(src, n)].foldl (fun s p => touchBytes s p.1 p.2) ((unasked s (.record b c)).reply b.core
        ((unasked s (.record b c)).cycle + homeTimes (unasked s (.record b c)).mem b.core [(src, n)]) [(src, n)].length o.limit) = u := hu
    have hsound : [(src, n)].any (fun p => poisonedIn u p.1 p.2) = false := by
      have hclean : poisonedIn u src n = false := by
        unfold poisonedIn
        rw [hread.poison]
        exact hpoison
      simp [hclean]
    have hbytes : [(src, n)].flatMap (fun p => u.peek p.1 p.2) = d := by
      rw [hpeek, List.flatMap_singleton, State.peek, State.peek, hread.cells]
    have hdet' : (u.ctxOf b).det = false := by
      unfold State.ctxOf State.ctx
      rw [hread.bank, hread.ctxs]
      exact hdet
    refine ⟨writeRun u b seq o d, ?_, ?_⟩
    · simp only [flushOut, hsome, hfold, hsound, hbytes, List.isEmpty_cons, Bool.false_eq_true, if_false]
    · rw [writeRun_puts hdet' hdst hlen, hread.cells]

/-- A record's bytes come to their homes in one step, after which it ends at its own. -/
theorem finishRecord_writes (hr : reachCopy s b c .write (pieces r.xfer.va 2 64) = .ok [(rec0, 64)]) (hout : r.out = [o])
    (hrel : bits r.xfer.flags 1 1 ≠ 1) (hready : r.ready ≤ s.cycle) (hnow : ∀ p ∈ o.src ++ o.dst, staleMap s.mem o.gen p.1 = false)
    (hkept : keptAt s (.record b c) (o.src ++ o.dst) = none) (hflush : flushOut (unasked s (.record b c)) b r.seq [o] = (w, none)) :
    finishRecord s b c r = putRunning (putRunning w b c { r with out := [] }) b c
      { r with out := [], ready := s.cycle + homeTime s.mem b.core rec0, limit := s.deadline 2, gen := s.mem.gen } := by
  have hstale : ¬ ([o].any (fun o => (o.src ++ o.dst).any (fun p => staleMap s.mem o.gen p.1))) = true := by
    rw [List.any_cons, List.any_nil, Bool.or_false, Bool.not_eq_true]
    exact List.any_eq_false.mpr fun p hp => by simp [hnow p hp]
  have hwrite : writeOut s b c r = .done (putRunning w b c { r with out := [] }) none := by
    unfold writeOut
    rw [if_neg (Nat.not_lt.mpr hready), hout, if_neg hstale, List.flatMap_singleton, hkept, hflush]
  have hsome : (!r.out.isEmpty) = true := by rw [hout]; rfl
  unfold finishRecord
  simp only [hr, hsome, if_true, hwrite, if_neg hrel]
  rfl

end

/-! ### RECORD_COMPLETE where a record ends (05 R139, R142) -/

theorem and_fe (x : Byte) : x &&& 0xFE = BitVec.ofNat 8 (x.toNat / 2 * 2) := by
  revert x
  decide

/-- The number of a list of bytes without its lowest bit. -/
theorem leBytes_even (x : Byte) (l : List Byte) : leBytes (l.length + 1) (leNat (x :: l) / 2 * 2) = (x &&& 0xFE) :: l := by
  have hx := x.isLt
  have hlow : BitVec.ofNat 8 (leNat (x :: l) / 2 * 2) = x &&& 0xFE := by
    rw [and_fe, leNat]
    apply BitVec.eq_of_toNat_eq
    rw [BitVec.toNat_ofNat, BitVec.toNat_ofNat]
    omega
  have hhigh : leNat (x :: l) / 2 * 2 / 256 = leNat l := by
    rw [leNat]
    omega
  rw [leBytes, hlow, hhigh, leBytes_leNat]

section
variable {s : State} {b : BankId} {c n rec0 : Nat} {r : Accepted}

/-- The record's first eight bytes with its OWN bit clear. -/
def ownCleared (s : State) (a : Nat) : List Byte := leBytes 8 (leNat (s.peek a 8) / 2 * 2)

/-- The OWN bit is the lowest of a record's first byte. -/
theorem ownCleared_eq (s : State) (a : Nat) : ownCleared s a = (s.byteAt a &&& 0xFE) :: s.peek (a + 1) 7 := by
  have hbytes := leBytes_even (s.byteAt a) (s.peek (a + 1) 7)
  rw [length_peek] at hbytes
  exact hbytes

theorem byteAt_ownCleared {t : State} {a : Nat} (h : Stored s t a (ownCleared s a)) (i : Nat) :
    t.byteAt i = if i = a then s.byteAt i &&& 0xFE else s.byteAt i := by
  rw [h i, ownCleared_eq, List.length_cons, length_peek]
  by_cases ha : i = a
  · rw [if_pos (by omega), if_pos ha, ha, Nat.sub_self]
    rfl
  · rw [if_neg ha]
    split
    · obtain ⟨j, hj⟩ : ∃ j, i - a = j + 1 := ⟨i - a - 1, by omega⟩
      rw [hj, List.getD_cons_succ, State.peek, Cells.getD_read _ _ _ _ (by omega), show a + 1 + j = i by omega]
      rfl
    · rfl

/-- The state in which the record's end has been sent: OWN is clear. -/
def recordEnded (s : State) (b : BankId) (c : Nat) (r : Accepted) (a : Nat) : State :=
  let u := (unasked s (.record b c)).reply b.core (s.cycle + homeTime s.mem b.core a) 1 r.limit
  copyWrite u b r.seq a (ownCleared u a)

/-- The channel without its record, which is complete. -/
def recordDone (c : Nat) (r : Accepted) (k : Bank) : Bank :=
  { k.setChan c { k.chan c with running := none, complete := r.id } with
    check := k.check.map (fun x => if x.ch = c && x.id = r.id then { x with state := some true } else x) }

theorem recordDone_chan (hc : c < 4) (r : Accepted) (k : Bank) : (recordDone c r k).chan c = { k.chan c with running := none, complete := r.id } :=
  Bank.chan_setChan_at hc k _

/-- The record's semaphore, where it names one, rises. -/
def recordSignals (s : State) (ctx : Nat) (r : Accepted) : State := if r.xfer.sem = 0xFFFF then s else semAdd s ctx r.xfer.sem 1

theorem finishRecord_ends (hr : reachCopy s b c .write (pieces r.xfer.va 2 64) = .ok [(rec0, 64)]) (hout : r.out = []) (hsegs : r.segs = [])
    (hrel : bits r.xfer.flags 1 1 ≠ 1) (hready : r.ready ≤ s.cycle) (hidle : ∀ seq ps, (s.bank b).mem.older seq ps = false)
    (hnow : staleMap s.mem r.gen rec0 = false) (hkept : keptAt s (.record b c) [(rec0, 8)] = none) :
    finishRecord s b c r = recordSignals ((recordEnded s b c r rec0).modBank b (recordDone c r)) (s.bank b).ctxNum r := by
  unfold finishRecord
  simp only [hr, hout, List.isEmpty_nil, Bool.not_true, Bool.false_eq_true, if_false, List.headD_cons, decide_eq_false hrel, Bool.false_and, hidle,
    Bool.or_false, decide_eq_true_eq, if_neg (Nat.not_lt.mpr hready), hnow, hkept, hsegs]
  rfl

theorem recordSignals_bank (s : State) (ctx : Nat) (r : Accepted) (p : BankId) : (recordSignals s ctx r).bank p = s.bank p := by
  unfold recordSignals
  split <;> rfl

theorem recordSignals_byteAt (s : State) (ctx : Nat) (r : Accepted) (a : Nat) : (recordSignals s ctx r).byteAt a = s.byteAt a := by
  unfold recordSignals
  split <;> rfl

/-- Of a context's semaphores the record's alone rises. -/
theorem recordSignals_sem (s : State) (ctx : Nat) (r : Accepted) {j : Nat} (hj : j < 1024) :
    ((recordSignals s ctx r).ctx ctx).sem j = if j = r.xfer.sem then { (s.ctx ctx).sem j with val := ((s.ctx ctx).sem j).val + 1 } else (s.ctx ctx).sem j := by
  unfold recordSignals
  split
  · next hnone => rw [if_neg (by omega)]
  · rw [semAdd, State.ctx_modCtx, if_pos rfl, Ctx.sem, kupd, kget_kset]
    split
    · next hsem => rw [hsem]; rfl
    · rfl

theorem recordEnded_parts (hdet : (s.ctxOf b).det = false) (r : Accepted) (a : Nat) (hs : Safety.MemoryCanonical s) :
    (recordEnded s b c r a).ctxs = s.ctxs ∧ Stored s (recordEnded s b c r a) a (ownCleared s a) := by
  obtain ⟨asked, hasked⟩ := unasked_parts s (.record b c)
  have hreply : Answered s ((unasked s (.record b c)).reply b.core (s.cycle + homeTime s.mem b.core a) 1 r.limit) b.core
      (s.cycle + homeTime s.mem b.core a) 1 r.limit := by
    rw [hasked]
    exact answered_reply s s.fleet asked b.core _ 1 r.limit
  unfold recordEnded
  dsimp only
  generalize (unasked s (.record b c)).reply b.core (s.cycle + homeTime s.mem b.core a) 1 r.limit = u at hreply
  have hdet' : (u.ctxOf b).det = false := by
    unfold State.ctxOf State.ctx
    rw [hreply.bank, hreply.ctxs]
    exact hdet
  obtain ⟨hact, hcells⟩ := copyWrite_puts hdet' r.seq a (ownCleared u a)
  have hown : ownCleared u a = ownCleared s a := by
    unfold ownCleared State.peek
    rw [hreply.cells]
  rw [hown, hreply.cells] at hcells
  rw [hown] at hact ⊢
  exact ⟨hact.ctxs.trans hreply.ctxs, stored_of_cells hs hcells⟩

end

end Sys2Proof.KernelMachine

namespace Sys2Proof.KernelMachine

open Sys2Proof Sys2Proof.Machine Sys2Proof.Claims

/-! ### A record of one run from its first read to its end (05 R138–R142) -/

theorem release_clear {f : Nat} (h : f ≤ 1) : bits f 1 1 ≠ 1 := by
  have hnone : bits f 1 1 = 0 := by
    unfold bits
    rw [Nat.shiftRight_eq_div_pow, Nat.div_eq_of_lt (by omega), Nat.zero_mod]
  rw [hnone]
  decide

/-- A channel's step that leaves the record running as `r`. -/
theorem copy_runs {s t : State} {b : BankId} {i : BitVec 2} {r : Accepted} (h : recordComplete s b i.toNat = putRunning t b i.toNat r) :
    ∃ u, exec (.recordComplete b i) s = .next u ∧ ((u.bank b).chan i.toNat).running = some r ∧
      (u.core b.core).replies = (t.core b.core).replies ∧ ∀ a, u.byteAt a = t.byteAt a := by
  refine ⟨_, congrArg (fun t => Host.Outcome.next (copyEnds t b)) h, ?_, ?_, fun a => ?_⟩
  · rw [copyEnds_bank]
    exact putRunning_running i.isLt t b r
  · rw [copyEnds_core]
    exact replies_modBank t b _ b.core
  · exact copyEnds_byteAt _ b a

/-- A record's run is read, its bytes come to their homes, and it ends; with ACQ the read is at the write. -/
theorem recordsCopy : Claims.RecordsCopy := by
  intro b i r n src dst rec0 s
  dsimp only
  intro hs hrun hfault hfail hsegs he hflags hdet hreqs hdirty hsent hrec hp
  have hc : i.toNat < 4 := i.isLt
  have hidle : ∀ seq ps, (s.bank b).mem.older seq ps = false := older_idle hreqs hdirty hsent
  have hr := reachCopy_of_reaches hrec hp
  have hstep : recordComplete s b i.toNat = copyRuns (4095 + 1) s b i.toNat := recordComplete_runs hrun hfault hfail
  refine ⟨fun hruns hout hdrows hsrows hsrc hdst hgone hway => ⟨fun hplain hown hlines hcopied hclean hnow hkept => ?_, fun hacq => ?_⟩,
    fun o d hruns hout hdst hgives hlen hready hnow hkept => ?_, fun hruns hout hready hnow hkept => ?_⟩
  · have hread := answered_runRead (b := b) (c := i.toNat) (r := r) hclean.1
    have hcopy := copyRun_plain he hruns hsrc hdst hidle hdrows hsrows hgone hplain hout hown hlines hcopied hclean hnow hkept
    have hlate : (runRead s b i.toNat r n src).cycle < runThere s b n src dst := by
      rw [hread.cycle, runThere]
      omega
    obtain ⟨t, hexec, hruns', hreplies, hbytes⟩ := copy_runs
      (recordComplete_reads hc hrun hfault hfail (runs_one he) hruns hout hcopy (.of_answered hread) hr hlate)
    refine ⟨t, hexec, hruns', hreplies.trans hread.replies, fun a => (hbytes a).trans ?_⟩
    rw [State.byteAt, hread.cells]
    rfl
  · have hcopy := copyRun_acq he hruns hsrc hdst hidle hdrows hsrows hgone hacq
    have hlate : s.cycle < runThere s b n src dst := by
      rw [runThere]
      omega
    obtain ⟨t, hexec, hruns', -, hbytes⟩ := copy_runs
      (recordComplete_reads hc hrun hfault hfail (runs_one he) hruns hout hcopy (.refl b s) hr hlate)
    exact ⟨t, hexec, hruns', hbytes⟩
  · have hended : r.xfer.runs ≤ r.runs := by rw [runs_one he, hruns]
    have hfresh : ∀ p ∈ o.src ++ o.dst, staleMap s.mem o.gen p.1 = false := by
      rcases hgives with ⟨hsrc, -⟩ | ⟨hsrc, -, hstale, -⟩
      · rw [hsrc, hdst]
        simpa using hnow
      · rw [hsrc, hdst]
        simpa using ⟨hstale, hnow⟩
    obtain ⟨w, hflush, hcells⟩ := flushOut_puts (c := i.toNat) (seq := r.seq) hdet hgives hdst hlen
    rw [← hdst] at hkept
    have hwrites := finishRecord_writes hr hout (release_clear hflags) hready hfresh hkept hflush
    obtain ⟨t, hexec, hruns', -, hbytes⟩ := copy_runs (hstep.trans ((copyRuns_ended hrun hended).trans hwrites))
    exact ⟨t, hexec, hruns', fun a => (hbytes a).trans (stored_of_cells hs hcells a)⟩
  · have hended : r.xfer.runs ≤ r.runs := by rw [runs_one he, hruns]
    have hends := finishRecord_ends hr hout hsegs (release_clear hflags) hready hidle hnow hkept
    obtain ⟨hctxs, hstored⟩ := recordEnded_parts (c := i.toNat) hdet r rec0 hs
    have hchan : (((recordSignals ((recordEnded s b i.toNat r rec0).modBank b (recordDone i.toNat r)) (s.bank b).ctxNum r).bank b).chan i.toNat) =
        { ((recordEnded s b i.toNat r rec0).bank b).chan i.toNat with running := none, complete := r.id } := by
      rw [recordSignals_bank, State.bank_modBank_same]
      exact recordDone_chan hc r _
    refine ⟨_, congrArg (fun t => Host.Outcome.next (copyEnds t b)) (hstep.trans ((copyRuns_ended hrun hended).trans hends)), fun a => ?_, ?_, ?_, fun j hj => ?_⟩
    · rw [copyEnds_byteAt, recordSignals_byteAt]
      exact byteAt_ownCleared hstored a
    · rw [copyEnds_bank, hchan]
    · rw [copyEnds_bank, hchan]
    · rw [copyEnds_ctx, recordSignals_sem _ _ r hj]
      have hctx : ((recordEnded s b i.toNat r rec0).modBank b (recordDone i.toNat r)).ctx (s.bank b).ctxNum = s.ctx (s.bank b).ctxNum := by
        show kget _ (recordEnded s b i.toNat r rec0).ctxs _ = _
        rw [hctxs]
        rfl
      rw [hctx]

/-- Settles O39: chains are walked record by record, and a record of one run is read, written and completed. -/
theorem copiesRun : Obligations.CopiesRun := ⟨chainsAreWalked, recordsCopy⟩

end Sys2Proof.KernelMachine
